-- ==== Sys2Proof/Word.lean ====
section
/-! DEFINITION. Words, bytes and the plainest arithmetic over them: byte strings read and written little-endian (R4, R5), fields at bit
positions of a byte string (R3), and saturating counters. -/

namespace Sys2Proof

/-- One byte of a register, a line format or a message. -/
abbrev Byte := BitVec 8

/-- A byte string, byte 0 first. -/
abbrev Bytes := List Byte

/-- The number a byte string spells little-endian (R4, R5). -/
def leNat : Bytes → Nat
  | [] => 0
  | b :: bs => b.toNat + 256 * leNat bs

/-- `n` little-endian in `k` bytes (R4, R5). -/
def leBytes : Nat → Nat → Bytes
  | 0, _ => []
  | k + 1, n => BitVec.ofNat 8 n :: leBytes k (n / 256)

/-- The field [lo + len − 1 : lo] of a byte string whose byte k holds bits [8k+7 : 8k] (R3). -/
def bitsAt (b : Bytes) (lo len : Nat) : Nat := leNat b / 2 ^ lo % 2 ^ len

/-- The field [lo + len − 1 : lo] of a number (R3). -/
def natBits (n lo len : Nat) : Nat := n / 2 ^ lo % 2 ^ len

/-- `n` held to the greatest value of `w` bits. -/
def satTo (w n : Nat) : Nat := min n (2 ^ w - 1)

/-- ⌈a / b⌉ over the naturals. -/
def ceilDiv (a b : Nat) : Nat := (a + b - 1) / b

/-- A signed number as `k` little-endian bytes, two's complement (R271). -/
def leInt (k : Nat) (v : Int) : Bytes := leBytes k (v % (2 ^ (8 * k) : Nat)).toNat

/-- The signed reading of `k` bytes little-endian (R271). -/
def intOfLe (k : Nat) (b : Bytes) : Int :=
  let n := leNat b
  if n < 2 ^ (8 * k - 1) then (n : Int) else (n : Int) - (2 ^ (8 * k) : Nat)

/-- Serial-number comparison over half the range of an n-bit counter: `a` is newer than `b` (R6). -/
def newer (n a b : Nat) : Bool :=
  let d := (a + (2 ^ n - b % 2 ^ n)) % 2 ^ n
  decide (1 ≤ d ∧ d ≤ 2 ^ (n - 1) - 1)

/-- The 1-bit list of a byte, bit 0 first (R5). -/
def byteBits (b : Byte) : List Bool := (List.range 8).map fun i => b.getLsbD i

/-- The serial bits of a byte string: ascending bytes, each from bit 0 upward (R5). -/
def bitsOf (b : Bytes) : List Bool := b.flatMap byteBits

/-- The number spelt by a list of bits, first bit least significant. -/
def natOfBits : List Bool → Nat
  | [] => 0
  | b :: bs => (if b then 1 else 0) + 2 * natOfBits bs

/-- The bytes of a list of bits, first bit in bit 0 of byte 0 (`k` bytes). -/
def bytesOfBits (k : Nat) (l : List Bool) : Bytes := leBytes k (natOfBits l)

/-- ASCII bytes of a label (R453). -/
def ascii (s : String) : Bytes := s.toList.map fun c => BitVec.ofNat 8 c.toNat

/-- A range check on integers. -/
def inRange (lo hi v : Int) : Bool := decide (lo ≤ v ∧ v ≤ hi)

end Sys2Proof
end

