-- ==== Sys2Proof/Config.lean ====
section
/-! DEFINITION. What an implementation fixes and what the spec leaves open: operand enumerations, the names of settings, statistics and
events, and the free values. A free value is an opaque constant: nothing in Lean can evaluate it or prove a value of it. -/

namespace Sys2Proof

/-! ## Indices (R3: every index starts at 0) -/

abbrev Berth := Fin 32
abbrev Chan := Fin 16
abbrev QpId := Fin 256
abbrev DomId := Fin 44
/-- Fabric link 0 to 5: X+, X−, Y+, Y−, Z+, Z− (R290). -/
abbrev LinkId := Fin 6
abbrev EthId := Fin 4
abbrev InputId := Fin 16
abbrev SensId := Fin 16
abbrev LoopId := Fin 4
abbrev ChkId := Fin 8
abbrev UartId := Fin 2
/-- Dies that can be lost alone: 0 to 3 A0 to A3, 4 P0, 5 P1 (R38, R277). -/
abbrev DieId := Fin 6
/-- Die-to-die links: 0 A0–P0, 1 A1–P0, 2 A2–P1, 3 A3–P1, 4 P0–H, 5 P1–H, 6 A3–H (the Die-to-die links table of 01). -/
abbrev D2dId := Fin 7

/-! ## Enumerations -/

/-- Power-domain states (R29). -/
inductive DomSt where
  | off | ramp | init | on | draining | fault
  deriving DecidableEq, Repr

/-- Fault kinds of a unit (R23). -/
inductive FaultKind where
  | watchdog | sramUe | handshake | completion
  deriving DecidableEq, Repr

/-- Regions (R34, codes of REGION_DRAIN in R274). -/
inductive Region where
  | bg0 | bg1 | bg2 | bg3 | store | switch | link | mgmt | sec
  deriving DecidableEq, Repr

/-- Statuses of commands and completions (R250, R260). -/
inductive Status where
  | ok | busy | denied | invalid | range | timeout | stale | notReady | fault
  deriving DecidableEq, Repr

/-- Roles of a session (R261). -/
inductive Role where
  | observer | operator | officer
  deriving DecidableEq, Repr

/-- Object classes (R270). -/
inductive Cls where
  | berth | domain | context | route | relay | store | eth | fabric | clock | sense | filter | loop | check | uart | power | security
  deriving DecidableEq, Repr

/-- When a setting that OBJ_SET writes takes effect (the Applies columns; R83, R84, R250 and the class chapters). -/
inductive Applies where
  /-- At once. -/
  | now
  /-- At the first beacon boundary at least 2.048 ms after completion (R83). -/
  | beacon
  /-- Only while the berth is silent, and then at once (R84, R142, R177). -/
  | silent
  /-- At the next canceller training (R85). -/
  | training
  /-- At the next tone map the berth issues (R120). -/
  | toneMap
  /-- At the next boundary of the berth's symbol grid (R140). -/
  | symbol
  /-- At the next adaptation block (R140). -/
  | adapt
  /-- At the next computation of routes (R197). -/
  | route
  /-- At the next boot (R233). -/
  | boot
  /-- At the next scrub pass (R233). -/
  | scrub
  /-- Only while HR_LINK is drained (R305). -/
  | drained
  /-- At the next negotiation of the port (R305). -/
  | negotiation
  /-- At the next advertisement interval (R305). -/
  | advert
  /-- At the next 1 s measurement (R325). -/
  | second
  /-- At the next output instant of the channel (R350, R364). -/
  | output
  /-- At the next break probe (R350). -/
  | probe
  /-- At the next detector window (R364). -/
  | window
  /-- At the next loop period (R351). -/
  | loopPeriod
  /-- At the next item boundary of the check unit, at once while the unit is off (R374). -/
  | item
  /-- When the transmitter is idle and the receiver between characters (R382). -/
  | idleLine
  deriving DecidableEq, Repr

/-- How a setting may be accessed (R7, R261). -/
inductive Acc where
  | rw | officer | wo | woOfficer
  deriving DecidableEq, Repr

/-- Every field that OBJ_SET may write, by class and in the order of the class tables (R85, R120, R140, R177, R197, R233, R305, R325,
R350, R364, R351, R374, R382, R454, R50, R444, R279, R408). -/
inductive Fld where
  -- BERTH
  | coupling | phaseLabel | xfmrRatio | bandEdge | psdMask | emissionCeiling | notches | txGainTrim | cdacFs | txEnable
  | giDefault | loadMargin | maxBits | rateMask | shortCodeMax
  | fdEnable | nbrRef | divThresh | resumeThresh | trackShift | retrainInterval | trainRequest | blankEnable | blankThresh | blankGuard
  -- DOMAIN
  | role | domainTag | ferryTag | nPeriod | beaconOffset | joinOpen | maxStations | joinSlot | hiCont | ttInterval
  | stationTimeout | dormantTimeout | pairMargin | keyAgeMax | stEui
  -- RELAY
  | hopPenalty | linkAgeMax | maxHops | relayEnable | relayDirectMax | relayWindow | relayFanout
  -- STORE
  | smallBufPct | berthQPct | hostQPct | ethQPct | fabQPct | ctxQMaxKib | softAgeMax | scrubHours | autoRetire | ueRetire | ceRetire
  | retireClear
  -- ETH
  | ethMode | medium | anEnable | portEnable | macAddr | peerMac | ethType | vlanId | ethMaxFrame | ethBerths | hostDefault
  | ptpRole | ptpMode | ptpTransport | ptpDomain | ptpLogInterval | ptpAsym | esmcEnable | esmcEnhanced
  -- FABRIC
  | fabUplinkBerths | uplinkAddr | uplinkPort | advertRefresh | linkEnable | retrain
  -- CLOCK
  | inEnable | inPrio | inDelay | refQlMode | refQlFixed | dpllBw | timeBw | revertive | wtr | disagreePpb | driftOff | driftOn
  | timeOff | phaseSlew | stepThresh | hoLimit | hoMax | hoFreqUnc | hoAging | outSquelch | ppsWidth | ppsOutDelay
  -- SENSE
  | wiring | curve | excCode | pgaGain | leadComp | cjSrc | ntcA | ntcB | ntcC | ntcRMin | ntcRMax | probeEnable | blankSrc
  | blankBerths | blankPre | blankPost
  -- FILTER
  | preset | delaySteps | testMode | acInput | dcbShift | dcbFreeze | detectWindow | envShift
  -- LOOP
  | loopEnable | srcChannel | srcKind | loValue | hiValue | faultDir | senseMohm
  -- CHECK
  | chkEnable | chkWidth | chkPoly | chkInit | chkXorout | chkRefin | chkRefout | chkSource | chkSrcIndex | chkDirection | chkFramed
  | winLo | winHi | chkMode | chkScope | foldMode | foldTag | chkExpect | chkRestart
  -- UART
  | uartMode | baud | dataBits | parity | stopBits | deadTimeout
  -- POWER
  | powerState | avsEnable | slackRaise | slackLower | lowerWindows | stepMv | emergencyStep | vMin | vMax | gpioDir | gpioOut | pmbAddr
  -- SECURITY
  | sessionIdle | lockWait | configCommit | attEnroll | attMinInterval | attDailyMax | rootPrevDays | fabPrevDays | rootRetire
  | fabKeyRetire
  deriving DecidableEq, Repr

/-- Every statistic that is held as a number and moves only as its rule says: counters, sticky history bits (R8) and last reported
values (R23, R49, R53, R85, R120, R141, R178, R198, R234, R238, R279, R306, R326, R352, R365, R374, R382, R408, R427, R444). -/
inductive Stat where
  -- POWER, domains
  | slackLowHist | dropHist | faultHist | dropCount | slackMin | fltWatchdog | fltSramUe | fltHandshake | fltCompletion
  -- POWER 44
  | avsErrors | avsFaultHist | tjC | pmbStatusLast | pmbAlerts | jtagRefused | thermalTrips | thermalTripHist | gpioIn
  -- BERTH
  | hybridLoss | hybridLossGroup | powerBackoff | adcClip | cdacClip | drvOcTrips | drvSupplyDrops | drvTemp | drvFaultHist
  | drvThermalHist | couplerWarnHist
  | capRatio | snrGap | meanSnr | cappedCarriers | bitsPerSymbol | codeRate | fcCrcErr | fcInvalid | tmUnknown | tmInvalid | rxAbort
  | combineMismatch | cwFail | rxSymLate | cwLate | txSymLate | allocUnused | preFalse
  | cancelTotal | excess | noiseFloor | floorStale | nbrResid | nbrConflict | fdGain | blankedSamples | blankEvents | symDeweighted
  | symErased | divEvents | fastRecoveries | fallbacks | trainFail | divHist | fallbackHist | nbrConflictHist
  | ucRelease | swaps | swapFail
  -- DOMAIN
  | beaconsSent | beaconsMissed | bcnInvalid | joinOk | joinFail | joinLockout | rxDup | rxReplay | rxAuthFail | keyGenUnknown
  | clashHist | coordLostHist
  -- RELAY
  | meshFwd | meshInvalid | meshTtlDrop | meshRankDrop | relayLate | relayOverflow | routeStale | routeMiss | routeLoop | recomputes
  | relayedStations | maxRank | routeLoopHist
  -- STORE
  | eccCe | eccUe | mirrorRepair | crcErr | frameDropEcc | framesLost | classUtil | dramTemp | qDropTail | qDropOldest | qDropNobuf
  | softEvict | softFetchLate | softNoSlot | softStored | softCombined | cacheHit | cacheMiss | routeFull | mirrorSingle | captureGaps
  | captureSat | eccUeHist | retiredHist
  -- ETH
  | fecCorrected | fecUncorrectable | rxFcsErr | rxRunt | rxOversize | rxUnmatched | rxPause | rxVlanDrop | rxBhInvalid | txTooLong
  | ptpForeign | esmcInvalid | linkDownHist
  -- FABRIC
  | cwCorrected | cwUncorrectable | replays | retrains | laneFailovers | inflightLost | pktAuthFail | pktInvalid | ttlDrop
  | unreachable | linkFailHist
  -- CLOCK
  | refSwitches | holdoverEntries | todInvalid | todMismatch | qlInvalid | inLost
  | clkStateHist | clkSwitchHist | clkSlipHist | clkDriftHist | clkDisagreeHist | clkHoldoverHist | clkLimitHist
  -- SENSE, LOOP
  | wireBreaks | probeFails | blankedOutputs | wireBreakHist | loopUa | faultEntries | loopFaultHist
  -- FILTER
  | resets | outputsInvalid | outputsLate | dcbHist
  -- CHECK
  | chkItems | chkMismatches | chkSkipped | chkAbandoned | chkMismatchHist | chkSkipHist
  -- UART
  | rxChars | txChars | startGlitch | feCount | peCount | overrun | txOverflow | lineDeadEvents | lineDeadHist | uartErrHist
  -- SECURITY
  | sessionFail | sessionLockout | cmdRangeErrors | cmdDenied | lockTimeouts | cmdTagFail | uartCmdCrc | uartCmdLong | uartCmdTimeout
  | rngFail | imgVerifyFail | cfgInvalid | rollMemberFail | rollMembersLeft | fabPrevUsed
  -- the boot and health window and LIVE_STATUS
  | alarmHist | hostLossHist | qpErrorHist | evOverflowHist | dieLostHist | dbInvalid | dbDropped | fetchErr | txDiscarded | evOverflow
  | rxUnsteered | removeHist
  deriving DecidableEq, Repr

/-- Every event of the catalogue (R277). -/
inductive Ev where
  | clusterFault | dieLost | slipwayTimeout | avsLimit | avsFault
  | driverOc | driverFault | drvSupply | driverHot | couplerWarn | cdacRange
  | cancelTrainFail | cancelDiverged | cancelFallback | nbrConflict
  | domainClash | coordLost | joinLockout | stationLimit | keyAge | ctxConflict | bpcWrap
  | routeLoop | routeFull
  | storeHot | storeEcc | storeCrc | ctxLost | captureDone | storeRetired | mirrorLost | storeDegraded
  | hostLost | hostReturn | sessionLockout
  | ethLink | fabricLink | laneFailover | mixedRelease
  | refSwitch | refDisagree | refDrift | holdover | holdoverLimit
  | wireBreak | loopFault | senseSettling
  | checkMismatch | lineDead
  | fwStaged | rollbackRefused | attestEpoch | attestExhausted
  | berthSwapped | inserted
  deriving DecidableEq, Repr

/-! ## Operand types of the commands -/

/-- Where a management command came from (R263): a COMMAND entry of QP0 with its tag and response space, UART0, or a fabric address. -/
inductive Src where
  | qp0 (tag : BitVec 16) (respLen : Nat)
  | uart0
  | fabric (addr : BitVec 9)
  deriving DecidableEq, Repr

/-- A management request: the fields of the request header and the body (R258). The command code is the row's own. -/
structure Req where
  src : Src
  session : BitVec 16
  cmdSeq : BitVec 16
  cls : BitVec 4
  rsv : BitVec 12
  inst : BitVec 64
  body : Bytes
  deriving DecidableEq, Repr

/-- How a DMA read from host memory ended (R246, R255). -/
inductive Dma where
  | data (b : Bytes)
  | error
  | timeout
  deriving DecidableEq, Repr

/-- Supply rails (R429). -/
inductive Rail where
  | core | sram | drv | afe | serdes | hSerdes | ddq (m : Chan) | io18 | io33 | aon | sense
  deriving DecidableEq, Repr

/-- The work of a berth whose deadline is missed (R54). -/
inductive LateWork where
  | rxSymbol (s : Nat) | codeword (i : Nat) (llrs : List Int) | txSymbol | allocation (a : Nat)
  deriving DecidableEq, Repr

/-- An allocation entry of a beacon (R149). -/
structure Alloc where
  start : Nat
  dur : Nat
  src : Nat
  dst : Nat
  kind : Nat
  persist : Bool
  deriving DecidableEq, Repr

/-- A test-port instruction (R442). -/
inductive JtagInstr where
  | bypass | idcode | samplePreload | extest | highz | clamp | extestPulse | extestTrain
  deriving DecidableEq, Repr

/-- How a codeword left the decoder (R59, R58). `bits` are the hard decisions of a converged codeword, `llrs` its combined input LLRs
in quarter steps (R111). -/
inductive CwEnd where
  | converged (bits : List Bool)
  | failed (llrs : List Int)
  | late (llrs : List Int)
  deriving DecidableEq, Repr

/-- A boot directory copy (R392). -/
structure BootDir where
  gen : BitVec 32
  active : Bool
  trialArmed : Bool
  trialCount : Nat
  fwValid : Bool × Bool
  ucValid : Bool × Bool
  ucActive : Bool
  deriving DecidableEq, Repr

/-- A configuration record (R402): the persistent fields that differ from their defaults, sensor calibrations
with the state of the DC blocker (R362), retirement mask, installed
keys (kinds 0 to 4, R387), recorded fabric address, dimensions and joined flag (R411). -/
structure CfgRec where
  gen : BitVec 32
  fields : List ((Fld × Nat) × List Int)
  cal : List (Int × Int)
  dcb : List (Bool × Option Int)
  mask : BitVec 16
  keys : List (Option Bytes)
  fabAddr : BitVec 9
  dims : Nat × Nat × Nat
  joined : Bool
  deriving DecidableEq, Repr

/-- One copy of the configuration record as read at boot: whether its tag and its serial are right, and its contents (R402). -/
structure CfgRead where
  tagOk : Bool
  serialOk : Bool
  record : CfgRec
  deriving DecidableEq, Repr

/-- The transport a session lives on (R263); each originating fabric address counts as one (R265). -/
inductive Transport where
  | qp0 | uart0 | fabric (addr : BitVec 9)
  deriving DecidableEq, Repr

/-- The transport of a request's source. -/
def Src.transport : Src → Transport
  | .qp0 _ _ => .qp0 | .uart0 => .uart0 | .fabric a => .fabric a

/-- The fit-out that Starter finds (R16): density in GiB, data-rate code of R237, every channel alike. -/
structure StoreFit where
  gib : Nat
  rate : Nat
  uniform : Bool
  deriving DecidableEq, Repr

/-- The item a unit erases when its watchdog expires (R22). -/
inductive UnitItem where
  | rxSymbol (s : Nat) | codeword (i : Nat) (llrs : List Int) | txSymbol | driver | sense (n : SensId) | store (m : Chan) | other
  deriving DecidableEq, Repr

/-- A domain heard while listening (R143). -/
structure Heard where
  tag : BitVec 16
  own : Bool
  deriving DecidableEq, Repr

/-- What the front end and the canceller measured of one received payload symbol (R74, R76, R132, R137): blanked and clipped body samples,
blanked samples and merged spans counted, clipped cancellation codes and codes in all, whether the berth transmits in it, the excess E(s) in
0.1 dB when it was evaluated, erased by its deadline. -/
structure SymbolQuality where
  blanked : Nat
  clipped : Nat
  blankCount : Nat
  spans : Nat
  codesClipped : Nat
  codes : Nat
  tx : Bool
  excess : Option Int
  deriving DecidableEq, Repr

/-- The outcome of a training burst (R128, R129, R72): E_g in 0.1 dB of each group that is on, blanked body samples of the burst, transhybrid
loss in 0.1 dB and its group, smallest cdac_fs that holds the replica, bulk delays, analog taps and own-tap accumulators fitted, least C_g. -/
structure TrainResult where
  excess : List (Nat × Int)
  blanked : Nat
  hybrid : Nat
  hybridGroup : Nat
  cdac : Nat
  delays : List Nat
  exps : List Nat
  analog : List Int
  own : List Int
  cancel : Nat
  deriving DecidableEq, Repr

/-- One adaptation block of 256 samples (R130): for each reference the correlation sums Σ e x by tap, the divisor L_k P_k + δ, and whether
P_k is at least −40 dBFS; whether the own-tap energy changed by more than 6 dB against the block before, and then whether a reception is due before the present transmit
allocation ends and the ns to the next boundary of the transmit grid (R133). -/
structure AdaptBlock where
  sums : List (List Int)
  divisor : List Int
  strong : List Bool
  jump : Bool
  rxDue : Bool
  toBoundary : Nat
  deriving DecidableEq, Repr

/-- The other copy of a mirrored word (R204, R230): it can be read, it is uncorrectable too, or its block is not yet rebuilt. -/
inductive OtherCopy where
  | good | bad | gone
  deriving DecidableEq, Repr

/-- What a read of the Hold served (R207, R210): a frame by its number; one copy of a mirrored word, with how the other stands, in a context, a route, a
firmware slot or the logs; a soft slot by context and descriptor; a capture granule; frame-area space that holds no frame; the on-die SRAM of a power domain. -/
inductive StoreItem where
  | frame (no : Nat)
  | ctx (id : Nat) (other : OtherCopy)
  | route (eui : BitVec 64) (other : OtherCopy)
  | fw (slot : Bool) (other : OtherCopy)
  | log (other : OtherCopy)
  | soft (id : Nat) (desc : Nat)
  | granule (i : Nat)
  | space
  | sram (k : DomId)
  deriving DecidableEq, Repr

/-- A word read from a channel (R207): what it served, the block of the mirrored space it lies in (R204), and its syndrome. -/
structure StoreAccess where
  chan : Chan
  item : StoreItem
  block : Nat
  syn : Nat
  deriving DecidableEq, Repr

/-- A reference input as measured once per second (R312): y in 0.001 ppb over 10 s, x in ns over 1 s, activity of a REF input. -/
structure InputMeas where
  input : InputId
  y : Int
  x : Int
  active : Bool
  deriving DecidableEq, Repr

/-- A fine output of the filter (R354): the raw value before calibration in the unit of curve 0, whether more than 50 % of its modulator
samples were erased, whether it is late (R363), whether its period was dropped or its stream missing (R26, R357), the internal cold
junction in 10 µ°C (R335). -/
structure FilterIn where
  raw : Int
  erased : Bool
  late : Bool
  gap : Bool
  cj : Int
  deriving DecidableEq, Repr

/-- A fast output (R356), as `FilterIn`. -/
structure FastIn where
  raw : Int
  erased : Bool
  late : Bool
  gap : Bool
  cj : Int
  deriving DecidableEq, Repr

/-- The residual monitor's evaluation of one symbol (R132, R133): E(s) in 0.1 dB when it has at most 256 blanked body samples, more than 1 % of
its samples clipped, the neighbour reference that alone correlates above 0.1, whether the berth receives a frame or will before its present
transmit allocation ends, ns to the next boundary of the berth's transmit grid. -/
structure Residual where
  blanked : Nat
  excess : Int
  clipMany : Bool
  neighbour : Option (Fin 3)
  rxDue : Bool
  toBoundary : Nat
  deriving DecidableEq, Repr

/-- The held-out check of a fast recovery (R134): worst E over groups in 0.1 dB, usable and clipped stored samples, samples stored, fitted
accumulators. -/
structure Recovery where
  worst : Int
  usable : Nat
  clipped : Nat
  stored : Nat
  taps : List Int
  deriving DecidableEq, Repr

/-- A received UART character as sampled (R376): samples 7, 8 and 9 of the start bit, of each data bit and of the parity bit, and sample 8 of
the stop bit; true is high. -/
structure RxChar where
  start : List Bool
  bits : List (List Bool)
  stop : Bool
  deriving DecidableEq, Repr

/-! ## Free values and outside standards -/

/-- The n-th 32-byte draw from the entropy source of HR_SEC (R383): unpredictable, so nothing is known of it. -/
opaque Config.entropy : Nat → Bytes

/-- KMAC256 of NIST SP 800-185 with an empty customisation string: key, input, output length in bytes (R453). The standard is not part
of the spec's text, so it is an uninterpreted function of its inputs. -/
opaque Config.kmac256 : Bytes → Bytes → Nat → Bytes

/-- SHAKE256 of FIPS 202 with 32 bytes of output (R453). -/
opaque Config.shake256 : Bytes → Bytes

/-- AES-256-GCM sealing: key, 96-bit nonce, additional data, plaintext; the ciphertext followed by the 16-byte tag (R453). -/
opaque Config.gcmSeal : Bytes → Bytes → Bytes → Bytes → Bytes

/-- AES-256-GCM opening: key, nonce, additional data, ciphertext with tag; none when the tag fails (R453). -/
opaque Config.gcmOpen : Bytes → Bytes → Bytes → Bytes → Option Bytes

/-- AES key wrap KW of NIST SP 800-38F: key-encryption key, key (R453). -/
opaque Config.kwWrap : Bytes → Bytes → Bytes

/-- AES key unwrap; none when the integrity check fails (R453). -/
opaque Config.kwUnwrap : Bytes → Bytes → Option Bytes

/-- XMSS-SHAKE256 verification: public key, message, signature (R393). -/
opaque Config.xmssVerify : Bytes → Bytes → Bytes → Bool

/-- XMSS-SHAKE256_20_256 signature of attestation slot, index and message (R406). -/
opaque Config.xmssSign : Nat → Nat → Bytes → Bytes

/-- The attestation public key of a slot, 68 bytes (R406). -/
opaque Config.attPublicKey : Nat → Bytes

/-- A quotient whose rounding the spec does not state. -/
opaque Config.roundDiv : Int → Int → Int

/-- The engineering value of a raw sensor reading: curve, the channel's settings of R336, the cold-junction value, raw reading (R334).
The standards of the curves are not part of the spec's text. -/
opaque Config.linearise : Nat → List Int → Int → Int → Int

/-- The root mean square of a detector window from the sum of squares and the count (R361; the rounding is not stated). -/
opaque Config.rootMean : Nat → Nat → Nat

/-- The largest input in µV of a curve whose standard the spec does not restate, at an excitation in µA (R331). -/
opaque Config.curveMaxUv : Nat → Nat → Nat

/-- The value range of a thermocouple type by curve number: its standard's range, in 10 µ°C (R334). -/
opaque Config.tcRange : Nat → Int × Int

/-- The capacity figures of a link from its measured carrier SNRs and its map: cap_ratio_milli, snr_gap_db_x10, mean_snr_db_x10
(R118; the logarithms' rounding is not stated). -/
opaque Config.capacityReport : List Nat → List Nat → Nat → Nat × Nat × Nat

/-- The step of a tap accumulator (R130): correlation sum, divisor L_k P_k + δ, step shift. How the quotient rounds into the 24-bit accumulator
is not stated. -/
opaque Config.tapStep : Int → Int → Nat → Int

/-- Values an implementation fixes in its OTP (R385). -/
opaque Config.kDev : Bytes
opaque Config.serial : BitVec 64
opaque Config.vendorId : BitVec 16
opaque Config.subsystemIds : BitVec 32
opaque Config.macBase : BitVec 48
opaque Config.fwRootHash : Bytes
opaque Config.senseCal : Nat → Int × Int

/-- The value that a field the spec leaves unstated after an operation takes: the n-th free draw. -/
opaque Config.freeValue : Nat → Int

/-- The bytes of the configuration record in force (R402, R406; its layout is not stated). -/
opaque Config.recordBytes : Option CfgRec → Bytes

/-- route_ref of a context, by its station's identity (R172): how it names the route entry is not stated. -/
opaque Config.routeRef : BitVec 64 → BitVec 32

/-- The JEDEC manufacturer identity assigned to Esrezo, for IDCODE (R442). -/
opaque Config.jedecId : BitVec 11

end Sys2Proof
end

