-- ==== Sys2Proof/Syntax.lean ====
section
/-! DEFINITION. The commands of the block: one constructor per row of spec/opcode_table.json, in its order. Every command carries `t`, the
instant at which it happens, in ns since POR_N deasserted. -/

namespace Sys2Proof

/-- A command (a row of the opcode table). -/
inductive Instr where
  /-- SESSION_OPEN (R262): Opens a management session in two phases: phase 0 issues a device nonce and a pending id, and phase 1 verifies
  the role proof. -/
  | sessionOpen (t : Nat) (r : Req)
  /-- SESSION_CLOSE (R266): Closes the session once its other commands have completed and been answered. -/
  | sessionClose (t : Nat) (r : Req)
  /-- OBJ_GET (R271): Returns the named fields, or the object image, of one object instance together with its obj_gen. -/
  | objGet (t : Nat) (r : Req)
  /-- OBJ_SET (R272): Checks a field list whole and applies all of it or none of it, each field at its stated time, with an optional
  expect_gen check. -/
  | objSet (t : Nat) (r : Req)
  /-- STATS_READ (R274): Returns the statistics of an object instance and optionally clears its history bits. -/
  | statsRead (t : Nat) (r : Req)
  /-- CAPTURE_ARM (R225): Arms a line capture with its streams, tap point, trigger and lengths. -/
  | captureArm (t : Nat) (r : Req)
  /-- CAPTURE_READ (R224): Returns coded capture units of one recorded stream. -/
  | captureRead (t : Nat) (r : Req)
  /-- FW_STAGE (R399): Adds one chunk to a firmware or microcode image being staged, and verifies the image on the last chunk. -/
  | fwStage (t : Nat) (r : Req)
  /-- FW_COMMIT (R400): Arms, confirms or reverts a firmware or microcode slot, optionally burning anti-rollback fuses. -/
  | fwCommit (t : Nat) (r : Req) (other : Option (Nat × Nat))
  /-- BERTH_SWAP (R415): Loads the eligible microcode into the idle bank of the named berths and arms a swap at a beacon boundary. -/
  | berthSwap (t : Nat) (r : Req) (bankFail : BitVec 32)
  /-- REGION_DRAIN (R275): Drains a region for the slipway, with an optional automatic return time. -/
  | regionDrain (t : Nat) (r : Req)
  /-- REGION_RETURN (R419): Returns a drained region to service. -/
  | regionReturn (t : Nat) (r : Req)
  /-- STORE_RETIRE (R229): Starts a planned retirement of one store channel. -/
  | storeRetire (t : Nat) (r : Req)
  /-- FABRIC_JOIN (R301): Brings up the fabric links and joins the system at the given address and dimensions. -/
  | fabricJoin (t : Nat) (r : Req)
  /-- FABRIC_LEAVE (R302): Broadcasts a MEMBERSHIP leave message and leaves the fabric. -/
  | fabricLeave (t : Nat) (r : Req)
  /-- CLOCK_FORCE (R317): Forces a reference input, holdover or free-run, or releases a force. -/
  | clockForce (t : Nat) (r : Req)
  /-- SENSOR_CAL (R349): Starts an offset, gain or factory calibration of the sensor channels in the mask. -/
  | sensorCal (t : Nat) (r : Req)
  /-- LOOP_FORCE (R348): Forces a loop output to a given current, or releases the force. -/
  | loopForce (t : Nat) (r : Req)
  /-- KEY_INSTALL (R387): Unwraps and installs an install root, role key or fabric key. -/
  | keyInstall (t : Nat) (r : Req)
  /-- KEY_ROLL (R390): Announces a domain key roll on the selected coordinating berths, on the package or across the system. -/
  | keyRoll (t : Nat) (r : Req)
  /-- ATTEST (R406): Signs an attestation report over the challenge with the next XMSS index. -/
  | attest (t : Nat) (r : Req)
  /-- EVENT_ACK (R278): Acknowledges every event not newer than the given ev_seq, which may deassert ALARM_N. -/
  | eventAck (t : Nat) (r : Req)
  /-- POWER_STATE_REQUEST (R454): An OBJ_SET of state on class POWER that requests a power domain ON or OFF. -/
  | powerStateRequest (t : Nat) (r : Req)
  /-- TRAIN_REQUEST (R131): A write of train_request that requests a full canceller training at the next reserved training time. -/
  | trainRequest (t : Nat) (r : Req)
  /-- FABRIC_RETRAIN_REQUEST (R294): A write of retrain that retrains a fabric link at once. -/
  | fabricRetrainRequest (t : Nat) (r : Req)
  /-- CHECK_RESTART (R370): A write of restart that restarts a check unit's running computation. -/
  | checkRestart (t : Nat) (r : Req)
  /-- CONFIG_COMMIT (R402): A write of config_commit that writes the configuration record and sets config_auth. -/
  | configCommit (t : Nat) (r : Req)
  /-- ATT_ENROLL (R405): A write of att_enroll that starts generating an attestation key in the lowest unused slot. -/
  | attEnroll (t : Nat) (r : Req)
  /-- KEY_RETIRE (R389): A write of root_retire or fab_key_retire that discards the previous install root or fabric key. -/
  | keyRetire (t : Nat) (r : Req)
  /-- RETIRE_CLEAR (R231): A security-officer write of retire_clear that removes a channel from the retirement mask for the next boot. -/
  | retireClear (t : Nat) (r : Req)
  /-- MGMT_PERIOD_END (R62): At the end of each 1.0 ms management period, the lock and power requests that arrived in it are ordered by
  precedence and queued for grant. -/
  | mgmtPeriodEnd (t : Nat)
  /-- LOCK_WAIT_TIMEOUT (R269): A command that has waited lock_wait_ms for its lock completes with status TIMEOUT. -/
  | lockWaitTimeout (t : Nat) (k : Nat)
  /-- SESSION_NONCE_EXPIRY (R262): A pending session's device nonce expires after 10,000 ms. -/
  | sessionNonceExpiry (t : Nat) (id : BitVec 16)
  /-- SESSION_IDLE_TIMEOUT (R266): A session with no accepted command for session_idle_s closes. -/
  | sessionIdleTimeout (t : Nat) (id : BitVec 16)
  /-- SESSION_LOCKOUT_END (R265): A role lockout on a transport ends when its timer expires. -/
  | sessionLockoutEnd (t : Nat) (role : Role) (tr : Transport)
  /-- FABRIC_SESSION_UNREACHABLE (R266): A fabric session closes when the link set that carries it has been unreachable for 1 s. -/
  | fabricSessionUnreachable (t : Nat) (id : BitVec 16)
  /-- QP_ENABLE (R241): A QP_CFG write that sets enable checks the bases and ring size, then enters ACTIVE or ERROR. -/
  | qpEnable (t : Nat) (q : QpId) (val : BitVec 32)
  /-- QP_DISABLE (R241): A QP_CFG write that clears enable stops fetching, writes the pending completions and enters DISABLED. -/
  | qpDisable (t : Nat) (q : QpId) (val : BitVec 32)
  /-- SQ_TAIL_DOORBELL (R242): A write to the SQ tail doorbell that sets the submission tail of a queue pair. -/
  | sqTailDoorbell (t : Nat) (q : QpId) (val : BitVec 32)
  /-- CQ_HEAD_DOORBELL (R242): A write to the CQ head doorbell that returns completion entries to the device. -/
  | cqHeadDoorbell (t : Nat) (q : QpId) (val : BitVec 32)
  /-- HOST_HEARTBEAT (R238): A write to host_heartbeat that restarts the host watchdog. -/
  | hostHeartbeat (t : Nat) (val : BitVec 32)
  /-- INT_ENABLE_WRITE (R253): A write of int_enable that sends a message for any enabled cause already set. -/
  | intEnableWrite (t : Nat) (val : BitVec 32)
  /-- MSIX_UNMASK (R254): Unmasking an MSI-X vector sends the message that is pending on it. -/
  | msixUnmask (t : Nat) (v : Fin 512)
  /-- REGISTER_WRITE (R7): A write to any register that has no row of its own, including W1C clears and discarded writes. -/
  | registerWrite (t : Nat) (bar : Nat) (off : Nat) (width : Nat) (val : BitVec 64)
  /-- CLK_TOD_LATCH (R324): A read of CLK_TOD_NS that latches device time seconds into CLK_TOD_SEC_LO and CLK_TOD_SEC_HI. -/
  | clkTodLatch (t : Nat)
  /-- CHK_RESULT_LATCH (R373): A 32-bit read of a check-unit _LO register that latches its _HI half. -/
  | chkResultLatch (t : Nat) (u : ChkId) (which : Bool)
  /-- UART_STATUS_ARM (R378): A read of UART_STATUS that arms clearing of the error flags it returned. -/
  | uartStatusArm (t : Nat) (p : UartId)
  /-- UART_DATA_READ (R378): A read of UART_DATA that removes the head character and clears the armed error flags. -/
  | uartDataRead (t : Nat) (p : UartId)
  /-- UART_TX_WRITE (R381): A write of UART_TX in host mode that queues a character, or counts an overflow. -/
  | uartTxWrite (t : Nat) (p : UartId) (val : BitVec 32)
  /-- TX_FRAME (R245): A fetched TX_FRAME entry reads one host buffer into its queue in the Hold and completes with a status. -/
  | txFrame (t : Nat) (q : QpId) (dma : Dma)
  /-- RX_BUF (R247): A fetched RX_BUF entry posts one receive buffer. -/
  | rxBuf (t : Nat) (q : QpId)
  /-- NOP (R244): A fetched NOP entry completes after every earlier TX_FRAME and COMMAND of its queue pair. -/
  | nop (t : Nat) (q : QpId)
  /-- SUBMISSION_FETCH_ERROR (R240): An SQ fetch that ends in a PCIe error sends the queue pair to ERROR with err_code 4. -/
  | submissionFetchError (t : Nat) (q : QpId)
  /-- CQ_WRITE_REFUSED (R240): A CQ write refused by the host's root port sends the queue pair to ERROR with err_code 5. -/
  | cqWriteRefused (t : Nat) (q : QpId)
  /-- RX_FRAME_DELIVER (R248): A host-bound frame at the head of its queue is written into enough posted buffers, with one completion per
  buffer. -/
  | rxFrameDeliver (t : Nat) (q : QpId)
  /-- IRQ_MODERATION_EXPIRY (R251): The holdoff_us timer of a completion queue expires and its MSI-X message is sent. -/
  | irqModerationExpiry (t : Nat) (q : QpId)
  /-- HOST_LINK_ROUND (R243): Each 1.0 µs host-link round fetches entries from QP0, then QP1 events, then the data queue pairs round-
  robin. -/
  | hostLinkRound (t : Nat) (entries : List (QpId × Bytes))
  /-- PCIE_LINK_DOWN (R255): The PCIe data link layer goes inactive, or PCIE_REFCLK stops, and the host is lost with cause 1. -/
  | pcieLinkDown (t : Nat)
  /-- PERST_N_ASSERT (R255): Filtered PERST_N assertion causes a host loss with cause 2. -/
  | perstNAssert (t : Nat)
  /-- FUNCTION_LEVEL_RESET (R255): A Function Level Reset write causes a host loss with cause 3. -/
  | functionLevelReset (t : Nat)
  /-- HOST_WATCHDOG_EXPIRY (R255): No write to host_heartbeat for host_wdog_ms causes a host loss with cause 5. -/
  | hostWatchdogExpiry (t : Nat)
  /-- DMA_COMPLETION_TIMEOUT (R255): A DMA read ends by completion timeout, and the fourth consecutive one causes a host loss. -/
  | dmaCompletionTimeout (t : Nat) (q : QpId)
  /-- D3HOT_ENTRY (R255): Entry into D3hot causes a host loss with cause 7. -/
  | d3hotEntry (t : Nat)
  /-- PCIE_LINK_TRAINING_START (R410): PCIe link training starts once INSERT_N has been asserted for 1 ms and PD_HOST is ON. -/
  | pcieLinkTrainingStart (t : Nat)
  /-- POR_N_ASSERT (R434): A filtered POR_N assertion resets everything except the always-on registers of HR_SEC and sets the pin reset
  states. -/
  | porNAssert (t : Nat)
  /-- POR_N_DEASSERT (R396): POR_N deasserts and Starter begins the boot stages. -/
  | porNDeassert (t : Nat) (otpOk : Bool) (supplyOk : Bool)
  /-- STORE_TRAINING_DONE (R231): Boot training of the store channels ends, and Starter records any failed channels and continues or
  stops. -/
  | storeTrainingDone (t : Nat) (fit : StoreFit) (failed : BitVec 16) (dirs : List (Option BootDir))
  /-- IMAGE_VERIFY (R394): Verification of a loaded image completes, and the slot is accepted or invalidated under R397. -/
  | imageVerify (t : Nat) (kind : Bool) (slot : Bool) (img : Bytes)
  /-- CONFIG_AUTH (R402): Authentication of the configuration record completes and sets config_auth, or the device runs on defaults. -/
  | configAuth (t : Nat) (copies : List CfgRead)
  /-- DOMAIN_RAMP_DONE (R32): A power domain's supply switch has closed, and the domain moves from RAMP to INIT. -/
  | domainRampDone (t : Nat) (k : DomId)
  /-- DOMAIN_INIT_DONE (R32): A power domain finishes INIT, enters ON, and the next queued bring-up starts. -/
  | domainInitDone (t : Nat) (k : DomId) (ok : Bool)
  /-- DOMAIN_DRAIN_DONE (R455): A draining power domain finishes its work in flight and enters OFF. -/
  | domainDrainDone (t : Nat) (k : DomId)
  /-- INSERT_N_ASSERTED (R410): INSERT_N has been low for 10 ms and is judged asserted. -/
  | insertNAsserted (t : Nat)
  /-- SERVICE_BRING_UP (R411): Once config_auth is 1 and INSERT_N is asserted, the device brings up its links, berths and loops in order. -/
  | serviceBringUp (t : Nat)
  /-- EV_INSERTED (R411): Every berth configured in service has sent its first beacon or joined, and EV_INSERTED is raised. -/
  | evInserted (t : Nat)
  /-- REMOVAL_QUIET (R413): INSERT_N is judged deasserted, and the device silences its outputs and lanes and holds its contexts. -/
  | removalQuiet (t : Nat)
  /-- REMOVAL_QUIET_END (R414): After INSERT_N is asserted again and 1 s has passed, removal quiet clears and the bring-up repeats. -/
  | removalQuietEnd (t : Nat)
  /-- UNIT_WATCHDOG_EXPIRY (R22): A unit's handshake watchdog expires, and the unit erases its item and reports a fault. -/
  | unitWatchdogExpiry (t : Nat) (k : DomId) (item : UnitItem)
  /-- CLUSTER_PERIOD_DEADLINE (R26): A cluster period reaches its deadline, and its work is committed whole or dropped whole. -/
  | clusterPeriodDeadline (t : Nat) (k : DomId) (done : Bool) (marginPct : Nat)
  /-- SLACK_WINDOW_END (R48): A 1.024 ms slack window ends, and every cluster latches its slack. -/
  | slackWindowEnd (t : Nat)
  /-- AVS_READBACK (R53): A regulator readback completes, or times out, and the loop confirms the voltage or counts an error. -/
  | avsReadback (t : Nat) (mv : Option Nat)
  /-- PMB_ALERT (R431): PMB_ALERT_N low for 10 µs makes the device read STATUS_WORD from each listed regulator and clear its faults. -/
  | pmbAlert (t : Nat) (words : List (Option (BitVec 16)))
  /-- D2D_FLIT_ERROR (R37): A die-to-die flit fails its CRC or its acknowledgement times out, and the flit is replayed. -/
  | d2dFlitError (t : Nat) (l : D2dId)
  /-- D2D_RETRAIN_DONE (R37): A die-to-die link retrain ends, and the link resumes or the die is declared lost. -/
  | d2dRetrainDone (t : Nat) (l : D2dId) (ok : Bool)
  /-- DIE_RETRAIN_RETRY (R422): Every 10 s the device tries to retrain the link to a lost die. -/
  | dieRetrainRetry (t : Nat) (l : D2dId) (ok : Bool)
  /-- DIE_RETURN (R422): After 1 s of clean traffic the lost die returns, and its domains ramp up and its berths resume. -/
  | dieReturn (t : Nat) (l : D2dId)
  /-- DIE_THERMAL_TRIP (R446): An A or P die at 115 °C for 1 ms sends its berth domains to FAULT, and die H at 125 °C resets the device. -/
  | dieThermalTrip (t : Nat) (die : Fin 7) (temp : Int)
  /-- RAIL_OUT_OF_RANGE (R433): A supply rail leaves its operating range, and the drivers and loop gates are quieted. -/
  | railOutOfRange (t : Nat) (rail : Rail)
  /-- VDD_DRV_UNDERVOLTAGE (R67): Two readings of VDD_DRV below 11.2 V send every line driver to high impedance. -/
  | vddDrvUndervoltage (t : Nat) (mv : Nat)
  /-- VDD_DRV_RECOVERY (R67): VDD_DRV has held 11.4 V for 10 ms, and the drivers return at their next allocations. -/
  | vddDrvRecovery (t : Nat)
  /-- VDD_DRV_OVERVOLTAGE (R433): VDD_DRV above 12.6 V for 1 µs sends every line driver to high impedance. -/
  | vddDrvOvervoltage (t : Nat)
  /-- VDD_SENSE_LOW (R433): VDD_SENSE below 4.50 V for 10 µs sends PD_SENSE to FAULT and undrives the loop gates. -/
  | vddSenseLow (t : Nat)
  /-- VDD_AON_LOSS (R433): VDD_AON below 0.72 V for 1 µs acts as POR_N, and the always-on state is lost. -/
  | vddAonLoss (t : Nat)
  /-- XO_IN_LOSS (R320): XO_IN with no edge for 2 µs sends PD_CLK to FAULT. -/
  | xoInLoss (t : Nat)
  /-- DRIVER_OVERCURRENT (R65): A confirmed overcurrent trip stops the driver for the rest of the allocation and raises EV_DRIVER_OC. -/
  | driverOvercurrent (t : Nat) (b : Berth)
  /-- DRIVER_HOT (R68): The driver hot-spot reaches 120 °C, which reduces the level, or 130 °C, which sends the driver to high impedance. -/
  | driverHot (t : Nat) (b : Berth) (temp : Int)
  /-- DRIVER_COOL (R68): The hot-spot has read below 110 °C for 1 s, and the thermal reduction ends. -/
  | driverCool (t : Nat) (b : Berth)
  /-- BEACON_BOUNDARY (R144): A beacon period boundary: bpc advances, pending settings take effect, the map is committed and the beacon is
  sent. -/
  | beaconBoundary (t : Nat) (b : Berth) (plan : List Alloc)
  /-- DOMAIN_LISTEN_END (R143): A berth ends its two periods of listening, and it starts its grid or raises EV_DOMAIN_CLASH. -/
  | domainListenEnd (t : Nat) (b : Berth) (heard : List Heard)
  /-- DOMAIN_CLASH_WAIT_END (R143): After a clash, 64 periods have passed, and the berth listens afresh. -/
  | domainClashWaitEnd (t : Nat) (b : Berth)
  /-- ALLOCATION_START (R149): An allocation begins, and its transmitter starts frames, training bursts or time exchanges. -/
  | allocationStart (t : Nat) (b : Berth) (idx : Nat)
  /-- ACK_TAIL_START (R152): The acknowledgement tail of an allocation begins, and each party sends its acknowledgement. -/
  | ackTailStart (t : Nat) (b : Berth) (idx : Nat)
  /-- CONTENTION_SLOT (R155): A contention slot passes, and the backoff counts down or a frame starts. -/
  | contentionSlot (t : Nat) (b : Berth) (busy : Bool)
  /-- BERTH_DEADLINE_MISS (R54): Berth work misses its deadline, so the symbol is erased, the codeword fails, an abort is sent or air time
  is lost. -/
  | berthDeadlineMiss (t : Nat) (b : Berth) (work : LateWork)
  /-- RX_FIFO_OVERFLOW (R46): A berth's receive FIFO overflows, and the overlapping symbols are erased. -/
  | rxFifoOverflow (t : Nat) (b : Berth) (syms : List Nat)
  /-- P1_DETECT (R92): A P1 preamble is detected, the receive gain is set and the frame is begun or abandoned. -/
  | p1Detect (t : Nat) (b : Berth) (p2 : Bool) (level : Int)
  /-- FRAME_CONTROL_RX (R95): A frame-control block is decoded and checked, soft values are fetched, or the frame is discarded. -/
  | frameControlRx (t : Nat) (b : Berth) (fc : Bytes)
  /-- PAYLOAD_SYMBOL_RX (R138): A payload symbol is demodulated, weighted and passed to decoding. -/
  | payloadSymbolRx (t : Nat) (b : Berth) (w : SymbolQuality)
  /-- ABORT_SYMBOL_RX (R110): An abort symbol is detected, and the incomplete codewords fail. -/
  | abortSymbolRx (t : Nat) (b : Berth) (llrs : List (List Int))
  /-- CODEWORD_DECODE (R59): A codeword leaves the decoder converged or failed, and its soft values are stored or cleared. -/
  | codewordDecode (t : Nat) (b : Berth) (cw : Nat) (e : CwEnd)
  /-- BEACON_RX (R148): The station side of a berth receives and verifies a beacon. -/
  | beaconRx (t : Nat) (b : Berth) (bytes : Bytes)
  /-- COORD_LOST (R151): Eight periods pass without a verified beacon, and the station side loses its coordinator. -/
  | coordLost (t : Nat) (b : Berth)
  /-- JOIN_REQ (R160): A JOIN_REQ is received, and a provisional number and challenge are prepared. -/
  | joinReq (t : Nat) (b : Berth) (msg : Bytes)
  /-- JOIN_CHAL (R458): JOIN_CHAL and JOIN_REJECT messages are sent in the join broadcast allocation. -/
  | joinChal (t : Nat) (b : Berth)
  /-- JOIN_PROOF (R161): A JOIN_PROOF is verified and leads to JOIN_ACCEPT and an ownership query, or counts a failure. -/
  | joinProof (t : Nat) (b : Berth) (msg : Bytes)
  /-- JOIN_PROOF_DEADLINE (R161): proof_deadline_bpc passes, and the JOINING context returns to FREE. -/
  | joinProofDeadline (t : Nat) (b : Berth) (eui : BitVec 64)
  /-- JOIN_LOCKOUT_END (R161): The refusal period of a locked-out EUI-64 ends. -/
  | joinLockoutEnd (t : Nat) (b : Berth) (eui : BitVec 64)
  /-- JOIN_ACCEPT (R160): JOIN_ACCEPT is sent, and the context becomes ACTIVE. -/
  | joinAccept (t : Nat) (b : Berth) (eui : BitVec 64)
  /-- STATION_JOIN_MSG_RX (R160): The station side of a berth in role 1 or 2 receives a JOIN_CHAL, JOIN_ACCEPT or JOIN_REJECT. -/
  | stationJoinMsgRx (t : Nat) (b : Berth) (msg : Bytes)
  /-- ACK_RX (R154): An acknowledgement frame is received, and its frames are released or kept for resend. -/
  | ackRx (t : Nat) (b : Berth) (ctx : Nat) (bytes : Bytes)
  /-- TT_REQ (R170): A TT_REQ is received and timestamped, and a TT_RESP is scheduled. -/
  | ttReq (t : Nat) (b : Berth) (ctx : Nat) (t2 : Nat)
  /-- TT_RESP (R171): The station side receives a TT_RESP and corrects its time. -/
  | ttResp (t : Nat) (b : Berth) (payload : Bytes) (t4 : Nat)
  /-- TONE_MAP (R117): A tone map from a link's far end is received and validated. -/
  | toneMap (t : Nat) (b : Berth) (link : Nat) (bytes : Bytes)
  /-- TONE_MAP_ISSUE (R117): The device issues a new tone map for a link whose loaded rate has changed by 5 % or more. -/
  | toneMapIssue (t : Nat) (b : Berth) (link : Nat) (snr : List Nat)
  /-- REKEY (R167): A REKEY is received or sent, carrying the next domain key. -/
  | rekey (t : Nat) (b : Berth) (ctx : Nat) (bytes : Bytes)
  /-- REKEY_ACK (R167): A REKEY_ACK is received, and the session key is rolled. -/
  | rekeyAck (t : Nat) (b : Berth) (ctx : Nat) (bytes : Bytes)
  /-- KEY_AGE_ROLL (R168): A generation reaches key_age_max_days, and the device starts a roll and raises EV_KEY_AGE. -/
  | keyAgeRoll (t : Nat) (b : Berth)
  /-- LEAVE (R173): A LEAVE message moves the station's contexts to CLOSING. -/
  | leave (t : Nat) (b : Berth) (ctx : Nat)
  /-- HEAR_REPORT (R157): A HEAR_REPORT is received and used for pairing decisions. -/
  | hearReport (t : Nat) (b : Berth) (ctx : Nat) (bytes : Bytes)
  /-- LINK_REPORT (R183): A LINK_REPORT is received, and the link costs of its reporter are updated. -/
  | linkReport (t : Nat) (b : Berth) (ctx : Nat) (bytes : Bytes)
  /-- ROUTE_SET (R186): The station side receives a ROUTE_SET and takes it if newer. -/
  | routeSet (t : Nat) (b : Berth) (bytes : Bytes)
  /-- RELAY_MAP (R192): The station side receives a RELAY_MAP for the current period. -/
  | relayMap (t : Nat) (b : Berth) (bytes : Bytes)
  /-- MESH_HOP_RX (R182): A repeater accepts a hop frame and forwards or drops it. -/
  | meshHopRx (t : Nat) (b : Berth) (fc : Bytes) (frame : Bytes)
  /-- PARENT_LINK_FAIL (R188): A station declares its parent link failed and switches to its alternate parent. -/
  | parentLinkFail (t : Nat) (b : Berth) (cost : Nat)
  /-- RELAY_LATE_DROP (R193): A relayed frame not sent by the end of the following period is dropped. -/
  | relayLateDrop (t : Nat) (b : Berth)
  /-- CONTEXT_STATION_TIMEOUT (R173): An ACTIVE context with no accepted frame for station_timeout periods becomes DORMANT. -/
  | contextStationTimeout (t : Nat) (id : Nat)
  /-- CONTEXT_DORMANT_TIMEOUT (R173): A DORMANT context reaches dormant_timeout and enters CLOSING. -/
  | contextDormantTimeout (t : Nat) (id : Nat)
  /-- CONTEXT_CLOSING_END (R173): A CLOSING context's queues empty or 256 periods pass, and the context returns to FREE. -/
  | contextClosingEnd (t : Nat) (id : Nat)
  /-- CONTEXT_REMOTE_END (R173): A REMOTE context returns to FREE after its frames are forwarded and 256 periods have passed. -/
  | contextRemoteEnd (t : Nat) (id : Nat)
  /-- NUMBER_QUARANTINE_END (R162): A station number leaves its 256-period quarantine and becomes free. -/
  | numberQuarantineEnd (t : Nat) (b : Berth) (num : Nat)
  /-- OWN_QUERY (R303): An OWN_QUERY is received, and the package answers with its epoch. -/
  | ownQuery (t : Nat) (l : LinkId) (pkt : Bytes)
  /-- OWN_ANSWER (R175): An OWN_ANSWER is received and its epoch is recorded. -/
  | ownAnswer (t : Nat) (l : LinkId) (pkt : Bytes)
  /-- OWN_CLAIM_WINDOW_END (R175): The 2 ms answer window ends, and the device claims ownership with OWN_CLAIM. -/
  | ownClaimWindowEnd (t : Nat) (eui : BitVec 64)
  /-- OWN_CLAIM (R175): A received winning OWN_CLAIM moves local contexts to REMOTE and forwards their frames. -/
  | ownClaim (t : Nat) (l : LinkId) (pkt : Bytes)
  /-- OWN_ADVERT (R195): An OWN_ADVERT is received, and kind-1 route entries are learned. -/
  | ownAdvert (t : Nat) (l : LinkId) (pkt : Bytes)
  /-- OWN_ADVERT_REFRESH (R303): Every advert_refresh_s the package re-advertises its kind-0 identities. -/
  | ownAdvertRefresh (t : Nat)
  /-- ROUTE_ENTRY_EXPIRY (R303): A kind-1 entry not refreshed for three intervals is deleted. -/
  | routeEntryExpiry (t : Nat) (eui : BitVec 64)
  /-- CANCEL_TRAINING_DONE (R129): A training burst ends, and the canceller enters TRACKING or FALLBACK. -/
  | cancelTrainingDone (t : Nat) (b : Berth) (res : TrainResult)
  /-- CANCEL_ADAPT_BLOCK (R130): Each block of 256 samples adapts the canceller taps. -/
  | cancelAdaptBlock (t : Nat) (b : Berth) (blk : AdaptBlock)
  /-- CANCEL_TAP_TRANSFER (R131): Once per 1.024 ms in TRACKING, part of the digital own taps moves into the analog replica. -/
  | cancelTapTransfer (t : Nat) (b : Berth) (analog : List Int) (own : List Int)
  /-- RESIDUAL_EVAL (R132): The residual excess of a symbol is evaluated, and divergence may be declared. -/
  | residualEval (t : Nat) (b : Berth) (m : Residual)
  /-- FAST_RECOVERY_DONE (R134): Fast recovery ends in TRACKING or FALLBACK. -/
  | fastRecoveryDone (t : Nat) (b : Berth) (m : Recovery)
  /-- FALLBACK_RETRY (R134): After repeated failures, a berth in FALLBACK retries training every 60 s. -/
  | fallbackRetry (t : Nat) (b : Berth)
  /-- NBR_CONFLICT (R136): A neighbour residual above the floor for 1 s sets nbr_conflict, which clears after 10 s below −3 dB. -/
  | nbrConflict (t : Nat) (b : Berth) (j : Fin 3) (resid : Int)
  /-- FLOOR_STALE (R122): No quiet block for 10 s sets floor_stale. -/
  | floorStale (t : Nat) (b : Berth) (quiet : Option Int)
  /-- STORE_ROUND (R214): Each 1.0 µs store arbitration round serves the access classes. -/
  | storeRound (t : Nat) (caps : List Nat) (reads : List StoreAccess)
  /-- SWITCH_ROUND (R26): Each 1.0 µs switch scheduling round makes dequeue decisions and sends frames out of the Hold. -/
  | switchRound (t : Nat) (eths : List EthId) (links : List LinkId)
  /-- CTX_CACHE_FILL (R216): A context-cache miss fetch completes. -/
  | ctxCacheFill (t : Nat) (id : Nat)
  /-- CTX_WRITEBACK (R216): A modified context is written back to both copies within 1.024 ms. -/
  | ctxWriteback (t : Nat) (id : Nat)
  /-- STORE_TIMING_UPDATE (R201): A channel runs its periodic ZQ and timing update, and retries or retires on failure. -/
  | storeTimingUpdate (t : Nat) (m : Chan) (ok : Bool)
  /-- STORE_TEMP_READ (R201): Every 32 ms the DRAM temperature is read, which may raise EV_STORE_HOT. -/
  | storeTempRead (t : Nat) (m : Chan) (temp : Option (Int × Bool))
  /-- SCRUB_PASS (R210): A scrub pass reads every word and corrects or rewrites errors. -/
  | scrubPass (t : Nat) (m : Chan) (ce : Nat) (ue : Nat)
  /-- STORE_AUTO_RETIRE (R228): A retirement trigger fences a channel and starts its automatic retirement. -/
  | storeAutoRetire (t : Nat) (m : Chan)
  /-- STORE_DRAIN_FENCE (R229): A draining channel becomes FENCED once its rebuild is done and it is empty, or after 2 s. -/
  | storeDrainFence (t : Nat) (m : Chan)
  /-- REBUILD_DONE (R230): A channel rebuild completes, the channel becomes RETIRED and the next rebuild starts. -/
  | rebuildDone (t : Nat) (m : Chan)
  /-- CAPTURE_TRIGGER (R225): The capture trigger occurs, and recording of len_us begins. -/
  | captureTrigger (t : Nat)
  /-- CAPTURE_DONE (R225): A capture ends or the partition fills, and EV_CAPTURE_DONE is raised. -/
  | captureDone (t : Nat) (rec : List (Nat × List (Option (List Int))))
  /-- SLIPWAY_TIMEOUT (R35): A drain passes its longest time, and HR_SEC returns the region. -/
  | slipwayTimeout (t : Nat) (r : Region)
  /-- REGION_AUTO_RETURN (R275): return_ms expires, and HR_SEC returns the drained region. -/
  | regionAutoReturn (t : Nat) (r : Region)
  /-- MGMT_DRAIN_LOOP_FAULT (R36): HR_MGMT has been drained for 1 s, and every loop goes to its fault current. -/
  | mgmtDrainLoopFault (t : Nat)
  /-- MGMT_RESTART_DONE (R420): The management restart completes, and HR_MGMT returns. -/
  | mgmtRestartDone (t : Nat) (img : Bytes) (alt : Bytes)
  /-- ETH_LINK_FAULT (R281): An Ethernet port loses alignment lock or exceeds the FEC limit and leaves UP. -/
  | ethLinkFault (t : Nat) (p : EthId)
  /-- ETH_LINK_UP (R281): An Ethernet port completes negotiation and training and enters UP. -/
  | ethLinkUp (t : Nat) (p : EthId)
  /-- ETH_FRAME_RX (R282): A received Ethernet frame is filtered and admitted, passed on or dropped. -/
  | ethFrameRx (t : Nat) (p : EthId) (bytes : Bytes) (fcsOk : Bool) (fecC fecU : Nat)
  /-- PTP_MESSAGE_RX (R285): A PTP message is received and timestamped. -/
  | ptpMessageRx (t : Nat) (p : EthId) (bytes : Bytes)
  /-- PTP_SYNC_TIMEOUT (R285): A time-receiver port with no Sync for three intervals reports its input lost. -/
  | ptpSyncTimeout (t : Nat) (p : EthId)
  /-- PTP_INTERVAL (R285): At each interval, a PTP port sends Sync or Delay_Req. -/
  | ptpInterval (t : Nat) (p : EthId)
  /-- ESMC_PDU_RX (R286): An ESMC PDU is received and its QL is recorded, or it is discarded. -/
  | esmcPduRx (t : Nat) (p : EthId) (bytes : Bytes)
  /-- ESMC_INFO_TX (R286): Every 1 s an ESMC information PDU is sent. -/
  | esmcInfoTx (t : Nat) (p : EthId)
  /-- ESMC_TIMEOUT (R286): With no valid PDU for 5 s, the port reports QL-FAILED. -/
  | esmcTimeout (t : Nat) (p : EthId)
  /-- FABRIC_CW_RX (R293): A data codeword is received and accepted in order, or discarded with nak. -/
  | fabricCwRx (t : Nat) (l : LinkId) (cw : Bytes) (decodable : Bool) (corrected : Bool)
  /-- FABRIC_NAK (R293): A nak makes the sender replay from ack_seq + 1. -/
  | fabricNak (t : Nat) (l : LinkId) (ack : Nat)
  /-- FABRIC_REPLAY_TIMEOUT (R293): ack_seq has not advanced for 5 µs, and the sender replays from the oldest codeword. -/
  | fabricReplayTimeout (t : Nat) (l : LinkId)
  /-- FABRIC_CONTROL_RX (R290): A control codeword is received and used for alignment, HELLO and AUTH checks and timing. -/
  | fabricControlRx (t : Nat) (l : LinkId) (cw : Bytes)
  /-- FABRIC_CONTROL_MISS (R294): Four missed control codewords send the link to FAILED. -/
  | fabricControlMiss (t : Nat) (l : LinkId)
  /-- FABRIC_LANE_LOSS (R294): A lane, or both lanes, are out of lock for 5 µs, giving DEGRADED or FAILED. -/
  | fabricLaneLoss (t : Nat) (l : LinkId) (lanes : BitVec 2)
  /-- FABRIC_DECODE_LOSS (R294): No codeword decodes for 20 µs, and the link retrains. -/
  | fabricDecodeLoss (t : Nat) (l : LinkId)
  /-- FABRIC_TRAINING_DONE (R291): Link training ends in HELLO, UP or FAILED. -/
  | fabricTrainingDone (t : Nat) (l : LinkId) (lanes : BitVec 2)
  /-- FABRIC_AUTH_TIMEOUT (R291): Proofs not verified within 1 ms in AUTH send the link to REFUSED. -/
  | fabricAuthTimeout (t : Nat) (l : LinkId)
  /-- FABRIC_RETRY_TIMER (R291): A REFUSED or FAILED link retries training when its timer expires. -/
  | fabricRetryTimer (t : Nat) (l : LinkId)
  /-- FABRIC_LANE_RESTORE (R294): A lost lane has held lock for 60 s, and the DEGRADED link retrains. -/
  | fabricLaneRestore (t : Nat) (l : LinkId)
  /-- FABRIC_PERIODIC_RETRAIN (R292): A link retrains with fresh nonces every 24 h or before pkt_ctr reaches 2^47. -/
  | fabricPeriodicRetrain (t : Nat) (l : LinkId)
  /-- FRAME (R296): A FRAME packet is received and delivered or forwarded. -/
  | frame (t : Nat) (l : LinkId) (pkt : Bytes)
  /-- MGMT (R268): A MGMT packet carrying a command request or response is received. -/
  | mgmt (t : Nat) (l : LinkId) (pkt : Bytes)
  /-- LINKSTATE (R300): A LINKSTATE packet is received, and the next-hop table is rebuilt. -/
  | linkstate (t : Nat) (l : LinkId) (pkt : Bytes)
  /-- LINKSTATE_PERIODIC (R300): Every 1 s, or on a link change, the package sends LINKSTATE. -/
  | linkstatePeriodic (t : Nat)
  /-- MEMBERSHIP (R302): A MEMBERSHIP packet of kind join, heartbeat, leave or conflict is received. -/
  | membership (t : Nat) (l : LinkId) (pkt : Bytes)
  /-- MEMBERSHIP_HEARTBEAT (R302): Every 1 s each member broadcasts a MEMBERSHIP heartbeat. -/
  | membershipHeartbeat (t : Nat)
  /-- MEMBER_TIMEOUT (R302): A member silent for 3 s is dropped. -/
  | memberTimeout (t : Nat) (addr : BitVec 9)
  /-- FABRIC_JOIN_TIMEOUT (R301): No link reaches UP to a joined peer within 500 ms, and the device forms a system of one. -/
  | fabricJoinTimeout (t : Nat)
  /-- FABRIC_LEAVE_DOWN (R302): 10 ms after the leave message, the links go DOWN and fabric_joined becomes 0. -/
  | fabricLeaveDown (t : Nat)
  /-- MIXED_RELEASE_LOG (R425): At 72 hours of mixed state, and every 24 hours after, EV_MIXED_RELEASE is raised. -/
  | mixedReleaseLog (t : Nat)
  /-- CLOCK_MEASURE (R312): The once-per-second input measurement, which feeds drift, disagreement and selection judgements. -/
  | clockMeasure (t : Nat) (meas : List InputMeas) (corr : Int) (fLocked : Bool)
  /-- REF_ACTIVITY_LOSS (R311): A reference input loses activity, and holdover of a selected input begins under R316. -/
  | refActivityLoss (t : Nat) (inp : InputId)
  /-- REF_WTR_EXPIRY (R311): An input's wait-to-restore ends, and it qualifies. -/
  | refWtrExpiry (t : Nat) (inp : InputId)
  /-- REF_PPS_EDGE (R440): A filtered REF 1PPS edge is timestamped. -/
  | refPpsEdge (t : Nat) (r : Fin 2) (cycles : Nat)
  /-- TOD_MESSAGE (R310): A time-of-day message on UART1 is received and checked. -/
  | todMessage (t : Nat) (bytes : Bytes)
  /-- HOLDOVER_LIMIT (R319): The holdover estimate or duration passes its limit, and the state becomes FREE_RUN. -/
  | holdoverLimit (t : Nat)
  /-- WIRE_BREAK (R340): A compliance or overrange detection turns excitation off and enters WIRE_BREAK. -/
  | wireBreak (t : Nat) (n : SensId) (cause : Nat)
  /-- BREAK_PROBE (R339): A break probe runs on a channel every 1.024 ms. -/
  | breakProbe (t : Nat) (n : SensId) (uv : Nat)
  /-- WIRE_BREAK_RETEST (R341): A retest every 100 ms in WIRE_BREAK, which leaves WIRE_BREAK after three passes. -/
  | wireBreakRetest (t : Nat) (n : SensId) (pass : Bool)
  /-- SENSE_BLANK_CHANGE (R337): The filtered SENSE_BLANK level changes, and blanking of samples starts or stops. -/
  | senseBlankChange (t : Nat) (level : Bool)
  /-- FILTER_OUTPUT (R354): A fine output instant delivers a linearised, flagged value and runs the detectors. -/
  | filterOutput (t : Nat) (n : SensId) (f : FilterIn)
  /-- FAST_OUTPUT (R356): A fast-path output at 16 kS/s is delivered. -/
  | fastOutput (t : Nat) (n : SensId) (f : FastIn)
  /-- LOOP_PERIOD (R345): At each loop period, the loop current is set by the first applicable row. -/
  | loopPeriod (t : Nat) (j : LoopId)
  /-- LOOP_OPEN (R347): A readback off by more than 0.5 mA for 10 ms sets loop_open and raises EV_LOOP_FAULT. -/
  | loopOpen (t : Nat) (j : LoopId) (ua : Nat) (gateMax : Bool)
  /-- LOOP_FORCE_EXPIRY (R348): The hold_s time of a loop force expires and the force ends. -/
  | loopForceExpiry (t : Nat) (j : LoopId)
  /-- SENSOR_CAL_DONE (R349): A calibration measurement completes, and its result is stored or rejected. -/
  | sensorCalDone (t : Nat) (n : SensId) (raw : Option Int)
  /-- CHECK_ITEM_START (R368): A snooped item starts, and it is admitted to the unit's buffer or skipped. -/
  | checkItemStart (t : Nat) (u : ChkId) (fits : Bool)
  /-- CHECK_ITEM_END (R369): A snooped item ends, and its check result is written and compared. -/
  | checkItemEnd (t : Nat) (u : ChkId) (tag : BitVec 64) (bytes : Bytes) (whole : Bool)
  /-- UART_CHAR_RX (R376): A UART character is received, with its errors flagged, into the receive FIFO. -/
  | uartCharRx (t : Nat) (p : UartId) (ch : RxChar)
  /-- UART_CMD_FRAME (R267): A complete UART0 command frame is received and checked. -/
  | uartCmdFrame (t : Nat) (bytes : Bytes)
  /-- UART_FRAME_TIMEOUT (R267): A UART0 frame not closed within 1 s is discarded. -/
  | uartFrameTimeout (t : Nat)
  /-- UART_LINE_DEAD (R379): The receive line low for dead_timeout_ms sets line_dead and raises EV_LINE_DEAD. -/
  | uartLineDead (t : Nat) (p : UartId)
  /-- UART_LINE_RESUME (R379): The line high for one character time clears line_dead, and reception resumes. -/
  | uartLineResume (t : Nat) (p : UartId)
  /-- GPIO_INPUT_CHANGE (R443): A filtered GPIO input level changes and updates gpio_in. -/
  | gpioInputChange (t : Nat) (level : BitVec 16)
  /-- JTAG_INSTRUCTION (R442): A test-port instruction takes effect, or acts as BYPASS while POR_N is deasserted. -/
  | jtagInstruction (t : Nat) (instr : JtagInstr)
  /-- RNG_HEALTH_FAIL (R383): An entropy health test fails, requests needing randomness fail, and a retry follows after 1 s. -/
  | rngHealthFail (t : Nat)
  /-- FW_STAGE_TIMEOUT (R399): No chunk for 60 s abandons a staging. -/
  | fwStageTimeout (t : Nat)
  /-- FW_FLASH_WRITE_DONE (R399): A staged image is written to flash, read back, marked valid, and EV_FW_STAGED is raised. -/
  | fwFlashWriteDone (t : Nat) (readbackOk : Bool)
  /-- FW_HOLD_RELOAD (R401): An uncorrectable firmware word causes a reload and re-verification of the image from flash. -/
  | fwHoldReload (t : Nat) (img : Bytes)
  /-- CONFIG_RECORD_WRITE (R402): After a persistent change, the older configuration record copy is rewritten within 30 s. -/
  | configRecordWrite (t : Nat)
  /-- ATT_ENROLL_DONE (R405): Attestation key generation completes, and the new slot serves. -/
  | attEnrollDone (t : Nat)
  /-- SYMBOL_BOUNDARY (R93): At each boundary of a berth's own symbol grid the device starts the next transmit symbol, steps the receive
  gain between frames, and applies changes such as cdac_fs, blanking settings and abort timing. -/
  | symbolBoundary (t : Nat) (b : Berth) (level : Option Int)
  /-- PCIE_LINK_UP (R257): The PCIe link returns after a loss, so the function can be configured and the rings rebuilt. -/
  | pcieLinkUp (t : Nat)
  /-- WHOLE_SECOND_OF_DEVICE_TIME (R322): At each whole second of device time OUT_PPS rises and OUT_10M and OUT_PPS resume after a squelch
  or a step. -/
  | wholeSecondOfDeviceTime (t : Nat)
  /-- REF_FREQUENCY_RANGE (R311): The 100 ms frequency-offset measurement of an input against XO_IN sets or clears disqualification reason
  2. -/
  | refFrequencyRange (t : Nat) (inp : InputId) (ppb : Int)
  /-- UART_CHAR_TX (R382): A UART finishes sending a character, lowering tx_level, and pending line settings may apply once the
  transmitter is idle. -/
  | uartCharTx (t : Nat) (p : UartId)
  /-- STORE_TIMING_RETRY (R227): 1 ms after a failed timing update the channel retries, and a second failure retires it. -/
  | storeTimingRetry (t : Nat) (m : Chan) (ok : Bool)
  /-- ENTROPY_SOURCE_RETRY (R383): 1 s after a health-test failure the entropy source is retried, and a pass restores requests that need
  randomness. -/
  | entropySourceRetry (t : Nat) (pass : Bool)
  /-- PREVIOUS_KEY_RETENTION_END (R389): The retention period of root_prev_days or fab_prev_days ends, and the previous install root or
  fabric key is discarded. -/
  | previousKeyRetentionEnd (t : Nat) (fab : Bool)
  /-- FEATURE_EPOCH_START (R304): 2 s after sys_epoch first reaches e, the features that need epoch e start. -/
  | featureEpochStart (t : Nat) (e : Nat)
  /-- THERMAL_TRIP_RELEASE (R446): Die H reads below 100 °C after its hardware trip, the reset held by the trip ends, and Starter boots. -/
  | thermalTripRelease (t : Nat) (otpOk : Bool) (supplyOk : Bool)
  deriving DecidableEq, Repr

end Sys2Proof
end

