-- ==== Sys2Proof/Decode.lean ====
section
/-! DEFINITION. Words that spell a command. The opcode table gives no row any bits: a command reaches the block as an event, a register access or a
management request, none of them a word of the table. -/

namespace Sys2Proof

/-- The command that a word spells by the table's bits: no row has any, so none. -/
def decodeTableWord (_nbits _w : Nat) : Option Instr := none

end Sys2Proof
end

