-- ==== Sys2Proof/Machine/Objects.lean ====
section
/-! DEFINITION. The object model of class settings, statistics and events as the spec's tables give them: each OBJ_SET field with its class,
name, shape, range, default and instant of effect; each statistic with its class, name and width; each event with its code. -/

namespace Sys2Proof

/-- The shape of a field (R271): one value, an array of n elements, or a list of at most n pairs written whole (the notches of R82). -/
inductive Shape where
  | scalar
  | array (n : Nat)
  | pairs (n : Nat)
  deriving DecidableEq, Repr

/-- A row of a settings table. -/
structure FldDesc where
  cls : Cls
  name : String
  shape : Shape
  lo : Int
  hi : Int
  dflt : Int
  app : Applies
  acc : Acc
  deriving DecidableEq, Repr

/-- The settings tables of R85, R120, R140, R177, R197, R233, R305, R325, R350, R364, R351, R374, R382, R454, R50, R444, R279 and
R408. The range is the outer one; R82, R85's steps and the other conditions of single fields stand in `Fld.allowed`. -/
def Fld.desc : Fld → FldDesc
  | .coupling => ⟨.berth, "coupling", .scalar, 0, 1, 0, .silent, .rw⟩
  | .phaseLabel => ⟨.berth, "phase_label", .scalar, 1, 3, 1, .now, .rw⟩
  | .xfmrRatio => ⟨.berth, "xfmr_ratio_x100", .scalar, 100, 200, 200, .silent, .rw⟩
  | .bandEdge => ⟨.berth, "band_edge", .scalar, 0, 2, 2, .silent, .rw⟩
  | .psdMask => ⟨.berth, "psd_mask", (.array 216), 0, 255, 5, .beacon, .rw⟩
  | .emissionCeiling => ⟨.berth, "emission_ceiling", (.array 216), 0, 255, 0, .beacon, .officer⟩
  | .notches => ⟨.berth, "notches", (.pairs 32), 1800, 86000, 0, .beacon, .rw⟩
  | .txGainTrim => ⟨.berth, "tx_gain_trim", (.array 216), (-12), 12, 0, .beacon, .rw⟩
  | .cdacFs => ⟨.berth, "cdac_fs", .scalar, 0, 2, 2, .training, .rw⟩
  | .txEnable => ⟨.berth, "tx_enable", .scalar, 0, 1, 1, .beacon, .rw⟩
  | .giDefault => ⟨.berth, "gi_default", .scalar, 0, 3, 1, .beacon, .rw⟩
  | .loadMargin => ⟨.berth, "load_margin", .scalar, 0, 60, 0, .toneMap, .rw⟩
  | .maxBits => ⟨.berth, "max_bits", .scalar, 1, 12, 12, .toneMap, .rw⟩
  | .rateMask => ⟨.berth, "rate_mask", .scalar, 1, 15, 15, .toneMap, .rw⟩
  | .shortCodeMax => ⟨.berth, "short_code_max_bytes", .scalar, 0, 960, 480, .now, .rw⟩
  | .fdEnable => ⟨.berth, "fd_enable", .scalar, 0, 1, 1, .beacon, .rw⟩
  | .nbrRef => ⟨.berth, "nbr_ref", (.array 3), 0, 255, 255, .beacon, .rw⟩
  | .divThresh => ⟨.berth, "div_thresh_db_x10", .scalar, 40, 120, 60, .beacon, .rw⟩
  | .resumeThresh => ⟨.berth, "resume_thresh_db_x10", .scalar, 10, 110, 30, .beacon, .rw⟩
  | .trackShift => ⟨.berth, "track_shift", .scalar, 8, 14, 10, .adapt, .rw⟩
  | .retrainInterval => ⟨.berth, "retrain_interval", .scalar, 0, 65535, 0, .beacon, .rw⟩
  | .trainRequest => ⟨.berth, "train_request", .scalar, 1, 1, 0, .now, .wo⟩
  | .blankEnable => ⟨.berth, "blank_enable", .scalar, 0, 1, 1, .symbol, .rw⟩
  | .blankThresh => ⟨.berth, "blank_thresh_x4", .scalar, 12, 60, 24, .symbol, .rw⟩
  | .blankGuard => ⟨.berth, "blank_guard", .scalar, 0, 63, 16, .symbol, .rw⟩
  | .role => ⟨.domain, "role", .scalar, 0, 3, 0, .silent, .rw⟩
  | .domainTag => ⟨.domain, "domain_tag", .scalar, 1, 65535, 256, .silent, .rw⟩
  | .ferryTag => ⟨.domain, "ferry_tag", .scalar, 0, 65535, 0, .silent, .rw⟩
  | .nPeriod => ⟨.domain, "n_period", .scalar, 16, 128, 40, .silent, .rw⟩
  | .beaconOffset => ⟨.domain, "beacon_offset_us", .scalar, 0, 131071, 0, .silent, .rw⟩
  | .joinOpen => ⟨.domain, "join_open", .scalar, 0, 1, 1, .beacon, .rw⟩
  | .maxStations => ⟨.domain, "max_stations", .scalar, 1, 4095, 4095, .now, .rw⟩
  | .joinSlot => ⟨.domain, "join_slot_us", .scalar, 512, 8192, 2048, .beacon, .rw⟩
  | .hiCont => ⟨.domain, "hi_cont_us", .scalar, 256, 4096, 1024, .beacon, .rw⟩
  | .ttInterval => ⟨.domain, "tt_interval", .scalar, 16, 4096, 1024, .beacon, .rw⟩
  | .stationTimeout => ⟨.domain, "station_timeout", .scalar, 64, 65535, 1024, .now, .rw⟩
  | .dormantTimeout => ⟨.domain, "dormant_timeout", .scalar, 1024, 1048575, 65536, .now, .rw⟩
  | .pairMargin => ⟨.domain, "pair_margin_db", .scalar, 10, 40, 20, .beacon, .rw⟩
  | .keyAgeMax => ⟨.domain, "key_age_max_days", .scalar, 1, 30, 30, .now, .rw⟩
  | .stEui => ⟨.domain, "st_eui64", .scalar, 0, 18446744073709551615, 0, .silent, .rw⟩
  | .hopPenalty => ⟨.relay, "hop_penalty", .scalar, 16, 4096, 64, .route, .rw⟩
  | .linkAgeMax => ⟨.relay, "link_age_max", .scalar, 4, 256, 16, .route, .rw⟩
  | .maxHops => ⟨.relay, "max_hops", .scalar, 1, 15, 8, .route, .rw⟩
  | .relayEnable => ⟨.relay, "relay_enable", .scalar, 0, 1, 1, .beacon, .rw⟩
  | .relayDirectMax => ⟨.relay, "relay_direct_max", .scalar, 64, 65534, 2000, .beacon, .rw⟩
  | .relayWindow => ⟨.relay, "relay_window", .scalar, 1, 16, 4, .beacon, .rw⟩
  | .relayFanout => ⟨.relay, "relay_fanout", .scalar, 1, 256, 32, .beacon, .rw⟩
  | .smallBufPct => ⟨.store, "small_buf_pct", .scalar, 10, 90, 50, .boot, .rw⟩
  | .berthQPct => ⟨.store, "berth_q_pct", .scalar, 5, 80, 35, .now, .rw⟩
  | .hostQPct => ⟨.store, "host_q_pct", .scalar, 5, 80, 20, .now, .rw⟩
  | .ethQPct => ⟨.store, "eth_q_pct", .scalar, 5, 80, 15, .now, .rw⟩
  | .fabQPct => ⟨.store, "fab_q_pct", .scalar, 5, 80, 30, .now, .rw⟩
  | .ctxQMaxKib => ⟨.store, "ctx_q_max_kib", .scalar, 16, 4096, 512, .now, .rw⟩
  | .softAgeMax => ⟨.store, "soft_age_max", .scalar, 16, 4096, 256, .now, .rw⟩
  | .scrubHours => ⟨.store, "scrub_hours", .scalar, 1, 24, 4, .scrub, .rw⟩
  | .autoRetire => ⟨.store, "auto_retire", .scalar, 0, 1, 1, .now, .rw⟩
  | .ueRetire => ⟨.store, "ue_retire_per_s", .scalar, 1, 1024, 16, .now, .rw⟩
  | .ceRetire => ⟨.store, "ce_retire_per_s", .scalar, 64, 65535, 1024, .now, .rw⟩
  | .retireClear => ⟨.store, "retire_clear", .scalar, 0, 15, 0, .now, .woOfficer⟩
  | .ethMode => ⟨.eth, "eth_mode", .scalar, 0, 2, 0, .drained, .rw⟩
  | .medium => ⟨.eth, "medium", .scalar, 0, 1, 0, .drained, .rw⟩
  | .anEnable => ⟨.eth, "an_enable", .scalar, 0, 1, 1, .negotiation, .rw⟩
  | .portEnable => ⟨.eth, "port_enable", .scalar, 0, 1, 1, .negotiation, .rw⟩
  | .macAddr => ⟨.eth, "mac_addr", .scalar, 0, 281474976710655, 0, .now, .rw⟩
  | .peerMac => ⟨.eth, "peer_mac", .scalar, 0, 281474976710655, 281474976710655, .now, .rw⟩
  | .ethType => ⟨.eth, "eth_type", .scalar, 1536, 65535, 34997, .now, .rw⟩
  | .vlanId => ⟨.eth, "vlan_id", .scalar, 0, 4094, 0, .now, .rw⟩
  | .ethMaxFrame => ⟨.eth, "eth_max_frame", .scalar, 1522, 9600, 9600, .negotiation, .rw⟩
  | .ethBerths => ⟨.eth, "eth_berths", .scalar, 0, 4294967295, 0, .now, .rw⟩
  | .hostDefault => ⟨.eth, "host_default", .scalar, 0, 1, 1, .now, .rw⟩
  | .ptpRole => ⟨.eth, "ptp_role", .scalar, 0, 2, 0, .now, .rw⟩
  | .ptpMode => ⟨.eth, "ptp_mode", .scalar, 0, 1, 1, .now, .rw⟩
  | .ptpTransport => ⟨.eth, "ptp_transport", .scalar, 0, 2, 0, .now, .rw⟩
  | .ptpDomain => ⟨.eth, "ptp_domain", .scalar, 0, 255, 0, .now, .rw⟩
  | .ptpLogInterval => ⟨.eth, "ptp_log_interval", .scalar, (-7), 0, (-4), .now, .rw⟩
  | .ptpAsym => ⟨.eth, "ptp_asym_ns", .scalar, (-10000), 10000, 0, .now, .rw⟩
  | .esmcEnable => ⟨.eth, "esmc_enable", .scalar, 0, 1, 1, .now, .rw⟩
  | .esmcEnhanced => ⟨.eth, "esmc_enhanced", .scalar, 0, 1, 1, .now, .rw⟩
  | .fabUplinkBerths => ⟨.fabric, "fab_uplink_berths", .scalar, 0, 4294967295, 0, .now, .rw⟩
  | .uplinkAddr => ⟨.fabric, "uplink_addr", .scalar, 0, 511, 0, .now, .rw⟩
  | .uplinkPort => ⟨.fabric, "uplink_port", .scalar, 0, 3, 0, .now, .rw⟩
  | .advertRefresh => ⟨.fabric, "advert_refresh_s", .scalar, 60, 3600, 600, .advert, .rw⟩
  | .linkEnable => ⟨.fabric, "link_enable", .scalar, 0, 1, 1, .now, .rw⟩
  | .retrain => ⟨.fabric, "retrain", .scalar, 1, 1, 0, .now, .wo⟩
  | .inEnable => ⟨.clock, "in_enable", (.array 16), 0, 1, 1, .second, .rw⟩
  | .inPrio => ⟨.clock, "in_prio", (.array 16), 1, 15, 8, .second, .rw⟩
  | .inDelay => ⟨.clock, "in_delay_ns", (.array 16), (-100000), 100000, 0, .second, .rw⟩
  | .refQlMode => ⟨.clock, "ref_ql_mode", (.array 2), 0, 1, 0, .second, .rw⟩
  | .refQlFixed => ⟨.clock, "ref_ql_fixed", (.array 2), 0, 8, 7, .second, .rw⟩
  | .dpllBw => ⟨.clock, "dpll_bw", .scalar, 1, 1000000, 10000, .second, .rw⟩
  | .timeBw => ⟨.clock, "time_bw", .scalar, 1, 10000, 100, .second, .rw⟩
  | .revertive => ⟨.clock, "revertive", .scalar, 0, 1, 1, .second, .rw⟩
  | .wtr => ⟨.clock, "wtr_s", .scalar, 0, 720, 300, .second, .rw⟩
  | .disagreePpb => ⟨.clock, "disagree_ppb", .scalar, 5, 5000, 50, .second, .rw⟩
  | .driftOff => ⟨.clock, "drift_off_ppb", .scalar, 10, 10000, 100, .second, .rw⟩
  | .driftOn => ⟨.clock, "drift_on_ppb", .scalar, 5, 5000, 50, .second, .rw⟩
  | .timeOff => ⟨.clock, "time_off_ns", .scalar, 50, 100000, 500, .second, .rw⟩
  | .phaseSlew => ⟨.clock, "phase_slew_ppb", .scalar, 1, 10000, 100, .second, .rw⟩
  | .stepThresh => ⟨.clock, "step_thresh_ns", .scalar, 100, 1000000000, 1000, .second, .rw⟩
  | .hoLimit => ⟨.clock, "ho_limit_ns", .scalar, 10, 100000, 1000, .second, .rw⟩
  | .hoMax => ⟨.clock, "ho_max_s", .scalar, 60, 604800, 86400, .second, .rw⟩
  | .hoFreqUnc => ⟨.clock, "ho_freq_unc", .scalar, 1, 100000, 100, .second, .rw⟩
  | .hoAging => ⟨.clock, "ho_aging", .scalar, 0, 100000, 500, .second, .rw⟩
  | .outSquelch => ⟨.clock, "out_squelch", .scalar, 0, 2, 1, .second, .rw⟩
  | .ppsWidth => ⟨.clock, "pps_width_us", .scalar, 1, 500000, 10000, .second, .rw⟩
  | .ppsOutDelay => ⟨.clock, "pps_out_delay_ns", .scalar, (-10000), 10000, 0, .second, .rw⟩
  | .wiring => ⟨.sense, "wiring", .scalar, 0, 3, 2, .output, .rw⟩
  | .curve => ⟨.sense, "curve", .scalar, 0, 30, 1, .output, .rw⟩
  | .excCode => ⟨.sense, "exc_code", .scalar, 0, 2, 2, .output, .rw⟩
  | .pgaGain => ⟨.sense, "pga_gain", .scalar, 0, 255, 255, .output, .rw⟩
  | .leadComp => ⟨.sense, "lead_comp_mohm", .scalar, 0, 100000, 0, .output, .rw⟩
  | .cjSrc => ⟨.sense, "cj_src", .scalar, 0, 1, 0, .output, .rw⟩
  | .ntcA => ⟨.sense, "ntc_a", .scalar, 0, 4294967295, 0, .output, .rw⟩
  | .ntcB => ⟨.sense, "ntc_b", .scalar, 0, 4294967295, 0, .output, .rw⟩
  | .ntcC => ⟨.sense, "ntc_c", .scalar, 0, 4294967295, 0, .output, .rw⟩
  | .ntcRMin => ⟨.sense, "ntc_r_min_ohm", .scalar, 1, 13600, 100, .output, .rw⟩
  | .ntcRMax => ⟨.sense, "ntc_r_max_ohm", .scalar, 1, 13600, 13600, .output, .rw⟩
  | .probeEnable => ⟨.sense, "probe_enable", .scalar, 0, 1, 1, .probe, .rw⟩
  | .blankSrc => ⟨.sense, "blank_src", .scalar, 0, 3, 0, .now, .rw⟩
  | .blankBerths => ⟨.sense, "blank_berths", .scalar, 0, 4294967295, 0, .now, .rw⟩
  | .blankPre => ⟨.sense, "blank_pre_us", .scalar, 0, 20, 2, .now, .rw⟩
  | .blankPost => ⟨.sense, "blank_post_us", .scalar, 0, 20, 5, .now, .rw⟩
  | .preset => ⟨.filter, "preset", .scalar, 0, 4, 1, .output, .rw⟩
  | .delaySteps => ⟨.filter, "delay_steps", .scalar, 0, 1023, 0, .output, .rw⟩
  | .testMode => ⟨.filter, "test_mode", .scalar, 0, 1, 0, .output, .rw⟩
  | .acInput => ⟨.filter, "ac_input", .scalar, 0, 1, 0, .output, .rw⟩
  | .dcbShift => ⟨.filter, "dcb_shift", .scalar, 4, 16, 8, .output, .rw⟩
  | .dcbFreeze => ⟨.filter, "dcb_freeze", .scalar, 0, 1, 0, .output, .rw⟩
  | .detectWindow => ⟨.filter, "detect_window", .scalar, 16, 65536, 1024, .window, .rw⟩
  | .envShift => ⟨.filter, "env_shift", .scalar, 1, 16, 6, .output, .rw⟩
  | .loopEnable => ⟨.loop, "loop_enable", .scalar, 0, 1, 0, .loopPeriod, .rw⟩
  | .srcChannel => ⟨.loop, "src_channel", .scalar, 0, 15, 0, .loopPeriod, .rw⟩
  | .srcKind => ⟨.loop, "src_kind", .scalar, 0, 1, 0, .loopPeriod, .rw⟩
  | .loValue => ⟨.loop, "lo_value", .scalar, (-2147483648), 2147483647, 0, .loopPeriod, .rw⟩
  | .hiValue => ⟨.loop, "hi_value", .scalar, (-2147483648), 2147483647, 15000000, .loopPeriod, .rw⟩
  | .faultDir => ⟨.loop, "fault_dir", .scalar, 0, 1, 0, .loopPeriod, .rw⟩
  | .senseMohm => ⟨.loop, "sense_mohm", .scalar, 5000, 50000, 10000, .loopPeriod, .rw⟩
  | .chkEnable => ⟨.check, "enable", .scalar, 0, 1, 0, .item, .rw⟩
  | .chkWidth => ⟨.check, "width", .scalar, 1, 64, 32, .item, .rw⟩
  | .chkPoly => ⟨.check, "poly", .scalar, 1, 18446744073709551615, 517762881, .item, .rw⟩
  | .chkInit => ⟨.check, "init", .scalar, 0, 18446744073709551615, 4294967295, .item, .rw⟩
  | .chkXorout => ⟨.check, "xorout", .scalar, 0, 18446744073709551615, 4294967295, .item, .rw⟩
  | .chkRefin => ⟨.check, "refin", .scalar, 0, 1, 1, .item, .rw⟩
  | .chkRefout => ⟨.check, "refout", .scalar, 0, 1, 1, .item, .rw⟩
  | .chkSource => ⟨.check, "source", .scalar, 0, 5, 0, .item, .rw⟩
  | .chkSrcIndex => ⟨.check, "src_index", .scalar, 0, 255, 0, .item, .rw⟩
  | .chkDirection => ⟨.check, "direction", .scalar, 0, 1, 0, .item, .rw⟩
  | .chkFramed => ⟨.check, "framed", .scalar, 0, 1, 1, .item, .rw⟩
  | .winLo => ⟨.check, "win_lo", .scalar, 0, 137438953471, 0, .item, .rw⟩
  | .winHi => ⟨.check, "win_hi", .scalar, 0, 137438953471, 0, .item, .rw⟩
  | .chkMode => ⟨.check, "mode", .scalar, 0, 2, 0, .item, .rw⟩
  | .chkScope => ⟨.check, "scope", .scalar, 0, 1, 0, .item, .rw⟩
  | .foldMode => ⟨.check, "fold_mode", .scalar, 0, 2, 0, .item, .rw⟩
  | .foldTag => ⟨.check, "fold_tag", .scalar, 0, 18446744073709551615, 0, .item, .rw⟩
  | .chkExpect => ⟨.check, "expect", .scalar, 0, 18446744073709551615, 0, .item, .rw⟩
  | .chkRestart => ⟨.check, "restart", .scalar, 1, 1, 0, .now, .wo⟩
  | .uartMode => ⟨.uart, "mode", .scalar, 0, 1, 0, .now, .rw⟩
  | .baud => ⟨.uart, "baud", .scalar, 300, 3000000, 115200, .idleLine, .rw⟩
  | .dataBits => ⟨.uart, "data_bits", .scalar, 7, 8, 8, .idleLine, .rw⟩
  | .parity => ⟨.uart, "parity", .scalar, 0, 2, 0, .idleLine, .rw⟩
  | .stopBits => ⟨.uart, "stop_bits", .scalar, 1, 2, 1, .idleLine, .rw⟩
  | .deadTimeout => ⟨.uart, "dead_timeout_ms", .scalar, 1, 10000, 100, .now, .rw⟩
  | .powerState => ⟨.power, "state", .scalar, 0, 3, 0, .now, .rw⟩
  | .avsEnable => ⟨.power, "avs_enable", .scalar, 0, 1, 1, .now, .rw⟩
  | .slackRaise => ⟨.power, "slack_raise_pct", .scalar, 5, 50, 15, .now, .rw⟩
  | .slackLower => ⟨.power, "slack_lower_pct", .scalar, 15, 90, 35, .now, .rw⟩
  | .lowerWindows => ⟨.power, "lower_windows", .scalar, 8, 1024, 64, .now, .rw⟩
  | .stepMv => ⟨.power, "step_mv", .scalar, 5, 10, 5, .now, .rw⟩
  | .emergencyStep => ⟨.power, "emergency_step_mv", .scalar, 10, 40, 20, .now, .rw⟩
  | .vMin => ⟨.power, "v_min", .scalar, 600, 800, 600, .now, .rw⟩
  | .vMax => ⟨.power, "v_max", .scalar, 600, 800, 800, .now, .rw⟩
  | .gpioDir => ⟨.power, "gpio_dir", .scalar, 0, 65535, 0, .now, .rw⟩
  | .gpioOut => ⟨.power, "gpio_out", .scalar, 0, 65535, 0, .now, .rw⟩
  | .pmbAddr => ⟨.power, "pmb_addr", (.array 8), 0, 119, 0, .now, .rw⟩
  | .sessionIdle => ⟨.security, "session_idle_s", .scalar, 60, 86400, 900, .now, .officer⟩
  | .lockWait => ⟨.security, "lock_wait_ms", .scalar, 100, 10000, 1000, .now, .officer⟩
  | .configCommit => ⟨.security, "config_commit", .scalar, 1, 1, 0, .now, .woOfficer⟩
  | .attEnroll => ⟨.security, "att_enroll", .scalar, 1, 1, 0, .now, .woOfficer⟩
  | .attMinInterval => ⟨.security, "att_min_interval_s", .scalar, 1, 86400, 60, .now, .officer⟩
  | .attDailyMax => ⟨.security, "att_daily_max", .scalar, 1, 4096, 96, .now, .officer⟩
  | .rootPrevDays => ⟨.security, "root_prev_days", .scalar, 1, 365, 30, .now, .officer⟩
  | .fabPrevDays => ⟨.security, "fab_prev_days", .scalar, 1, 365, 30, .now, .officer⟩
  | .rootRetire => ⟨.security, "root_retire", .scalar, 1, 1, 0, .now, .woOfficer⟩
  | .fabKeyRetire => ⟨.security, "fab_key_retire", .scalar, 1, 1, 0, .now, .woOfficer⟩

/-- Every field, in the order of the class tables. -/
def Fld.all : List Fld :=
  List.flatten [[.coupling, .phaseLabel, .xfmrRatio, .bandEdge, .psdMask, .emissionCeiling, .notches, .txGainTrim, .cdacFs, .txEnable, .giDefault,
   .loadMargin, .maxBits, .rateMask, .shortCodeMax, .fdEnable, .nbrRef, .divThresh, .resumeThresh, .trackShift, .retrainInterval,
   .trainRequest, .blankEnable, .blankThresh, .blankGuard, .role, .domainTag, .ferryTag, .nPeriod, .beaconOffset],
   [.joinOpen, .maxStations, .joinSlot, .hiCont, .ttInterval, .stationTimeout, .dormantTimeout, .pairMargin, .keyAgeMax, .stEui,
   .hopPenalty, .linkAgeMax, .maxHops, .relayEnable, .relayDirectMax, .relayWindow, .relayFanout, .smallBufPct, .berthQPct,
   .hostQPct, .ethQPct, .fabQPct, .ctxQMaxKib, .softAgeMax, .scrubHours, .autoRetire, .ueRetire, .ceRetire, .retireClear, .ethMode],
   [.medium, .anEnable, .portEnable, .macAddr, .peerMac, .ethType, .vlanId, .ethMaxFrame, .ethBerths, .hostDefault, .ptpRole,
   .ptpMode, .ptpTransport, .ptpDomain, .ptpLogInterval, .ptpAsym, .esmcEnable, .esmcEnhanced, .fabUplinkBerths, .uplinkAddr,
   .uplinkPort, .advertRefresh, .linkEnable, .retrain, .inEnable, .inPrio, .inDelay, .refQlMode, .refQlFixed, .dpllBw],
   [.timeBw, .revertive, .wtr, .disagreePpb, .driftOff, .driftOn, .timeOff, .phaseSlew, .stepThresh, .hoLimit, .hoMax, .hoFreqUnc,
   .hoAging, .outSquelch, .ppsWidth, .ppsOutDelay, .wiring, .curve, .excCode, .pgaGain, .leadComp, .cjSrc, .ntcA, .ntcB, .ntcC,
   .ntcRMin, .ntcRMax, .probeEnable, .blankSrc, .blankBerths],
   [.blankPre, .blankPost, .preset, .delaySteps, .testMode, .acInput, .dcbShift, .dcbFreeze, .detectWindow, .envShift, .loopEnable,
   .srcChannel, .srcKind, .loValue, .hiValue, .faultDir, .senseMohm, .chkEnable, .chkWidth, .chkPoly, .chkInit, .chkXorout,
   .chkRefin, .chkRefout, .chkSource, .chkSrcIndex, .chkDirection, .chkFramed, .winLo, .winHi],
   [.chkMode, .chkScope, .foldMode, .foldTag, .chkExpect, .chkRestart, .uartMode, .baud, .dataBits, .parity, .stopBits, .deadTimeout,
   .powerState, .avsEnable, .slackRaise, .slackLower, .lowerWindows, .stepMv, .emergencyStep, .vMin, .vMax, .gpioDir, .gpioOut,
   .pmbAddr, .sessionIdle, .lockWait, .configCommit, .attEnroll, .attMinInterval, .attDailyMax],
   [.rootPrevDays, .fabPrevDays, .rootRetire, .fabKeyRetire]]

/-- Where a statistic belongs: a class of R270, class POWER instance 44, or a register window only (the boot and health window). -/
inductive StatHome where
  | berth | domain | relay | store | eth | fabric | clock | sense | filter | loop | check | uart | power | power44 | security | device
  deriving DecidableEq, Repr

/-- A row of a statistics table: home, name, width in bits, elements (0 for a scalar), signed, value after POR_N, sticky bit of R8. -/
structure StatDesc where
  home : StatHome
  name : String
  bits : Nat
  elems : Nat
  signed : Bool
  reset : Int
  hist : Bool
  deriving DecidableEq, Repr

/-- The statistics tables of R23, R49, R53, R85, R120, R141, R178, R198, R234, R238, R279, R306, R326, R352, R365, R374, R382, R408,
R427 and R444 (statistics that follow from other state are computed where they are read). -/
def Stat.desc : Stat → StatDesc
  | .slackLowHist => ⟨.power, "slack_low_hist", 1, 0, false, 0, true⟩
  | .dropHist => ⟨.power, "drop_hist", 1, 0, false, 0, true⟩
  | .faultHist => ⟨.power, "fault_hist", 1, 0, false, 0, true⟩
  | .dropCount => ⟨.power, "drop_count", 16, 0, false, 0, false⟩
  | .slackMin => ⟨.power, "slack_min_pct", 8, 0, false, 255, false⟩
  | .fltWatchdog => ⟨.power, "flt_watchdog", 16, 0, false, 0, false⟩
  | .fltSramUe => ⟨.power, "flt_sram_ue", 16, 0, false, 0, false⟩
  | .fltHandshake => ⟨.power, "flt_handshake", 16, 0, false, 0, false⟩
  | .fltCompletion => ⟨.power, "flt_completion", 16, 0, false, 0, false⟩
  | .avsErrors => ⟨.power44, "avs_errors", 32, 0, false, 0, false⟩
  | .avsFaultHist => ⟨.power44, "avs_fault_hist", 1, 0, false, 0, true⟩
  | .tjC => ⟨.power44, "tj_c", 8, 7, true, (-128), false⟩
  | .pmbStatusLast => ⟨.power44, "pmb_status_last", 16, 0, false, 0, false⟩
  | .pmbAlerts => ⟨.power44, "pmb_alerts", 32, 0, false, 0, false⟩
  | .jtagRefused => ⟨.power44, "jtag_refused", 32, 0, false, 0, false⟩
  | .thermalTrips => ⟨.power44, "thermal_trips", 32, 0, false, 0, false⟩
  | .thermalTripHist => ⟨.power44, "thermal_trip_hist", 1, 0, false, 0, true⟩
  | .gpioIn => ⟨.power44, "gpio_in", 16, 0, false, 0, false⟩
  | .hybridLoss => ⟨.berth, "hybrid_loss_db", 16, 0, false, 0, false⟩
  | .hybridLossGroup => ⟨.berth, "hybrid_loss_group", 8, 0, false, 0, false⟩
  | .powerBackoff => ⟨.berth, "power_backoff_db", 8, 0, false, 0, false⟩
  | .adcClip => ⟨.berth, "adc_clip", 32, 0, false, 0, false⟩
  | .cdacClip => ⟨.berth, "cdac_clip", 32, 0, false, 0, false⟩
  | .drvOcTrips => ⟨.berth, "drv_oc_trips", 16, 0, false, 0, false⟩
  | .drvSupplyDrops => ⟨.berth, "drv_supply_drops", 16, 0, false, 0, false⟩
  | .drvTemp => ⟨.berth, "drv_temp_c", 8, 0, true, (-128), false⟩
  | .drvFaultHist => ⟨.berth, "drv_fault_hist", 1, 0, false, 0, true⟩
  | .drvThermalHist => ⟨.berth, "drv_thermal_hist", 1, 0, false, 0, true⟩
  | .couplerWarnHist => ⟨.berth, "coupler_warn_hist", 1, 0, false, 0, true⟩
  | .capRatio => ⟨.berth, "cap_ratio_milli", 16, 0, false, 0, false⟩
  | .snrGap => ⟨.berth, "snr_gap_db_x10", 16, 0, false, 0, false⟩
  | .meanSnr => ⟨.berth, "mean_snr_db_x10", 16, 0, true, 0, false⟩
  | .cappedCarriers => ⟨.berth, "capped_carriers", 16, 0, false, 0, false⟩
  | .bitsPerSymbol => ⟨.berth, "bits_per_symbol", 16, 0, false, 0, false⟩
  | .codeRate => ⟨.berth, "code_rate", 2, 0, false, 0, false⟩
  | .fcCrcErr => ⟨.berth, "fc_crc_err", 32, 0, false, 0, false⟩
  | .fcInvalid => ⟨.berth, "fc_invalid", 32, 0, false, 0, false⟩
  | .tmUnknown => ⟨.berth, "tm_unknown", 32, 0, false, 0, false⟩
  | .tmInvalid => ⟨.berth, "tm_invalid", 32, 0, false, 0, false⟩
  | .rxAbort => ⟨.berth, "rx_abort", 32, 0, false, 0, false⟩
  | .combineMismatch => ⟨.berth, "combine_mismatch", 32, 0, false, 0, false⟩
  | .cwFail => ⟨.berth, "cw_fail", 32, 0, false, 0, false⟩
  | .rxSymLate => ⟨.berth, "rx_sym_late", 32, 0, false, 0, false⟩
  | .cwLate => ⟨.berth, "cw_late", 32, 0, false, 0, false⟩
  | .txSymLate => ⟨.berth, "tx_sym_late", 32, 0, false, 0, false⟩
  | .allocUnused => ⟨.berth, "alloc_unused", 32, 0, false, 0, false⟩
  | .preFalse => ⟨.berth, "pre_false", 32, 0, false, 0, false⟩
  | .cancelTotal => ⟨.berth, "cancel_total_db_x10", 16, 0, false, 0, false⟩
  | .excess => ⟨.berth, "excess_db_x10", 16, 0, true, 0, false⟩
  | .noiseFloor => ⟨.berth, "noise_floor_dbm_hz_x10", 16, 0, true, 0, false⟩
  | .floorStale => ⟨.berth, "floor_stale", 1, 0, false, 0, false⟩
  | .nbrResid => ⟨.berth, "nbr_resid_db_x10", 16, 3, true, 0, false⟩
  | .nbrConflict => ⟨.berth, "nbr_conflict", 1, 3, false, 0, false⟩
  | .fdGain => ⟨.berth, "fd_gain_milli", 16, 0, false, 0, false⟩
  | .blankedSamples => ⟨.berth, "blanked_samples", 32, 0, false, 0, false⟩
  | .blankEvents => ⟨.berth, "blank_events", 32, 0, false, 0, false⟩
  | .symDeweighted => ⟨.berth, "sym_deweighted", 32, 0, false, 0, false⟩
  | .symErased => ⟨.berth, "sym_erased", 32, 0, false, 0, false⟩
  | .divEvents => ⟨.berth, "div_events", 16, 0, false, 0, false⟩
  | .fastRecoveries => ⟨.berth, "fast_recoveries", 16, 0, false, 0, false⟩
  | .fallbacks => ⟨.berth, "fallbacks", 16, 0, false, 0, false⟩
  | .trainFail => ⟨.berth, "train_fail", 16, 0, false, 0, false⟩
  | .divHist => ⟨.berth, "div_hist", 1, 0, false, 0, true⟩
  | .fallbackHist => ⟨.berth, "fallback_hist", 1, 0, false, 0, true⟩
  | .nbrConflictHist => ⟨.berth, "nbr_conflict_hist", 1, 0, false, 0, true⟩
  | .ucRelease => ⟨.berth, "uc_release", 16, 0, false, 0, false⟩
  | .swaps => ⟨.berth, "swaps", 32, 0, false, 0, false⟩
  | .swapFail => ⟨.berth, "swap_fail", 32, 0, false, 0, false⟩
  | .beaconsSent => ⟨.domain, "beacons_sent", 32, 0, false, 0, false⟩
  | .beaconsMissed => ⟨.domain, "beacons_missed", 32, 0, false, 0, false⟩
  | .bcnInvalid => ⟨.domain, "bcn_invalid", 32, 0, false, 0, false⟩
  | .joinOk => ⟨.domain, "join_ok", 32, 0, false, 0, false⟩
  | .joinFail => ⟨.domain, "join_fail", 32, 0, false, 0, false⟩
  | .joinLockout => ⟨.domain, "join_lockout", 32, 0, false, 0, false⟩
  | .rxDup => ⟨.domain, "rx_dup", 32, 0, false, 0, false⟩
  | .rxReplay => ⟨.domain, "rx_replay", 32, 0, false, 0, false⟩
  | .rxAuthFail => ⟨.domain, "rx_auth_fail", 32, 0, false, 0, false⟩
  | .keyGenUnknown => ⟨.domain, "key_gen_unknown", 32, 0, false, 0, false⟩
  | .clashHist => ⟨.domain, "clash_hist", 1, 0, false, 0, true⟩
  | .coordLostHist => ⟨.domain, "coord_lost_hist", 1, 0, false, 0, true⟩
  | .meshFwd => ⟨.relay, "mesh_fwd", 32, 0, false, 0, false⟩
  | .meshInvalid => ⟨.relay, "mesh_invalid", 32, 0, false, 0, false⟩
  | .meshTtlDrop => ⟨.relay, "mesh_ttl_drop", 32, 0, false, 0, false⟩
  | .meshRankDrop => ⟨.relay, "mesh_rank_drop", 32, 0, false, 0, false⟩
  | .relayLate => ⟨.relay, "relay_late", 32, 0, false, 0, false⟩
  | .relayOverflow => ⟨.relay, "relay_overflow", 32, 0, false, 0, false⟩
  | .routeStale => ⟨.relay, "route_stale", 32, 0, false, 0, false⟩
  | .routeMiss => ⟨.relay, "route_miss", 32, 0, false, 0, false⟩
  | .routeLoop => ⟨.relay, "route_loop", 32, 0, false, 0, false⟩
  | .recomputes => ⟨.relay, "recomputes", 32, 0, false, 0, false⟩
  | .relayedStations => ⟨.relay, "relayed_stations", 16, 0, false, 0, false⟩
  | .maxRank => ⟨.relay, "max_rank", 16, 0, false, 0, false⟩
  | .routeLoopHist => ⟨.relay, "route_loop_hist", 1, 0, false, 0, true⟩
  | .eccCe => ⟨.store, "ecc_ce", 32, 16, false, 0, false⟩
  | .eccUe => ⟨.store, "ecc_ue", 32, 16, false, 0, false⟩
  | .mirrorRepair => ⟨.store, "mirror_repair", 32, 16, false, 0, false⟩
  | .crcErr => ⟨.store, "crc_err", 32, 16, false, 0, false⟩
  | .frameDropEcc => ⟨.store, "frame_drop_ecc", 32, 16, false, 0, false⟩
  | .framesLost => ⟨.store, "frames_lost", 32, 16, false, 0, false⟩
  | .classUtil => ⟨.store, "class_util_pct", 8, 80, false, 0, false⟩
  | .dramTemp => ⟨.store, "dram_temp_c", 8, 16, true, 0, false⟩
  | .qDropTail => ⟨.store, "q_drop_tail", 32, 4, false, 0, false⟩
  | .qDropOldest => ⟨.store, "q_drop_oldest", 32, 4, false, 0, false⟩
  | .qDropNobuf => ⟨.store, "q_drop_nobuf", 32, 4, false, 0, false⟩
  | .softEvict => ⟨.store, "soft_evict", 32, 0, false, 0, false⟩
  | .softFetchLate => ⟨.store, "soft_fetch_late", 32, 0, false, 0, false⟩
  | .softNoSlot => ⟨.store, "soft_no_slot", 32, 0, false, 0, false⟩
  | .softStored => ⟨.store, "soft_stored", 32, 0, false, 0, false⟩
  | .softCombined => ⟨.store, "soft_combined", 32, 0, false, 0, false⟩
  | .cacheHit => ⟨.store, "cache_hit", 32, 0, false, 0, false⟩
  | .cacheMiss => ⟨.store, "cache_miss", 32, 0, false, 0, false⟩
  | .routeFull => ⟨.store, "route_full", 32, 0, false, 0, false⟩
  | .mirrorSingle => ⟨.store, "mirror_single", 32, 0, false, 0, false⟩
  | .captureGaps => ⟨.store, "capture_gaps", 32, 0, false, 0, false⟩
  | .captureSat => ⟨.store, "capture_sat", 32, 0, false, 0, false⟩
  | .eccUeHist => ⟨.store, "ecc_ue_hist", 1, 0, false, 0, true⟩
  | .retiredHist => ⟨.store, "retired_hist", 1, 0, false, 0, true⟩
  | .fecCorrected => ⟨.eth, "fec_corrected", 32, 0, false, 0, false⟩
  | .fecUncorrectable => ⟨.eth, "fec_uncorrectable", 32, 0, false, 0, false⟩
  | .rxFcsErr => ⟨.eth, "rx_fcs_err", 32, 0, false, 0, false⟩
  | .rxRunt => ⟨.eth, "rx_runt", 32, 0, false, 0, false⟩
  | .rxOversize => ⟨.eth, "rx_oversize", 32, 0, false, 0, false⟩
  | .rxUnmatched => ⟨.eth, "rx_unmatched", 32, 0, false, 0, false⟩
  | .rxPause => ⟨.eth, "rx_pause", 32, 0, false, 0, false⟩
  | .rxVlanDrop => ⟨.eth, "rx_vlan_drop", 32, 0, false, 0, false⟩
  | .rxBhInvalid => ⟨.eth, "rx_bh_invalid", 32, 0, false, 0, false⟩
  | .txTooLong => ⟨.eth, "tx_too_long", 32, 0, false, 0, false⟩
  | .ptpForeign => ⟨.eth, "ptp_foreign", 32, 0, false, 0, false⟩
  | .esmcInvalid => ⟨.eth, "esmc_invalid", 32, 0, false, 0, false⟩
  | .linkDownHist => ⟨.eth, "link_down_hist", 1, 0, false, 0, true⟩
  | .cwCorrected => ⟨.fabric, "cw_corrected", 32, 0, false, 0, false⟩
  | .cwUncorrectable => ⟨.fabric, "cw_uncorrectable", 32, 0, false, 0, false⟩
  | .replays => ⟨.fabric, "replays", 32, 0, false, 0, false⟩
  | .retrains => ⟨.fabric, "retrains", 32, 0, false, 0, false⟩
  | .laneFailovers => ⟨.fabric, "lane_failovers", 32, 0, false, 0, false⟩
  | .inflightLost => ⟨.fabric, "inflight_lost", 32, 0, false, 0, false⟩
  | .pktAuthFail => ⟨.fabric, "pkt_auth_fail", 32, 0, false, 0, false⟩
  | .pktInvalid => ⟨.fabric, "pkt_invalid", 32, 0, false, 0, false⟩
  | .ttlDrop => ⟨.fabric, "ttl_drop", 32, 0, false, 0, false⟩
  | .unreachable => ⟨.fabric, "unreachable", 32, 0, false, 0, false⟩
  | .linkFailHist => ⟨.fabric, "link_fail_hist", 1, 0, false, 0, true⟩
  | .refSwitches => ⟨.clock, "ref_switches", 32, 0, false, 0, false⟩
  | .holdoverEntries => ⟨.clock, "holdover_entries", 32, 0, false, 0, false⟩
  | .todInvalid => ⟨.clock, "tod_invalid", 32, 0, false, 0, false⟩
  | .todMismatch => ⟨.clock, "tod_mismatch", 32, 0, false, 0, false⟩
  | .qlInvalid => ⟨.clock, "ql_invalid", 32, 0, false, 0, false⟩
  | .inLost => ⟨.clock, "in_lost", 32, 16, false, 0, false⟩
  | .clkStateHist => ⟨.clock, "state_hist", 1, 0, false, 0, true⟩
  | .clkSwitchHist => ⟨.clock, "switch_hist", 1, 0, false, 0, true⟩
  | .clkSlipHist => ⟨.clock, "slip_hist", 1, 0, false, 0, true⟩
  | .clkDriftHist => ⟨.clock, "drift_hist", 1, 0, false, 0, true⟩
  | .clkDisagreeHist => ⟨.clock, "disagree_hist", 1, 0, false, 0, true⟩
  | .clkHoldoverHist => ⟨.clock, "holdover_hist", 1, 0, false, 0, true⟩
  | .clkLimitHist => ⟨.clock, "limit_hist", 1, 0, false, 0, true⟩
  | .wireBreaks => ⟨.sense, "wire_breaks", 32, 0, false, 0, false⟩
  | .probeFails => ⟨.sense, "probe_fails", 32, 0, false, 0, false⟩
  | .blankedOutputs => ⟨.sense, "blanked_outputs", 32, 0, false, 0, false⟩
  | .wireBreakHist => ⟨.sense, "wire_break_hist", 1, 0, false, 0, true⟩
  | .loopUa => ⟨.loop, "loop_ua", 16, 0, false, 0, false⟩
  | .faultEntries => ⟨.loop, "fault_entries", 32, 0, false, 0, false⟩
  | .loopFaultHist => ⟨.loop, "loop_fault_hist", 1, 0, false, 0, true⟩
  | .resets => ⟨.filter, "resets", 32, 0, false, 0, false⟩
  | .outputsInvalid => ⟨.filter, "outputs_invalid", 32, 0, false, 0, false⟩
  | .outputsLate => ⟨.filter, "outputs_late", 32, 0, false, 0, false⟩
  | .dcbHist => ⟨.filter, "dcb_hist", 1, 0, false, 0, true⟩
  | .chkItems => ⟨.check, "items", 32, 0, false, 0, false⟩
  | .chkMismatches => ⟨.check, "mismatches", 32, 0, false, 0, false⟩
  | .chkSkipped => ⟨.check, "skipped", 32, 0, false, 0, false⟩
  | .chkAbandoned => ⟨.check, "abandoned", 32, 0, false, 0, false⟩
  | .chkMismatchHist => ⟨.check, "mismatch_hist", 1, 0, false, 0, true⟩
  | .chkSkipHist => ⟨.check, "skip_hist", 1, 0, false, 0, true⟩
  | .rxChars => ⟨.uart, "rx_chars", 32, 0, false, 0, false⟩
  | .txChars => ⟨.uart, "tx_chars", 32, 0, false, 0, false⟩
  | .startGlitch => ⟨.uart, "start_glitch", 32, 0, false, 0, false⟩
  | .feCount => ⟨.uart, "fe_count", 32, 0, false, 0, false⟩
  | .peCount => ⟨.uart, "pe_count", 32, 0, false, 0, false⟩
  | .overrun => ⟨.uart, "overrun", 32, 0, false, 0, false⟩
  | .txOverflow => ⟨.uart, "tx_overflow", 32, 0, false, 0, false⟩
  | .lineDeadEvents => ⟨.uart, "line_dead_events", 32, 0, false, 0, false⟩
  | .lineDeadHist => ⟨.uart, "line_dead_hist", 1, 0, false, 0, true⟩
  | .uartErrHist => ⟨.uart, "err_hist", 1, 0, false, 0, true⟩
  | .sessionFail => ⟨.security, "session_fail", 32, 0, false, 0, false⟩
  | .sessionLockout => ⟨.security, "session_lockout", 32, 0, false, 0, false⟩
  | .cmdRangeErrors => ⟨.security, "cmd_range_errors", 32, 0, false, 0, false⟩
  | .cmdDenied => ⟨.security, "cmd_denied", 32, 0, false, 0, false⟩
  | .lockTimeouts => ⟨.security, "lock_timeouts", 32, 0, false, 0, false⟩
  | .cmdTagFail => ⟨.security, "cmd_tag_fail", 32, 0, false, 0, false⟩
  | .uartCmdCrc => ⟨.security, "uart_cmd_crc", 32, 0, false, 0, false⟩
  | .uartCmdLong => ⟨.security, "uart_cmd_long", 32, 0, false, 0, false⟩
  | .uartCmdTimeout => ⟨.security, "uart_cmd_timeout", 32, 0, false, 0, false⟩
  | .rngFail => ⟨.security, "rng_fail", 32, 0, false, 0, false⟩
  | .imgVerifyFail => ⟨.security, "img_verify_fail", 32, 0, false, 0, false⟩
  | .cfgInvalid => ⟨.security, "cfg_invalid", 32, 0, false, 0, false⟩
  | .rollMemberFail => ⟨.security, "roll_member_fail", 32, 0, false, 0, false⟩
  | .rollMembersLeft => ⟨.security, "roll_members_left", 10, 0, false, 0, false⟩
  | .fabPrevUsed => ⟨.security, "fab_prev_used", 1, 0, false, 0, true⟩
  | .alarmHist => ⟨.device, "alarm_hist", 1, 0, false, 0, true⟩
  | .hostLossHist => ⟨.device, "host_loss_hist", 1, 0, false, 0, true⟩
  | .qpErrorHist => ⟨.device, "qp_error_hist", 1, 0, false, 0, true⟩
  | .evOverflowHist => ⟨.device, "ev_overflow_hist", 1, 0, false, 0, true⟩
  | .dieLostHist => ⟨.device, "die_lost_hist", 1, 0, false, 0, true⟩
  | .dbInvalid => ⟨.device, "db_invalid", 32, 0, false, 0, false⟩
  | .dbDropped => ⟨.device, "db_dropped", 32, 0, false, 0, false⟩
  | .fetchErr => ⟨.device, "fetch_err", 32, 0, false, 0, false⟩
  | .txDiscarded => ⟨.device, "tx_discarded", 32, 0, false, 0, false⟩
  | .evOverflow => ⟨.device, "ev_overflow", 32, 0, false, 0, false⟩
  | .rxUnsteered => ⟨.device, "rx_unsteered", 32, 0, false, 0, false⟩
  | .removeHist => ⟨.device, "remove_hist", 1, 0, false, 0, true⟩

/-- Every statistic. -/
def Stat.all : List Stat :=
  List.flatten [[.slackLowHist, .dropHist, .faultHist, .dropCount, .slackMin, .fltWatchdog, .fltSramUe, .fltHandshake, .fltCompletion, .avsErrors,
   .avsFaultHist, .tjC, .pmbStatusLast, .pmbAlerts, .jtagRefused, .thermalTrips, .thermalTripHist, .gpioIn, .hybridLoss,
   .hybridLossGroup, .powerBackoff, .adcClip, .cdacClip, .drvOcTrips, .drvSupplyDrops, .drvTemp, .drvFaultHist, .drvThermalHist,
   .couplerWarnHist, .capRatio],
   [.snrGap, .meanSnr, .cappedCarriers, .bitsPerSymbol, .codeRate, .fcCrcErr, .fcInvalid, .tmUnknown, .tmInvalid, .rxAbort,
   .combineMismatch, .cwFail, .rxSymLate, .cwLate, .txSymLate, .allocUnused, .preFalse, .cancelTotal, .excess, .noiseFloor,
   .floorStale, .nbrResid, .nbrConflict, .fdGain, .blankedSamples, .blankEvents, .symDeweighted, .symErased, .divEvents,
   .fastRecoveries],
   [.fallbacks, .trainFail, .divHist, .fallbackHist, .nbrConflictHist, .ucRelease, .swaps, .swapFail, .beaconsSent, .beaconsMissed,
   .bcnInvalid, .joinOk, .joinFail, .joinLockout, .rxDup, .rxReplay, .rxAuthFail, .keyGenUnknown, .clashHist, .coordLostHist,
   .meshFwd, .meshInvalid, .meshTtlDrop, .meshRankDrop, .relayLate, .relayOverflow, .routeStale, .routeMiss, .routeLoop, .recomputes],
   [.relayedStations, .maxRank, .routeLoopHist, .eccCe, .eccUe, .mirrorRepair, .crcErr, .frameDropEcc, .framesLost, .classUtil,
   .dramTemp, .qDropTail, .qDropOldest, .qDropNobuf, .softEvict, .softFetchLate, .softNoSlot, .softStored, .softCombined, .cacheHit,
   .cacheMiss, .routeFull, .mirrorSingle, .captureGaps, .captureSat, .eccUeHist, .retiredHist, .fecCorrected, .fecUncorrectable,
   .rxFcsErr],
   [.rxRunt, .rxOversize, .rxUnmatched, .rxPause, .rxVlanDrop, .rxBhInvalid, .txTooLong, .ptpForeign, .esmcInvalid, .linkDownHist,
   .cwCorrected, .cwUncorrectable, .replays, .retrains, .laneFailovers, .inflightLost, .pktAuthFail, .pktInvalid, .ttlDrop,
   .unreachable, .linkFailHist, .refSwitches, .holdoverEntries, .todInvalid, .todMismatch, .qlInvalid, .inLost, .clkStateHist,
   .clkSwitchHist, .clkSlipHist],
   [.clkDriftHist, .clkDisagreeHist, .clkHoldoverHist, .clkLimitHist, .wireBreaks, .probeFails, .blankedOutputs, .wireBreakHist,
   .loopUa, .faultEntries, .loopFaultHist, .resets, .outputsInvalid, .outputsLate, .dcbHist, .chkItems, .chkMismatches, .chkSkipped,
   .chkAbandoned, .chkMismatchHist, .chkSkipHist, .rxChars, .txChars, .startGlitch, .feCount, .peCount, .overrun, .txOverflow,
   .lineDeadEvents, .lineDeadHist],
   [.uartErrHist, .sessionFail, .sessionLockout, .cmdRangeErrors, .cmdDenied, .lockTimeouts, .cmdTagFail, .uartCmdCrc, .uartCmdLong,
   .uartCmdTimeout, .rngFail, .imgVerifyFail, .cfgInvalid, .rollMemberFail, .rollMembersLeft, .fabPrevUsed, .alarmHist,
   .hostLossHist, .qpErrorHist, .evOverflowHist, .dieLostHist, .dbInvalid, .dbDropped, .fetchErr, .txDiscarded, .evOverflow,
   .rxUnsteered, .removeHist]]

/-- Code, alarm mark and source class of an event (R277, R456). -/
structure EvDesc where
  code : Nat
  alarm : Bool
  cls : Cls
  deriving DecidableEq, Repr

/-- The event catalogue of R277 with the classes of R456. -/
def Ev.desc : Ev → EvDesc
  | .clusterFault => ⟨0x0101, true, .power⟩
  | .dieLost => ⟨0x0102, true, .power⟩
  | .slipwayTimeout => ⟨0x0103, false, .power⟩
  | .avsLimit => ⟨0x0104, false, .power⟩
  | .avsFault => ⟨0x0105, true, .power⟩
  | .driverOc => ⟨0x0201, false, .berth⟩
  | .driverFault => ⟨0x0202, true, .berth⟩
  | .drvSupply => ⟨0x0203, false, .power⟩
  | .driverHot => ⟨0x0204, false, .berth⟩
  | .couplerWarn => ⟨0x0205, false, .berth⟩
  | .cdacRange => ⟨0x0206, false, .berth⟩
  | .cancelTrainFail => ⟨0x0301, false, .berth⟩
  | .cancelDiverged => ⟨0x0302, false, .berth⟩
  | .cancelFallback => ⟨0x0303, false, .berth⟩
  | .nbrConflict => ⟨0x0304, false, .berth⟩
  | .domainClash => ⟨0x0401, false, .domain⟩
  | .coordLost => ⟨0x0402, false, .domain⟩
  | .joinLockout => ⟨0x0403, false, .domain⟩
  | .stationLimit => ⟨0x0404, false, .domain⟩
  | .keyAge => ⟨0x0405, false, .domain⟩
  | .ctxConflict => ⟨0x0406, false, .context⟩
  | .bpcWrap => ⟨0x0407, false, .domain⟩
  | .routeLoop => ⟨0x0501, false, .route⟩
  | .routeFull => ⟨0x0502, false, .route⟩
  | .storeHot => ⟨0x0601, false, .store⟩
  | .storeEcc => ⟨0x0602, false, .store⟩
  | .storeCrc => ⟨0x0603, false, .store⟩
  | .ctxLost => ⟨0x0604, true, .context⟩
  | .captureDone => ⟨0x0605, false, .store⟩
  | .storeRetired => ⟨0x0606, false, .store⟩
  | .mirrorLost => ⟨0x0607, true, .store⟩
  | .storeDegraded => ⟨0x0608, true, .store⟩
  | .hostLost => ⟨0x0701, false, .power⟩
  | .hostReturn => ⟨0x0702, false, .power⟩
  | .sessionLockout => ⟨0x0801, true, .security⟩
  | .ethLink => ⟨0x0901, false, .eth⟩
  | .fabricLink => ⟨0x0902, false, .fabric⟩
  | .laneFailover => ⟨0x0903, false, .fabric⟩
  | .mixedRelease => ⟨0x0904, false, .fabric⟩
  | .refSwitch => ⟨0x0A01, false, .clock⟩
  | .refDisagree => ⟨0x0A02, true, .clock⟩
  | .refDrift => ⟨0x0A03, false, .clock⟩
  | .holdover => ⟨0x0A04, false, .clock⟩
  | .holdoverLimit => ⟨0x0A05, true, .clock⟩
  | .wireBreak => ⟨0x0B01, true, .sense⟩
  | .loopFault => ⟨0x0B02, true, .loop⟩
  | .senseSettling => ⟨0x0B03, false, .filter⟩
  | .checkMismatch => ⟨0x0C01, false, .check⟩
  | .lineDead => ⟨0x0C02, false, .uart⟩
  | .fwStaged => ⟨0x0D01, false, .security⟩
  | .rollbackRefused => ⟨0x0D02, true, .security⟩
  | .attestEpoch => ⟨0x0D03, false, .security⟩
  | .attestExhausted => ⟨0x0D04, true, .security⟩
  | .berthSwapped => ⟨0x0E01, false, .berth⟩
  | .inserted => ⟨0x0E02, false, .power⟩

/-- Status codes (R250). -/
def Status.code : Status → Nat
  | .ok => 0 | .busy => 1 | .denied => 2 | .invalid => 3 | .range => 4 | .timeout => 5 | .stale => 6 | .notReady => 7 | .fault => 8

/-- Role codes (R261). -/
def Role.code : Role → Nat
  | .observer => 0 | .operator => 1 | .officer => 2

def Role.ofCode : Nat → Option Role
  | 0 => some .observer | 1 => some .operator | 2 => some .officer | _ => none

/-- Class codes (R270). -/
def Cls.code : Cls → Nat
  | .berth => 0 | .domain => 1 | .context => 2 | .route => 3 | .relay => 4 | .store => 5 | .eth => 6 | .fabric => 7 | .clock => 8
  | .sense => 9 | .filter => 10 | .loop => 11 | .check => 12 | .uart => 13 | .power => 14 | .security => 15

def Cls.ofCode : Nat → Cls
  | 0 => .berth | 1 => .domain | 2 => .context | 3 => .route | 4 => .relay | 5 => .store | 6 => .eth | 7 => .fabric | 8 => .clock
  | 9 => .sense | 10 => .filter | 11 => .loop | 12 => .check | 13 => .uart | 14 => .power | _ => .security

/-- Instances a class has (R270); class ROUTE takes any EUI-64. -/
def Cls.instances : Cls → Nat
  | .berth => 32 | .domain => 32 | .context => 262144 | .route => 2 ^ 64 | .relay => 32 | .store => 1 | .eth => 4 | .fabric => 7
  | .clock => 1 | .sense => 16 | .filter => 16 | .loop => 4 | .check => 8 | .uart => 2 | .power => 45 | .security => 1

/-- Power-domain state codes (R29). -/
def DomSt.code : DomSt → Nat
  | .off => 0 | .ramp => 1 | .init => 2 | .on => 3 | .draining => 4 | .fault => 5

/-- Region codes of REGION_DRAIN (R274). -/
def Region.ofCode : Nat → Option Region
  | 0 => some .bg0 | 1 => some .bg1 | 2 => some .bg2 | 3 => some .bg3 | 4 => some .store | 5 => some .switch | 6 => some .link
  | 7 => some .mgmt | 8 => some .sec | _ => none

def Region.code : Region → Nat
  | .bg0 => 0 | .bg1 => 1 | .bg2 => 2 | .bg3 => 3 | .store => 4 | .switch => 5 | .link => 6 | .mgmt => 7 | .sec => 8

/-- The region index of a region. -/
def Region.idx (r : Region) : Fin 9 :=
  match r with
  | .bg0 => 0 | .bg1 => 1 | .bg2 => 2 | .bg3 => 3 | .store => 4 | .switch => 5 | .link => 6 | .mgmt => 7 | .sec => 8

/-- Instances on which a field stands: R305 puts eth_mode on port 0 and the fabric fields on instance 0 or 1 to 6; class POWER holds state
on instances 0 to 43 and the other fields on instance 44 (R454, R50, R444); R270 elsewhere. -/
def Fld.onInst (f : Fld) (i : Nat) : Bool :=
  match f with
  | .ethMode | .fabUplinkBerths | .uplinkAddr | .uplinkPort | .advertRefresh => i == 0
  | .linkEnable | .retrain => decide (1 ≤ i ∧ i ≤ 6)
  | .powerState => decide (i < 44)
  | .avsEnable | .slackRaise | .slackLower | .lowerWindows | .stepMv | .emergencyStep | .vMin | .vMax | .gpioDir | .gpioOut | .pmbAddr =>
    i == 44
  | _ => decide (i < f.desc.cls.instances)

/-- Bytes a value takes: the smallest of 1, 2, 4 and 8 that holds the range, two's complement when signed (R271). -/
def bytesFor (lo hi : Int) : Nat :=
  if lo < 0 then
    if -128 ≤ lo ∧ hi ≤ 127 then 1 else if -32768 ≤ lo ∧ hi ≤ 32767 then 2 else if -2147483648 ≤ lo ∧ hi ≤ 2147483647 then 4 else 8
  else if hi < 256 then 1 else if hi < 65536 then 2 else if hi < 4294967296 then 4 else 8

def FldDesc.width (d : FldDesc) : Nat := bytesFor d.lo d.hi

/-- Bytes a statistic of w bits takes in a field list (R271). -/
def bytesOfWidth (w : Nat) : Nat := if w ≤ 8 then 1 else if w ≤ 16 then 2 else if w ≤ 32 then 4 else if w ≤ 64 then 8 else (w + 7) / 8

/-- The default of a field on an instance: the Default column. -/
def Fld.dflt (f : Fld) (i : Nat) : List Int :=
  match f with
  | .domainTag => [256 + (i : Int)]
  | .macAddr => [(Config.macBase.toNat : Int) + i]
  | .srcChannel => [(i : Int)]
  | .pmbAddr => 0x40 :: List.replicate 7 0
  | _ =>
    match f.desc.shape with
    | .scalar => [f.desc.dflt]
    | .array n => List.replicate n f.desc.dflt
    | .pairs _ => []

/-- Conditions on one element's value beyond the outer range: reserved codes, steps, lists of values (R78, R85, R177, R305, R350, R50,
R444, R454, R140). -/
def Fld.allowed (f : Fld) (v : Int) : Bool :=
  match f with
  | .psdMask | .emissionCeiling => decide (v ≤ 55 ∨ v = 255)
  | .xfmrRatio => decide (v % 5 = 0)
  | .retrainInterval => decide (v = 0 ∨ 16 ≤ v)
  | .ethType => decide (v ≠ 0x8808 ∧ v ≠ 0x8809 ∧ v ≠ 0x88F7)
  | .macAddr => decide (v / 2 ^ 40 % 2 = 0)
  | .curve => decide (v ≤ 4 ∨ (10 ≤ v ∧ v ≤ 17) ∨ v = 20 ∨ v = 30)
  | .pgaGain => decide (v ≤ 7 ∨ v = 255)
  | .stepMv => decide (v = 5 ∨ v = 10)
  | .emergencyStep => decide (v % 5 = 0)
  | .pmbAddr => decide (v = 0 ∨ 8 ≤ v)
  | .powerState => decide (v = 0 ∨ v = 3)
  | _ => true

/-- Whether one element lies in its field's range. -/
def Fld.elemOk (f : Fld) (v : Int) : Bool := inRange f.desc.lo f.desc.hi v && f.allowed v

/-- The field of a class by its lower_snake name (R271). -/
def Fld.ofName (c : Cls) (i : Nat) (nm : Bytes) : Option Fld :=
  Fld.all.find? fun f => f.desc.cls == c && f.onInst i && ascii f.desc.name == nm

end Sys2Proof
end

