-- ==== Sys2Proof/Machine/State.lean ====
section
/-! DEFINITION. The state of the block as plain data: every piece of state the spec gives it, each field with the rule that names it and its
value after POR_N, then the queue of waiting commands and State.reset. -/

namespace Sys2Proof.Machine
open Sys2Proof

/-! ## Outcomes -/

/-- Why the block stops with a fault. The spec stops the block for nothing: every error is a status, a counter, an event or a state. -/
inductive Fault where
  /-- Raised by no meaning; the type must have a member to be compared. Safe. -/
  | none
  deriving DecidableEq, Repr

/-- Why a command is refused. -/
inductive Refusal where
  /-- The command has no meaning in this model yet; raised by the dispatcher alone, by the row's mnemonic. Safe: it stops. -/
  | notModelled (mnemonic : String)
  deriving DecidableEq, Repr

/-! ## Levels, power domains, dies (02, 03) -/

/-- A power domain and its cluster (R26 to R29, R48, R49). The sticky bits and counters of R23 and R49 stand among the statistics. -/
structure Dom where
  /-- State (R29); OFF at reset, PD_SEC is switched by its supply (R31). -/
  st : DomSt := .off
  /-- slack_pct, 8 bits (R49); reset 0xFF. -/
  slackPct : Nat := 255
  /-- slack_low (R49); reset 0. -/
  slackLow : Bool := false
  /-- Least margin of the deadlines of the open slack window (R48); none yet. -/
  windowMin : Option Nat := none
  /-- ON since the open slack window began (R51). -/
  onWhole : Bool := false
  /-- Watchdog faults of the present grid period (R27). -/
  wdPeriod : Nat := 0
  /-- Periods dropped in a row (R27). -/
  dropRow : Nat := 0
  /-- An ON request that waits for one of the four berth ramps (R32). -/
  rampQueued : Bool := false
  /-- A bring-up of the device's own that waits for the requests before it (R455). -/
  wantOn : Bool := false
  /-- FAULT held for a lost die (R38, R422). -/
  byDie : Bool := false
  /-- An OFF request that waits for the bring-up in progress to end (R454 row 12). -/
  offAfterInit : Bool := false
  deriving DecidableEq, Repr

/-- A die-to-die link (R37, R38, R422). -/
structure DieLink where
  /-- Replays of the flit in flight, 0 to 4 (R37); reset 0. -/
  replays : Nat := 0
  /-- Retraining (R37); reset 0. -/
  retraining : Bool := false
  /-- Failed retrains in a row (R37); reset 0. -/
  fails : Nat := 0
  /-- Declared lost (R37, R38); reset 0. -/
  lost : Bool := false
  /-- Instant from which a lost link has carried traffic without a retrain (R422); none. -/
  cleanSince : Option Nat := none
  deriving DecidableEq, Repr

/-- The AVS loop (R51 to R53). -/
structure Avs where
  /-- Present value in mV, the last voltage a readback confirmed (R51); 750 (R53). -/
  present : Nat := 750
  /-- Request in flight: target in mV and whether its retry is used (R53); none. -/
  request : Option (Nat × Bool) := none
  /-- Lowering count (R51); 0. -/
  lower : Nat := 0
  /-- An emergency request was made in this window (R52); 0. -/
  emergency : Bool := false
  deriving DecidableEq, Repr

/-! ## Host interface (10) -/

/-- Queue-pair states (R240). -/
inductive QpSt where
  | disabled | active | error | lost
  deriving DecidableEq, Repr

/-- A posted receive buffer (R247). -/
structure RxBuf where
  tag : BitVec 16
  len : Nat
  addr : BitVec 64
  deriving DecidableEq, Repr

/-- A queue pair (R240 to R251). -/
structure Qp where
  /-- sq_base, 64 bits (R240); reset 0. -/
  sqBase : BitVec 64 := 0
  /-- cq_base, 64 bits (R240); reset 0. -/
  cqBase : BitVec 64 := 0
  /-- Lower half of sq_base written and waiting for the upper half (R11); reset 0. -/
  sqLo : BitVec 32 := 0
  /-- Lower half of cq_base written and waiting for the upper half (R11); reset 0. -/
  cqLo : BitVec 32 := 0
  /-- enable (R240); reset 0. -/
  enable : Bool := false
  /-- ring_log2, 5 bits (R240); reset 6. -/
  ringLog2 : BitVec 5 := 6
  /-- vector, 9 bits (R240); reset 0. -/
  vector : BitVec 9 := 0
  /-- irq_enable (R240); reset 0. -/
  irqEnable : Bool := false
  /-- rx_select, 3 bits (R240); reset 0. -/
  rxSelect : BitVec 3 := 0
  /-- rx_index, 8 bits (R240); reset 0. -/
  rxIndex : BitVec 8 := 0
  /-- holdoff_us, 16 bits (R240); reset 0. -/
  holdoff : BitVec 16 := 0
  /-- irq_count, 12 bits (R240); reset 1. -/
  irqCount : BitVec 12 := 1
  /-- qp_state (R240); reset DISABLED. -/
  st : QpSt := .disabled
  /-- err_code, 4 bits (R240); reset 0. -/
  errCode : Nat := 0
  /-- err_hist, W1C (R240); reset 0. -/
  errHist : Bool := false
  /-- rx_drop_hist, W1C (R240); reset 0. -/
  rxDropHist : Bool := false
  /-- sq_head, 16 bits (R240); reset 0. -/
  sqHead : Nat := 0
  /-- SQ tail as last written by a doorbell (R242); reset 0. -/
  sqTail : Nat := 0
  /-- cq_tail, 16 bits (R240); reset 0. -/
  cqTail : Nat := 0
  /-- CQ head as last written by a doorbell (R242); reset 0. -/
  cqHead : Nat := 0
  /-- cq_phase (R240); reset 1. -/
  cqPhase : Bool := true
  /-- Fetched TX_FRAME, NOP and COMMAND entries without a completion, oldest first (R243, R244); empty. -/
  fetched : List Bytes := []
  /-- Fetched RX_BUF entries not yet posted (R247); empty. -/
  rxFetched : List Bytes := []
  /-- Posted receive buffers in posting order (R248); empty. -/
  bufs : List RxBuf := []
  /-- Completions since the last message of the CQ (R251); reset 0. -/
  modCount : Nat := 0
  /-- Instant of the first of them (R251); none. -/
  modSince : Option Nat := none
  deriving DecidableEq, Repr

/-- An MSI-X table entry with its pending bit (R254; the masked state after reset is PCIe's). -/
structure Msix where
  addr : BitVec 64 := 0
  data : BitVec 32 := 0
  mask : Bool := true
  pend : Bool := false
  deriving DecidableEq, Repr

/-- An event held for QP1 (R252, R276). -/
structure Evt where
  seq : BitVec 16
  code : Nat
  arg : Nat
  deriving DecidableEq, Repr

/-- The PCIe function, interrupts and host loss (R235 to R257). -/
structure HostIf where
  /-- Host lost (R255): the link is not up yet after POR_N. -/
  lost : Bool := true
  /-- PCIe link training is under way or done (R410); reset 0. -/
  training : Bool := false
  /-- PCIe data link layer active (R255); reset 0. -/
  linkUp : Bool := false
  /-- D3hot (R235); reset 0, D0. -/
  d3 : Bool := false
  /-- MSI-X Enable of configuration space (R254); reset 0. -/
  msixEnable : Bool := false
  /-- Bus Master Enable (R254); reset 0. -/
  busMaster : Bool := false
  /-- MSI-X Function Mask (R254); reset 0. -/
  funcMask : Bool := false
  /-- Consecutive DMA reads ended by completion timeout (R255); reset 0. -/
  dmaTimeouts : Nat := 0
  /-- loss_cause, 3 bits (R238); reset 0. -/
  lossCause : Nat := 0
  /-- host_epoch, 16 bits (R238); reset 0. -/
  epoch : BitVec 16 := 0
  /-- host_wdog_ms, 16 bits (R238); reset 0. -/
  wdogMs : Nat := 0
  /-- host_heartbeat, 32 bits (R238); reset 0. -/
  heartbeat : BitVec 32 := 0
  /-- Instant from which the host watchdog counts (R255); reset 0. -/
  heartbeatAt : Nat := 0
  /-- int_cause, 8 bits, W1C (R253); reset 0. -/
  intCause : BitVec 8 := 0
  /-- int_enable, 8 bits (R253); reset 0. -/
  intEnable : BitVec 8 := 0
  /-- cause_vector, 9 bits each (R253); reset 0. -/
  causeVec : Vector (BitVec 9) 8 := .replicate 8 0
  /-- MSI-X table and PBA (R236, R254). -/
  msix : Vector Msix 512 := .replicate 512 (Msix.mk 0 0 true false)
  /-- ev_seq of the last event raised, 16 bits (R252); 0 at POR_N. -/
  evSeq : BitVec 16 := 0
  /-- Events held and not yet written, oldest first, at most 4,096 (R252); empty. -/
  held : List Evt := []
  /-- EV_HOST_RETURN waiting to be the first event written (R257); none. -/
  returnEv : Option Evt := none
  /-- Events dropped during the loss, for EV_HOST_RETURN (R257); 0. -/
  lossDropped : Nat := 0
  /-- A host loss since QP1 was last enabled (R257); reset 0. -/
  returnDue : Bool := false
  /-- ev_seq of the alarm events not acknowledged (R278); empty. -/
  alarms : List (BitVec 16) := []
  /-- alarm (R238): ALARM_N asserted under R278, R38 or R413; reset 0. -/
  alarm : Bool := false
  /-- The instant of the last messages and their vectors: sources due on one vector in the same instant give one message (R251). -/
  sent : Nat × List Nat := (0, [])
  /-- Next data queue pair of the round-robin (R243); 2. -/
  rrNext : Nat := 2
  deriving DecidableEq, Repr

/-! ## Sessions and commands (11) -/

/-- An open session (R261 to R266). -/
structure Session where
  id : BitVec 16
  role : Role
  tr : Transport
  /-- Last accepted cmd_seq (R264). -/
  lastSeq : BitVec 16 := 0
  /-- idle_s granted when it opened (R279). -/
  idleS : Nat
  /-- Instant from which its idleness counts (R266). -/
  activeAt : Nat
  /-- ev_subscribe (R276). -/
  subscribe : Bool
  /-- Commands in progress (R263). -/
  busy : Nat := 0
  /-- SESSION_CLOSE waiting for the other commands: its request (R266). -/
  closing : Option Req := none
  /-- Its role's key has been replaced: it closes once its commands in progress are answered (R266). -/
  dying : Bool := false
  /-- K_mgmt of UART0 and fabric sessions (R263). -/
  key : Bytes
  /-- Device and requester nonces, for KEY_INSTALL (R387). -/
  devNonce : Bytes
  reqNonce : Bytes
  deriving DecidableEq, Repr

/-- A pending session between the two phases (R262). -/
structure PendSess where
  id : BitVec 16
  tr : Transport
  nonce : Bytes
  /-- Instant of phase 0; the nonce lives 10,000 ms. -/
  since : Nat
  deriving DecidableEq, Repr

/-- A write lock: the object by class and instance (R269). -/
abbrev Lock := Cls × Nat

/-- A command that wants or holds write locks (R62, R269). -/
structure LockReq where
  /-- The model's name for the request. -/
  ticket : Nat
  /-- Command code (R274). -/
  code : Nat
  req : Req
  /-- K_mgmt of its session (R263, R420). -/
  key : Bytes
  locks : List Lock
  /-- Instant of arrival (R62). -/
  at_ : Nat
  /-- lock_wait_ms at acceptance (R279). -/
  waitMs : Nat
  /-- Its host was lost while it ran: its result is discarded (R256). -/
  lost : Bool := false
  deriving DecidableEq, Repr

/-- What a command in progress waits for (R274, R275, R454). -/
inductive RunKind where
  | powerOn (k : DomId) | powerOff (k : DomId)
  | drain (r : Region) | ret (r : Region)
  | retire (m : Chan)
  | join | leave
  | cal (left : List SensId) (kind : Nat) (ref : Int) (done : List (SensId × Status))
  deriving DecidableEq, Repr

structure Running where
  q : LockReq
  kind : RunKind
  deriving DecidableEq, Repr

/-- Sessions, locks and commands in progress (R258 to R275). -/
structure Mgmt where
  /-- Open sessions (R263); none. -/
  sessions : List Session := []
  /-- Pending sessions (R262); none. -/
  pendSess : List PendSess := []
  /-- Next session id, 1 to 0xFFFF (R266); 1. -/
  nextId : BitVec 16 := 1
  /-- Sessions opened so far, and the ids closed with that count at their closing (R266); 0, none. -/
  opened : Nat := 0
  closedIds : List (BitVec 16 × Nat) := []
  /-- Requests that arrived in the present management period (R62); empty. -/
  arrivals : List LockReq := []
  /-- Requests waiting for their locks, in grant order (R62); empty. -/
  waiting : List LockReq := []
  /-- Requests that hold their locks and start now (R269); empty. -/
  granted : List LockReq := []
  /-- Commands in progress beyond their start (R275, R454); empty. -/
  running : List Running := []
  /-- Next ticket, the model's own count; 0. -/
  nextTicket : Nat := 0
  /-- Requests received over UART0 and the fabric and verified, oldest first, with their command code (R267, R268); empty. -/
  inbox : List (Nat × Req) := []
  /-- obj_gen of the instances whose objects have changed since POR_N; 1 elsewhere (R269). -/
  objGen : List (Lock × Nat) := []
  /-- Opening instant of the UART0 frame being received (R267); none. -/
  frameOpen : Option Nat := none
  /-- dev_heartbeat, 32 bits (R238); reset 0. -/
  devHeartbeat : BitVec 32 := 0
  deriving DecidableEq, Repr

/-! ## Security, boot, flash (17) -/

/-- Failed proofs of a role on a transport (R265), held in HR_SEC's always-on registers. -/
structure Lockout where
  role : Role
  tr : Transport
  /-- Consecutive failures. -/
  fails : Nat := 0
  /-- End of the lockout in force. -/
  lockedUntil : Option Nat := none
  /-- Length of the last lockout in s, 0 before the first. -/
  lastS : Nat := 0
  deriving DecidableEq, Repr

/-- A member session of a scope-2 KEY_ROLL (R390): member, what it waits for (0 phase 0, 1 phase 1, 2 KEY_ROLL), its start, serial, nonces, session
id and K_mgmt. -/
structure MemberRoll where
  addr : BitVec 9
  stage : Nat := 0
  since : Nat
  serial : BitVec 64
  nonce : Bytes
  devNonce : Bytes := []
  id : Nat := 0
  key : Bytes := []
  deriving DecidableEq, Repr

/-- Keys, OTP counts and attestation of HR_SEC (R383 to R408). `always-on` fields survive POR_N. -/
structure Sec where
  /-- K_role of roles 0 to 2, always-on (R386); none installed. -/
  roleKey : Vector (Option Bytes) 3 := .replicate 3 none
  /-- An officer key has been installed: K_officer0 is never accepted again (R386); 0. -/
  officerSet : Bool := false
  /-- K_root and the previous install root with the instant it was replaced (R387, R389), always-on; none. -/
  root : Option Bytes := none
  rootPrev : Option (Bytes × Nat) := none
  /-- K_fab and the previous fabric key with the instant it was replaced (R389), always-on; none. -/
  fab : Option Bytes := none
  fabPrev : Option (Bytes × Nat) := none
  /-- Lockout counts and timers (R265), always-on; none. -/
  lockouts : List Lockout := []
  /-- A health test has failed and the source is not yet restored (R383); 0. -/
  rngFailed : Bool := false
  /-- Anti-rollback count b, OTP (R385); DESIGN CHOICE 0 burnt fuses. -/
  rollback : Nat := 0
  /-- att_slot_used, OTP (R385): slot 0 at manufacture. -/
  attUsed : Vector Bool 3 := ⟨#[true, false, false], rfl⟩
  /-- Epochs begun in each slot, OTP (R385, R403); DESIGN CHOICE none burnt. -/
  attEpochs : Vector Nat 3 := .replicate 3 0
  /-- Attestation slot in service (R405); 0. -/
  attSlot : Nat := 0
  /-- Next attestation index, always-on; none when a new epoch must open (R403). -/
  attIndex : Option Nat := none
  /-- EV_ATTEST_EXHAUSTED has been raised (R404); 0. -/
  attExhausted : Bool := false
  /-- Instants of the signatures of the last 86,400 s (R407); none. -/
  sigTimes : List Nat := []
  /-- Slot whose key is being generated (R405); none. -/
  enrolling : Option Nat := none
  /-- Retirement mask, always-on (R231); 0. -/
  retireMask : BitVec 16 := 0
  /-- Member sessions of a scope-2 KEY_ROLL in progress (R390); none. -/
  memberRolls : List MemberRoll := []
  deriving DecidableEq, Repr

/-- The image in staging (R399). -/
structure Staging where
  owner : BitVec 16
  /-- 1 berth microcode, 0 firmware. -/
  uc : Bool
  total : Nat
  data : Bytes
  /-- Instant of the last chunk. -/
  lastAt : Nat
  deriving DecidableEq, Repr

/-- What the device runs of an image: the header fields in use (R393). -/
structure ImgInfo where
  svn : Nat
  release : Nat
  epoch : Nat
  fmtMax : Nat
  fmtMin : Nat
  header : Bytes
  bodyHash : Bytes
  deriving DecidableEq, Repr

/-- Boot, images and the boot flash (R237 to R239, R391 to R402). -/
structure Boot where
  /-- POR_N asserted (R434): the state after reset is that at its deassertion. -/
  porLow : Bool := true
  /-- boot_stage, 4 bits (R238); reset 0. -/
  stage : Nat := 0
  /-- boot_fault, 4 bits (R238); reset 0. -/
  fault : Nat := 0
  /-- config_auth (R238); reset 0. -/
  configAuth : Bool := false
  /-- host_if_ready (R238); reset 0. -/
  hostReady : Bool := false
  /-- Starter waits for an image from the host (R398); 0. -/
  hostLoad : Bool := false
  /-- Starter brought PD_HOST up for the boot report (R239); 0. -/
  report : Bool := false
  /-- hold_128gib (R237); boot. -/
  gib128 : Bool := false
  /-- hold_rate (R237); boot. -/
  holdRate : Nat := 0
  /-- The boot directory as last read or written (R392); none valid. -/
  dir : Option BootDir := none
  /-- Running firmware image (R237); none until verified. -/
  running : Option ImgInfo := none
  /-- Firmware slot of the running image: 0 A, 1 B (R237). -/
  fwSlot : Bool := false
  /-- The slot being tried by Starter in stages 2 and 3 (R397); none. -/
  trySlot : Option Bool := none
  /-- A slot is still to be tried when the present one fails (R397); none. -/
  nextSlot : Option Bool := none
  /-- The slot tried is a trial boot (R397). -/
  trial : Bool := false
  /-- An image was refused for its version at this boot (R398). -/
  refused : Bool := false
  /-- svn values whose EV_ROLLBACK_REFUSED has been raised, by image header (R395); none. -/
  refusedImgs : List Bytes := []
  /-- Verified microcode images by slot (R397, R399); none. -/
  ucImg : Vector (Option ImgInfo) 2 := .replicate 2 none
  /-- Verified firmware images staged or held by slot (R399, R400); none. -/
  fwImg : Vector (Option ImgInfo) 2 := .replicate 2 none
  /-- Eligible microcode slot (R415); none. -/
  eligible : Option Bool := none
  /-- Image in staging (R399); none. -/
  staging : Option Staging := none
  /-- Image verified and being written to its flash slot: microcode?, slot (R399); none. -/
  writing : Option (Bool × Bool) := none
  /-- Staged, written slot that FW_COMMIT of action 0 may take, firmware and microcode (R400); none. -/
  stagedFw : Option Bool := none
  stagedUc : Option Bool := none
  /-- Image loaded from the host and verified, waiting for FW_COMMIT (R398); none. -/
  hostImg : Option ImgInfo := none
  /-- Configuration record copies as last read or written (R402); none. -/
  cfg : List CfgRec := []
  /-- A persistent field has changed since this instant and is not yet written (R402); none. -/
  dirtySince : Option Nat := none
  /-- Instant of the last record write (R402); none. -/
  cfgWriteAt : Option Nat := none
  deriving DecidableEq, Repr

/-! ## Live service (18) and electrical (19) -/

/-- A region of the slipway (R34, R275, R419). -/
structure RegionSt where
  /-- Draining or drained (R34); 0. -/
  drained : Bool := false
  /-- Instant of the drain. -/
  since : Nat := 0
  /-- return_ms of the drain, 0 until REGION_RETURN (R275). -/
  returnMs : Nat := 0
  /-- REGION_DRAIN has completed or the region is fully drained (R419). -/
  done : Bool := false
  deriving DecidableEq, Repr

/-- Live insertion, removal and the pins (R409 to R443). -/
structure Live where
  /-- inserted (R412); reset 0. -/
  inserted : Bool := false
  /-- Instant of the last judgement of INSERT_N (R410). -/
  insertAt : Nat := 0
  /-- removal_quiet (R412); reset 0. -/
  quiet : Bool := false
  /-- EV_INSERTED is still to be raised for this service start (R411). -/
  insertedDue : Bool := false
  /-- mgmt_restart (R412); reset 0. -/
  mgmtRestart : Bool := false
  /-- The restart's image is below sys_epoch and the fabric is joined again after it (R426). -/
  rejoin : Bool := false
  /-- Start of the mixed state (R425); none. -/
  mixedSince : Option Nat := none
  /-- Log records of the mixed state made so far (R425). -/
  mixedLogs : Nat := 0
  /-- Rails outside their range (R433); none. -/
  badRails : List Rail := []
  /-- VDD_DRV undervoltage in force (R67); 0. -/
  drvLow : Bool := false
  /-- VDD_DRV overvoltage in force (R433); 0. -/
  drvHigh : Bool := false
  /-- VDD_SENSE below 4.50 V (R433); 0. -/
  senseLow : Bool := false
  /-- Instruction register of the test port (R442); BYPASS. -/
  jtag : JtagInstr := .bypass
  /-- The hardware trip of die H holds the reset (R446); 0. -/
  dieTrip : Bool := false
  /-- OUT_PPS and OUT_10M held low (R322); held at reset (R434). -/
  outHeld : Bool := true
  /-- HR_MGMT has been drained for 1 s and the loops are at their fault current (R36); 0. -/
  loopsFault : Bool := false
  deriving DecidableEq, Repr

/-! ## Berths: analog, modulation, cancellation (04, 05, 06) -/

/-- Canceller states (R135). -/
inductive CancelSt where
  | untrained | training | tracking | diverged | fallback
  deriving DecidableEq, Repr

/-- The frame-control block (R95). -/
structure FrameCtl where
  version : Nat
  ftype : Nat
  src : Nat
  dst : Nat
  bcast : Bool
  ackReq : Bool
  ctxSel : Nat
  gi : Nat
  mode : Nat
  tmId : Nat
  short : Bool
  rate : Nat
  len : Nat
  attempt : Nat
  tag : Nat
  keyGen : Nat
  bpcFirst : Nat
  seq : Nat
  deriving DecidableEq, Repr

/-- A tone map (R116): the 1,725 entries of carriers 37 to 1,761. -/
structure ToneMap where
  id : Nat
  gi : Nat
  rate : Nat
  edge : Nat
  bits : Nat
  validFrom : BitVec 32
  entries : List Nat
  deriving DecidableEq, Repr

/-- The tone maps of one link (R117): far end's station number, maps issued for reception, maps received for transmission. -/
structure LinkMaps where
  station : Nat
  issued : List ToneMap := []
  held : List ToneMap := []
  /-- bpc of the last map issued (R117: at most one per beacon period). -/
  lastIssue : Option (BitVec 32) := none
  deriving DecidableEq, Repr

/-- The frame a berth is receiving (R91 to R111). -/
structure RxFrame where
  /-- Frame control once decoded. -/
  fc : Option FrameCtl := none
  /-- Payload symbols of the frame and those received or erased so far. -/
  nSym : Nat := 0
  done : Nat := 0
  /-- Weight in sixteenths of each symbol received, newest first (R138). -/
  weights : List Nat := []
  /-- Codewords of the frame, and their outcomes so far: index and, when converged, the payload bits. -/
  nCw : Nat := 0
  good : List (Nat × List Bool) := []
  failed : List Nat := []
  /-- The context the frame belongs to, when one is held. -/
  ctx : Option Nat := none
  /-- The station side received it (role 1 ferry or role 2). -/
  stationSide : Bool := false
  deriving DecidableEq, Repr

/-- The frame a berth is sending (R55, R91). -/
structure TxFrame where
  fc : FrameCtl
  nSym : Nat
  /-- Symbols started: 0 none, 1 P1, 2 P2, 3 frame control, 3 + s payload symbol s. -/
  sym : Nat := 0
  /-- The stored frame's number in the Hold, none for a beacon, acknowledgement or message. -/
  ref : Option Nat := none
  /-- An abort symbol replaces the next symbol (R55, R133, R455). -/
  abort : Bool := false
  /-- The abort waits one boundary more, the next being less than 1.0 µs away (R133). -/
  skip : Bool := false
  deriving DecidableEq, Repr

/-- A frame received in part (R154, R111): its context, identity and the codewords that have converged, with the period of its last attempt. -/
structure PartFrame where
  ctx : Nat
  fc : FrameCtl
  good : List (Nat × List Bool)
  bpc : BitVec 32
  deriving DecidableEq, Repr

/-- The decoder's view of one codeword: index within the frame and iterations run (R59). -/
structure DecCw where
  idx : Nat
  deriving DecidableEq, Repr

/-- The analog, modulation and cancellation state of a berth. Settings and statistics stand in the generic stores. -/
structure BerthSt where
  /-- Driver stopped by an overcurrent trip until the next allocation (R65); 0. -/
  ocStop : Bool := false
  /-- Driver held off after eight trips (R66); 0. -/
  heldOff : Bool := false
  /-- Driver at high impedance for temperature (R68); 0. -/
  hot : Bool := false
  /-- 3.0 dB reduction in force, or due from the next period (R68); 0. -/
  thermal : Bool := false
  thermalDue : Bool := false
  /-- Driver waits for its next allocation after an undervoltage (R67); 0. -/
  supplyStop : Bool := false
  /-- Trip instants of the last 1 s (R66); none. -/
  ocTimes : List Nat := []
  /-- Handshake lost: zero differential (R24); 0. -/
  hsLost : Bool := false
  /-- Receive gain in steps of 0.5 dB, −12 to 60 (R73, R93); DESIGN CHOICE 0 dB. -/
  gain : Int := 0
  /-- A 6.0 dB reduction at the next symbol boundary (R74); 0. -/
  gainDrop : Bool := false
  /-- cdac_fs in effect (R76); 2. -/
  cdac : Nat := 2
  /-- cdac_fs steps up at the next symbol boundary (R76); 0. -/
  cdacUp : Bool := false
  /-- cancel_state (R141); UNTRAINED. -/
  cancel : CancelSt := .untrained
  /-- 24-bit accumulators of the own taps and of the three neighbour references; an empty list is all 0 (R125). -/
  taps : Vector (List Int) 4 := .replicate 4 []
  /-- Exponents and bulk delays of the four references (R125); 0. -/
  exps : Vector Nat 4 := .replicate 4 0
  delays : Vector Nat 4 := .replicate 4 0
  /-- 128 analog replica taps; an empty list is all 0 (R75). -/
  analog : List Int := []
  /-- A full training is requested for the next reserved training time (R131); 0. -/
  trainDue : Bool := false
  /-- Instants of the failed trainings of the last 10 s (R134); none. -/
  trainFails : List Nat := []
  /-- In FALLBACK after three failures: training every 60 s (R134); 0. -/
  slowRetry : Bool := false
  /-- Beacon periods since the last scheduled training (R131); 0. -/
  retrainCount : Nat := 0
  /-- Instant from which full duplex may resume, counted at allocations (R135); none. -/
  fdFrom : Option Nat := none
  /-- Silent until the present allocation ends (R54, R65, R133); 0. -/
  silentAlloc : Bool := false
  /-- Fast recovery of a neighbour reference rather than of the own taps (R133); none. -/
  nbrRefit : Option (Fin 3) := none
  /-- Instant of the last quiet block (R122); 0. -/
  quietAt : Nat := 0
  /-- Since when each neighbour residual stays above 0.0 dB, below −3.0 dB (R136); none. -/
  nbrAbove : Vector (Option Nat) 3 := .replicate 3 none
  nbrBelow : Vector (Option Nat) 3 := .replicate 3 none
  /-- Frame being received (R91); none. -/
  rx : Option RxFrame := none
  /-- Frames received in part (R111, R154); none. -/
  partials : List PartFrame := []
  /-- Frame being sent (R91); none. -/
  tx : Option TxFrame := none
  /-- Codewords in flight in the decoder, oldest first, at most 16, and those waiting (R59); empty. -/
  dec : List DecCw := []
  decWait : List DecCw := []
  /-- Tone maps by link (R117); none. -/
  maps : List LinkMaps := []
  /-- Receive symbols of the present symbol grid: index of the next symbol boundary (R93); 0. -/
  symIdx : Nat := 0
  /-- Microcode slot in the bank in service, and its release (R415, R427); none before the first load. -/
  ucSlot : Option Bool := none
  /-- Swap armed: slot loaded into the idle bank and swap_bpc, 0 for the next start of service (R415, R417); none. -/
  swap : Option (Bool × BitVec 32) := none
  deriving DecidableEq, Repr

/-! ## Domains and sessions (07) -/

/-- A replay window (R166, R180): its key (a neighbour's station number, a frame type, or type and context of a station side), highest accepted frame_seq, window bits, period of the last accepted frame. -/
structure HopWindow where
  key : Nat
  hi : BitVec 16
  win : BitVec 1024
  bpc : BitVec 32
  deriving DecidableEq, Repr

/-- Where a berth stands with its grid (R143, R144). -/
inductive GridSt where
  /-- No grid: silent since POR_N, or the grid was left. -/
  | none
  /-- Listening for two periods, from this instant (R143). -/
  | listening (since : Nat)
  /-- Waiting 64 periods after a clash, from this instant (R143). -/
  | clashWait (since : Nat)
  /-- T_0 chosen, the first boundary not yet reached (R144). -/
  | starting (t0 : Nat)
  /-- On the grid. -/
  | on
  deriving DecidableEq, Repr

/-- An acknowledgement entry (R154). -/
structure AckEntry where
  seq : Nat
  ctxSel : Nat
  delivered : Bool
  cwOk : Nat
  deriving DecidableEq, Repr

/-- A join in progress on the coordinator side (R160). -/
structure Join where
  eui : BitVec 64
  stNonce : Bytes
  devNonce : Bytes := []
  number : Nat := 0
  fdCapable : Bool
  wanted : Nat
  /-- First context id and how many contexts. -/
  ctx : Nat := 0
  nCtx : Nat := 0
  /-- bpc of the JOIN_REQ or JOIN_PROOF that owes a message (R160: within 2 periods). -/
  causeBpc : BitVec 32
  /-- JOIN_CHAL sent, and proof_deadline_bpc. -/
  challenged : Bool := false
  deadline : BitVec 32 := 0
  /-- Proof verified; ownership query runs (R175). -/
  proven : Bool := false
  /-- JOIN_REJECT owed with this reason instead. -/
  reject : Option Nat := none
  deriving DecidableEq, Repr

/-- Failed proofs of an EUI-64 (R161). -/
structure JoinFail where
  eui : BitVec 64
  fails : Nat
  until_ : Option Nat
  lastMin : Nat
  deriving DecidableEq, Repr

/-- The station side of a berth in role 1 or 2 (R142, R151, R171). -/
structure StationSide where
  /-- Joined, with the number and first context; the key material of the join. -/
  number : Nat := 0
  joined : Bool := false
  stNonce : Bytes := []
  devNonce : Bytes := []
  devSerial : BitVec 64 := 0
  kSess : Bytes := []
  /-- Contexts granted and tt_interval of JOIN_ACCEPT. -/
  nCtx : Nat := 0
  ttInterval : Nat := 0
  keyGen : Nat := 0
  kDom : Bytes := []
  kDomNext : Option Bytes := none
  /-- K_sess after a roll that is announced for keySwitch (R167). -/
  kSessNext : Option Bytes := none
  keySwitch : BitVec 32 := 0
  /-- Next frame_seq by 4 × frame type + ctx_sel (R165), and replay windows under the same keys (R166). -/
  seqs : List (Nat × BitVec 16) := []
  wins : List HopWindow := []
  /-- Acknowledgements owed, by destination (R154). -/
  acks : List (Nat × AckEntry) := []
  /-- Provisional number and proof deadline of a challenge not yet answered (R160). -/
  challenge : Option (Nat × BitVec 32) := none
  /-- Period of the JOIN_REQ last sent (R160). -/
  reqBpc : Option (BitVec 32) := none
  /-- Beacons received since listening began (R94). -/
  beacons : Nat := 0
  /-- bpc, map and parameters of the last verified beacon (R148, R151). -/
  lastBpc : Option (BitVec 32) := none
  map : List Alloc := []
  nPeriod : Nat := 0
  /-- Instant of its T_k. -/
  periodAt : Nat := 0
  /-- Consecutive periods without a verified beacon (R151). -/
  missed : Nat := 0
  /-- t1 of a TT_REQ in flight, δ and θ of the last exchange, in ns (R171). -/
  t1 : Option Int := none
  delta : Int := 0
  theta : Int := 0
  deriving DecidableEq, Repr

/-- The domain protocol state of a berth. -/
structure Line where
  /-- Grid state (R143, R144); none. -/
  grid : GridSt := .none
  /-- bpc, 32 bits (R457); 0. -/
  bpc : BitVec 32 := 0
  /-- A period has been counted since POR_N (R457); 0. -/
  counted : Bool := false
  /-- Instant of the last boundary T_k. -/
  periodAt : Nat := 0
  /-- Committed allocation map: the standing schedule (R35, R149); empty. -/
  map : List Alloc := []
  /-- Its region drains, and the berth runs to the end of its present period (R419); 0. -/
  draining : Bool := false
  /-- Listening for two periods before the grid is resumed (R419); none. -/
  relisten : Option Nat := none
  /-- Index of the allocation in progress; none. -/
  alloc : Option Nat := none
  /-- Guard of the frames of that allocation (R152); none seen. -/
  allocGi : Option Nat := none
  /-- A TRAINING allocation is due in the next period (R156); 0. -/
  trainNext : Bool := false
  /-- Acknowledgements owed, by destination station (R152, R154); empty. -/
  acks : List (Nat × AckEntry) := []
  /-- Contention window, backoff and attempts (R155). -/
  cw : Nat := 0
  backoff : Option Nat := none
  attempts : Nat := 0
  busyUntil : Nat := 0
  /-- Key generations and keys of the domain (R163, R167): current, next, switch period, retirement period of the old one. -/
  keyGen : Nat := 0
  keyNext : Nat := 0
  keySwitch : BitVec 32 := 0
  kDom : Option Bytes := none
  kDomNext : Option Bytes := none
  keyOld : Option (Nat × Bytes × BitVec 32) := none
  /-- Instant since which the current generation is in use (R168). -/
  keySince : Nat := 0
  /-- Joins in progress in the order of their requests (R160); empty. -/
  joins : List Join := []
  /-- Failed proofs by EUI-64 (R161); empty. -/
  joinFails : List JoinFail := []
  /-- Station numbers in quarantine, with the bpc at which they entered it (R162); empty. -/
  quarantine : List (Nat × BitVec 32) := []
  /-- Latest HEAR_REPORT by station: bpc of receipt, and levels (R157); empty. -/
  hears : List (Nat × BitVec 32 × List (Nat × Int)) := []
  /-- Management messages waiting for a downlink: context and plaintext (R160, R167); empty. -/
  msgs : List (Nat × Bytes) := []
  /-- Station side (R142). -/
  st : StationSide := {}
  deriving DecidableEq, Repr

/-- Context states (R173). -/
inductive CtxSt where
  | free | joining | active | dormant | closing | remote | held
  deriving DecidableEq, Repr

/-- A soft-buffer descriptor (R218) held in the context. -/
structure SoftDesc where
  slot : Nat
  valid : Bool
  keyGen : Nat
  bpcFirst : BitVec 32
  seq : Nat
  short : Bool
  rate : Nat
  len : Nat
  cw : Nat
  /-- bpc at which it was written (R221). -/
  written : BitVec 32
  deriving DecidableEq, Repr

/-- A session context (R172). Contexts not listed are FREE. -/
structure Ctx where
  id : Nat
  st : CtxSt := .free
  ctxSel : Nat := 0
  berth : Berth := 0
  station : Nat := 0
  fdCapable : Bool := false
  tclass : Nat := 0
  domainTag : Nat := 0
  eui : BitVec 64 := 0
  ownEpoch : BitVec 32 := 0
  owner : BitVec 9 := 0
  txSeq : BitVec 16 := 0
  rxSeqHi : BitVec 16 := 0
  /-- Next frame_seq and replay window of the other frame types, by type, and window of hop frames under key 16 (R165, R166, R180). -/
  seqs : List (Nat × BitVec 16) := []
  wins : List HopWindow := []
  keyCur : Nat := 0
  keyNext : Nat := 0
  keySwitch : BitVec 32 := 0
  joinBpc : BitVec 32 := 0
  lastRx : BitVec 32 := 0
  replay : BitVec 1024 := 0
  soft : List SoftDesc := []
  txFrames : Nat := 0
  rxFrames : Nat := 0
  rxReplay : Nat := 0
  rxAuthFail : Nat := 0
  retx : Nat := 0
  ttOffset : Int := 0
  ttDelay : Int := 0
  /-- K_sess, K_frame of the two live generations (R163); the image holds K_frame in the context wrap. -/
  kSess : Bytes := []
  kFrame : Bytes := []
  kFrameNext : Bytes := []
  /-- REKEY sent with this device nonce, REKEY_ACK not yet received (R167). -/
  rekey : Option Bytes := none
  /-- Frames sent and not yet acknowledged (R165). -/
  unacked : Nat := 0
  /-- bpc of the berth at which DORMANT, CLOSING or REMOTE was entered (R173). -/
  since : BitVec 32 := 0
  /-- A generation was retired while HELD (R174). -/
  stale : Bool := false
  /-- Modified and not yet written back (R216). -/
  dirty : Bool := false
  deriving DecidableEq, Repr

/-- An ownership query in progress (R175). -/
structure OwnQuery where
  eui : BitVec 64
  /-- query_id (R296). -/
  id : Nat
  berth : Berth
  heard : Option (BitVec 32) := none
  since : Nat
  deriving DecidableEq, Repr

/-! ## Mesh (08) -/

/-- The latest report of a link into its reporter (R183): sender, reporter, figures, bpc of the report. -/
structure LinkRep where
  from_ : Nat
  to_ : Nat
  bps : Nat
  rate : Nat
  gi : Nat
  ok64 : Nat
  bpc : BitVec 32
  /-- bpc of the last report with ok64 = 0 (R190); none. -/
  zeroAt : Option (BitVec 32) := none
  deriving DecidableEq, Repr

/-- The routes of a station as last computed (R185, R186): version, parent and rank, alternate, repeaters of the downlink path nearest first. -/
structure StRoute where
  station : Nat
  ver : BitVec 16
  parent : Nat
  parentRank : Nat
  rank : Nat
  alt : Nat
  altRank : Nat
  down : List Nat
  hops : Nat
  deriving DecidableEq, Repr

/-- A hop frame that a repeater holds for forwarding (R182, R192, R193): plaintext with its mesh header, next station, period of acceptance. -/
structure FwdFrame where
  relayed : Bool
  next : Nat
  bpc : BitVec 32
  data : Bytes
  /-- Line identity held for retransmission, attempts, and sent and awaiting its acknowledgement. -/
  line : Option FrameCtl := none
  attempts : Nat := 0
  sent : Bool := false
  deriving DecidableEq, Repr

/-- The mesh state of a berth: the coordinator's, then that of its station side. -/
structure Mesh where
  /-- Link table (R183); empty. -/
  links : List LinkRep := []
  /-- max_hops of the last computation (R186); 0 before the first. -/
  hopsUsed : Nat := 0
  /-- A report has changed since the last computation (R185); 0. -/
  changed : Bool := false
  /-- Routes by station (R185); empty. -/
  routes : List StRoute := []
  /-- Entries of the RELAY_MAP of the present period: station, first and second repeater (R190, R191); empty. -/
  relays : List (Nat × Nat × Nat) := []
  /-- bpc of the last frame accepted from each station, directly or as orig_station (R190); empty. -/
  heardAt : List (Nat × BitVec 32) := []
  /-- Station side: what it measures of the links into it, and their first-attempt frames (R183); empty. -/
  stLinks : List LinkRep := []
  stFirst64 : List (Nat × List Bool) := []
  /-- Last 64 first-attempt frames received from each station, newest first: delivered (R183); empty. -/
  first64 : List (Nat × List Bool) := []
  /-- Counter of the coordinator's hop frames and broadcast data frames (R180, R165), and of the station side's hop frames; 0. -/
  hopSeq : BitVec 16 := 0
  stHopSeq : BitVec 16 := 0
  /-- Station side: ROUTE_SET held, with max_hops (R186); none. -/
  own : Option (StRoute × Nat) := none
  /-- Station side: the RELAY_MAP held: applies_bpc and entries (R192); none. -/
  map : Option (BitVec 32 × List (Nat × Nat × Nat)) := none
  /-- Station side: hop frames to the parent unacknowledged in a row (R188); 0. -/
  parentFails : Nat := 0
  /-- Station side: parent_lost and rank_drop of the next LINK_REPORT, and whether one is owed (R183, R188); 0. -/
  parentLost : Bool := false
  rankDrop : Bool := false
  reportDue : Bool := false
  /-- Station side: relayed frames to rep1 unacknowledged in a row, and direct for the rest of the period (R192); 0. -/
  relayFails : Nat := 0
  direct : Bool := false
  /-- Station side: frames held for forwarding, oldest first (R182); empty. -/
  fwd : List FwdFrame := []
  deriving DecidableEq, Repr

/-! ## The Hold (09) -/

/-- A frame in a buffer of the Hold: its place, the fields of its header (R211) and its number in the model. Its header, payload, padding and
CRC stand in the memory. -/
structure Frame where
  no : Nat
  chan : Chan
  /-- 16 KiB buffer; index of the buffer among those of its size in the channel. -/
  large : Bool
  buf : Nat
  seq : BitVec 24
  len : Nat
  srcKind : Nat
  srcIdx : Nat
  dstKind : Nat
  dstIdx : Nat
  tclass : Nat
  redirected : Bool
  ctx : Nat
  attempts : Nat
  arrivalUs : BitVec 32
  /-- What a frame for a berth without a context is: 1 a broadcast in its domain (R245), 2 for its station side (R196). -/
  role : Nat := 0
  /-- A FRAME packet's destination, origin, hops remaining and subheader (R295, R296). -/
  fabDst : BitVec 9 := 0
  fabSrc : BitVec 9 := 0
  fabTtl : Nat := 0
  sub : Bytes := []
  /-- Line identity held for retransmission (R165): frame_seq, bpc_first, key generation, ctx_sel, code, rate; none before its first attempt. -/
  line : Option FrameCtl := none
  /-- Mesh header of a frame sent under one, as first sent (R111, R181). -/
  meshHdr : Bytes := []
  /-- Codewords acknowledged (R154), and sent and awaiting its acknowledgement. -/
  cwOk : Nat := 0
  sent : Bool := false
  deriving DecidableEq, Repr

/-- Channel states (R226). -/
inductive ChanSt where
  | untrained | active | draining | fenced | retired
  deriving DecidableEq, Repr

/-- One store channel (R199 to R232). -/
structure ChanRec where
  /-- chan_state (R226); UNTRAINED. -/
  st : ChanSt := .untrained
  /-- Next store_seq (R211); 0. -/
  seq : BitVec 24 := 0
  /-- Bursts pending in each class (R213 to R215); 0. -/
  pend : Vector Nat 5 := .replicate 5 0
  /-- Bursts of each class's guarantee used in the present 1.024 ms (R234); 0. -/
  used : Vector Nat 5 := .replicate 5 0
  /-- Instants and numbers of corrected and of uncorrectable words in the last 1 s (R227); empty. -/
  ces : List (Nat × Nat) := []
  ues : List (Nat × Nat) := []
  /-- Store-unit watchdog faults of the last 1 ms (R227); empty. -/
  wd : List Nat := []
  /-- A failed timing update waits for its retry (R201); 0. -/
  retry : Bool := false
  /-- Temperature readouts missed in a row (Input contract of 09); 0. -/
  missed : Nat := 0
  /-- Extended refresh rate (Input contract of 09); 0. -/
  hot : Bool := false
  /-- Instant of a planned retirement's start (R229); none. -/
  drainSince : Option Nat := none
  /-- A trigger of R227 has occurred and the channel is not yet fenced; 0. -/
  trig : Bool := false
  /-- Its rebuild is complete (R228, R229); 0. -/
  rebuilt : Bool := false
  deriving DecidableEq, Repr

/-- Capture states (R225). -/
inductive CapSt where
  | idle | armed | running | done
  deriving DecidableEq, Repr

/-- A granule of a capture (R224): stream, its first unit, its channel, its units of 132 bytes. -/
structure Granule where
  stream : Nat
  unit : Nat
  chan : Chan
  units : List Bytes
  deriving DecidableEq, Repr

/-- The capture in force (R225). -/
structure Capture where
  st : CapSt := .idle
  rx : BitVec 32 := 0
  tx : BitVec 32 := 0
  point : Nat := 0
  trigger : Nat := 0
  pin : Nat := 0
  falling : Bool := false
  /-- Device time of trigger 4: seconds and nanoseconds. -/
  trigSec : Nat := 0
  trigNs : Nat := 0
  preUs : Nat := 0
  lenUs : Nat := 0
  /-- Instant of the trigger. -/
  at_ : Nat := 0
  /-- Device time of the first sample kept. -/
  firstSec : Nat := 0
  firstNs : Nat := 0
  granules : List Granule := []
  deriving DecidableEq, Repr

/-- A route-table entry (R194). -/
structure Route where
  eui : BitVec 64
  kind : Nat
  pinned : Bool
  fabAddr : BitVec 9 := 0
  berth : Berth := 0
  station : Nat := 0
  ctx : Nat := 0
  nCtxM1 : Nat := 0
  hops : Nat := 0
  cost : Nat := 0
  ver : BitVec 16 := 0
  updated : BitVec 32 := 0
  /-- own_epoch of the identity as advertised (R303), and instant of the last advertisement (R303). -/
  epoch : BitVec 32 := 0
  heard : Nat := 0
  deriving DecidableEq, Repr

/-- A memory of bytes by address: addresses strictly rising, no entry equal to what an unlisted address reads as. -/
abbrev Memory := List Host.Cell

/-- The Hold (R199 to R234). -/
structure HoldSt where
  /-- The soft and frame areas of the channels by store address (R202, R203); nothing listed, and an unlisted byte reads as 0: DESIGN CHOICE. -/
  mem : Memory := []
  chan : Vector ChanRec 16 := .replicate 16 {}
  /-- Queued frames in arrival order (R211, R212); none. -/
  frames : List Frame := []
  /-- Number of the next frame, the model's own; 0. -/
  nextNo : Nat := 0
  /-- small_buf_pct of this boot (R211); 50. -/
  smallPct : Nat := 50
  /-- Channels whose retirement waits or runs, in order, the first one's rebuild running (R232); none. -/
  retiring : List Chan := []
  /-- Next channel of the capture's round-robin (R224); 0. -/
  capNext : Nat := 0
  capture : Capture := {}
  /-- Route table (R194); empty. Pinned entries kept aside (R195); none. -/
  routes : List Route := []
  aside : List Route := []
  /-- Contexts in the cache, least recently used last; contexts held against eviction (R216); empty. -/
  cache : List Nat := []
  pins : List Nat := []
  /-- Rounds of the present 1.024 ms (R234); 0. -/
  rounds : Nat := 0
  deriving DecidableEq, Repr


/-! ## Ethernet and fabric (12) -/

/-- Port states (R281). -/
inductive PortSt where
  | down | negotiating | training | up
  deriving DecidableEq, Repr

/-- An Ethernet port (R280 to R286). -/
structure EthSt where
  /-- port_state (R281); DOWN. -/
  st : PortSt := .down
  /-- Instant of the last Sync received (R285), and the clockClass of the last Announce; none. -/
  syncAt : Option Nat := none
  annClass : Option Nat := none
  /-- A Sync was missing for 3 intervals: the input is lost (R285); 0. -/
  ptpLost : Bool := false
  /-- Instant of the last valid ESMC PDU with its SSM and enhanced codes (R286); none. -/
  esmcAt : Option Nat := none
  ssm : Nat := 0xF
  enh : Nat := 0xFF
  /-- QL-FAILED reported (R286); 1. -/
  qlFailed : Bool := true
  /-- Rank last transmitted in ESMC (R286); none. -/
  qlSent : Option Nat := none
  deriving DecidableEq, Repr

/-- Fabric link states (R291). -/
inductive LinkSt where
  | down | training | hello | auth | up | degraded | refused | failed
  deriving DecidableEq, Repr

/-- The fields of a peer's control codeword that bring-up and the clock use (R290). -/
structure Peer where
  state : Nat := 0
  fmtMax : Nat := 0
  fmtMin : Nat := 0
  epoch : Nat := 0
  release : Nat := 0
  addr : BitVec 9 := 0
  joined : Bool := false
  dims : Nat × Nat × Nat := (1, 1, 1)
  port : Nat := 0
  lanesOk : Nat := 0
  ssm : Nat := 0xF
  enh : Nat := 0xFF
  clock : Nat := 2
  sysEpoch : Nat := 0
  nonce : Bytes := []
  proof : Bytes := []
  deriving DecidableEq, Repr

/-- A packet between its origin and its codeword (R295): header fields and payload in clear. -/
structure Pkt where
  ptype : Nat
  prio : Nat
  redirected : Bool := false
  bcast : Bool := false
  ttl : Nat := 63
  dst : Nat
  src : Nat
  bphase : Nat := 0
  brem : Nat := 0
  bdir : Bool := false
  payload : Bytes
  deriving DecidableEq, Repr

/-- A fabric link (R288 to R295). -/
structure FabLink where
  /-- link_state (R291); DOWN. -/
  st : LinkSt := .down
  /-- refuse_reason (R292); 0. -/
  refuse : Nat := 0
  /-- Link format (R292); 0 before HELLO. -/
  fmt : Nat := 0
  /-- Lanes in lock (R294); none. -/
  lanes : BitVec 2 := 0
  peer : Peer := {}
  /-- Own HELLO nonce and K_link (R290, R292). -/
  nonce : Bytes := []
  kLink : Bytes := []
  /-- Instant of the entry into the present state, and of the last training (R291, R292). -/
  since : Nat := 0
  trainedAt : Nat := 0
  /-- The device retrains a link that has been UP (R293, R294); 0. -/
  retraining : Bool := false
  /-- Instants of the failures of the last 60 s (R291); none. -/
  fails : List Nat := []
  /-- Next cw_seq to send; last data codeword accepted in order, 0xFF after training (R288). -/
  cwSeq : BitVec 8 := 0
  ackSeq : BitVec 8 := 0xFF
  /-- nak is sent; xoff received (R288, R293); 0. -/
  nak : Bool := false
  xoffIn : Bool := false
  /-- Replay buffer: sequence numbers of codewords not yet acknowledged with the packets that end in each, oldest first, at most 64 (R293). -/
  replay : List (BitVec 8 × Nat) := []
  /-- Replays of the oldest codeword without its acknowledgement; the last ack_seq nak'ed with its instant; last advance (R293). -/
  tries : Nat := 0
  nakAt : Option (BitVec 8 × Nat) := none
  ackAt : Nat := 0
  /-- ctl_tag of the last control codeword verified (R290, R311); 0. -/
  ctlOk : Bool := false
  /-- pkt_ctr of the next packet sent and of the next expected (R295); 0. -/
  pktTx : Nat := 0
  pktRx : Nat := 0
  /-- Packets of the device's own that wait for xoff or for the replay buffer (R293, R297); empty. -/
  ctl : List Pkt := []
  /-- Flits of prio 0 and of all prios sent since prio 0 last had nothing waiting (R297); 0. -/
  share : Nat × Nat := (0, 0)
  deriving DecidableEq, Repr

/-- A member of the fabric (R302, R304, R425): address, serial, features, instant of its last message. -/
structure Member where
  addr : BitVec 9
  serial : BitVec 64
  epoch : Nat
  fmtMax : Nat
  release : Nat
  heard : Nat
  deriving DecidableEq, Repr

/-- The newest LINKSTATE of a package (R300): address, version, states of its six links. -/
structure LinkView where
  addr : BitVec 9
  ver : BitVec 16
  links : List Nat
  deriving DecidableEq, Repr

/-- The fabric of the package (R287 to R304). -/
structure FabSt where
  /-- fabric_joined, fabric_addr, dimensions (R237, R287, R301); 0, 0, 1 × 1 × 1. -/
  joined : Bool := false
  addr : BitVec 9 := 0
  dims : Nat × Nat × Nat := (1, 1, 1)
  /-- A join in progress: its start, and whether a link has reached a joined peer (R301); none. -/
  joining : Option (Nat × Bool) := none
  /-- Start of a leave in progress (R302); none. -/
  leaving : Option Nat := none
  link : Vector FabLink 6 := .replicate 6 {}
  members : List Member := []
  /-- Link states of the other packages as last received (R300); none. -/
  views : List LinkView := []
  /-- Version of the LINKSTATE last sent (R300); 0. -/
  ver : BitVec 16 := 0
  /-- System epoch (R304), and the instants at which it reached each epoch; features started. -/
  sysEpoch : Nat := 0
  reached : List (Nat × Nat) := []
  features : List Nat := []
  deriving DecidableEq, Repr

/-! ## Clock (13) -/

/-- A reference input (R307 to R314, R324). -/
structure ClkIn where
  /-- Reasons 1 to 7 set, bit c for code c (R311; R324: the lowest, reason, resets to 1; rank 9 is reason 3). -/
  reasons : BitVec 8 := 10
  /-- ql_rank (R308, R324); 9. -/
  rank : Nat := 9
  /-- End of a wait-to-restore (R311); none. -/
  wtrEnd : Option Nat := none
  /-- y in 0.001 ppb, x in ns (R312); twice d and twice e, against the medians; 0. -/
  y : Int := 0
  x : Int := 0
  d : Int := 0
  e : Int := 0
  /-- Consecutive measurements above the limits of R313. -/
  dRow : Nat := 0
  eRow : Nat := 0
  /-- Seconds for which d and e have stayed below the clearing limits (R313). -/
  calm : Nat := 0
  deriving DecidableEq, Repr

/-- The time-of-day message of a REF input (R309, R310). -/
structure RefTod where
  /-- Instant of the last 1PPS edge, and a message accepted since. -/
  edgeAt : Option Nat := none
  got : Bool := false
  /-- tod_sec last accepted. -/
  tod : Option Nat := none
  missing : Nat := 0
  good : Nat := 0
  /-- 1PPS edges missing in a row (R311). -/
  missEdges : Nat := 0
  srcErr : Nat := 0
  utcOffset : Int := 0
  leap : Nat := 0
  deriving DecidableEq, Repr

/-- A pair of inputs that may disagree (R314): frequency and time counts in a row, episode open, quiet seconds in it. -/
structure ClkPair where
  i : Nat
  j : Nat
  fRow : Nat := 0
  xRow : Nat := 0
  openEp : Bool := false
  quiet : Nat := 0
  deriving DecidableEq, Repr

/-- Clock states (R318). -/
inductive ClkSt where
  | locked | holdover | freeRun | acquiring
  deriving DecidableEq, Repr

/-- The clock (R307 to R324). -/
structure ClockSt where
  /-- clock_state (R318, R324); FREE_RUN. -/
  st : ClkSt := .freeRun
  inp : Vector ClkIn 16 := .replicate 16 {}
  ref : Vector RefTod 2 := .replicate 2 {}
  pairs : List ClkPair := []
  /-- Selected inputs (R315, R324); none. -/
  fIn : Option (Fin 16) := none
  tIn : Option (Fin 16) := none
  /-- CLOCK_FORCE in force: action 1 to 3 with its input (R317); none. -/
  force : Option (Nat × Fin 16) := none
  /-- Frequency correction in 0.001 ppb (R324); 0, and its values of the last 61 s, newest first (R316). -/
  corr : Int := 0
  corrs : List Int := []
  /-- Seconds since LOCKED was entered, the last LOCKED interval, no FREE_RUN since (R318). -/
  lockedS : Nat := 0
  history : Bool := false
  /-- Seconds since holdover entry (R324), those that age (R319), e0 and the estimate. -/
  hoS : Nat := 0
  ageS : Nat := 0
  e0 : Nat := 0
  /-- The sum of u over those seconds in 0.001 ns. -/
  uSum : Nat := 0
  /-- The holdover timer and estimate run (R318); 0. -/
  hoRun : Bool := false
  /-- time_err_ns (R324); 0xFFFF_FFFF. -/
  timeErr : Nat := 0xFFFFFFFF
  /-- |x| of the time input, last 10 s, newest first (R318, R319). -/
  xs : List Nat := []
  /-- ACQUIRING was entered from FREE_RUN and no step has been made (R316); 0. -/
  mayStep : Bool := false
  /-- The frequency loop is locked to its input (R319, R321); 0. -/
  fLocked : Bool := false
  /-- LOCKED is kept through a switch of a small offset (R316); 0. -/
  kept : Bool := false
  /-- Seconds latched by a read of CLK_TOD_NS (R324); 0. -/
  todLatch : Nat := 0
  /-- Device time less the instant, in ns (R40); PRESUMED 0 at POR_N. -/
  offset : Int := 0
  deriving DecidableEq, Repr

/-! ## Sensors, loops, filters (14, 15) -/

/-- An output record (R360) without its constant bits. -/
structure SenseRec where
  value : Int := 0
  tsNs : Nat := 0
  tsSec : Nat := 0
  valid : Bool := false
  settling : Bool := false
  blanked : Bool := false
  curveRange : Bool := false
  cjFallback : Bool := false
  cal : Bool := false
  dcBlocked : Bool := false
  delayed : Bool := false
  seq : BitVec 32 := 0
  deriving DecidableEq, Repr

/-- The detectors of a channel (R361): the window in progress, then what was latched. -/
structure DetSt where
  n : Nat := 0
  valid : Nat := 0
  hi : Int := 0
  lo : Int := 0
  sq : Nat := 0
  env : Int := 0
  max_ : Int := 0
  min_ : Int := 0
  rms : Nat := 0
  ok : Bool := false
  deriving DecidableEq, Repr

/-- A sensor channel with its filter (R327 to R365). -/
structure SenseSt where
  /-- In WIRE_BREAK (R340), break_cause and consecutive passing retests (R341); 0. -/
  broken : Bool := false
  cause : Nat := 0
  passes : Nat := 0
  /-- Orientation in 3-wire wiring (R329); 0. -/
  reversed : Bool := false
  /-- gain_used, log₂ G in force (R331, R358); 0. -/
  gain : Nat := 0
  /-- Calibration in force: offset in the channel's raw unit, gain deviation in ppm (R349); 0, 0. -/
  calOff : Int := 0
  calGain : Int := 0
  /-- Kind of the calibration in progress (R349); none. -/
  cal : Option Nat := none
  /-- Last valid resistance in 0.1 mΩ (R339); none. -/
  lastRes : Option Int := none
  /-- The last probe was put off by a blank (R339); 0. -/
  probeOff : Bool := false
  /-- Latest records (R360, R365); 0. -/
  fine : SenseRec := {}
  fast : SenseRec := {}
  /-- Instants at which each path ends settling (R358); 0. -/
  settleFine : Nat := 0
  settleFast : Nat := 0
  /-- A reset is due at the next output instant (R358); 0. -/
  resetDue : Bool := false
  /-- Since when the fine and the fast value have not been valid (R345); none. -/
  badFine : Option Nat := none
  badFast : Option Nat := none
  det : DetSt := {}
  /-- DC blocker engaged, and its mean, none before its first valid value (R362); 0. -/
  dcb : Bool := false
  mu : Option Int := none
  deriving DecidableEq, Repr

/-- A loop output (R342 to R352). -/
structure LoopSt where
  /-- Row of the loop-current table in force (R345), which gives loop_state; row 1, OFF. -/
  row : Nat := 1
  /-- Commanded current in µA, none while the gate is undriven (R345); none. -/
  cmd : Option Nat := none
  /-- loop_open (R347), since when the readback has been off, since when it has tracked; 0. -/
  openSet : Bool := false
  offSince : Option Nat := none
  trackSince : Option Nat := none
  /-- LOOP_FORCE: current in µA and its end, none until released (R348); none. -/
  force : Option (Nat × Option Nat) := none
  /-- Its source has left WIRE_BREAK and no valid output has followed (R341); 0. -/
  waitValid : Bool := false
  deriving DecidableEq, Repr

/-! ## Check units and UARTs (16) -/

/-- A check unit (R366 to R374). -/
structure ChkSt where
  /-- Running register of scope 1 (R370). -/
  reg : Nat := 0
  /-- result, 64 bits (R373); 0. -/
  result : Nat := 0
  /-- busy (R373); 0. The item being fed was skipped (R368). -/
  busy : Bool := false
  skip : Bool := false
  /-- mismatch, last_bad (R372, R373); 0. -/
  mismatch : Bool := false
  lastBad : Nat := 0
  /-- Items counted from the last start (R372), Ethernet frames since the unit was last started (R367). -/
  number : Nat := 0
  /-- High halves latched by reads of the low halves (R373); 0. -/
  hiResult : Nat := 0
  hiBad : Nat := 0
  deriving DecidableEq, Repr

/-- A serial port (R375 to R382). -/
structure UartSt where
  /-- Receive and transmit FIFO, at most 64 characters each (R377); empty. -/
  rx : List Byte := []
  tx : List Byte := []
  /-- fe, pe, oe (R377), and which of them the arming read returned (R378); 0. -/
  fe : Bool := false
  pe : Bool := false
  oe : Bool := false
  armed : Option (Bool × Bool × Bool) := none
  /-- line_dead (R379); 0. -/
  dead : Bool := false
  deriving DecidableEq, Repr

/-! ## Outputs -/

/-- What leaves the block (newest first in State.out): completions and messages to the host, responses, line signals, pins. -/
inductive Out where
  /-- A completion entry of queue pair q at ring index i (R250). -/
  | cqe (q : QpId) (i : Nat) (entry : Bytes)
  /-- An MSI-X message (R254). -/
  | msix (v : Nat)
  /-- Receive data written to a posted buffer (R248). -/
  | rxData (q : QpId) (buf : RxBuf) (data : Bytes)
  /-- Response data of a COMMAND, by tag (R249). -/
  | respData (tag : BitVec 16) (data : Bytes)
  /-- A response or event sent on UART0 or to a fabric address, with its tag (R263, R268). -/
  | response (tr : Transport) (data : Bytes)
  /-- A fetch by the device of the ring entry of a queue pair (R243). -/
  | fetch (q : QpId) (i : Nat)
  /-- A frame starts on the line of a berth: frame control and payload bytes (R91). -/
  | lineFrame (b : Berth) (fc : Bytes) (payload : Bytes)
  /-- The abort symbol (R110). -/
  | lineAbort (b : Berth)
  /-- A training burst (R128). -/
  | lineTraining (b : Berth)
  /-- A symbol of a frame starts on the line (R91). -/
  | lineSymbol (b : Berth) (s : Nat)
  /-- An AVSBus write of the core voltage in mV (R51). -/
  | avsWrite (mv : Nat)
  /-- A PMBus read of STATUS_WORD, and CLEAR_FAULTS, to an address (R431). -/
  | pmbRead (addr : Nat)
  | pmbClear (addr : Nat)
  /-- A die-to-die flit is sent again, a retrain starts (R37). -/
  | flitResend (d : D2dId)
  | dieRetrain (d : D2dId)
  /-- The value a register read returns (R10). -/
  | readData (v : BitVec 64)
  /-- The current that a loop regulates, in µA; none: the gate undriven (R344, R345). -/
  | loopDrive (j : LoopId) (ua : Option Nat)
  /-- A character sent on a UART in host mode (R381). -/
  | uartTx (p : UartId) (c : Byte)
  /-- A frame sent on an Ethernet port, without its FCS; a PTP message by type; an ESMC PDU (R283 to R286). -/
  | ethTx (p : EthId) (frame : Bytes)
  | ptpTx (p : EthId) (kind : Nat) (cls : Nat)
  | esmcTx (p : EthId) (event : Bool) (rank : Nat)
  /-- A packet sent on a fabric link: header bits [127:0] and payload in clear; sealed is as sent (R295). -/
  | packet (l : LinkId) (hdr : Bytes) (sealed : Bytes)
  /-- A control codeword out of cadence, a replay from a sequence number, a retrain (R290, R293, R294). -/
  | fabControl (l : LinkId)
  | fabReplay (l : LinkId) (seq : Nat)
  | fabRetrain (l : LinkId)
  /-- OUT_PPS rises and both outputs run, or are held low (R322). -/
  | pps (on : Bool)
  /-- Excitation of a sensor channel (R340). -/
  | excitation (n : SensId) (on : Bool)
  /-- A write to the boot flash: 0 image slot, 1 directory, 2 configuration record; fuses burnt to a count (R385, R392, R402). -/
  | flash (what : Nat)
  | fuses (n : Nat)
  /-- A domain's supply to be switched; image loads into a berth's idle bank (R32, R415). -/
  | bankLoad (b : Berth)
  /-- GPIO outputs (R443). -/
  | gpio (v : Nat)
  /-- A log record of the management firmware: the hours of a mixed state (R425), 0 for a change of the emission ceiling (R79). -/
  | log (what : Nat)
  deriving DecidableEq, Repr

/-! ## The state -/

/-- The whole block. Settings are held by field and instance where they differ from their defaults (the class tables), statistics where they
differ from their value at POR_N. -/
structure State where
  /-- Instant of the last command, ns since POR_N deasserted (the model's own); DESIGN CHOICE 0. -/
  now : Nat
  /-- Commands waiting, first in first out; empty. -/
  pending : List Instr
  /-- Settings written by OBJ_SET that differ from the default (R271, R272): field and instance, elements. -/
  fields : List ((Fld × Nat) × List Int)
  /-- Settings accepted and waiting for their instant of effect: field and instance, elements, period for a beacon boundary (R83). -/
  pend : List ((Fld × Nat) × List Int × Option (BitVec 32))
  /-- Statistics that differ from their value at POR_N: statistic, instance, element. -/
  stats : List ((Stat × Nat × Nat) × Int)
  /-- Instants of rate-limited events: event and source (R53, R143). -/
  evTimes : List ((Ev × Nat) × Nat)
  /-- What left the block, newest first (the model's own record); empty. -/
  out : List Out
  /-- Draws taken from the entropy source (the model's own count); DESIGN CHOICE 0. -/
  entropyCtr : Nat
  /-- Free values taken (the model's own count); DESIGN CHOICE 0. -/
  freeCtr : Nat
  /-- Power domains by index (R28). -/
  dom : Vector Dom 44
  /-- Die-to-die links (R37). -/
  die : Vector DieLink 7
  avs : Avs
  host : HostIf
  qp : Vector Qp 256
  mgmt : Mgmt
  sec : Sec
  boot : Boot
  /-- Regions by code (R274). -/
  region : Vector RegionSt 9
  live : Live
  berth : Vector BerthSt 32
  line : Vector Line 32
  /-- Contexts that are not FREE, ids rising (R172). -/
  ctxs : List Ctx
  /-- Ownership queries in progress (R175). -/
  owns : List OwnQuery
  mesh : Vector Mesh 32
  hold : HoldSt
  eth : Vector EthSt 4
  fab : FabSt
  clk : ClockSt
  sense : Vector SenseSt 16
  /-- SENSE_BLANK after its filter (R337); 0. -/
  senseBlank : Bool
  loop : Vector LoopSt 4
  chk : Vector ChkSt 8
  uart : Vector UartSt 2
  deriving DecidableEq, Repr

/-- The block right after reset: POR_N still asserted, every field at the value its rule states or the log names, PD_SEC ON (R31). -/
def State.reset : State where
  now := 0
  pending := []
  fields := []
  pend := []
  stats := []
  evTimes := []
  out := []
  entropyCtr := 0
  freeCtr := 0
  dom := (Vector.replicate 44 ({} : Dom)).set 43 { st := .on }
  die := .replicate 7 {}
  avs := {}
  host := {}
  qp := .replicate 256 {}
  mgmt := {}
  sec := {}
  boot := {}
  region := .replicate 9 {}
  live := {}
  berth := .replicate 32 {}
  line := .replicate 32 {}
  ctxs := []
  owns := []
  mesh := .replicate 32 {}
  hold := {}
  eth := .replicate 4 {}
  fab := {}
  clk := {}
  sense := .replicate 16 {}
  senseBlank := false
  loop := .replicate 4 {}
  chk := .replicate 8 {}
  uart := .replicate 2 {}

end Sys2Proof.Machine
end

