-- ==== Sys2Proof/Machine/Ops.lean ====
section
/-! DEFINITION. The shared operations over the state: the instant of a command, settings, statistics, events, interrupts, completions and
messages to the host, power-domain states. -/

namespace Sys2Proof.Machine
open Sys2Proof

/-! ## Instants and indices -/

/-- Every command carries the instant at which it happens; the block's instant never goes back. -/
def State.at (s : State) (t : Nat) : State := { s with now := max s.now t }

/-- Nanoseconds in units the spec names. -/
def micros (n : Nat) : Nat := n * 1000
def millis (n : Nat) : Nat := n * 1000000
def seconds (n : Nat) : Nat := n * 1000000000

/-- The power domain of a berth (R28). -/
def berthDom (b : Berth) : DomId := ⟨b.val, by omega⟩
/-- The power domain of a store channel (R20). -/
def chanDom (m : Chan) : DomId := ⟨32 + m.val / 4, by omega⟩

def pdHost : DomId := 36
def pdEth : DomId := 37
def pdFab : DomId := 38
def pdSwitch : DomId := 39
def pdMgmt : DomId := 40
def pdSense : DomId := 41
def pdClk : DomId := 42
def pdSec : DomId := 43

/-- The berth of a power domain (R28). -/
def domBerth (k : DomId) : Option Berth := if h : k.val < 32 then some ⟨k.val, h⟩ else none

def State.domSt (s : State) (k : DomId) : DomSt := s.dom[k].st
def State.domOn (s : State) (k : DomId) : Bool := s.dom[k].st == .on

/-- Update one power domain, queue pair, berth, line, region or die link. -/
def State.setDomRec (s : State) (k : DomId) (d : Dom) : State := { s with dom := s.dom.set k d }
def State.setQp (s : State) (q : QpId) (x : Qp) : State := { s with qp := s.qp.set q x }
def State.setBerth (s : State) (b : Berth) (x : BerthSt) : State := { s with berth := s.berth.set b x }
def State.setLine (s : State) (b : Berth) (x : Line) : State := { s with line := s.line.set b x }
def State.setRegion (s : State) (r : Fin 9) (x : RegionSt) : State := { s with region := s.region.set r x }
def State.setD2d (s : State) (d : D2dId) (x : DieLink) : State := { s with die := s.die.set d x }
def State.modBerth (s : State) (b : Berth) (f : BerthSt → BerthSt) : State := s.setBerth b (f s.berth[b])
def State.modLine (s : State) (b : Berth) (f : Line → Line) : State := s.setLine b (f s.line[b])
def State.modQp (s : State) (q : QpId) (f : Qp → Qp) : State := s.setQp q (f s.qp[q])

/-- Apply a change to each of a list of things in turn. -/
def State.forAll {α : Type} (s : State) (l : List α) (f : State → α → State) : State := l.foldl f s

def allBerths : List Berth := List.finRange 32
def allDoms : List DomId := List.finRange 44
def allQps : List QpId := List.finRange 256

def State.drained (s : State) (r : Region) : Bool := s.region[r.idx].drained

/-- The region of a berth (R19). -/
def berthRegion (b : Berth) : Region := match b.val / 8 with | 0 => .bg0 | 1 => .bg1 | 2 => .bg2 | _ => .bg3

/-- The die whose loss the loss of a link is: its non-hub die (R37). -/
def linkDie (l : D2dId) : DieId := match l.val with | 0 => 0 | 1 => 1 | 2 => 2 | 3 => 3 | 4 => 4 | 5 => 5 | _ => 3

/-- A die is lost while a link it hangs on is lost (R37, R38). -/
def State.lostDie (s : State) (d : DieId) : Bool := (List.finRange 7).any fun l => linkDie l == d && s.die[l].lost

/-- Analog die A(k/8) and DSP die of a berth (R19). -/
def analogDie (b : Berth) : DieId := ⟨b.val / 8, by omega⟩
def dspDie (b : Berth) : DieId := if b.val < 16 then 4 else 5

/-- A berth's analog or DSP die is lost (R38). -/
def State.dieLost (s : State) (b : Berth) : Bool := s.lostDie (analogDie b) || s.lostDie (dspDie b)

/-- Device time in ns (R40), and its seconds and nanoseconds. -/
def State.devTime (s : State) : Nat := (s.now + s.clk.offset).toNat
def State.devSec (s : State) : Nat := s.devTime / 1000000000
def State.devNs (s : State) : Nat := s.devTime % 1000000000

/-- Update one record of a vector of the state. -/
def State.modSense (s : State) (n : SensId) (f : SenseSt → SenseSt) : State := { s with sense := s.sense.set n (f s.sense[n]) }
def State.modLoop (s : State) (j : LoopId) (f : LoopSt → LoopSt) : State := { s with loop := s.loop.set j (f s.loop[j]) }
def State.modChk (s : State) (u : ChkId) (f : ChkSt → ChkSt) : State := { s with chk := s.chk.set u (f s.chk[u]) }
def State.modUart (s : State) (p : UartId) (f : UartSt → UartSt) : State := { s with uart := s.uart.set p (f s.uart[p]) }
def State.modEth (s : State) (p : EthId) (f : EthSt → EthSt) : State := { s with eth := s.eth.set p (f s.eth[p]) }
def State.modLink (s : State) (l : LinkId) (f : FabLink → FabLink) : State :=
  { s with fab := { s.fab with link := s.fab.link.set l (f s.fab.link[l]) } }
def State.modMesh (s : State) (b : Berth) (f : Mesh → Mesh) : State := { s with mesh := s.mesh.set b (f s.mesh[b]) }
def State.modChan (s : State) (m : Chan) (f : ChanRec → ChanRec) : State :=
  { s with hold := { s.hold with chan := s.hold.chan.set m (f s.hold.chan[m]) } }
def State.modClk (s : State) (f : ClockSt → ClockSt) : State := { s with clk := f s.clk }

/-! ## Free values -/

/-- The next draw from the entropy source (R383). -/
def State.draw (s : State) : Bytes × State := (Config.entropy s.entropyCtr, { s with entropyCtr := s.entropyCtr + 1 })

/-- The next free value. -/
def State.free (s : State) : Int × State := (Config.freeValue s.freeCtr, { s with freeCtr := s.freeCtr + 1 })

/-! ## Settings -/

def lookupFld (l : List ((Fld × Nat) × List Int)) (f : Fld) (i : Nat) : Option (List Int) :=
  match l with
  | [] => none
  | (k, v) :: r => if k = (f, i) then some v else lookupFld r f i

def eraseFld (l : List ((Fld × Nat) × List Int)) (f : Fld) (i : Nat) : List ((Fld × Nat) × List Int) :=
  l.filter fun e => !decide (e.1 = (f, i))

/-- The elements of a setting in effect. -/
def State.fget (s : State) (f : Fld) (i : Nat) : List Int := (lookupFld s.fields f i).getD (f.dflt i)

/-- A scalar setting in effect, and as a number. -/
def State.fval (s : State) (f : Fld) (i : Nat) : Int := (s.fget f i).headD 0
def State.fnat (s : State) (f : Fld) (i : Nat) : Nat := (s.fval f i).toNat
def State.fbool (s : State) (f : Fld) (i : Nat) : Bool := s.fval f i != 0

/-- Set a setting in effect; a value equal to the default is not listed. -/
def State.fset (s : State) (f : Fld) (i : Nat) (v : List Int) : State :=
  let rest := eraseFld s.fields f i
  { s with fields := if v = f.dflt i then rest else ((f, i), v) :: rest }

/-- The value last written, whether or not it is in effect yet: what OBJ_GET returns (R271). -/
def State.fwritten (s : State) (f : Fld) (i : Nat) : List Int :=
  match s.pend.find? (fun e => decide (e.1 = (f, i))) with
  | some e => e.2.1
  | none => s.fget f i

/-- A setting accepted and waiting: newest first; before the same instant of effect the later write replaces the earlier (R83). -/
def State.pendSet (s : State) (f : Fld) (i : Nat) (v : List Int) (bpc : Option (BitVec 32)) : State :=
  { s with pend := ((f, i), v, bpc) :: s.pend.filter fun e => !decide (e.1 = (f, i) ∧ e.2.2 = bpc) }

/-- Bring every waiting setting for which `due` holds into effect. -/
def State.release (s : State) (due : Fld → Nat → Option (BitVec 32) → Bool) : State :=
  let now' := s.pend.filter fun e => due e.1.1 e.1.2 e.2.2
  let s1 := { s with pend := s.pend.filter fun e => !due e.1.1 e.1.2 e.2.2 }
  now'.foldr (fun e a => a.fset e.1.1 e.1.2 e.2.1) s1

/-- Release the waiting settings of one instance that take effect at an event of the given kind. -/
def State.releaseAt (s : State) (a : Applies) (i : Nat) : State :=
  s.release fun f j _ => decide (f.desc.app = a ∧ j = i)

/-! ## Statistics -/

def lookupStat (l : List ((Stat × Nat × Nat) × Int)) (k : Stat × Nat × Nat) : Option Int :=
  match l with
  | [] => none
  | (k', v) :: r => if k' = k then some v else lookupStat r k

/-- A statistic's value. -/
def State.stat (s : State) (x : Stat) (i : Nat := 0) (e : Nat := 0) : Int := (lookupStat s.stats (x, i, e)).getD x.desc.reset

/-- Set a statistic; its value after POR_N is not listed. -/
def State.statSet (s : State) (x : Stat) (i e : Nat) (v : Int) : State :=
  let rest := s.stats.filter fun y => !decide (y.1 = (x, i, e))
  { s with stats := if v = x.desc.reset then rest else ((x, i, e), v) :: rest }

/-- Count one more in a saturating counter of the statistic's width. -/
def State.bump (s : State) (x : Stat) (i : Nat := 0) (e : Nat := 0) (n : Nat := 1) : State :=
  s.statSet x i e (min (s.stat x i e + n) ((2 ^ x.desc.bits : Nat) - 1))

/-- Hold a reported value within its width: saturating. -/
def clampStat (x : Stat) (v : Int) : Int :=
  if x.desc.signed then max (-(2 ^ (x.desc.bits - 1) : Nat)) (min v ((2 ^ (x.desc.bits - 1) : Nat) - 1))
  else max 0 (min v ((2 ^ x.desc.bits : Nat) - 1))

/-- Report a value. -/
def State.report (s : State) (x : Stat) (i e : Nat) (v : Int) : State := s.statSet x i e (clampStat x v)

/-- A sticky history bit (R8). -/
def State.stick (s : State) (x : Stat) (i : Nat := 0) : State := s.statSet x i 0 1
def State.hist (s : State) (x : Stat) (i : Nat := 0) : Bool := s.stat x i != 0

/-! ## Outputs and interrupts -/

def State.emit (s : State) (o : Out) : State := { s with out := o :: s.out }

/-- A message on a vector (R254): sent, kept pending while masked, or dropped when messages cannot be sent. -/
def State.msix (s : State) (v : BitVec 9) : State :=
  if s.host.linkUp && !s.host.d3 && s.host.msixEnable && s.host.busMaster && !s.host.lost then
    if s.host.funcMask || s.host.msix[v.toFin].mask then
      { s with host := { s.host with msix := s.host.msix.set v.toFin { s.host.msix[v.toFin] with pend := true } } }
    else if s.host.sent.1 = s.now ∧ s.host.sent.2.contains v.toNat then s
    else
      let others : List Nat := if s.host.sent.1 = s.now then s.host.sent.2 else []
      { s with host := { s.host with sent := (s.now, v.toNat :: others) } }.emit (.msix v.toNat)
  else s

/-- A device cause sets (R253): one message when its bit sets and is enabled. -/
def State.cause (s : State) (k : Fin 8) : State :=
  if s.host.intCause.getLsbD k then s
  else
    let s1 := { s with host := { s.host with intCause := s.host.intCause ||| (1 <<< k.val) } }
    if s.host.intEnable.getLsbD k then s1.msix s.host.causeVec[k] else s1

/-- The pin ALARM_N asserts: alarm, alarm_hist and cause 0 (R238, R253, R278). -/
def State.alarmOn (s : State) : State :=
  if s.host.alarm then s
  else ({ s with host := { s.host with alarm := true } }.stick .alarmHist).cause 0

/-- The pin ALARM_N deasserts once no alarm event is unacknowledged and the device is not in removal quiet (R278, R434). -/
def State.alarmUpdate (s : State) : State :=
  if s.host.alarms.isEmpty && !s.live.quiet then { s with host := { s.host with alarm := false } } else s

/-! ## The fabric: addresses, next hops, packets (R287, R295 to R299) -/

/-- The far package of a link at an address (R287). -/
def farAddr (dims : Nat × Nat × Nat) (a : Nat) (l : LinkId) : Nat :=
  let (nx, ny, nz) := dims
  let x := a % 8; let y := a / 8 % 8; let z := a / 64
  match l.val with
  | 0 => (x + 1) % nx + 8 * y + 64 * z
  | 1 => (x + nx - 1) % nx + 8 * y + 64 * z
  | 2 => x + 8 * ((y + 1) % ny) + 64 * z
  | 3 => x + 8 * ((y + ny - 1) % ny) + 64 * z
  | 4 => x + 8 * y + 64 * ((z + 1) % nz)
  | _ => x + 8 * y + 64 * ((z + nz - 1) % nz)

/-- The other end's port of a link: X+ meets X−. -/
def farPort (l : LinkId) : LinkId := ⟨if l.val % 2 = 0 then (l.val + 1) % 6 else l.val - 1, by split <;> omega⟩

/-- Size of a link's dimension; a dimension of size 1 leaves both of its links unused (R287). -/
def linkDim (dims : Nat × Nat × Nat) (l : LinkId) : Nat := match l.val / 2 with | 0 => dims.1 | 1 => dims.2.1 | _ => dims.2.2

def allLinks : List LinkId := List.finRange 6

/-- Link state codes (R291). -/
def LinkSt.code : LinkSt → Nat
  | .down => 0 | .training => 1 | .hello => 2 | .auth => 3 | .up => 4 | .degraded => 5 | .refused => 6 | .failed => 7

/-- Carries packets (R291). -/
def FabLink.carries (x : FabLink) : Bool := x.st == .up || x.st == .degraded

/-- What the package knows of a link end: its own, or the newest LINKSTATE of its owner (R298, R300). -/
def State.linkView (s : State) (a : Nat) (l : LinkId) : Option Nat :=
  if a = s.fab.addr.toNat then some s.fab.link[l].st.code
  else match s.fab.views.find? fun m => decide (m.addr.toNat = a) with
    | some m => some (m.links.getD l.val 0)
    | none => none

/-- A link that the package believes usable: no end that it knows is other than UP or DEGRADED, and it knows one. -/
def State.usableLink (s : State) (a : Nat) (l : LinkId) : Bool :=
  let ok := fun c => decide (c = 4 ∨ c = 5)
  decide (1 < linkDim s.fab.dims l) &&
  match s.linkView a l, s.linkView (farAddr s.fab.dims a l) (farPort l) with
  | some c, some d => ok c && ok d
  | some c, none => ok c
  | none, some d => ok d
  | none, none => false

/-- Distances from a package over usable links, level by level. -/
def State.levels (s : State) : Nat → Nat → List Nat → List (Nat × Nat) → List (Nat × Nat)
  | 0, _, _, acc => acc
  | fuel + 1, d, front, acc =>
    let next := (front.flatMap fun a => (allLinks.filter fun l => s.usableLink a l).map fun l => farAddr s.fab.dims a l).eraseDups.filter
      fun a => !acc.any fun x => x.1 == a
    if next.isEmpty then acc else s.levels fuel (d + 1) next (acc ++ next.map fun a => (a, d + 1))

/-- Hops from every package to a destination. -/
def State.hopsTo (s : State) (d : Nat) : List (Nat × Nat) := s.levels 512 0 [d] [(d, 0)]

/-- The next hop towards a destination (R298): the first link in port order that carries packets and whose far package is one hop nearer. -/
def State.nextHop (s : State) (d : Nat) : Option LinkId :=
  let ds := s.hopsTo d
  match ds.lookup s.fab.addr.toNat with
  | none => none
  | some k => allLinks.find? fun l =>
      s.fab.link[l].carries && s.usableLink s.fab.addr.toNat l && decide (ds.lookup (farAddr s.fab.dims s.fab.addr.toNat l) = some (k - 1) ∧ 0 < k)

/-- Header bits [127:0] of a packet (R295). -/
def Pkt.head (p : Pkt) (fmt ctr : Nat) : Bytes :=
  leBytes 16 (fmt % 16 + p.ptype % 16 * 2 ^ 4 + p.prio % 4 * 2 ^ 8 + (if p.redirected then 2 ^ 10 else 0) + (if p.bcast then 2 ^ 11 else 0) +
    p.ttl % 64 * 2 ^ 12 + p.dst % 512 * 2 ^ 18 + p.src % 512 * 2 ^ 27 + p.bphase % 4 * 2 ^ 36 + p.brem % 8 * 2 ^ 38 +
    (if p.bdir then 2 ^ 41 else 0) + p.payload.length % 2 ^ 14 * 2 ^ 48 + ctr % 2 ^ 48 * 2 ^ 64)

/-- The nonce of a packet (R295): pkt_ctr, the sender's address and port. -/
def pktNonce (ctr addr port : Nat) : Bytes := leBytes 12 (ctr % 2 ^ 48 + addr % 512 * 2 ^ 48 + port % 8 * 2 ^ 57)

/-- Codewords of 20 flits that a packet takes, padded by a NULL packet (R288, R296): header flit and payload flits. -/
def Pkt.codewords (p : Pkt) : Nat := ceilDiv (1 + ceilDiv p.payload.length 32) 20

def Pkt.flits (p : Pkt) : Nat := 1 + ceilDiv p.payload.length 32

/-- A packet leaves on a link (R295): sealed under K_link, its codewords join the replay buffer. -/
def State.putPkt (s : State) (l : LinkId) (p : Pkt) : State :=
  let k := s.fab.link[l]
  let head := p.head k.fmt k.pktTx
  let ct := Config.gcmSeal k.kLink (pktNonce k.pktTx s.fab.addr.toNat l) head p.payload
  let n := p.codewords
  let body := ct.take p.payload.length
  let pad := List.replicate (ceilDiv p.payload.length 32 * 32 - p.payload.length) (0 : Byte)
  let cws := (List.range n).map fun i => (k.cwSeq + BitVec.ofNat 8 i, if i + 1 = n then 1 else 0)
  (s.modLink l fun x => { x with pktTx := x.pktTx + 1, cwSeq := x.cwSeq + BitVec.ofNat 8 n, replay := x.replay ++ cws,
                                  ackAt := if x.replay.isEmpty then s.now else x.ackAt,
                                  share := (if p.prio = 0 then x.share.1 + p.flits else x.share.1, x.share.2 + p.flits) }).emit
    (.packet l (head ++ p.payload) (List.flatten [head, ct.drop p.payload.length, body, pad]))

/-- The link takes a packet of n codewords now: it carries packets, the peer has not set xoff, the replay buffer has room (R288, R293). -/
def State.linkTakes (s : State) (l : LinkId) (n : Nat) : Bool :=
  let k := s.fab.link[l]
  k.carries && !k.xoffIn && decide (k.replay.length + n ≤ 64) && s.domOn pdFab && !s.drained .link

/-- A packet of the device's own goes out at once, or waits behind those that wait (R293, R297). -/
def State.sendPkt (s : State) (l : LinkId) (p : Pkt) : State :=
  if s.fab.link[l].ctl.isEmpty && s.linkTakes l p.codewords then s.putPkt l p
  else s.modLink l fun x => { x with ctl := x.ctl ++ [p] }

/-- The oldest waiting packet of the highest prio (R297). -/
def topPkt (l : List Pkt) : Option Pkt :=
  match l.find? fun p => p.prio == 3 with
  | some p => some p
  | none => match l.find? fun p => p.prio == 2 with
    | some p => some p
    | none => match l.find? fun p => p.prio == 1 with
      | some p => some p
      | none => l.head?

/-- Send the packets that wait while the link takes them. -/
def State.flushLink (s : State) (l : LinkId) : State :=
  s.forAll (List.range s.fab.link[l].ctl.length) fun a _ =>
    match topPkt a.fab.link[l].ctl with
    | some p => if a.linkTakes l p.codewords then (a.modLink l fun x => { x with ctl := x.ctl.erase p }).putPkt l p else a
    | none => a

/-- Send a packet to its destination under R298; one that no usable path reaches drops, counted on the link it came by, on X+ for the
device's own. -/
def State.sendTo (s : State) (p : Pkt) (via : LinkId := 0) : State :=
  match s.nextHop p.dst with
  | some l => s.sendPkt l p
  | none => s.bump .unreachable (via.val + 1)

/-- The tree hops of a broadcast phase (R299): direction, far package, packages still to reach. -/
def phaseHops (dims : Nat × Nat × Nat) (a ph : Nat) : List (Bool × Nat × Nat) :=
  let n := match ph with | 0 => dims.1 | 1 => dims.2.1 | _ => dims.2.2
  let plus : LinkId := match ph with | 0 => 0 | 1 => 2 | _ => 4
  let minus : LinkId := match ph with | 0 => 1 | 1 => 3 | _ => 5
  [(false, farAddr dims a plus, ceilDiv (n - 1) 2), (true, farAddr dims a minus, (n - 1) / 2)].filter fun h => h.2.2 != 0

/-- Start the given phases of a broadcast from here (R299). -/
def State.startPhases (s : State) (p : Pkt) (phs : List Nat) (via : LinkId := 0) : State :=
  s.forAll phs fun a ph => a.forAll (phaseHops s.fab.dims s.fab.addr.toNat ph) fun b h =>
    b.sendTo { p with bcast := true, bphase := ph, bdir := h.1, dst := h.2.1, brem := h.2.2 } via

/-- Originate a broadcast (R299). -/
def State.broadcast (s : State) (ptype prio : Nat) (payload : Bytes) : State :=
  s.startPhases { ptype := ptype, prio := prio, dst := 0, src := s.fab.addr.toNat, payload := payload } [0, 1, 2]

/-- Send bytes to a session's far end: on UART0, or as a MGMT packet to the originating address (R263, R268, R296). -/
def State.respond (s : State) (tr : Transport) (data : Bytes) : State :=
  match tr with
  | .fabric a => (s.emit (.response tr data)).sendTo { ptype := 2, prio := 3, dst := a.toNat, src := s.fab.addr.toNat, payload := data }
  | _ => s.emit (.response tr data)

/-! ## Events -/

/-- The completion entry of an event (R250, R276): ev_seq, kind 3, code and argument, at the given sq_head and phase. -/
def evtEntry (e : Evt) (sqHead : Nat) (phase : Bool) : Bytes :=
  leBytes 16 (e.seq.toNat + 3 * 2 ^ 20 + sqHead * 2 ^ 32 + e.code % 2 ^ 16 * 2 ^ 64 + e.arg % 2 ^ 47 * 2 ^ 80 + (if phase then 2 ^ 127 else 0))

/-- The argument of an event: class, instance, detail (R276). -/
def evtArg (c : Cls) (inst detail : Nat) : Nat := c.code + inst % 2 ^ 18 * 16 + detail % 2 ^ 25 * 2 ^ 22

/-- The tag of a request or response on UART0 or the fabric (R263). -/
def cmdTag (key : Bytes) (dir : Byte) (msg : Bytes) : Bytes := Config.kmac256 key (ascii "PV3264 cmd" ++ dir :: msg) 16

/-- An event goes to every session that subscribed, as a response with cmd 0x8000 (R276). -/
def State.notify (s : State) (e : Evt) : State :=
  s.forAll (s.mgmt.sessions.filter fun x => x.subscribe && x.tr != .qp0) fun a x =>
    let body := evtEntry e 0 false
    let msg := leBytes 16 (0x8000 + 16 * 2 ^ 64) ++ body
    a.respond x.tr (msg ++ cmdTag x.key 1 msg)

/-- An event is held for QP1, at most 4,096; the oldest is dropped (R252). -/
def State.holdEvt (s : State) (e : Evt) : State :=
  if s.host.held.length < 4096 then { s with host := { s.host with held := s.host.held ++ [e] } }
  else
    (({ s with host := { s.host with held := s.host.held.drop 1 ++ [e],
                                      lossDropped := if s.host.lost then s.host.lossDropped + 1 else s.host.lossDropped } }.bump
      .evOverflow).stick .evOverflowHist).cause 6

/-- Raise an event on an instance of its class (R252, R276 to R278). -/
def State.raise (s : State) (ev : Ev) (inst detail : Nat) : State :=
  let d := ev.desc
  let e : Evt := ⟨s.host.evSeq + 1, d.code, evtArg d.cls inst detail⟩
  let s1 := { s with host := { s.host with evSeq := s.host.evSeq + 1,
                                            alarms := if d.alarm then s.host.alarms ++ [s.host.evSeq + 1] else s.host.alarms } }
  let s2 := (s1.holdEvt e).notify e
  if d.alarm then s2.alarmOn else s2

/-- Raise an event at most once per `gap` ns and source, the source named by `key`. -/
def State.raiseKey (s : State) (ev : Ev) (key gap inst detail : Nat) : State :=
  match s.evTimes.find? (fun x => decide (x.1 = (ev, key))) with
  | some (_, t) => if s.now < t + gap then s else rest
  | none => rest
where
  rest : State :=
    let s1 := { s with evTimes := ((ev, key), s.now) :: s.evTimes.filter fun x => !decide (x.1 = (ev, key)) }
    s1.raise ev inst detail

/-- Raise an event at most once per `gap` ns and instance. -/
def State.raiseEvery (s : State) (ev : Ev) (gap inst detail : Nat) : State := s.raiseKey ev inst gap inst detail

/-! ## Objects' generations -/

/-- obj_gen of an instance: 1 after POR_N (R269). -/
def State.objGen (s : State) (l : Lock) : Nat :=
  match s.mgmt.objGen.find? (fun x => decide (x.1 = l)) with
  | some x => x.2
  | none => 1

/-- A change to an object raises its obj_gen by 1, 0xFFFF_FFFF to 1 (R269). -/
def State.objTouch (s : State) (c : Cls) (i : Nat) : State :=
  let g := s.objGen (c, i)
  let g' := if g = 0xFFFFFFFF then 1 else g + 1
  { s with mgmt := { s.mgmt with objGen := ((c, i), g') :: s.mgmt.objGen.filter fun x => !decide (x.1 = (c, i)) } }

/-- A persistent field has changed: the configuration record is to be rewritten within 30 s (R402). -/
def State.dirty (s : State) : State :=
  { s with boot := { s.boot with dirtySince := some (s.boot.dirtySince.getD s.now) } }

/-! ## Completions on a queue pair -/

/-- Ring entries of a queue pair. -/
def Qp.size (x : Qp) : Nat := 2 ^ x.ringLog2.toNat

/-- Send the CQ's message now and restart its moderation (R251). -/
def State.cqMessage (s : State) (q : QpId) : State :=
  (s.modQp q fun x => { x with modCount := 0, modSince := none }).msix s.qp[q].vector

/-- Moderation after a completion (R251). -/
def State.moderate (s : State) (q : QpId) : State :=
  let x := s.qp[q]
  if !x.irqEnable then s
  else
    let n := x.modCount + 1
    let lim := max x.irqCount.toNat 1
    if x.holdoff.toNat = 0 ∨ lim ≤ n then s.cqMessage q
    else s.setQp q { x with modCount := n, modSince := some (x.modSince.getD s.now) }

/-- Write a completion entry (R250, R251) to an ACTIVE queue pair: its 16 bytes, cq_tail and phase, moderation. `entry` takes sq_head and
phase. In every other state nothing is written (R241, R256). -/
def State.cqWrite (s : State) (q : QpId) (entry : Nat → Bool → Bytes) : State :=
  let x := s.qp[q]
  if x.st = .active then
    let s1 := s.emit (.cqe q x.cqTail (entry x.sqHead x.cqPhase))
    let t := (x.cqTail + 1) % x.size
    (s1.setQp q { x with cqTail := t, cqPhase := if t = 0 then !x.cqPhase else x.cqPhase }).moderate q
  else s

/-- A queue pair whose enable has been cleared enters DISABLED once every fetched entry has its completion (R241). -/
def State.qpSettle (s : State) (q : QpId) : State :=
  let x := s.qp[q]
  if x.st = .active ∧ x.enable = false ∧ x.fetched.isEmpty then s.setQp q { x with st := .disabled } else s

/-- A completion entry's bytes (R250). -/
def cplEntry (tag : Nat) (st : Status) (kind : Nat) (eop : Bool) (tclass : Nat) (sof : Bool) (len info : Nat) (sqHead : Nat) (phase : Bool) :
    Bytes :=
  leBytes 16 (tag % 2 ^ 16 + st.code * 2 ^ 16 + kind % 8 * 2 ^ 20 + (if eop then 2 ^ 23 else 0) + tclass % 4 * 2 ^ 24 +
    (if sof then 2 ^ 26 else 0) + sqHead % 2 ^ 16 * 2 ^ 32 + len % 2 ^ 16 * 2 ^ 48 + info % 2 ^ 63 * 2 ^ 64 + (if phase then 2 ^ 127 else 0))

/-- A queue pair enters ERROR (R241, R253). -/
def State.qpError (s : State) (q : QpId) (code : Nat) : State :=
  ((s.modQp q fun x => { x with st := .error, errCode := code, errHist := true }).stick .qpErrorHist).cause 5

/-! ## Power-domain states -/

/-- The channels not retired: those whose state is RETIRED, or that the retirement mask names before they are trained, are out. -/
def State.chanOut (s : State) (m : Chan) : Bool :=
  s.hold.chan[m].st == .retired || (s.hold.chan[m].st == .untrained && s.sec.retireMask.getLsbD m)

/-- The domains a domain depends on directly (R28). PD_SWITCH depends on the PD_STORE domains that hold a channel not retired. -/
def State.depends (s : State) (k : DomId) : List DomId :=
  if k.val < 32 then [pdClk, pdSwitch]
  else if k.val < 36 then [pdClk, pdMgmt]
  else if k = pdHost ∨ k = pdEth ∨ k = pdFab then [pdClk, pdSwitch]
  else if k = pdSwitch then
    pdClk :: ((List.finRange 16).filter fun (m : Chan) => !s.chanOut m).map chanDom
  else if k = pdMgmt then [pdClk]
  else if k = pdSense then [pdClk, pdMgmt]
  else if k = pdClk then [pdSec]
  else []

/-- A domain depends on another directly or through others (R30): the chain berth or link, switch, store, management, clock, security is at
most six long. -/
def State.dependsOn (s : State) : Nat → DomId → DomId → Bool
  | 0, _, _ => false
  | n + 1, k, j => (s.depends k).any fun d => d == j || s.dependsOn n d j

/-- Every domain that depends on `k`, directly or through others. -/
def State.dependants (s : State) (k : DomId) : List DomId := allDoms.filter fun d => s.dependsOn 6 d k

/-- What a berth loses when its domain leaves ON (R131, R68, R39, R29): canceller UNTRAINED with its taps, frames in the air, the driver's
state. -/
def berthLeavesOn (x : BerthSt) : BerthSt :=
  { x with cancel := .untrained, taps := .replicate 4 [], analog := [], rx := none, tx := none, dec := [], decWait := [], ocStop := false,
           silentAlloc := false, supplyStop := false, hsLost := false, nbrRefit := none, fdFrom := none }

/-- Set a domain's state; PD_SEC's never changes: only its supply switches it (R31). Any change sets the power-domain cause (R253) and changes the
object (R269, R454); a berth domain leaving ON takes its canceller to UNTRAINED (R131) and its temperature reading to 0x80 (R85). -/
def State.setDom (s : State) (k : DomId) (st : DomSt) : State :=
  let d := s.dom[k]
  if d.st = st ∨ k = pdSec then s
  else
    let s1 := s.setDomRec k { d with st := st, onWhole := false, wdPeriod := if st = .on then 0 else d.wdPeriod,
                                     dropRow := if st = .on then 0 else d.dropRow }
    let s2 := match domBerth k with
      | some b => if d.st = DomSt.on then (s1.modBerth b berthLeavesOn).report .drvTemp b 0 (-128) else s1
      | none => s1
    (s2.objTouch .power k).cause 7

/-- slack_low is 1 while slack_pct is below slack_raise_pct; becoming 1 sets slack_low_hist (R49). -/
def State.slackJudge (s : State) (k : DomId) : State :=
  let d := s.dom[k]
  let low := d.slackPct != 255 && decide (d.slackPct < s.fnat .slackRaise 44)
  let s1 := s.setDomRec k { d with slackLow := low }
  if low && !d.slackLow then s1.stick .slackLowHist k else s1

/-- Berth domains in RAMP or INIT (R32). -/
def State.berthRamps (s : State) : Nat := (allDoms.filter fun k => k.val < 32 && (s.domSt k == .ramp || s.domSt k == .init)).length

/-- Start a bring-up: RAMP, or wait for one of the four berth ramps (R32). -/
def State.startRamp (s : State) (k : DomId) : State :=
  if k.val < 32 ∧ 4 ≤ s.berthRamps then s.setDomRec k { s.dom[k] with rampQueued := true }
  else (s.setDomRec k { s.dom[k] with rampQueued := false }).setDom k .ramp

/-- The lowest-numbered berth domain that waits for a ramp starts it (R32). -/
def State.nextRamp (s : State) : State :=
  if 4 ≤ s.berthRamps then s
  else match allDoms.find? (fun k => decide (k.val < 32) && s.dom[k].rampQueued) with
    | some k => s.startRamp k
    | none => s

/-! ## Silence and service of a berth -/

/-- The causes of silence other than tx_enable (R84); a region that drains silences a berth at the end of its period in progress (R419). -/
def State.stopped (s : State) (b : Berth) : Bool :=
  (s.drained (berthRegion b) && !s.line[b].draining) || !s.domOn (berthDom b) || s.dieLost b || s.fnat .role b == 3 || s.live.quiet

/-- Silence of a berth (R84). -/
def State.silent (s : State) (b : Berth) : Bool := s.stopped b || !s.fbool .txEnable b

/-- The driver may drive the line (R64 to R68, R21, R433). -/
def State.mayDrive (s : State) (b : Berth) : Bool :=
  !s.silent b && s.boot.configAuth && !s.berth[b].ocStop && !s.berth[b].heldOff && !s.berth[b].hot && !s.berth[b].supplyStop &&
    !s.berth[b].hsLost && !s.live.drvLow && !s.live.drvHigh && s.live.badRails.isEmpty

/-- Output of a line driver (R64, R434). -/
inductive DriverOut where
  | highZ | zero | driven
  deriving DecidableEq, Repr

/-- The state of a driver's output (R64): high impedance, zero differential, or driven. -/
def State.driver (s : State) (b : Berth) : DriverOut :=
  let x := s.berth[b]
  let d := s.domSt (berthDom b)
  if s.boot.porLow || s.live.quiet || s.live.drvLow || s.live.drvHigh || !s.live.badRails.isEmpty || x.heldOff || x.hot then .highZ
  else if d = .draining then (if x.tx.isSome then .driven else .zero)
  else if d ≠ DomSt.on then .highZ
  else if x.ocStop || x.hsLost || !s.boot.configAuth || s.silent b then .zero
  else if x.tx.isSome then .driven
  else .zero

end Sys2Proof.Machine
end

