-- ==== Sys2Proof/Machine/Coding.lean ====
section
/-! DEFINITION. The line formats of chapter 05: carriers, levels and the power cap, the pilot sequence, frame control and its CRC, LDPC encoding,
interleaving, padding, symbol counts, tone maps, weights and LLRs. -/

namespace Sys2Proof.Machine
open Sys2Proof

/-! ## Carriers and levels (R77 to R82, R87) -/

/-- Highest carrier of a band edge (R77). -/
def topCarrier (edge : Nat) : Nat := match edge with | 0 => 614 | 1 => 1024 | _ => 1761

/-- Continuous pilots: carriers 37 + 24j (R87). -/
def isPilot (c : Nat) : Bool := decide (37 ≤ c ∧ c ≤ 1761 ∧ (c - 37) % 24 = 0)

/-- PSD group of a carrier (R78). -/
def groupOf (c : Nat) : Nat := min ((c - 37) / 8) 215

/-- What decides a berth's emission: mask and ceiling codes, notches in kHz, band edge, transformer ratio (R77 to R82). -/
structure Emission where
  mask : List Int
  ceiling : List Int
  notches : List Int
  edge : Nat
  ratio : Nat
  deriving DecidableEq, Repr

/-- Effective code of a group: the larger of mask and ceiling (R79). -/
def Emission.code (e : Emission) (g : Nat) : Nat := (max (e.mask.getD g 255) (e.ceiling.getD g 255)).toNat

/-- A notch covers a carrier whose centre lies from start − 97.65625 kHz to stop + 97.65625 kHz; carriers are 3125/64 kHz apart (R82). -/
def inNotches (c : Nat) : List Int → Bool
  | a :: b :: rest => decide (64 * a - 6250 ≤ 3125 * (c : Int) ∧ 3125 * (c : Int) ≤ 64 * b + 6250) || inNotches c rest
  | _ => false

/-- A carrier is on: within the band edge, its group not off, no notch over it (R87). -/
def Emission.on (e : Emission) (c : Nat) : Bool :=
  decide (37 ≤ c ∧ c ≤ topCarrier e.edge) && e.code (groupOf c) != 255 && !inNotches c e.notches

def carriers : List Nat := (List.range 1725).map (· + 37)
def Emission.onCarriers (e : Emission) : List Nat := carriers.filter e.on
/-- Data carriers that are on (R87). -/
def Emission.dataCarriers (e : Emission) : List Nat := e.onCarriers.filter fun c => !isPilot c

/-- 10^(−j/10) for j from 0 to 9 and 10^(−j/100) for j from 0 to 9, in units of 10^−15. -/
def tenths : List Nat :=
  [1000000000000000, 794328234724281, 630957344480193, 501187233627272, 398107170553497, 316227766016838, 251188643150958, 199526231496888,
   158489319246111, 125892541179417]
def hundredths : List Nat :=
  [1000000000000000, 977237220955811, 954992586021436, 933254300796991, 912010839355910, 891250938133746, 870963589956081, 851138038202377,
   831763771102671, 812830516164099]

/-- 10^(−d/10) in units of 10^−15 for a level d in dB. -/
def downDb (d : Nat) : Nat := tenths.getD (d % 10) 0 / 10 ^ (d / 10)

/-- Total power of the effective mask in units of 10^−15 × −45 dBm/Hz over one carrier, after a reduction of `red` dB (R80). -/
def Emission.power (e : Emission) (red : Nat) : Nat := (e.onCarriers.map fun c => downDb (e.code (groupOf c) + red)).sum

/-- The total is within P_cap after a further d tenths of a dB: total × 10^−4.5 mW/Hz × 48,828.125 Hz × 10^(−d/100) ≤ 1,000 × (ratio/200)² mW
(R80). -/
def Emission.withinCap (e : Emission) (total d : Nat) : Bool :=
  decide (total * (hundredths.getD (d % 10) 0 * downDb (d / 10)) * (316227766016838 * 48828125) ≤
    e.ratio * e.ratio * (1000 * 10 ^ 67 / 40000))

/-- The backoff in 0.1 dB: the excess over the cap rounded up (R80). -/
def Emission.backoff (e : Emission) (red : Nat) : Nat :=
  let total := e.power red
  ((List.range 400).find? (e.withinCap total)).getD 400

/-- A berth's emission from its settings in effect. -/
def State.emission (s : State) (b : Berth) : Emission :=
  ⟨s.fget .psdMask b, s.fget .emissionCeiling b, s.fget .notches b, s.fnat .bandEdge b, s.fnat .xfmrRatio b⟩

/-- Recompute power_backoff_db (R80). -/
def State.updateBackoff (s : State) (b : Berth) : State :=
  s.report .powerBackoff b 0 ((s.emission b).backoff (if s.berth[b].thermal then 3 else 0))

/-- Frame-control carriers and positions: value q mod 240 sits on the q-th non-pilot carrier from 37 to 614 (R97). -/
def fcCarriers : List Nat := (carriers.filter fun c => c ≤ 614 && !isPilot c)

/-- Every frame-control value keeps at least two of its positions on carriers that are on (R98). -/
def Emission.fcOk (e : Emission) : Bool :=
  let onq := (fcCarriers.zipIdx.filter fun x => e.on x.1).map fun x => x.2 % 240
  (List.range 240).all fun v => decide (2 ≤ onq.count v)

/-! ## Symbols and guards (R87, R88, R91) -/

/-- Guard in samples, and symbol period in samples of 5 ns (R87). -/
def guardSamples (gi : Nat) : Nat := match gi with | 0 => 256 | 1 => 512 | 2 => 1024 | _ => 2048
def symSamples (gi : Nat) : Nat := 4096 + guardSamples gi
/-- T_sym in ns (R54, R87). -/
def tSym (gi : Nat) : Nat := symSamples gi * 5

/-- P1, P2 and frame control last 3 × 25.60 µs (R91). -/
def headNs : Nat := 3 * 25600

/-! ## The pilot sequence (R89) -/

/-- One step of the shift register r1 (bit 0) to r11 (bit 10): output r11, new bit r11 xor r9 into r1. -/
def lfsrStep (r : Nat) : Nat := (r * 2 + ((r / 1024 + r / 256) % 2)) % 2048

/-- The register after n steps from all ones. -/
def lfsr : Nat → Nat
  | 0 => 2047
  | n + 1 => lfsrStep (lfsr n)

/-- P[i], period 2,047 (R89). -/
def pilot (i : Nat) : Nat := lfsr (i % 2047) / 1024

/-! ## Frame control (R95, R96) -/

/-- CRC-24 of a list of bits (R96). -/
def crc24 (bits : List Bool) : Nat :=
  let r := bits.foldl (fun (r : Nat) b =>
    let f := (if b then 1 else 0) != r / 2 ^ 23 % 2
    let r2 := r * 2 % 2 ^ 24
    if f then r2 ^^^ 0x864CFB else r2) 0xFFFFFF
  r ^^^ 0xFFFFFF

/-- The 24 bits of fc_crc in serial order: bit 216 + i is bit 23 − i of the result (R96). -/
def fcCrcBits (bits : List Bool) : List Bool := (List.range 24).map fun i => (crc24 bits).testBit (23 - i)

/-- fc_crc of a 30-byte block is right (R96). -/
def fcCrcOk (fc : Bytes) : Bool :=
  let bits := bitsOf fc
  decide (bits.length = 240) && decide (bits.drop 216 = fcCrcBits (bits.take 216))

/-- The fields of a frame-control block (R95). -/
def parseFc (fc : Bytes) : FrameCtl where
  version := bitsAt fc 0 4
  ftype := bitsAt fc 4 4
  src := bitsAt fc 8 12
  dst := bitsAt fc 20 12
  bcast := bitsAt fc 32 1 == 1
  ackReq := bitsAt fc 33 1 == 1
  ctxSel := bitsAt fc 34 2
  gi := bitsAt fc 36 2
  mode := bitsAt fc 38 3
  tmId := bitsAt fc 41 4
  short := bitsAt fc 45 1 == 1
  rate := bitsAt fc 46 2
  len := bitsAt fc 48 13
  attempt := bitsAt fc 61 3
  tag := bitsAt fc 64 16
  keyGen := bitsAt fc 80 8
  bpcFirst := bitsAt fc 88 32
  seq := bitsAt fc 120 16

def b2n (b : Bool) : Nat := if b then 1 else 0

/-- Bits [215:0] of a frame-control block as a number (R95). -/
def fcNat (f : FrameCtl) : Nat :=
  f.version % 16 + f.ftype % 16 * 2 ^ 4 + f.src % 4096 * 2 ^ 8 + f.dst % 4096 * 2 ^ 20 + b2n f.bcast * 2 ^ 32 + b2n f.ackReq * 2 ^ 33 +
  f.ctxSel % 4 * 2 ^ 34 + f.gi % 4 * 2 ^ 36 + f.mode % 8 * 2 ^ 38 + f.tmId % 16 * 2 ^ 41 + b2n f.short * 2 ^ 45 + f.rate % 4 * 2 ^ 46 +
  f.len % 8192 * 2 ^ 48 + f.attempt % 8 * 2 ^ 61 + f.tag % 65536 * 2 ^ 64 + f.keyGen % 256 * 2 ^ 80 + f.bpcFirst % 2 ^ 32 * 2 ^ 88 +
  f.seq % 65536 * 2 ^ 120

/-- The 30 bytes of a frame-control block (R95, R96). -/
def fcBytes (f : FrameCtl) : Bytes :=
  let head := leBytes 27 (fcNat f)
  head ++ bytesOfBits 3 (fcCrcBits (bitsOf head))

/-- The additional authenticated data of a frame: bits [135:0] with attempt, gi_code, pay_mode and tone_map_id at 0 (R164). -/
def fcAad (f : FrameCtl) : Bytes := leBytes 17 (fcNat { f with attempt := 0, gi := 0, mode := 0, tmId := 0 })

/-- The GCM nonce of a frame (R164). -/
def gcmNonce (f : FrameCtl) : Bytes :=
  leBytes 12 (f.keyGen % 256 + f.bpcFirst % 2 ^ 32 * 2 ^ 8 + f.src % 4096 * 2 ^ 40 + f.ctxSel % 4 * 2 ^ 52 + f.seq % 65536 * 2 ^ 56 +
    f.ftype % 16 * 2 ^ 72 + f.tag % 65536 * 2 ^ 80)

/-! ## LDPC codes (R99 to R104) -/

/-- Block rows m of a rate (R99). -/
def ldpcM (rate : Nat) : Nat := match rate with | 0 => 40 | 1 => 20 | 2 => 8 | _ => 5
/-- Row step t of a rate (R100). -/
def ldpcT (rate : Nat) : Nat := match rate with | 0 => 13 | 1 => 6 | 2 => 2 | _ => 1
/-- Block columns n_b (R99). -/
def ldpcNb (rate : Nat) : Nat := 40 + ldpcM rate
/-- Lifting Z of the long and the short code (R99). -/
def ldpcZ (short : Bool) : Nat := if short then 24 else 192
/-- Information bits K and codeword bits N (R99). -/
def ldpcK (short : Bool) : Nat := 40 * ldpcZ short
def ldpcN (short : Bool) (rate : Nat) : Nat := ldpcNb rate * ldpcZ short

/-- Column j has an entry in row i (R100). -/
def ldpcEntry (rate i j : Nat) : Bool :=
  let m := ldpcM rate
  let t := ldpcT rate
  i == j % m || i == (j + t) % m || i == (j + 2 * t) % m

/-- Base shift of an information entry, and its lifting by Z (R101). -/
def ldpcShift (i j : Nat) : Nat := (17 * i * (2 * j + 1) + 7 * j * j) % 192
def ldpcLift (z s : Nat) : Nat := s * z / 192

def xorBits (a b : List Bool) : List Bool := List.zipWith (fun x y => x != y) a b

/-- λ of row i: the sum of the rotated information blocks (R102). -/
def ldpcLambda (rate z i : Nat) (u : List (List Bool)) : List Bool :=
  u.zipIdx.foldl (fun acc x =>
    if ldpcEntry rate i x.2 then
      let sh := ldpcLift z (ldpcShift i x.2)
      xorBits acc (x.1.drop sh ++ x.1.take sh)
    else acc) (List.replicate z false)

/-- Blocks of z bits of a bit list, `n` of them. -/
def blocksOf (z : Nat) : Nat → List Bool → List (List Bool)
  | 0, _ => []
  | n + 1, l => (l.take z ++ List.replicate (z - l.length) false) :: blocksOf z n (l.drop z)

/-- The parity blocks, in order (R102). -/
def ldpcParity (rate z : Nat) (u : List (List Bool)) : Nat → List Bool → Nat → List (List Bool)
  | 0, _, _ => []
  | n + 1, prev, i =>
    let p := xorBits (ldpcLambda rate z i u) prev
    p :: ldpcParity rate z u n p (i + 1)

/-- The codeword of K information bits at lifting z: information blocks, then parity blocks (R102). -/
def ldpcEncode (rate z : Nat) (info : List Bool) : List Bool :=
  let u := blocksOf z 40 info
  (u ++ ldpcParity rate z u (ldpcM rate) (List.replicate z false) 0).flatten

/-- Every parity check holds of a codeword (R59): the encoder's parity of its information bits is its parity part. -/
def ldpcCheck (rate z : Nat) (cw : List Bool) : Bool := decide (ldpcEncode rate z (cw.take (40 * z)) = cw)

/-- Codewords of a frame (R103). -/
def nCodewords (short : Bool) (len : Nat) : Nat := ceilDiv (8 * len) (ldpcK short)

/-- Codewords of a payload, the last padded with 0 (R103). -/
def frameCodewords (short : Bool) (rate : Nat) (payload : Bytes) : List (List Bool) :=
  let z := ldpcZ short
  (blocksOf (ldpcK short) (nCodewords short payload.length) (bitsOf payload)).map (ldpcEncode rate z)

/-- Interleaved bit k is codeword bit (k mod n_b) Z + k / n_b (R105). -/
def interleave (nb z : Nat) (cw : List Bool) : List Bool := (List.range (nb * z)).map fun k => cw.getD (k % nb * z + k / nb) false

/-- The comb order of D carriers: 0, 8, 16, …, then 1, 9, …, to 7 (R106). -/
def combOrder (d : Nat) : List Nat := (List.range 8).flatMap fun o => (List.range d).filter fun i => i % 8 == o

/-- Padding bit t of a frame (R106). -/
def padBit (t : Nat) : Bool := pilot t == 1

/-- Level index of an axis from its bits, first taken first (R107): g_(m−1) = a_0 and g_k = g_(k+1) xor a_(m−1−k). -/
def grayLevel : List Bool → Nat := fun a => (a.foldl (fun (x : Nat × Bool) b => let g := x.2 != b; (2 * x.1 + b2n g, g)) (0, false)).1

/-- The two axis levels of the bits a carrier takes, before scaling (R107). -/
def axisLevels (bits : List Bool) : Int × Int :=
  let mi := (bits.length + 1) / 2
  let lev := fun (a : List Bool) => if a.isEmpty then (0 : Int) else 2 * (grayLevel a : Int) - (2 ^ a.length - 1 : Nat)
  (lev (bits.take mi), lev (bits.drop mi))

/-! ## Symbol counts (R108, R109) -/

/-- Repetition of a hardtack mode (R95). -/
def hardtackRho (mode : Nat) : Nat := match mode with | 1 => 2 | 2 => 4 | _ => 8
/-- Distinct values per symbol (R109). -/
def hardtackU (mode d : Nat) : Nat := d / hardtackRho mode
/-- Coded bits per payload symbol in a hardtack mode (R109). -/
def hardtackB (mode d : Nat) : Nat := if mode = 4 then hardtackU mode d else 2 * hardtackU mode d

/-- n_sym (R108); no bits per symbol gives no frame. -/
def nSymbols (nCw n b : Nat) : Nat := if b = 0 then 0 else ceilDiv (nCw * n) b

/-- T_ack in ns at guard `gi` with D data carriers on (R152). -/
def tAck (gi d : Nat) : Nat := headNs + nSymbols 1 1920 (2 * (d / 2)) * tSym gi

/-- The ack tail of an allocation in ns (R152). -/
def ackTail (gi d : Nat) : Nat := 4 * tSym gi + 10000 + tAck gi d

/-- Length in ns of a beacon with n_alloc allocations and n_notch notches (R145, R147): the long code at rate 1/2 in QPSK ×2. -/
def beaconNs (gi d nNotch nAlloc : Nat) : Nat :=
  headNs + nSymbols (nCodewords false (248 + 5 * nNotch + 8 * nAlloc + 16)) (ldpcN false 0) (hardtackB 1 d) * tSym gi

/-! ## Tone maps (R114 to R117) -/

/-- A tone map from its 871 bytes (R116). -/
def parseToneMap (b : Bytes) : ToneMap where
  id := bitsAt b 0 4
  gi := bitsAt b 4 2
  rate := bitsAt b 6 2
  edge := bitsAt b 8 2
  bits := bitsAt b 16 16
  validFrom := BitVec.ofNat 32 (bitsAt b 32 32)
  entries := (List.range 1725).map fun i => natBits ((b.getD (8 + i / 2) 0).toNat) (if i % 2 = 0 then 0 else 4) 4

/-- The 871 bytes of a tone map (R116). -/
def toneMapBytes (m : ToneMap) : Bytes :=
  leBytes 8 (m.id % 16 + m.gi % 4 * 2 ^ 4 + m.rate % 4 * 2 ^ 6 + m.edge % 4 * 2 ^ 8 + m.bits % 65536 * 2 ^ 16 + m.validFrom.toNat * 2 ^ 32) ++
  (List.range 863).map fun k => BitVec.ofNat 8 (m.entries.getD (2 * k) 0 % 16 + m.entries.getD (2 * k + 1) 0 % 16 * 16)

/-- A tone map keeps R116: id 1 to 15, reserved fields 0, entries at most 12, their sum, and 0 on pilots, above the edge and on carriers that
are off. -/
def toneMapOk (e : Emission) (b : Bytes) : Bool :=
  let m := parseToneMap b
  decide (b.length = 871) && m.id != 0 && bitsAt b 10 6 == 0 && bitsAt b 6964 4 == 0 && m.edge == e.edge &&
  m.entries.all (fun x => x ≤ 12) && m.entries.sum == m.bits &&
  (m.entries.zipIdx).all fun x => x.1 == 0 || (e.on (x.2 + 37) && !isPilot (x.2 + 37))

/-- Bits of a frame in tone-map mode per payload symbol: the map's bits on the data carriers that are on (R108). -/
def mapBits (e : Emission) (m : ToneMap) : Nat := (e.dataCarriers.map fun c => m.entries.getD (c - 37) 0).sum

/-- Rate as numerator and denominator (R99). -/
def rateFrac (rate : Nat) : Nat × Nat := match rate with | 0 => (1, 2) | 1 => (2, 3) | 2 => (5, 6) | _ => (8, 9)

/-- Loading gap of a rate in 0.1 dB (R114). -/
def loadGap (short : Bool) (rate : Nat) : Nat :=
  match rate with
  | 0 => if short then 24 else 13
  | 1 => if short then 25 else 14
  | 2 => if short then 26 else 15
  | _ => if short then 27 else 16

/-- 10^(x/10) in units of 10^−15, x in 0.1 dB of power: the linear value of a level. -/
def linDb10 (x : Nat) : Nat := 10 ^ 45 / (hundredths.getD (x % 10) 1 * downDb (x / 10))

/-- The carrier of SNR γ (0.1 dB) bears b bits at rate r: r b ≤ log₂(1 + γ/Γ), that is 2^(num b) ≤ (1 + γ/Γ)^den (R114). -/
def bears (rate gap : Nat) (snr : Int) (b : Nat) : Bool :=
  let (p, q) := rateFrac rate
  let d := snr - gap
  let lin := if 0 ≤ d then linDb10 d.toNat else hundredths.getD ((-d).toNat % 10) 0 * downDb ((-d).toNat / 10) / 10 ^ 15
  decide (2 ^ (p * b) * (10 ^ 15) ^ q ≤ (10 ^ 15 + lin) ^ q)

/-- Largest loading from 0 to max_bits (R114). -/
def loadOf (rate gap maxBits : Nat) (snr : Int) : Nat := ((List.range (maxBits + 1)).reverse.find? (bears rate gap snr)).getD 0

/-- The loader of R114: entries and rate with the largest r Σ b, the lower rate at equal values. `snr` gives γ of carriers 37 on, 0.1 dB. -/
def loadBits (e : Emission) (mask margin maxBits : Nat) (snr : List Int) : List Nat × Nat :=
  let tries := ((List.range 4).filter fun r => mask.testBit r).map fun r =>
    (carriers.map fun c => if e.on c && !isPilot c then loadOf r (loadGap false r + margin) maxBits (snr.getD (c - 37) (-1000)) else 0, r)
  let val := fun (x : List Nat × Nat) => (rateFrac x.2).1 * x.1.sum * (18 / (rateFrac x.2).2)
  tries.foldl (fun best x => if val best < val x then x else best) (List.replicate 1725 0, ((List.range 4).find? mask.testBit).getD 0)

/-! ## Soft values (R111, R138) -/

/-- Blanking weight of a symbol with k blanked body samples (R138). -/
def blankWeight (k : Nat) : Nat :=
  if k = 0 then 16 else if k ≤ 16 then 14 else if k ≤ 64 then 12 else if k ≤ 256 then 8 else if k ≤ 1024 then 4 else 0

/-- Residual weight: whether the berth transmits in the symbol, E(s) in 0.1 dB when evaluated, DIVERGED (R138). -/
def residWeight (tx diverged : Bool) (e : Option Int) : Nat :=
  if !tx then 16
  else if diverged then 0
  else match e with
    | none => 8
    | some x => if x ≤ 30 then 16 else if x ≤ 60 then 8 else if x ≤ 100 then 4 else 0

/-- The symbol's weight in sixteenths (R138). -/
def symWeight (k : Nat) (tx diverged : Bool) (e : Option Int) : Nat := blankWeight k * residWeight tx diverged e / 16

/-- LLRs clip to ±63 steps of 0.25 (R111). -/
def clipLlr (x : Int) : Int := max (-63) (min 63 x)

end Sys2Proof.Machine
end

