-- ==== Sys2Proof/Machine/Crc.lean ====
section
/-! DEFINITION. The check computation of R366 and the CRC-32C of R208 that is one setting of it; the escaping of R267 frames. -/

namespace Sys2Proof

/-- The low `w` bits of a number in reverse order. -/
def reflectBits (n w : Nat) : Nat := natOfBits ((List.range w).map fun i => n.testBit (w - 1 - i))

/-- One bit enters the register (R366): the bit leaving at the top XOR the bit entering selects the polynomial. -/
def crcBit (w poly reg : Nat) (b : Bool) : Nat :=
  let top := reg.testBit (w - 1)
  let r := reg * 2 % 2 ^ w
  if top != b then r ^^^ poly else r

/-- One byte enters, most significant bit first, or least first with refin 1 (R366). -/
def crcByte (w poly : Nat) (refin : Bool) (reg : Nat) (b : Byte) : Nat :=
  let bits := byteBits b
  (if refin then bits else bits.reverse).foldl (crcBit w poly) reg

/-- A byte string enters (R366). -/
def crcFeed (w poly : Nat) (refin : Bool) (reg : Nat) (l : Bytes) : Nat := l.foldl (crcByte w poly refin) reg

/-- What the register reads as: refout and xorout (R366). -/
def crcOut (w : Nat) (refout : Bool) (xorout reg : Nat) : Nat := (if refout then reflectBits reg w else reg) ^^^ xorout

/-- CRC-32C (R208). -/
def crc32c (l : Bytes) : Nat := crcOut 32 true 0xFFFFFFFF (crcFeed 32 0x1EDC6F41 true 0xFFFFFFFF l)

/-- The CRC as it is stored and sent: little-endian (R208). -/
def crc32cBytes (l : Bytes) : Bytes := leBytes 4 (crc32c l)

/-- Undo the escaping of R267: 0x7D followed by a byte stands for that byte XOR 0x20. -/
def unescape : Bytes → Bytes
  | [] => []
  | b :: r => if b = 0x7D then match r with
      | [] => []
      | c :: r' => (c ^^^ 0x20) :: unescape r'
    else b :: unescape r

/-- Escape a byte string for a frame of R267. -/
def escape (l : Bytes) : Bytes := l.flatMap fun b => if b = 0x7E ∨ b = 0x7D then [0x7D, b ^^^ 0x20] else [b]

/-- The body of a frame of R267 when its CRC holds, from the bytes between its flags. -/
def frameBody (l : Bytes) : Option Bytes :=
  let u := unescape l
  if 4 ≤ u.length ∧ u.drop (u.length - 4) = crc32cBytes (u.take (u.length - 4)) then some (u.take (u.length - 4)) else none

end Sys2Proof
end

