-- ==== Sys2Proof/Machine/Ecc.lean ====
section
/-! DEFINITION. The address-folded code (R206, R207). -/

namespace Sys2Proof

/-- The number of ones in a byte. -/
def weight8 (n : Nat) : Nat := (List.range 8).countP fun i => n.testBit i

/-- The values of a weight, ascending. -/
def ofWeight (w : Nat) : List Nat := (List.range 256).filter fun n => weight8 n == w

/-- The data columns: the 56 values of weight 3, then the eight smallest of weight 5. -/
def dataColumns : List Nat := ofWeight 3 ++ (ofWeight 5).take 8

/-- The address columns: the 28 values of weight 2, then the six smallest of weight 4. -/
def addrColumns : List Nat := ofWeight 2 ++ (ofWeight 4).take 6

/-- A matrix times the bits of a number. -/
def mulColumns (cols : List Nat) (n : Nat) : Nat := (cols.zipIdx.filter fun x => n.testBit x.2).foldl (fun a x => a ^^^ x.1) 0

/-- The check byte of a 64-bit word at a 34-bit word address (R206). -/
def checkByte (d a : Nat) : Nat := mulColumns dataColumns d ^^^ mulColumns addrColumns a

/-- The syndrome of data and check byte read for an intended address (R207). -/
def eccSyndrome (d c a : Nat) : Nat := checkByte d a ^^^ c

/-- What a syndrome means (R207). -/
inductive EccEnd where
  | good | corrected | uncorrectable
  deriving DecidableEq, Repr

/-- The outcome of a syndrome (R207): a single data or check column is a single-bit error. -/
def eccOutcome (syn : Nat) : EccEnd :=
  if syn = 0 then .good
  else if dataColumns.contains syn || (List.range 8).any (fun k => syn == 2 ^ k) then .corrected
  else .uncorrectable

end Sys2Proof
end

