-- ==== Sys2Proof/Machine/Memory.lean ====
section
/-! DEFINITION. The byte memory of the Hold: a list of cells in one canonical form. An unlisted byte reads as 0. -/

namespace Sys2Proof.Machine
open Sys2Proof

/-- Every address of a list lies above `a`, addresses rise strictly, and no entry equals what an unlisted byte reads as. -/
def Memory.wfAbove (a : Nat) : Memory → Bool
  | [] => true
  | (k, v) :: r => decide (a < k) && v != 0 && Memory.wfAbove k r

/-- The canonical form. -/
def Memory.wf : Memory → Bool
  | [] => true
  | (k, v) :: r => v != 0 && Memory.wfAbove k r

/-- The byte at an address. -/
def Memory.get : Memory → Nat → Byte
  | [], _ => 0
  | (k, v) :: r, a => if a = k then v else if a < k then 0 else Memory.get r a

/-- Write a byte; writing what an unlisted byte reads as removes the entry. -/
def Memory.put : Memory → Nat → Byte → Memory
  | [], a, b => if b = 0 then [] else [(a, b)]
  | (k, v) :: r, a, b =>
    if a < k then (if b = 0 then (k, v) :: r else (a, b) :: (k, v) :: r)
    else if a = k then (if b = 0 then r else (k, b) :: r)
    else (k, v) :: Memory.put r a b

/-- Read `n` bytes, ascending. -/
def Memory.gets (m : Memory) (a : Nat) : Nat → Bytes
  | 0 => []
  | n + 1 => m.get a :: m.gets (a + 1) n

/-- Write a byte string, ascending. -/
def Memory.puts (m : Memory) (a : Nat) : Bytes → Memory
  | [] => m
  | b :: r => (m.put a b).puts (a + 1) r

end Sys2Proof.Machine
end

