-- ==== Sys2Proof/Machine/Hold.lean ====
section
/-! DEFINITION. The Hold's shared operations (chapter 09): addresses, buffers, stored frames, admission, the context cache, soft slots,
channels out of service. -/

namespace Sys2Proof.Machine
open Sys2Proof

/-! ## Addresses (R202, R203, R217) -/

/-- Bytes of a channel. -/
def State.chanSize (s : State) : Nat := if s.boot.gib128 then 2 ^ 33 else 2 ^ 32

/-- The store address of an offset in a channel. -/
def State.storeAddr (s : State) (m : Chan) (off : Nat) : Nat := m.val * s.chanSize + off

/-- Offsets of the soft area and of the frame area in a channel. -/
def State.softBase (s : State) : Nat := if s.boot.gib128 then 0x1C000000 else 0x10000000
def State.frameBase (s : State) : Nat := if s.boot.gib128 then 0xD8000000 else 0x6E000000

/-- Bytes of a channel's frame area. -/
def State.frameArea (s : State) : Nat := s.chanSize - s.frameBase

/-- 2 KiB and 16 KiB buffers of a channel (R211): small_buf_pct is the share of the 2 KiB buffers. -/
def State.smallBufs (s : State) : Nat := s.frameArea * s.hold.smallPct / 100 / 2048
def State.largeBufs (s : State) : Nat := (s.frameArea - s.smallBufs * 2048) / 16384

/-- The address of a buffer: the small ones first from the start of the area, then the large ones. -/
def State.bufAddr (s : State) (m : Chan) (large : Bool) (i : Nat) : Nat :=
  s.storeAddr m (s.frameBase + (if large then s.smallBufs * 2048 + i * 16384 else i * 2048))

def Frame.bytes (f : Frame) : Nat := if f.large then 16384 else 2048

/-- Soft slots of a context (R217). -/
def State.softSlots (s : State) : Nat := if s.boot.gib128 then 8 else 4

/-- Channel and address of the slot of a context's descriptor. -/
def State.softChan (s : State) (ctx i : Nat) : Chan := ⟨(s.softSlots * ctx + i) % 16, Nat.mod_lt _ (by decide)⟩
def State.softAddr (s : State) (ctx i : Nat) : Nat := s.storeAddr (s.softChan ctx i) (s.softBase + (s.softSlots * ctx + i) / 16 * 7680)

/-! ## Stored frames (R209, R211) -/

/-- The 64-bit prefix of a stored frame's CRC (R209): store address and store_seq. -/
def framePrefix (addr seq : Nat) : Bytes := leBytes 8 (addr % 2 ^ 40 + seq % 2 ^ 24 * 2 ^ 40)

/-- The 32-byte header (R211). -/
def Frame.header (f : Frame) : Bytes :=
  leBytes 32 (f.seq.toNat + f.len % 2 ^ 14 * 2 ^ 24 + f.srcKind % 8 * 2 ^ 38 + f.srcIdx % 256 * 2 ^ 41 + f.dstKind % 8 * 2 ^ 49 +
    f.dstIdx % 256 * 2 ^ 52 + f.tclass % 4 * 2 ^ 60 + (if f.redirected then 2 ^ 62 else 0) + f.ctx % 2 ^ 18 * 2 ^ 64 +
    f.attempts % 256 * 2 ^ 82 + f.arrivalUs.toNat * 2 ^ 128)

/-- Payload bytes with their padding to a multiple of 4. -/
def padTo4 (n : Nat) : Nat := (n + 3) / 4 * 4

/-- A frame as it lies in its buffer: header, payload, padding, CRC. -/
def frameImage (f : Frame) (addr : Nat) (payload : Bytes) : Bytes :=
  f.header ++ payload ++ List.replicate (padTo4 payload.length - payload.length) 0 ++
    crc32cBytes (framePrefix addr f.seq.toNat ++ payload)

def State.frameAddr (s : State) (f : Frame) : Nat := s.bufAddr f.chan f.large f.buf

/-- The payload and the CRC as the memory holds them. -/
def State.framePayload (s : State) (f : Frame) : Bytes := s.hold.mem.gets (s.frameAddr f + 32) f.len
def State.frameCrc (s : State) (f : Frame) : Bytes := s.hold.mem.gets (s.frameAddr f + 32 + padTo4 f.len) 4

/-- The check of R209 at the read for an output. -/
def State.frameCrcOk (s : State) (f : Frame) : Bool :=
  s.frameCrc f == crc32cBytes (framePrefix (s.frameAddr f) f.seq.toNat ++ s.framePayload f)

/-! ## Queues and quotas (R211, R212) -/

/-- No context. -/
def noCtx : Nat := 0x3FFFF

/-- Output groups in the order of R234: berth, host, Ethernet, fabric. -/
def groupOfKind (dstKind : Nat) : Nat := match dstKind with | 0 => 0 | 2 => 1 | 1 => 2 | _ => 3

/-- Two frames stand in one queue: that of the context and direction, or the class queue of the port and class (R211). -/
def Frame.sameQueue (f g : Frame) : Bool :=
  if f.ctx ≠ noCtx then g.ctx == f.ctx && decide ((g.dstKind = 0) = (f.dstKind = 0))
  else g.ctx == noCtx && g.dstKind == f.dstKind && g.dstIdx == f.dstIdx && g.tclass == f.tclass

/-- The frames that an overflow drops oldest first (R212): a host-bound frame's queue pair, else the frame's queue. -/
def Frame.dropSet (f g : Frame) : Bool := if f.dstKind = 2 then g.dstKind == 2 && g.dstIdx == f.dstIdx else f.sameQueue g

/-- A full queue drops its oldest (R212): the relayed class, and any queue bound for the host. -/
def Frame.dropsOldest (f : Frame) : Bool := f.dstKind == 2 || f.tclass == 1

def framesBytes (l : List Frame) : Nat := (l.map Frame.bytes).foldl (· + ·) 0

/-- Channels whose frame area counts (R211): those not retired. -/
def State.liveChans (s : State) : List Chan := (List.finRange 16).filter fun (m : Chan) => !s.chanOut m

/-- A group's quota in bytes (R211). -/
def State.quota (s : State) (g : Nat) : Nat :=
  let pct := match g with | 0 => s.fnat .berthQPct 0 | 1 => s.fnat .hostQPct 0 | 2 => s.fnat .ethQPct 0 | _ => s.fnat .fabQPct 0
  s.liveChans.length * s.frameArea * pct / 100

/-- The limits of a frame hold with it among `l` (R211, R212): its queue's for context queues and the relayed class (a queue bound for the host has its quota
alone), its group's quota, its berth's share. -/
def State.withinLimits (s : State) (l : List Frame) (f : Frame) : Bool :=
  let q := if f.dstKind ≠ 2 ∧ (f.ctx ≠ noCtx ∨ f.tclass = 1) then decide (framesBytes (l.filter f.sameQueue) + f.bytes ≤ s.fnat .ctxQMaxKib 0 * 1024) else true
  let g := groupOfKind f.dstKind
  let grp := decide (framesBytes (l.filter fun x => groupOfKind x.dstKind == g) + f.bytes ≤ s.quota g)
  let share := if f.dstKind = 0 then
      decide (32 * (framesBytes (l.filter fun x => x.dstKind == 0 && x.dstIdx == f.dstIdx) + f.bytes) ≤ s.quota 0)
    else true
  q && grp && share

/-- The lowest buffer of a size that no frame of `l` occupies in a channel. -/
def State.freeBuf (s : State) (l : List Frame) (m : Chan) (large : Bool) : Option Nat :=
  let used := (l.filter fun x => x.chan == m && x.large == large).map (·.buf)
  let n := if large then s.largeBufs else s.smallBufs
  ((List.range (used.length + 1)).find? fun i => !used.contains i).filter fun i => decide (i < n)

/-- The channel of a new frame (R215): in service, with a buffer, fewest bursts pending in class 2, class 0 for frames from berths; the lowest
index at equal counts. -/
def State.pickChan (s : State) (l : List Frame) (large : Bool) (fromBerth : Bool) : Option (Chan × Nat) :=
  (List.finRange 16).foldl (fun (a : Option (Chan × Nat)) (m : Chan) =>
    if s.hold.chan[m].st = ChanSt.active then
      match s.freeBuf l m large with
      | none => a
      | some i =>
        let n := if fromBerth then s.hold.chan[m].pend[0] else s.hold.chan[m].pend[2]
        match a with
        | none => some (m, i)
        | some (k, _) => if n < (if fromBerth then s.hold.chan[k].pend[0] else s.hold.chan[k].pend[2]) then some (m, i) else a
    else a) none

/-- Bursts of 32 bytes (R213). -/
def bursts (n : Nat) : Nat := ceilDiv n 32

/-- Bursts join a class of a channel. -/
def State.addPend (s : State) (m : Chan) (cls : Fin 5) (n : Nat) : State :=
  s.modChan m fun c => { c with pend := c.pend.set cls (c.pend[cls] + n) }

/-- The class of the bursts of a frame between an end and the Hold: 0 for berths, 2 else (R213). -/
def endClass (kind : Nat) : Fin 5 := if kind = 0 then 0 else 2

/-- rx_drop_hist of the queue pair a dropped frame was steered to (R240). -/
def State.noteDrop (s : State) (f : Frame) : State :=
  if f.dstKind = 2 then s.modQp (Fin.ofNat 256 f.dstIdx) fun x => { x with rxDropHist := true } else s

/-- How an admission ends (R212). -/
inductive Admit where
  | ok | tail | nobuf
  deriving DecidableEq, Repr

/-- Place a frame: buffer, store_seq, header, payload, padding and CRC written (R209, R211, R215). -/
def State.placeFrame (s : State) (f : Frame) (payload : Bytes) (m : Chan) (i : Nat) : State :=
  let g : Frame := { f with no := s.hold.nextNo, chan := m, buf := i, seq := s.hold.chan[m].seq }
  let addr := s.bufAddr m f.large i
  let img := frameImage g addr payload
  let s1 := { s with hold := { s.hold with mem := s.hold.mem.puts addr img, frames := s.hold.frames ++ [g], nextNo := s.hold.nextNo + 1 } }
  (s1.modChan m fun c => { c with seq := c.seq + 1 }).addPend m (endClass f.srcKind) (bursts img.length)

/-- Drop frames by number. -/
def State.dropFrames (s : State) (nos : List Nat) : State :=
  { s with hold := { s.hold with frames := s.hold.frames.filter fun x => !nos.contains x.no } }

/-- The fewest oldest frames of a set that make room: the first n whose removal lets the frame in. -/
def State.makeRoom (s : State) (f : Frame) : Option (List Frame) :=
  let set := s.hold.frames.filter f.dropSet
  (List.range (set.length + 1)).findSome? fun n =>
    let gone := set.take n
    let l := s.hold.frames.filter fun x => !gone.any fun y => y.no == x.no
    if s.withinLimits l f && (s.pickChan l f.large (f.srcKind == 0)).isSome then some gone else none

/-- Admission (R212): room in the queue, the share or quota and the pool, or the action of the table. -/
def State.takeIn (s : State) (f0 : Frame) (payload : Bytes) : State × Admit :=
  let f : Frame := { f0 with len := payload.length, large := decide (2012 < payload.length), arrivalUs := BitVec.ofNat 32 (s.devTime / 1000) }
  let g := groupOfKind f.dstKind
  let lost := fun (a : State) (x : Stat) => (a.bump x 0 g).noteDrop f
  if s.withinLimits s.hold.frames f then
    match s.pickChan s.hold.frames f.large (f.srcKind == 0) with
    | some (m, i) => (s.placeFrame f payload m i, .ok)
    | none => (lost s .qDropNobuf, .nobuf)
  else if !f.dropsOldest then (lost s .qDropTail, .tail)
  else match s.makeRoom f with
    | none => (lost s .qDropTail, .tail)
    | some gone =>
      let s1 := ((s.dropFrames (gone.map (·.no))).bump .qDropOldest 0 g gone.length).noteDrop f
      match s1.pickChan s1.hold.frames f.large (f.srcKind == 0) with
      | some (m, i) => (s1.placeFrame f payload m i, .ok)
      | none => (lost s .qDropTail, .tail)

/-- A new frame's descriptor: its place is set when it is admitted. -/
def newFrame (srcKind srcIdx dstKind dstIdx tclass ctx : Nat) (redirected : Bool) : Frame :=
  { no := 0, chan := 0, large := false, buf := 0, seq := 0, len := 0, srcKind := srcKind, srcIdx := srcIdx, dstKind := dstKind, dstIdx := dstIdx,
    tclass := tclass, redirected := redirected, ctx := ctx, attempts := 0, arrivalUs := 0 }

/-- A frame is read for an output (R209, R228): its payload when its channel serves and its CRC holds; else it is dropped and counted. -/
def State.readFrame (s : State) (f : Frame) : State × Option Bytes :=
  let st := s.hold.chan[f.chan].st
  if st = .fenced ∨ st = .retired ∨ st = .untrained then ((s.dropFrames [f.no]).bump .framesLost 0 f.chan, none)
  else if s.frameCrcOk f then
    (s.addPend f.chan (endClass f.dstKind) (bursts (36 + padTo4 f.len)), some (s.framePayload f))
  else ((((s.dropFrames [f.no]).bump .crcErr 0 f.chan).raiseKey .storeCrc f.chan (seconds 1) 0 f.chan), none)

def State.setFrame (s : State) (f : Frame) : State :=
  { s with hold := { s.hold with frames := s.hold.frames.map fun x => if x.no = f.no then f else x } }

def State.frame? (s : State) (no : Nat) : Option Frame := s.hold.frames.find? fun x => x.no == no

/-! ## Contexts -/

def State.ctx? (s : State) (id : Nat) : Option Ctx := s.ctxs.find? fun c => c.id == id

/-- State of a context; FREE when none is listed. -/
def State.ctxSt (s : State) (id : Nat) : CtxSt := match s.ctx? id with | some c => c.st | none => .free

/-- Insert or replace a context, ids rising. -/
def putCtx (c : Ctx) : List Ctx → List Ctx
  | [] => [c]
  | d :: r => if c.id < d.id then c :: d :: r else if c.id = d.id then c :: r else d :: putCtx c r

def State.setCtx (s : State) (c : Ctx) : State := { s with ctxs := putCtx c s.ctxs }

def State.modCtx (s : State) (id : Nat) (f : Ctx → Ctx) : State :=
  { s with ctxs := s.ctxs.map fun c => if c.id = id then { f c with dirty := true } else c }

/-- A context is used (R216): a hit moves it to the front; a miss counts and its fetch starts. -/
def State.cacheUse (s : State) (id : Nat) : State :=
  if s.hold.cache.contains id then
    { s with hold := { s.hold with cache := id :: s.hold.cache.erase id } }.bump .cacheHit
  else s.bump .cacheMiss

/-- The least recently used context that is not held leaves when the cache holds more than 16,384 (R216). -/
def evict (cache pins : List Nat) : List Nat :=
  if cache.length ≤ 16384 then cache
  else match cache.reverse.find? fun i => !pins.contains i with
    | some i => cache.erase i
    | none => cache

/-- CTX_CACHE_FILL (R216): the fetch of a miss completes. -/
def execCtxCacheFill (t : Nat) (id : Nat) (s0 : State) : Host.Outcome State Fault Refusal :=
  let s := s0.at t
  if s.hold.cache.contains id then .next s
  else
    let h := s.hold
    .next { s with hold := { h with cache := evict (id :: h.cache) h.pins } }

/-- CTX_WRITEBACK (R216): the modified context is written to both copies. -/
def execCtxWriteback (t : Nat) (id : Nat) (s0 : State) : Host.Outcome State Fault Refusal :=
  let s := s0.at t
  .next { s with ctxs := s.ctxs.map fun c => if c.id = id then { c with dirty := false } else c }

/-! ## Soft values (R218, R219) -/

/-- The stored code of an LLR in quarter steps (R219): magnitude code by the thresholds, a midpoint to the lower code, code 0 without sign. -/
def llrCode (x : Int) : Nat :=
  let a := x.natAbs
  let m := if a ≤ 1 then 0 else if a ≤ 3 then 1 else if a ≤ 7 then 2 else if a ≤ 11 then 3 else if a ≤ 17 then 4 else if a ≤ 26 then 5
    else if a ≤ 40 then 6 else 7
  if m = 0 then 0 else if x < 0 then 8 + m else m

/-- The value a stored code restores to, in quarter steps (R219). -/
def llrOf (c : Nat) : Int :=
  let m : Int := match c % 8 with | 0 => 0 | 1 => 2 | 2 => 5 | 3 => 9 | 4 => 14 | 5 => 21 | 6 => 32 | _ => 48
  if 8 ≤ c then -m else m

/-- LLRs packed into a slot: even bits in low nibbles (R217). -/
def packLlrs : List Int → Bytes
  | [] => []
  | [x] => [BitVec.ofNat 8 (llrCode x)]
  | x :: y :: r => BitVec.ofNat 8 (llrCode x + 16 * llrCode y) :: packLlrs r

def unpackLlrs (b : Bytes) : List Int := b.flatMap fun c => [llrOf (c.toNat % 16), llrOf (c.toNat / 16)]

/-- Clear the soft descriptors of a context for which `p` holds. -/
def State.clearSoft (s : State) (id : Nat) (p : SoftDesc → Bool) : State :=
  { s with ctxs := s.ctxs.map fun c => if c.id = id then { c with soft := c.soft.filter fun d => !p d } else c }

/-! ## Capture gaps and channels out of service (R224, R228, R230 to R232) -/

/-- A gap block (R224): code 15 with mantissas 0. -/
def gapUnit : Bytes := leBytes 132 ((List.range 8).foldl (fun n i => n + 15 * 2 ^ (132 * i)) 0)

/-- A granule lost with its channel reads back as gap blocks (R224). -/
def Granule.gap (g : Granule) : Granule := { g with units := g.units.map fun _ => gapUnit }

/-- Mirrored blocks with a copy in one channel (R230): 320 MiB or 192 MiB in blocks of 4 KiB. -/
def State.mirrorBlocks (s : State) : Nat := if s.boot.gib128 then 81920 else 49152

/-- A channel is fenced (R228): transactions in flight are abandoned, its soft slots are cleared, its capture granules read as gaps, and it
joins the retirements in order unless one of it already runs. -/
def State.fence (s : State) (m : Chan) : State :=
  let st := s.hold.chan[m].st
  if st = .active ∨ st = .draining then
    let s1 := s.modChan m fun c => { c with st := .fenced, pend := .replicate 5 0, trig := false }
    let cap : Capture := { s1.hold.capture with granules := s1.hold.capture.granules.map fun g => if g.chan = m then g.gap else g }
    let s2 := { s1 with
      hold := { s1.hold with capture := cap,
                              retiring := if s1.hold.retiring.contains m then s1.hold.retiring else s1.hold.retiring ++ [m] },
      ctxs := s1.ctxs.map fun c => { c with soft := c.soft.filter fun d => !decide (s.softChan c.id d.slot = m) } }
    let gone := (List.finRange 16).countP fun (k : Chan) => s2.chanOut k || s2.hold.chan[k].st == .fenced
    if 4 < gone then s2.raise .storeDegraded 0 gone else s2
  else s

/-- A PD_STORE group fault fences its channels together (R227). -/
def State.fenceGroup (s : State) (k : DomId) : State :=
  s.forAll ((List.finRange 16).filter fun (m : Chan) => chanDom m == k) fun a m => a.fence m

/-- Channels already retired (R229). -/
def State.retiredCount (s : State) : Nat := (List.finRange 16).countP fun (m : Chan) => s.chanOut m

/-- The store_retired bits and the channel's place in the retirement mask (R231, R238). -/
def State.maskChan (s : State) (m : Chan) : State :=
  { s with sec := { s.sec with retireMask := s.sec.retireMask ||| BitVec.ofNat 16 (2 ^ m.val) } }

end Sys2Proof.Machine
end

