-- ==== Sys2Proof/Machine/MgmtOps.lean ====
section
/-! DEFINITION. The shared operations of management commands: sessions, acceptance, write locks, responses (R258 to R269, R62). -/

namespace Sys2Proof.Machine
open Sys2Proof

/-! ## Responses -/

/-- What a command answers: status, aux (none: 0 on OK, 0xFFFF_FFFF otherwise, R258) and body. -/
structure Rsp where
  st : Status := .ok
  aux : Option Nat := none
  body : Bytes := []
  deriving DecidableEq, Repr

def Rsp.err (st : Status) (aux : Option Nat := none) : Rsp := { st := st, aux := aux }

/-- The response header (R258). -/
def respHeader (cmd : Nat) (seq : BitVec 16) (st : Status) (len aux : Nat) : Bytes :=
  leBytes 16 (cmd % 2 ^ 16 + seq.toNat * 2 ^ 16 + st.code * 2 ^ 32 + len % 2 ^ 32 * 2 ^ 64 + aux % 2 ^ 32 * 2 ^ 96)

/-- The response space of a source (R259). -/
def respSpace : Src → Nat
  | .qp0 _ n => n
  | _ => 4096

/-- A response fits its space (R259). -/
def Rsp.fits (x : Rsp) (r : Req) : Bool := decide (16 + x.body.length ≤ respSpace r.src)

/-- INVALID and RANGE count in cmd_range_errors, DENIED in cmd_denied (R260). -/
def State.countStatus (s : State) (st : Status) : State :=
  match st with
  | .invalid | .range => s.bump .cmdRangeErrors
  | .denied => s.bump .cmdDenied
  | _ => s

/-- An entry of a queue pair's fetched list by opcode and tag (R244). -/
def entryIs (op : Nat) (tag : BitVec 16) (e : Bytes) : Bool := bitsAt e 0 8 == op && bitsAt e 16 16 == tag.toNat

/-- Send a response over its transport (R249, R263, R268): on QP0 the data and then the completion, on the others with the tag of the
session's key. -/
def State.sendRsp (s : State) (r : Req) (key : Bytes) (st : Status) (msg : Bytes) : State :=
  match r.src with
  | .qp0 tag n =>
    let data := msg.take n
    if s.qp[(0 : QpId)].st = .active ∧ s.qp[(0 : QpId)].fetched.any (entryIs 0x40 tag) then
      let s1 := s.modQp 0 fun x => { x with fetched := x.fetched.eraseP (entryIs 0x40 tag) }
      ((s1.emit (.respData tag data)).cqWrite 0 (cplEntry tag.toNat st 2 false 0 false 0 data.length)).qpSettle 0
    else s
  | _ => s.respond r.src.transport (if key = [] then msg else msg ++ cmdTag key 1 msg)

/-- Answer a request: count the status, send the response. -/
def State.answer (s : State) (cmd : Nat) (r : Req) (key : Bytes) (x : Rsp) : State :=
  let aux := x.aux.getD (if x.st = .ok then 0 else 0xFFFFFFFF)
  let body := if x.st = .ok then x.body else []
  (s.countStatus x.st).sendRsp r key x.st (respHeader cmd r.cmdSeq x.st body.length aux ++ body)

/-- Answer that the response space is too small: the header alone, status RANGE, body_len the length needed (R259). -/
def State.answerShort (s : State) (cmd : Nat) (r : Req) (key : Bytes) (need : Nat) : State :=
  (s.countStatus .range).sendRsp r key .range (respHeader cmd r.cmdSeq .range need 0xFFFFFFFF)

/-! ## Sessions -/

def State.session (s : State) (id : BitVec 16) : Option Session := s.mgmt.sessions.find? fun x => x.id == id

def State.modSession (s : State) (id : BitVec 16) (f : Session → Session) : State :=
  { s with mgmt := { s.mgmt with sessions := s.mgmt.sessions.map fun x => if x.id = id then f x else x } }

/-- Close a session (R266); an image it stages is abandoned (R399). -/
def State.closeSession (s : State) (id : BitVec 16) : State :=
  let st := match s.boot.staging with
    | some g => if g.owner = id then none else some g
    | none => none
  { s with mgmt := { s.mgmt with sessions := s.mgmt.sessions.filter fun x => x.id != id,
                                  closedIds := (id, s.mgmt.opened) :: s.mgmt.closedIds.filter fun x => s.mgmt.opened < x.2 + 32768 },
           boot := { s.boot with staging := st } }

/-- Close every session for which `p` holds. -/
def State.closeWhere (s : State) (p : Session → Bool) : State :=
  s.forAll ((s.mgmt.sessions.filter p).map (·.id)) fun a id => a.closeSession id

/-- One command of a session has completed: its idleness counts afresh, and a SESSION_CLOSE that waited is answered once no other command is
in progress (R266). -/
def State.sessionDone (s : State) (id : BitVec 16) : State :=
  let s1 := s.modSession id fun x => { x with busy := x.busy - 1, activeAt := s.now }
  match s1.session id with
  | some x =>
    match x.closing with
    | some r => if x.busy ≤ 1 then (s1.answer 2 r x.key {}).closeSession id else s1
    | none => if x.dying && x.busy == 0 then s1.closeSession id else s1
  | none => s1

/-- Commands in progress that share a limit of R263: all of QP0, or the session's own. -/
def State.inProgress (s : State) (x : Session) : Nat :=
  match x.tr with
  | .qp0 => (s.mgmt.sessions.filter fun y => y.tr == .qp0).foldl (fun n y => n + y.busy) 0
  | _ => x.busy

/-- Commands in progress at most (R263). -/
def progressLimit : Transport → Nat
  | .qp0 => 16
  | .uart0 => 1
  | .fabric _ => 4

/-- The least role of a command (R261, R274). -/
def leastRole (cmd : Nat) : Role :=
  if cmd = 0x2 ∨ cmd = 0x3 ∨ cmd = 0x5 ∨ cmd = 0x7 ∨ cmd = 0x15 ∨ cmd = 0x16 then .observer
  else if cmd = 0x8 ∨ cmd = 0x9 ∨ cmd = 0x13 ∨ cmd = 0x14 then .officer
  else .operator

/-- While Starter waits for an image from the host only SESSION_OPEN, FW_STAGE of kind 0 and FW_COMMIT of action 0 are served (R398). -/
def hostLoadServes (cmd : Nat) (r : Req) : Bool :=
  cmd == 1 || (cmd == 8 && bitsAt r.body 0 8 == 0) || (cmd == 9 && bitsAt r.body 8 8 == 0)

/-- Commands whose header names no object: obj_class must be 0 (R258). -/
def namesObject (cmd : Nat) : Bool := cmd == 3 || cmd == 4 || cmd == 5

/-- Remove a request from the inbox of verified requests. -/
def State.unbox (s : State) (cmd : Nat) (r : Req) : State :=
  { s with mgmt := { s.mgmt with inbox := s.mgmt.inbox.erase (cmd, r) } }

/-- Acceptance of a command (R263, R264, R261, R258): its session, its transport, its sequence, its header and its role. A refusal leaves the
state as it was but for the sequence when the command was accepted. -/
def State.accept (s : State) (cmd : Nat) (r : Req) : State × Option Session × Option Status :=
  match s.session r.session with
  | none => (s, none, some .stale)
  | some x =>
    if x.tr ≠ r.src.transport then (s, none, some .stale)
    else if !newer 16 r.cmdSeq.toNat x.lastSeq.toNat || x.closing.isSome || x.dying then (s, some x, some .stale)
    else
      let s1 := s.modSession x.id fun y => { y with lastSeq := r.cmdSeq, activeAt := s.now }
      if s.boot.hostLoad && !hostLoadServes cmd r then (s1, some x, some .notReady)
      else if progressLimit x.tr ≤ s.inProgress x then (s1, some x, some .busy)
      else if r.rsv ≠ 0 ∨ (!namesObject cmd ∧ r.cls ≠ 0) then (s1, some x, some .invalid)
      else if x.role.code < (leastRole cmd).code then (s1, some x, some .denied)
      else if namesObject cmd ∧ (Cls.ofCode r.cls.toNat).instances ≤ r.inst.toNat then (s1, some x, some .range)
      else (s1.modSession x.id fun y => { y with busy := y.busy + 1 }, some x, none)

def sessionKey : Option Session → Bytes
  | some x => x.key
  | none => []

/-! ## Write locks (R62, R269) -/

/-- The locks held by commands that have started. -/
def State.heldLocks (s : State) : List Lock :=
  s.mgmt.granted.flatMap (·.locks) ++ s.mgmt.running.flatMap fun x => x.q.locks

/-- Grant in order: a request is granted when none of its locks is held or wanted by a request before it. -/
def grantIn (blocked : List Lock) : List LockReq → List LockReq × List LockReq
  | [] => ([], [])
  | q :: rest =>
    let (g, w) := grantIn (q.locks ++ blocked) rest
    if q.locks.any fun l => blocked.contains l then (g, q :: w) else (q :: g, w)

/-- Grant every waiting request that may start (R269). -/
def State.grant (s : State) : State :=
  let (g, w) := grantIn s.heldLocks s.mgmt.waiting
  { s with mgmt := { s.mgmt with granted := s.mgmt.granted ++ g, waiting := w } }

/-- Precedence among the requests of one management period: QP0, then fabric, then UART0 (R62). -/
def byPrecedence (l : List LockReq) : List LockReq :=
  (l.filter fun q => q.req.src.transport == .qp0) ++
  (l.filter fun q => q.req.src.transport != .qp0 && q.req.src.transport != .uart0) ++
  l.filter fun q => q.req.src.transport == .uart0

/-- A request for locks arrives: it is not granted in the period in which it arrives (R62). -/
def State.arrive (s : State) (cmd : Nat) (r : Req) (key : Bytes) (locks : List Lock) : State :=
  let q : LockReq := ⟨s.mgmt.nextTicket, cmd, r, key, locks, s.now, s.fnat .lockWait 0, false⟩
  { s with mgmt := { s.mgmt with arrivals := s.mgmt.arrivals ++ [q], nextTicket := s.mgmt.nextTicket + 1 } }

/-! ## Running a command -/

/-- How a command's start ends: it completes, or it stays in progress (R274, R275). -/
inductive Eff where
  | done (x : Rsp) (s : State)
  | run (k : RunKind) (s : State)

/-- Complete a command: its response is checked against its space before it acts (R259); the session's count falls. A command that fails leaves
only what its rule says of the failure. The result of a command whose host was lost is discarded (R256). -/
def State.complete (before : State) (cmd : Nat) (r : Req) (key : Bytes) (x : Rsp) (after : State) (lost : Bool := false) : State :=
  if lost then (if x.st = .ok ∧ !x.fits r then before else after).sessionDone r.session
  else if x.st ≠ .ok then (after.answer cmd r key x).sessionDone r.session
  else if x.fits r then (after.answer cmd r key x).sessionDone r.session
  else (before.answerShort cmd r key x.body.length).sessionDone r.session

/-- The management cores serve commands: PD_MGMT is ON, HR_MGMT is not drained, and the firmware runs or Starter waits for an image from the
host (R34, R239, R398). -/
def State.mgmtServes (s : State) : Bool :=
  s.domOn pdMgmt && !s.drained .mgmt && (s.boot.stage == 4 || s.boot.stage == 5 || s.boot.hostLoad)

/-- A request is there to be served: a fetched COMMAND entry of QP0, or verified over UART0 or the fabric (R249, R267, R268). -/
def State.presented (s : State) (cmd : Nat) (r : Req) : Bool :=
  match r.src with
  | .qp0 tag n => s.qp[(0 : QpId)].st == .active && s.qp[(0 : QpId)].fetched.any fun e => entryIs 0x40 tag e && bitsAt e 192 32 == n
  | _ => !s.boot.hostLoad && s.mgmt.inbox.contains (cmd, r)

/-- A request has been accepted and is not yet answered. -/
def State.underway (s : State) (cmd : Nat) (r : Req) : Bool :=
  (s.mgmt.arrivals ++ s.mgmt.waiting ++ s.mgmt.granted ++ s.mgmt.running.map (·.q)).any fun q => q.code == cmd && decide (q.req = r)

/-- A command that takes no lock: accept it and run it (R269). -/
def State.runFree (s : State) (cmd : Nat) (r : Req) (eff : State → Session → Rsp × State) : State :=
  let s0 := s.unbox cmd r
  if !s.mgmtServes || !s.presented cmd r then s
  else match s0.accept cmd r with
    | (s1, some x, none) => let (rsp, s2) := eff s1 x; s1.complete cmd r x.key rsp s2
    | (s1, ox, some st) => s1.answer cmd r (sessionKey ox) (.err st)
    | (s1, none, none) => s1

/-- The granted request that a command names, and the others. -/
def State.takeGranted (s : State) (cmd : Nat) (r : Req) : Option (LockReq × State) :=
  match s.mgmt.granted.find? fun q => q.code == cmd && decide (q.req = r) with
  | some q => some (q, { s with mgmt := { s.mgmt with granted := s.mgmt.granted.filter fun y => y.ticket != q.ticket } })
  | none => none

/-- The effect of a command that holds its locks (R269): it completes and releases them, or stays in progress with them. -/
def State.startLocked (s : State) (cmd : Nat) (q : LockReq) (eff : State → Eff) : State :=
  match eff s with
  | .done x s' => (s.complete cmd q.req q.key x s' q.lost).grant
  | .run k s' => { s' with mgmt := { s'.mgmt with running := s'.mgmt.running ++ [⟨q, k⟩] } }

/-- A command that takes write locks (R62, R269). Presented first, it is accepted and joins the requests of its period; presented again once
granted, it takes effect. -/
def State.runLocked (s : State) (cmd : Nat) (r : Req) (locks : List Lock) (eff : State → Eff) : State :=
  if !s.mgmtServes then s
  else match s.takeGranted cmd r with
    | some (q, s1) => s1.startLocked cmd q eff
    | none =>
      let s0 := s.unbox cmd r
      if !s.presented cmd r || s.underway cmd r then s
      else match s0.accept cmd r with
      | (s1, some x, none) => s1.arrive cmd r x.key locks
      | (s1, ox, some st) => s1.answer cmd r (sessionKey ox) (.err st)
      | (s1, none, none) => s1

/-- Complete every command in progress of a kind (its effect is already in the state) and grant the locks it releases. -/
def State.completeRun (s : State) (p : RunKind → Bool) (x : Rsp) : State :=
  let done := s.mgmt.running.filter fun y => p y.kind
  let s1 := { s with mgmt := { s.mgmt with running := s.mgmt.running.filter fun y => !p y.kind } }
  (s1.forAll done fun a y => a.complete y.q.code y.q.req y.q.key x a y.q.lost).grant

end Sys2Proof.Machine
end

