-- ==== Sys2Proof/Machine/PowerOps.lean ====
section
/-! DEFINITION. Power domains, faults, dies and the return of berths to service: the shared operations of R26 to R38, R419, R422, R454, R455. -/

namespace Sys2Proof.Machine
open Sys2Proof

/-! ## Contexts of a berth -/

def State.modCtxs (s : State) (f : Ctx → Ctx) : State := { s with ctxs := s.ctxs.map f }

/-- The contexts of a berth in ACTIVE enter HELD: its region is drained, its die lost, tx_enable 0, or removal quiet (R173). A change of state
changes the object (R269). -/
def State.holdCtxs (s : State) (b : Berth) : State :=
  let ids := (s.ctxs.filter fun c => c.berth == b && c.st == .active).map (·.id)
  (s.modCtxs fun c => if c.berth = b ∧ c.st = .active then { c with st := .held } else c).forAll ids fun a i => a.objTouch .context i

/-- The berth is back in service: HELD contexts return to ACTIVE, or to CLOSING when a generation was retired meanwhile (R173, R174). -/
def State.resumeCtxs (s : State) (b : Berth) : State :=
  let ids := (s.ctxs.filter fun c => c.berth == b && c.st == .held).map (·.id)
  (s.modCtxs fun c =>
    if c.berth = b ∧ c.st = .held then { c with st := if c.stale then .closing else .active, soft := if c.stale then [] else c.soft, since := s.line[b].bpc, lastRx := s.line[b].bpc }
    else c).forAll ids fun a i => a.objTouch .context i

/-- A join in progress is abandoned when its berth becomes silent before the message it owes is sent; its contexts return to FREE (R161). -/
def State.dropJoins (s : State) (b : Berth) : State :=
  let ids := (s.ctxs.filter fun c => c.berth == b && c.st == .joining).map (·.id)
  ({ (s.modLine b fun l => { l with joins := [] }) with ctxs := s.ctxs.filter fun c => !(c.berth == b && c.st == .joining) } : State).forAll ids fun a i =>
    a.objTouch .context i

/-- A berth becomes silent (R84): nothing of it is in the air, its joins are abandoned. -/
def State.silence (s : State) (b : Berth) : State :=
  (s.modBerth b fun x => { x with tx := none, silentAlloc := false }).dropJoins b

/-- A berth leaves its grid (R144): its boundaries end, what waits for one waits for the first period of the new grid (R83). -/
def State.leaveGrid (s : State) (b : Berth) : State :=
  { (s.modLine b fun l => { l with grid := .none, relisten := none, map := [], alloc := none }) with
    pend := s.pend.map fun e => if e.1.1.desc.app = .beacon ∧ e.1.2 = b.val then (e.1, e.2.1, none) else e }

/-- A berth comes back into service (R143, R419, R422): without a grid it listens for two periods, which a tx_enable of 0 does not prevent, since its
receive path runs on (R66, R83); on its grid it listens for two periods and then resumes it. -/
def State.berthReturns (s : State) (b : Berth) : State :=
  if s.stopped b then s
  else if s.fnat .role b = 0 ∨ s.fnat .role b = 1 then
    match s.line[b].grid with
    | .none => s.modLine b fun l => { l with grid := .listening s.now }
    | .on => if s.silent b then s else s.modLine b fun l => { l with relisten := some s.now }
    | _ => s
  else if s.silent b then s
  else s.resumeCtxs b

/-! ## Power requests (R454, R455) -/

/-- A domain starts to drain (R455): it takes no new work; a berth ends a frame in progress with the abort symbol. PD_SEC never drains (R31). -/
def State.startDrain (s : State) (k : DomId) : State :=
  if k = pdSec then s else
  let s1 := match domBerth k with
    | some b => s.modBerth b fun x => { x with tx := x.tx.map fun (f : TxFrame) => ({ f with abort := true } : TxFrame) }
    | none => s
  -- the canceller and the frame in progress stand until the domain is OFF, so the drain changes the state field alone
  ((s1.setDomRec k { s1.dom[k] with st := .draining, onWhole := false, offAfterInit := false }).objTouch .power k).cause 7

/-- The domain has gone OFF (R455): the driver is at high impedance, OFF requests in progress complete. -/
def State.nowOff (s : State) (k : DomId) : State :=
  let s1 := match domBerth k with
    | some b => ((s.modBerth b berthLeavesOn).silence b).report .drvTemp b 0 (-128)
    | none => s
  (s1.setDom k .off).completeRun (fun x => x == .powerOff k) {}

/-- A bring-up ends without ON (R455, R30): the domain takes the given state and the ON request completes with FAULT. -/
def State.bringUpFails (s : State) (k : DomId) (st : DomSt) : State :=
  ((s.setDomRec k { s.dom[k] with rampQueued := false, wantOn := false, offAfterInit := false }).setDom k st).completeRun
    (fun x => x == .powerOn k) (.err .fault)

/-- A domain that depends on a faulty one leaves service (R30): ON drains, RAMP and INIT end OFF. -/
def State.leaveService (s : State) (k : DomId) : State :=
  match s.domSt k with
  | .on => s.startDrain k
  | .ramp | .init => (s.bringUpFails k .off).completeRun (fun x => x == .powerOff k) {}
  | _ => s

/-- A domain enters FAULT (R30, R32): a bring-up or an OFF in progress fails, and the domains that depend on it leave service. PD_SWITCH does
not drain when a PD_STORE domain faults. PD_SEC never leaves ON (R31). -/
def State.faultDom (s : State) (k : DomId) : State :=
  if k = pdSec then s
  else
    let deps := if 32 ≤ k.val ∧ k.val < 36 then [] else s.dependants k
    let s1 := match domBerth k with
      | some b => (s.modBerth b berthLeavesOn).silence b
      | none => s
    let s2 := ((s1.bringUpFails k .fault).completeRun (fun x => x == .powerOff k) (.err .fault))
    s2.forAll deps fun a d => a.leaveService d

/-- A cluster is declared faulty (R27): fault_hist, the power-domain cause, EV_CLUSTER_FAULT, FAULT; a store-channel group is fenced whole
(R227). -/
def State.clusterFault (s : State) (k : DomId) : State :=
  ((((s.stick .faultHist k).cause 7).faultDom k).fenceGroup k).raise .clusterFault k k

/-- The domains that a domain needs are ON (R30). -/
def State.depsOn (s : State) (k : DomId) : Bool := (s.depends k).all fun d => s.domOn d

/-- The die of a berth domain, or of PD_SENSE, is lost (R38). -/
def State.domDieLost (s : State) (k : DomId) : Bool :=
  match domBerth k with
  | some b => s.dieLost b
  | none => k == pdSense && s.lostDie 3

/-- A die on which a berth domain stands reads above 100 °C (R446). -/
def State.dieHot (s : State) (k : DomId) : Bool :=
  match domBerth k with
  | some b => decide (100 < s.stat .tjC 44 (analogDie b) ∨ 100 < s.stat .tjC 44 (dspDie b))
  | none => false

/-- The outcome of a power request (R454): the first row that applies. R446 adds a die that is still hot to the row of a domain in FAULT. -/
def powerEff (k : DomId) (on : Bool) (s : State) : Eff :=
  if k = pdSec then .done (.err .denied) s
  else if on then
    if s.domSt k = .on then .done {} s
    else if s.domDieLost k then .done (.err .notReady) s
    else if s.domSt k = .fault ∨ s.dieHot k then .done (.err .busy) s
    else if s.domSt k = .draining then .done (.err .busy) s
    else if !s.depsOn k then .done (.err .notReady) s
    else if s.domSt k = .off then .run (.powerOn k) (s.startRamp k)
    else .run (.powerOn k) s
  else if s.domSt k = .off && !s.dom[k].rampQueued then .done {} s
  else if (s.dependants k).any fun d => s.domSt d == .ramp || s.domSt d == .init || s.domSt d == .on || s.domSt d == .draining then
    .done (.err .denied) s
  else
    match s.domSt k with
    | .on => .run (.powerOff k) (s.startDrain k)
    | .ramp | .init | .off => .run (.powerOff k) (s.setDomRec k { s.dom[k] with offAfterInit := true })
    | .draining => .run (.powerOff k) s
    | .fault => .done {} ((s.setDomRec k { s.dom[k] with byDie := false }).nowOff k)

/-- No power request for the domain stands before one of the device's own (R455, R62). -/
def State.powerFree (s : State) (k : DomId) : Bool :=
  let l : Lock := (.power, k.val)
  !s.heldLocks.contains l && !(s.mgmt.waiting ++ s.mgmt.arrivals).any fun q => q.locks.contains l

/-- A bring-up of the device's own: at once when no other request for the domain stands, else after them (R455). -/
def State.ownBringUp (s : State) (k : DomId) : State :=
  if s.domSt k = .on ∨ s.domSt k = .ramp ∨ s.domSt k = .init then s
  else if s.powerFree k && s.domSt k == .off && s.depsOn k && !s.domDieLost k then
    (s.setDomRec k { s.dom[k] with wantOn := false }).startRamp k
  else s.setDomRec k { s.dom[k] with wantOn := true }

/-- Start the device's own bring-ups whose turn has come. -/
def State.servedOwn (s : State) : State :=
  s.forAll (allDoms.filter fun k => s.dom[k].wantOn) fun a k => if a.powerFree k then a.ownBringUp k else a

/-! ## Boot steps that follow the domains (R33, R239, R396) -/

/-- Starter stops boot (R239): stage 15 with its fault; PD_HOST comes up for the boot report. -/
def State.stopBoot (s : State) (fault : Nat) : State :=
  let s1 := { s with boot := { s.boot with stage := 15, fault := fault, hostReady := false, report := !s.domOn pdHost } }
  if s1.domSt pdHost = .off then s1.startRamp pdHost else s1

/-- The bring-up that follows a domain reaching ON while Starter boots (R33, R396): PD_CLK, PD_MGMT, the stores; then, from stage 4 or while
loading from the host, PD_SWITCH and PD_HOST. -/
def State.bootFollows (s : State) (k : DomId) : State :=
  if k = pdClk ∧ s.boot.stage = 0 then s.ownBringUp pdMgmt
  else if k = pdMgmt ∧ s.boot.stage = 0 then
    let s1 := { s with boot := { s.boot with stage := 1 } }
    s1.forAll [(32 : DomId), 33, 34, 35] fun a d => a.ownBringUp d
  else if k = pdSwitch ∧ (s.boot.stage = 4 ∨ s.boot.hostLoad) ∧ !s.boot.hostReady then s.ownBringUp pdHost
  else if k = pdHost ∧ (s.boot.stage = 4 ∨ s.boot.hostLoad) then { s with boot := { s.boot with hostReady := true } }
  else s

/-! ## Loss and return of a die (R38, R422) -/

/-- Berths served by a die (R19). -/
def dieBerths (d : DieId) : List Berth := allBerths.filter fun b => analogDie b == d || dspDie b == d

/-- A domain is held in FAULT for a lost die (R38). -/
def State.holdFault (s : State) (k : DomId) : State :=
  if s.domSt k = .fault then s
  else
    let s1 := s.faultDom k
    s1.setDomRec k { s1.dom[k] with byDie := true }

/-- A link is declared lost and with it its non-hub die (R37, R38): its berths are silenced and held in FAULT, with PD_SENSE for A3; contexts
are HELD; EV_DIE_LOST in place of EV_CLUSTER_FAULT. -/
def State.loseLink (s : State) (l : D2dId) : State :=
  let d := linkDie l
  let s1 := s.setD2d l { s.die[l] with lost := true, retraining := false, replays := 0, cleanSince := none }
  if s.lostDie d then s1
  else
    let s2 := s1.forAll (dieBerths d) fun a b => (a.holdCtxs b).holdFault (berthDom b)
    let s3 := if d = 3 then s2.holdFault pdSense else s2
    (s3.stick .dieLostHist).raise .dieLost 44 d

end Sys2Proof.Machine
end

