-- ==== Sys2Proof/Machine/Analog.lean ====
section
/-! DEFINITION. The analog commands of a berth (chapter 04): overcurrent, temperature, the supply of the drivers. -/

namespace Sys2Proof.Machine
open Sys2Proof

/-- tx_enable of a berth goes to 0 at once (R66): an object change; its contexts are HELD and its joins abandoned. -/
def State.txOff (s : State) (b : Berth) : State :=
  ((((s.fset .txEnable b [0]).objTouch .berth b).dirty).holdCtxs b).silence b

/-- DRIVER_OVERCURRENT (R65, R66): the driver stops until the next allocation; at the eighth trip within 1 s it is held off and tx_enable
goes to 0. -/
def execDriverOvercurrent (t : Nat) (b : Berth) (s0 : State) : Host.Outcome State Fault Refusal :=
  let s := s0.at t
  let times := (s.berth[b].ocTimes.filter fun x => s.now < x + seconds 1) ++ [s.now]
  let s1 := s.modBerth b fun x => { x with ocStop := true, silentAlloc := true, tx := none, ocTimes := times }
  let s2 := (s1.bump .drvOcTrips b).raise .driverOc b times.length
  if 8 ≤ times.length then
    .next ((((s2.modBerth b fun x => { x with heldOff := true }).txOff b).stick .drvFaultHist b).raise .driverFault b 0)
  else .next s2

/-- DRIVER_HOT (R68): at 120 °C the level falls 3.0 dB from the next beacon period; at 130 °C the driver goes to high impedance. -/
def execDriverHot (t : Nat) (b : Berth) (temp : Int) (s0 : State) : Host.Outcome State Fault Refusal :=
  let s := (s0.at t).report .drvTemp b 0 temp
  let x := s.berth[b]
  let s1 :=
    if 120 ≤ temp ∧ !x.thermal ∧ !x.thermalDue then
      ((s.modBerth b fun y => { y with thermalDue := true }).stick .drvThermalHist b).raise .driverHot b (temp % 2 ^ 25).toNat
    else s
  if 130 ≤ temp then .next (s1.modBerth b fun y => { y with hot := true, tx := none }) else .next s1

/-- DRIVER_COOL (R68): below 110 °C for 1 s the reduction ends; a hot driver returns at its next allocation. -/
def execDriverCool (t : Nat) (b : Berth) (s0 : State) : Host.Outcome State Fault Refusal :=
  let s := s0.at t
  let s1 := s.modBerth b fun y => { y with thermal := false, thermalDue := false, hot := false, supplyStop := y.supplyStop || y.hot }
  .next (if s.berth[b].thermal then s1.updateBackoff b else s1)

/-- VDD_DRV_UNDERVOLTAGE (R67): every driver goes to high impedance, frames in flight are dropped from the air; counted for every berth, one
event for the device with VDD_DRV in 10 mV. -/
def execVddDrvUndervoltage (t : Nat) (mv : Nat) (s0 : State) : Host.Outcome State Fault Refusal :=
  let s := s0.at t
  if s.live.drvLow then .next s
  else
    let s1 := { s with live := { s.live with drvLow := true } }
    let s2 := s1.forAll allBerths fun a b => (a.modBerth b fun x => { x with tx := none, supplyStop := true }).bump .drvSupplyDrops b
    .next (s2.raise .drvSupply 44 (mv / 10))

/-- VDD_DRV_RECOVERY (R67): VDD_DRV has held 11.4 V for 10 ms; each driver returns at its berth's next allocation. -/
def execVddDrvRecovery (t : Nat) (s0 : State) : Host.Outcome State Fault Refusal :=
  let s := s0.at t
  .next { s with live := { s.live with drvLow := false, drvHigh := false } }

/-- VDD_DRV_OVERVOLTAGE (R433): every line driver goes to high impedance. -/
def execVddDrvOvervoltage (t : Nat) (s0 : State) : Host.Outcome State Fault Refusal :=
  let s := s0.at t
  let s1 := { s with live := { s.live with drvHigh := true } }
  .next (s1.forAll allBerths fun a b => a.modBerth b fun x => { x with tx := none, supplyStop := true })

end Sys2Proof.Machine
end

