-- ==== Sys2Proof/Machine/Clock.lean ====
section
/-! DEFINITION. Reference inputs, selection, holdover and clock outputs (chapter 13). -/

namespace Sys2Proof.Machine
open Sys2Proof

/-! ## Quality (R308) -/

/-- The rank of an SSM and enhanced-code pair; none: not in the table. -/
def qlRank (ssm enh : Nat) : Option Nat :=
  match ssm, enh with
  | 0x2, 0x21 => some 0 | 0x2, 0x20 => some 1 | 0x2, 0x23 => some 2 | 0x2, 0xFF => some 3 | 0x4, 0xFF => some 4 | 0x8, 0xFF => some 5
  | 0xB, 0x22 => some 6 | 0xB, 0xFF => some 7 | 0xF, 0xFF => some 8 | _, _ => none

/-- The SSM and enhanced codes of a rank, as transmitted (R308, R321). -/
def rankCodes : Nat → Nat × Nat
  | 0 => (0x2, 0x21) | 1 => (0x2, 0x20) | 2 => (0x2, 0x23) | 3 => (0x2, 0xFF) | 4 => (0x4, 0xFF) | 5 => (0x8, 0xFF) | 6 => (0xB, 0x22)
  | 7 => (0xB, 0xFF) | _ => (0xF, 0xFF)

/-- The rank of a PTP clockClass. -/
def classRank (c : Nat) : Nat := if c = 6 then 1 else if c = 7 then 3 else if c = 13 ∨ c = 14 ∨ (135 ≤ c ∧ c ≤ 165) then 5 else if c = 255 then 8 else 7

/-! ## Reasons and qualification (R311) -/

/-- An input that carries time (R307). -/
def timeCapable (i : InputId) : Bool := decide (i.val ≤ 1 ∨ 6 ≤ i.val)

def ClkIn.has (x : ClkIn) (c : Nat) : Bool := x.reasons.getLsbD c

def State.modIn (s : State) (i : InputId) (f : ClkIn → ClkIn) : State := s.modClk fun c => { c with inp := c.inp.set i (f c.inp[i]) }

/-- Frequency-qualified: reasons 1 to 5 and 7 clear and no wait-to-restore. -/
def ClkIn.fQual (x : ClkIn) : Bool := x.reasons &&& 0xBE == 0 && x.wtrEnd.isNone

/-- Time-qualified: also time-capable, and reason 6 clear. -/
def State.tQual (s : State) (i : InputId) : Bool := s.clk.inp[i].fQual && timeCapable i && !s.clk.inp[i].has 6

/-- A history bit of CLK_HIST sets, and with it the clock cause (R324). -/
def State.clkHist (s : State) (x : Stat) : State := (s.stick x).cause 4

/-- A reason sets. Reasons 1 and 2 count the input as lost (R326, input contract); an input without activity is of rank 9 (R308), so reason 3
sets with reason 1. -/
def State.setReason (s : State) (i : InputId) (c : Nat) : State :=
  if s.clk.inp[i].has c then s
  else
    let s1 := s.modIn i fun x => { x with reasons := x.reasons ||| BitVec.ofNat 8 (if c = 1 then 10 else 2 ^ c), wtrEnd := none, rank := if c = 1 then 9 else x.rank }
    if c = 1 ∨ c = 2 then s1.bump .inLost 0 i else s1

/-- A reason clears: after 1, 2 or 7 the input waits wtr_s before it qualifies. -/
def State.clearReason (s : State) (i : InputId) (c : Nat) : State :=
  if !s.clk.inp[i].has c then s
  else
    let w := s.fnat .wtr 0
    s.modIn i fun x =>
      { x with reasons := x.reasons &&& ~~~(BitVec.ofNat 8 (2 ^ c)),
               wtrEnd := if (c = 1 ∨ c = 2 ∨ c = 7) ∧ w ≠ 0 then some (s.now + seconds w) else x.wtrEnd }

def State.putReason (s : State) (i : InputId) (c : Nat) (on : Bool) : State := if on then s.setReason i c else s.clearReason i c

/-- The rank of an input's quality; ranks 8 and 9 set reason 3 (R311). -/
def State.setRank (s : State) (i : InputId) (r : Nat) : State := (s.modIn i fun x => { x with rank := r }).putReason i 3 (decide (8 ≤ r))

/-- The rank of codes received; a pair not in the table is rank 8 and counts in ql_invalid (R308). -/
def State.setCodes (s : State) (i : InputId) (ssm enh : Nat) : State :=
  match qlRank ssm enh with
  | some r => s.setRank i r
  | none => (s.bump .qlInvalid).setRank i 8

/-- Activity of an input other than REF (R311): SyncE on an UP port, PTP time receiver that hears its Sync, fabric link UP or DEGRADED with
its tag verifying. -/
def State.inputActive (s : State) (i : InputId) (ref : Bool) : Bool :=
  if i.val ≤ 1 then ref && decide (s.clk.ref[if i.val = 0 then (0 : Fin 2) else 1].missEdges < 2)
  else if i.val ≤ 5 then s.eth[(⟨(i.val - 2) % 4, Nat.mod_lt _ (by decide)⟩ : EthId)].st == .up
  else if i.val ≤ 9 then
    let p : EthId := ⟨(i.val - 6) % 4, Nat.mod_lt _ (by decide)⟩
    s.fnat .ptpRole p == 1 && s.eth[p].syncAt.isSome && !s.eth[p].ptpLost
  else
    let l := s.fab.link[(⟨(i.val - 10) % 6, Nat.mod_lt _ (by decide)⟩ : LinkId)]
    (l.st == .up || l.st == .degraded) && l.ctlOk

/-! ## Clock states (R318, R319) -/

/-- The estimate of R319 in ns. -/
def State.holdEst (s : State) : Nat :=
  let c := s.clk
  min 0xFFFFFFFF (c.e0 + (Config.roundDiv (c.uSum * 172800 + c.ageS * c.ageS * s.fnat .hoAging 0) 172800000).toNat)

/-- History is valid (R318). -/
def ClockSt.histValid (c : ClockSt) : Bool := if c.st = .locked then decide (300 ≤ c.lockedS) else c.history

/-- Within the limits of R319. -/
def State.holdOk (s : State) : Bool := !s.clk.hoRun || (decide (s.holdEst ≤ s.fnat .hoLimit 0) && decide (s.clk.hoS ≤ s.fnat .hoMax 0))

/-- out_squelch holds the clock outputs low (R322). -/
def State.squelched (s : State) : Bool :=
  match s.fnat .outSquelch 0 with
  | 0 => false
  | 1 => s.clk.st == .freeRun
  | _ => s.clk.st == .freeRun || s.clk.st == .holdover

/-- OUT_PPS and OUT_10M are held low (R322). -/
def State.holdOutputs (s : State) : State := if s.live.outHeld then s else { s with live := { s.live with outHeld := true } }.emit (.pps false)

/-- The clock enters a state (R318, R319). -/
def State.clkEnter (s : State) (st : ClkSt) : State :=
  let c := s.clk
  if c.st = st then s
  else
    let hist := if st = .freeRun then false else c.histValid
    let c1 : ClockSt := { c with
      st := st, history := hist, kept := false,
      mayStep := decide (st = .acquiring ∧ c.st = .freeRun),
      lockedS := 0,
      hoRun := if st = .locked then false else if st = .holdover then true else c.hoRun,
      hoS := if st = .locked ∨ (st = .holdover ∧ !c.hoRun) then 0 else c.hoS,
      ageS := if st = .locked ∨ (st = .holdover ∧ !c.hoRun) then 0 else c.ageS,
      uSum := if st = .locked ∨ (st = .holdover ∧ !c.hoRun) then 0 else c.uSum,
      e0 := if st = .holdover ∧ !c.hoRun then c.timeErr else c.e0 }
    let s1 := ({ s with clk := c1 }).clkHist .clkStateHist
    let s2 := if st = .holdover then ((s1.clkHist .clkHoldoverHist).bump .holdoverEntries).raise .holdover 0 1
      else if c.st = .holdover then (s1.clkHist .clkHoldoverHist).raise .holdover 0 0
      else s1
    if s2.squelched then s2.holdOutputs else s2

/-- |x| of the time input has stayed below 100 ns for 10 s (R318). -/
def ClockSt.steady (c : ClockSt) : Bool := decide (10 ≤ c.xs.length) && (c.xs.take 10).all fun x => x < 100

/-- The state that the selection gives (R317, R318). HOLDOVER past a limit ends with HOLDOVER_LIMIT, the event of R319. -/
def State.clkJudge (s : State) : State :=
  let c := s.clk
  match c.force with
  | some (3, _) => s.clkEnter .freeRun
  | some (2, _) => s.clkEnter (if s.holdOk || c.st == .holdover then .holdover else .freeRun)
  | _ =>
    match c.tIn with
    | none => s.clkEnter (if c.histValid && (s.holdOk || c.st == .holdover) && c.st != .freeRun then .holdover else .freeRun)
    | some _ =>
      let s1 := s.clkEnter (if c.steady || (c.st == .locked && c.kept) then .locked else .acquiring)
      if c.steady then s1.modClk fun y => { y with kept := false } else s1

/-! ## Selection (R315 to R317) -/

/-- in_prio of an input. -/
def State.inPrioOf (s : State) (i : InputId) : Nat := ((s.fget .inPrio 0).getD i 8).toNat

/-- The best of a list of inputs: the lowest key (rank, in_prio, index). -/
def State.bestInput (s : State) (l : List InputId) : Option InputId :=
  l.foldl (fun (a : Option InputId) i =>
    match a with
    | none => some i
    | some j =>
      let ki := (s.clk.inp[i].rank, s.inPrioOf i, i.val)
      let kj := (s.clk.inp[j].rank, s.inPrioOf j, j.val)
      if ki.1 < kj.1 ∨ (ki.1 = kj.1 ∧ (ki.2.1 < kj.2.1 ∨ (ki.2.1 = kj.2.1 ∧ ki.2.2 < kj.2.2))) then some i else some j) none

/-- The selected input stays until it loses its qualification, a strictly lower rank stands by, or, revertive, an equal rank of lower prio. -/
def State.keepOrBest (s : State) (cur : Option InputId) (l : List InputId) : Option InputId :=
  match cur with
  | none => s.bestInput l
  | some i =>
    if !l.contains i then s.bestInput l
    else if l.any fun j => s.clk.inp[j].rank < s.clk.inp[i].rank then s.bestInput l
    else if s.fbool .revertive 0 && l.any (fun j => s.clk.inp[j].rank == s.clk.inp[i].rank && decide (s.inPrioOf j < s.inPrioOf i)) then
      s.bestInput l
    else some i

/-- The correction held at a loss: its mean over the 60 s that ended 1 s before (R316). -/
def ClockSt.heldCorr (c : ClockSt) : Int :=
  let l := (c.corrs.drop 1).take 60
  if l.isEmpty then c.corr else Config.roundDiv (l.foldl (· + ·) 0) l.length

/-- The rank transmitted (R321): the selected frequency input's while locked to it, EEC1 otherwise. -/
def State.qlOut (s : State) : Nat :=
  match s.clk.fIn with
  | some i => if s.clk.fLocked then s.clk.inp[i].rank else 7
  | none => 7

/-- The rank transmitted on an Ethernet port (R286, R321): DNU on the port whose clock is selected. -/
def State.qlPort (s : State) (p : EthId) : Nat := if s.clk.fIn = some ⟨2 + p.val, by omega⟩ then 8 else s.qlOut

/-- An event PDU on each port whose transmitted quality has changed (R286). -/
def State.esmcEvents (s : State) : State :=
  s.forAll (List.finRange 4) fun a p =>
    if a.eth[p].st = .up ∧ a.fbool .esmcEnable p ∧ a.eth[p].qlSent.isSome ∧ a.eth[p].qlSent ≠ some (a.qlPort p) then
      (a.modEth p fun e => { e with qlSent := some (a.qlPort p) }).emit (.esmcTx p true (a.qlPort p))
    else a

/-- A switch to a new input (R315). -/
def State.refSwitched (s : State) (i : InputId) : State := ((s.clkHist .clkSwitchHist).bump .refSwitches).raise .refSwitch 0 i

/-- A selection pass (R315 to R317), then the clock state. While HR_MGMT is drained the correction is frozen and nothing is selected. -/
def State.clkSelect (s : State) : State :=
  if !s.domOn pdClk then s
  else if s.drained .mgmt || !s.domOn pdMgmt then (s.modClk fun c => { c with fIn := none, tIn := none }).clkJudge
  else
    let c := s.clk
    let ins := List.finRange 16
    let fl := ins.filter fun (i : InputId) => c.inp[i].fQual
    let tl := ins.filter fun (i : InputId) => s.tQual i
    let force := match c.force with
      | some (1, i) => if c.inp[i].fQual then some (1, i) else none
      | f => f
    let (f', t') := match force with
      | some (1, i) => (some i, if s.tQual i then some i else s.keepOrBest c.tIn tl)
      | some _ => (none, none)
      | none => (s.keepOrBest c.fIn fl, s.keepOrBest c.tIn tl)
    -- R316: a loss of the selected frequency input holds the mean correction
    let lost := match c.fIn with | some i => !c.inp[i].fQual | none => false
    let s1 := s.modClk fun c => { c with force := force, fIn := f', tIn := t', corr := if lost then c.heldCorr else c.corr,
                                          fLocked := c.fLocked && decide (f' = c.fIn),
                                          xs := if t' = c.tIn then c.xs else [] }
    let s2 := if lost then s1.clkHist .clkSlipHist else s1
    let s3 := match f', t' with
      | some i, some j =>
        if f' ≠ c.fIn then (if t' ≠ c.tIn ∧ i ≠ j then (s2.refSwitched i).refSwitched j else s2.refSwitched i)
        else if t' ≠ c.tIn then s2.refSwitched j else s2
      | some i, none => if f' ≠ c.fIn then s2.refSwitched i else s2
      | none, some j => if t' ≠ c.tIn then s2.refSwitched j else s2
      | none, none => s2
    -- a time offset below time_off_ns at the switch keeps LOCKED (R316)
    let s4 := match t' with
      | some j =>
        if t' ≠ c.tIn ∧ c.st = ClkSt.locked ∧ ((c.inp[j].x).natAbs : Int) < s.fval .timeOff 0 then s3.modClk fun c => { c with kept := true } else s3
      | none => s3
    s4.clkJudge.esmcEvents

/-! ## The measurement (R312 to R314) -/

/-- Insertion into a sorted list. -/
def insertSorted (x : Int) : List Int → List Int
  | [] => [x]
  | y :: r => if x ≤ y then x :: y :: r else y :: insertSorted x r

/-- Twice the median: the mean of the middle two of an even count. -/
def median2 (l : List Int) : Int :=
  let a := l.foldl (fun r x => insertSorted x r) []
  let n := a.length
  a.getD ((n - 1) / 2) 0 + a.getD (n / 2) 0

/-- The participants (R312): active, rank 0 to 7, enabled. -/
def State.participants (s : State) : List InputId :=
  (List.finRange 16).filter fun (i : InputId) =>
    !s.clk.inp[i].has 1 && decide (s.clk.inp[i].rank ≤ 7) && decide ((s.fget .inEnable 0).getD i 1 = 1)

/-- Deviations and the drift reasons of one input (R312, R313): `pm` and `pt` are twice the medians, none without an ensemble. -/
def State.judgeDrift (s : State) (i : InputId) (pm pt : Option Int) : State :=
  let x := s.clk.inp[i]
  let d := match pm with | some m => 2 * x.y - m | none => 0
  let e := match pt with | some m => if timeCapable i then 2 * x.x - m else 0 | none => 0
  let dRow := if pm.isSome ∧ 2000 * s.fval .driftOff 0 < (d.natAbs : Int) then x.dRow + 1 else 0
  let eRow := if pt.isSome ∧ 2 * s.fval .timeOff 0 < (e.natAbs : Int) then x.eRow + 1 else 0
  let still := !x.has 5 || pt.isSome
  let calm := pm.isSome && still && decide ((d.natAbs : Int) < 2000 * s.fval .driftOn 0) && decide ((e.natAbs : Int) < s.fval .timeOff 0)
  let calmN := if calm then x.calm + 1 else 0
  let s1 := s.modIn i fun y => { y with d := d, e := e, dRow := dRow, eRow := eRow, calm := calmN }
  let drift := fun (a : State) (c : Nat) => if a.clk.inp[i].has c then a else (((a.setReason i c).clkHist .clkDriftHist).raise .refDrift 0 i)
  let s2 := if 10 ≤ dRow then drift s1 4 else s1
  let s3 := if 3 ≤ eRow then drift s2 5 else s2
  if max (s.fnat .wtr 0) 10 ≤ calmN then (s3.clearReason i 4).clearReason i 5 else s3

/-- All pairs of inputs. -/
def inputPairs : List (InputId × InputId) := (List.finRange 16).flatMap fun (i : InputId) => ((List.finRange 16).filter fun j => i < j).map fun j => (i, j)

/-- The record of a pair. -/
def State.pairRec (s : State) (i j : InputId) : ClkPair :=
  (s.clk.pairs.find? fun p => p.i == i.val && p.j == j.val).getD { i := i, j := j }

/-- Disagreement of a pair (R314): one event in an episode, which ends after 60 s below half the thresholds. -/
def State.judgePair (s : State) (i j : InputId) : State :=
  let p := s.pairRec i j
  let x := s.clk.inp[i]
  let y := s.clk.inp[j]
  let peer := x.fQual && y.fQual && x.rank == y.rank && s.inPrioOf i == s.inPrioOf j
  let dy : Int := (x.y - y.y).natAbs
  let dx : Int := (x.x - y.x).natAbs
  let both := s.tQual i && s.tQual j
  let fRow := if peer ∧ 1000 * s.fval .disagreePpb 0 < dy then p.fRow + 1 else 0
  let xRow := if peer ∧ both ∧ s.fval .timeOff 0 < dx then p.xRow + 1 else 0
  let low := decide (2 * dy < 1000 * s.fval .disagreePpb 0) && (!both || decide (2 * dx < s.fval .timeOff 0))
  let quiet := if low then p.quiet + 1 else 0
  let bad := decide (10 ≤ fRow ∨ 3 ≤ xRow)
  let p' : ClkPair := { p with fRow := fRow, xRow := xRow, quiet := quiet, openEp := (p.openEp || bad) && !decide (60 ≤ quiet) }
  let rest := s.clk.pairs.filter fun q => !(q.i == i.val && q.j == j.val)
  let s1 := s.modClk fun c => { c with pairs := if !p'.openEp && fRow == 0 && xRow == 0 then rest else p' :: rest }
  if bad && !p.openEp then (s1.clkHist .clkDisagreeHist).raise .refDisagree 0 (i.val + 16 * j.val) else s1

/-- A time input's base of the time error (R319). -/
def State.errBase (s : State) (i : InputId) : Nat :=
  if i.val = 0 then 20 + s.clk.ref[(0 : Fin 2)].srcErr else if i.val = 1 then 20 + s.clk.ref[(1 : Fin 2)].srcErr
  else if i.val ≤ 9 then 40 else 30

/-- One second of the timers (R318, R319). -/
def State.clkTick (s : State) : State :=
  let c := s.clk
  let good : Bool := match c.fIn with | some i => c.fLocked && decide (c.inp[i].rank ≤ 3) | none => false
  let run := c.hoRun
  s.modClk fun c =>
    { c with lockedS := if c.st = .locked then c.lockedS + 1 else c.lockedS,
             hoS := if run then c.hoS + 1 else c.hoS,
             ageS := if run ∧ !good then c.ageS + 1 else c.ageS,
             uSum := if run then c.uSum + (if good then 10 else s.fnat .hoFreqUnc 0) else c.uSum }

/-- time_err_ns (R319): in LOCKED the base and the mean of |x| over 10 s; while the holdover timer runs the estimate. -/
def State.clkErr (s : State) : State :=
  let c := s.clk
  match c.st, c.tIn with
  | .locked, some i =>
    let l := c.xs.take 10
    let mean := if l.isEmpty then 0 else (Config.roundDiv (l.foldl (· + ·) 0 : Nat) l.length).toNat
    s.modClk fun c => { c with timeErr := min 0xFFFFFFFF (s.errBase i + mean) }
  | _, _ => if c.hoRun then s.modClk fun c => { c with timeErr := s.holdEst } else s

/-- The single step of device time (R316): only in ACQUIRING entered from FREE_RUN, and only above step_thresh_ns. -/
def State.clkStep (s : State) : State :=
  match s.clk.st, s.clk.tIn with
  | .acquiring, some i =>
    let x := s.clk.inp[i].x
    if s.clk.mayStep && decide (s.fval .stepThresh 0 < (x.natAbs : Int)) then
      ((s.modClk fun c => { c with offset := c.offset + x, mayStep := false, xs := [] }).modIn i fun y => { y with x := 0 }).holdOutputs
    else s
  | _, _ => s

/-- One input's reasons 1 and 7 and its figures from the measurement. -/
def State.takeMeas (s : State) (m : InputMeas) : State :=
  let act := s.inputActive m.input m.active
  let s1 := (s.putReason m.input 1 (!act)).putReason m.input 7 ((s.fget .inEnable 0).getD m.input 1 == 0)
  let s2 := if m.input.val ≤ 1 then
      let k := m.input.val
      if act ∧ (s.fget .refQlMode 0).getD k 0 = 1 then s1.setRank m.input ((s.fget .refQlFixed 0).getD k 7).toNat else s1
    else s1
  if act then s2.modIn m.input fun y => { y with y := m.y, x := m.x } else s2

/-- CLOCK_MEASURE (R312 to R319): the measurement of each second, its judgements, the step, selection and the clock state. -/
def execClockMeasure (t : Nat) (meas : List InputMeas) (corr : Int) (fLocked : Bool) (s0 : State) : Host.Outcome State Fault Refusal :=
  let s := (s0.at t).clkTick
  if !s.domOn pdClk then .next s
  else if s.drained .mgmt || !s.domOn pdMgmt then .next (s.clkSelect.clkErr)
  else
    let s1 := (s.releaseAt .second 0).forAll meas State.takeMeas
    let parts := s1.participants
    let tparts := parts.filter timeCapable
    let pm := if 3 ≤ parts.length then some (median2 (parts.map fun i => s1.clk.inp[i].y)) else none
    let pt := if 3 ≤ tparts.length then some (median2 (tparts.map fun i => s1.clk.inp[i].x)) else none
    let s2 := s1.forAll (List.finRange 16) fun a (i : InputId) =>
      if parts.contains i then a.judgeDrift i pm pt else a.modIn i fun y => { y with d := 0, e := 0, dRow := 0, eRow := 0, calm := 0 }
    let s3 := s2.forAll inputPairs fun a p => a.judgePair p.1 p.2
    -- the correction: the loop's while an input is followed; forced free-run moves it to 0 by at most 50 ppb per second (R316, R317)
    let s4 := s3.modClk fun c =>
      let c' := match c.force with
        | some (3, _) => if c.corr < 0 then min 0 (c.corr + 50000) else max 0 (c.corr - 50000)
        | _ => if c.fIn.isSome then corr else c.corr
      { c with corr := c', corrs := (c' :: c.corrs).take 61, fLocked := fLocked && c.fIn.isSome,
               xs := match c.tIn with | some i => (c.inp[i].x.natAbs :: c.xs).take 10 | none => [] }
    .next (s4.clkStep.clkSelect.clkErr)

/-! ## Events of the inputs -/

/-- REF_ACTIVITY_LOSS (R311, R316). -/
def execRefActivityLoss (t : Nat) (i : InputId) (s0 : State) : Host.Outcome State Fault Refusal := .next (((s0.at t).setReason i 1).clkSelect)

/-- REF_WTR_EXPIRY (R311). -/
def execRefWtrExpiry (t : Nat) (i : InputId) (s0 : State) : Host.Outcome State Fault Refusal :=
  let s := s0.at t
  match s.clk.inp[i].wtrEnd with
  | some e => if e ≤ s.now then .next ((s.modIn i fun x => { x with wtrEnd := none }).clkSelect) else .next s
  | none => .next s

/-- REF_FREQUENCY_RANGE (R311): beyond ±12 ppm against XO_IN sets reason 2. -/
def execRefFrequencyRange (t : Nat) (i : InputId) (ppb : Int) (s0 : State) : Host.Outcome State Fault Refusal :=
  .next (((s0.at t).putReason i 2 (decide (12000 < ppb.natAbs))).clkSelect)

/-- The input of a REF pin pair. -/
def refInput (r : Fin 2) : InputId := if r = 0 then 0 else 1

def State.modRef (s : State) (r : Fin 2) (f : RefTod → RefTod) : State := s.modClk fun c => { c with ref := c.ref.set r (f c.ref[r]) }

/-- A message of a second is missing (R310): three in a row set reason 6, and with ref_ql_mode 0 the quality fails. -/
def State.todMissed (s : State) (r : Fin 2) : State :=
  let n := s.clk.ref[r].missing + 1
  let s1 := s.modRef r fun x => { x with missing := n, good := 0 }
  if n < 3 then s1
  else
    let s2 := s1.setReason (refInput r) 6
    if (s.fget .refQlMode 0).getD r 0 = 0 then s2.setRank (refInput r) 9 else s2

/-- REF_PPS_EDGE (R310, R311, R440): an edge after `cycles` of the 10 MHz input; it is missing unless they are 10,000,000 ± 10. -/
def execRefPpsEdge (t : Nat) (r : Fin 2) (cycles : Nat) (s0 : State) : Host.Outcome State Fault Refusal :=
  let s := s0.at t
  let good := decide (9999990 ≤ cycles ∧ cycles ≤ 10000010)
  let x := s.clk.ref[r]
  let s1 := if x.edgeAt.isSome && !x.got then s.todMissed r else s
  if good then
    .next ((s1.modRef r fun y => { y with edgeAt := some s.now, got := false, missEdges := 0 }).clkSelect)
  else
    let s2 := s1.modRef r fun y => { y with missEdges := y.missEdges + 1, edgeAt := some s.now, got := false }
    .next ((if 2 ≤ x.missEdges + 1 then s2.setReason (refInput r) 1 else s2).clkSelect)

/-- A time-of-day message has valid fields (R309). -/
def todFieldsOk (b : Bytes) : Bool :=
  decide (b.length = 16) && bitsAt b 0 8 == 1 && bitsAt b 11 5 == 0 && bitsAt b 94 2 == 0

/-- A message in its span (R310). -/
def State.todTimely (s : State) (r : Fin 2) : Bool :=
  match s.clk.ref[r].edgeAt with
  | some e => decide (e + millis 10 ≤ s.now ∧ s.now ≤ e + millis 990)
  | none => false

/-- TOD_MESSAGE (R309, R310): the bytes between the flags on UART1. -/
def execTodMessage (t : Nat) (bytes : Bytes) (s0 : State) : Host.Outcome State Fault Refusal :=
  let s := s0.at t
  if s.fbool .uartMode 1 || !s.domOn pdMgmt || s.drained .mgmt then .next s
  else match frameBody bytes with
    | none => .next (s.bump .todInvalid)
    | some b =>
      let r : Fin 2 := if bitsAt b 8 1 = 0 then 0 else 1
      if !todFieldsOk b || !s.todTimely r then .next (s.bump .todInvalid)
      else
        let tod := bitsAt b 16 48
        let x := s.clk.ref[r]
        let ok := match x.tod with | some p => decide (tod = p + 1) | none => true
        let good := if ok then x.good + 1 else 0
        let s1 := s.modRef r fun y =>
          { y with tod := some tod, got := true, missing := 0, good := good, srcErr := bitsAt b 96 32, utcOffset := intOfLe 2 ((b.drop 8).take 2),
                   leap := bitsAt b 9 2 }
        let s2 := if ok then (if 3 ≤ good then s1.clearReason (refInput r) 6 else s1) else (s1.bump .todMismatch).setReason (refInput r) 6
        let s3 :=
          if (s.fget .refQlMode 0).getD r 0 ≠ 0 then s2
          else if 2 ≤ bitsAt b 92 2 then s2.setRank (refInput r) 8
          else s2.setCodes (refInput r) (bitsAt b 80 4) (bitsAt b 84 8)
        .next s3.clkSelect

/-- HOLDOVER_LIMIT (R319): the state becomes FREE_RUN; the correction stays held and the estimate grows on. -/
def execHoldoverLimit (t : Nat) (s0 : State) : Host.Outcome State Fault Refusal :=
  let s := s0.at t
  if s.clk.st = .holdover ∧ !s.holdOk then
    .next (((s.clkEnter .freeRun).clkHist .clkLimitHist).raise .holdoverLimit 0 (min s.holdEst (2 ^ 25 - 1)))
  else .next s

/-- WHOLE_SECOND_OF_DEVICE_TIME (R322): OUT_PPS rises, and both outputs resume, unless they are held low. -/
def execWholeSecondOfDeviceTime (t : Nat) (s0 : State) : Host.Outcome State Fault Refusal :=
  let s := s0.at t
  if s.boot.configAuth && !s.squelched && s.domOn pdClk && s.live.badRails.isEmpty && !s.live.quiet then
    .next ({ s with live := { s.live with outHeld := false } }.emit (.pps true))
  else .next s.holdOutputs

/-- CLK_TOD_LATCH (R324). -/
def execClkTodLatch (t : Nat) (s0 : State) : Host.Outcome State Fault Refusal :=
  let s := s0.at t
  .next ((s.modClk fun c => { c with todLatch := s.devSec % 2 ^ 48 }).emit (.readData (BitVec.ofNat 64 s.devNs)))

/-- CLOCK_FORCE (R317). -/
def clockForceEff (r : Req) (s : State) : Eff :=
  let act := bitsAt r.body 0 8
  let inp := bitsAt r.body 8 8
  if r.body.length ≠ 4 then .done (.err .invalid) s
  else if bitsAt r.body 16 16 ≠ 0 then .done (.err .invalid (some 2)) s
  else if 3 < act then .done (.err .range (some 0)) s
  else if h : inp < 16 then
    let i : InputId := ⟨inp, h⟩
    match act with
    | 0 => .done {} (s.modClk fun c => { c with force := none }).clkSelect
    | 1 => if s.clk.inp[i].fQual then .done {} (s.modClk fun c => { c with force := some (1, i) }).clkSelect else .done (.err .notReady) s
    | 2 => if s.clk.histValid then .done {} (s.modClk fun c => { c with force := some (2, i) }).clkSelect else .done (.err .notReady) s
    | _ => .done {} (s.modClk fun c => { c with force := some (3, i) }).clkSelect
  else .done (.err .range (some 1)) s

/-- CLOCK_FORCE (R317): it locks the class. -/
def execClockForce (t : Nat) (r : Req) (s : State) : Host.Outcome State Fault Refusal :=
  .next ((s.at t).runLocked 0x10 r [(.clock, 0)] (clockForceEff r))

end Sys2Proof.Machine
end

