-- ==== Sys2Proof/Machine/Route.lean ====
section
/-! DEFINITION. Where frames go: steering to the host, the route table, resolution of a station frame, fabric queues, uplink paths
(R194 to R196, R248, R284, R296, R175). -/

namespace Sys2Proof.Machine
open Sys2Proof

/-- How a frame that looked for its queue ended: queued, with its context; its context takes no frames; no route; already redirected; no
fabric path; dropped at admission. -/
inductive RouteEnd where
  | ok (ctx : Nat) | stale | miss | loop | unreachable | full
  deriving DecidableEq, Repr

/-- Frames are forwarded (R34, R60): PD_SWITCH is ON and HR_SWITCH is not drained. -/
def State.switching (s : State) : Bool := s.domOn pdSwitch && !s.drained .switch

/-! ## The host (R248) -/

/-- The steering code of a source kind. -/
def rxCode (srcKind : Nat) : Nat := match srcKind with | 0 => 1 | 1 => 2 | 3 => 3 | _ => 0

/-- The queue pair that a host-bound frame is steered to. -/
def State.steer (s : State) (srcKind srcIdx : Nat) : Option QpId :=
  let cand := allQps.filter fun (q : QpId) => decide (2 ≤ q.val) && (s.qp[q].enable || s.qp[q].st == .lost)
  match cand.find? fun (q : QpId) => decide (s.qp[q].rxSelect.toNat = rxCode srcKind ∧ rxCode srcKind ≠ 0 ∧ s.qp[q].rxIndex.toNat = srcIdx) with
  | some q => some q
  | none => cand.find? fun (q : QpId) => s.qp[q].rxSelect == 4

def RouteEnd.ofAdmit (ctx : Nat) : Admit → RouteEnd
  | .ok => .ok ctx
  | _ => .full

/-- A frame for this package's host; `sub` keeps the eight bytes of its station and its ctx_sel. -/
def State.toHost (s : State) (srcKind srcIdx tclass ctx : Nat) (payload : Bytes) : State × RouteEnd :=
  match s.steer srcKind srcIdx with
  | none => (s.bump .rxUnsteered, .unreachable)
  | some q =>
    let (s1, a) := s.takeIn (newFrame srcKind srcIdx 2 q.val tclass ctx false) payload
    (s1, .ofAdmit ctx a)

/-! ## Contexts and broadcasts -/

/-- A context takes frames: ACTIVE, DORMANT or HELD (R246, R174). -/
def CtxSt.takes (x : CtxSt) : Bool := x == .active || x == .dormant || x == .held

/-- A frame joins the queue of a context, in its berth (R196). -/
def State.toCtx (s : State) (srcKind srcIdx id tclass : Nat) (redirected : Bool) (payload : Bytes) : State × RouteEnd :=
  match s.ctx? id with
  | none => (s, .stale)
  | some c =>
    if c.st.takes then
      let (s1, a) := s.takeIn (newFrame srcKind srcIdx 0 c.berth.val (if tclass = 3 then c.tclass else tclass) id redirected) payload
      (s1, .ofAdmit id a)
    else (s, .stale)

/-- A broadcast in a berth's domain is sent local, under K_dom (R245). -/
def State.toBroadcast (s : State) (srcKind srcIdx : Nat) (b : Berth) (payload : Bytes) : State × RouteEnd :=
  let (s1, a) := s.takeIn { newFrame srcKind srcIdx 0 b.val 2 noCtx false with role := 1 } payload
  (s1, .ofAdmit noCtx a)

/-! ## The fabric (R295 to R298) -/

/-- The 16-byte subheader of a FRAME packet (R296). -/
def frameSub (kind tclass ctxSel port ctx : Nat) (eui : BitVec 64) : Bytes :=
  leBytes 16 (kind % 4 + tclass % 4 * 8 + ctxSel % 4 * 32 + port % 4 * 256 + (if kind = 1 then ctx % 2 ^ 18 * 2 ^ 32 else 0) +
    (if kind = 0 then eui.toNat * 2 ^ 64 else 0))

/-- The prio of a FRAME packet (R295): routed frames 0; relayed and local frames, and frames for hosts and Ethernet ports, 1. -/
def subPrio (sub : Bytes) : Nat :=
  let k := bitsAt sub 0 3
  let c := bitsAt sub 3 2
  if 2 ≤ k then 1 else if c = 1 ∨ c = 2 then 1 else 0

/-- A frame for another package joins the class queue of the link that leads there (R298). -/
def State.toFabric (s : State) (srcKind srcIdx dst src ttl : Nat) (redirected : Bool) (sub payload : Bytes) (via : LinkId := 0) :
    State × RouteEnd :=
  match s.nextHop dst with
  | none => (s.bump .unreachable (via.val + 1), .unreachable)
  | some l =>
    let c := bitsAt sub 3 2
    let f : Frame := { newFrame srcKind srcIdx 3 l.val (if c = 3 then 0 else c) noCtx redirected with
      fabDst := BitVec.ofNat 9 dst, fabSrc := BitVec.ofNat 9 src, fabTtl := ttl, sub := sub }
    let (s1, a) := s.takeIn f payload
    (s1, .ofAdmit noCtx a)

/-- The header of a stored frame is written again when its queue changes (R211). -/
def State.reHead (s : State) (f : Frame) : State :=
  let s1 := s.setFrame f
  { s1 with hold := { s1.hold with mem := s1.hold.mem.puts (s.frameAddr f) f.header } }

/-- Frames queued for a link follow the rebuilt next hops (R300); those that no path reaches drop. -/
def State.reroute (s : State) : State :=
  s.forAll (s.hold.frames.filter fun f => f.dstKind == 3) fun a f =>
    match a.nextHop f.fabDst.toNat with
    | some l => if l.val = f.dstIdx then a else a.reHead { f with dstIdx := l.val }
    | none => (a.dropFrames [f.no]).bump .unreachable (f.dstIdx + 1)

/-! ## The route table (R194, R195, R205) -/

def State.route? (s : State) (eui : BitVec 64) : Option Route := s.hold.routes.find? fun r => r.eui == eui

/-- Entries a table holds (Table of partitions): 2 GiB or 1 GiB of 32 bytes. -/
def State.routeRoom (s : State) : Nat := if s.boot.gib128 then 67108864 else 33554432

/-- Any write of an entry stamps it and changes the object (R194, R269). -/
def State.putRoute (s : State) (r : Route) : State :=
  let r' : Route := { r with updated := BitVec.ofNat 32 s.devSec }
  { s with hold := { s.hold with routes := r' :: s.hold.routes.filter fun x => x.eui != r.eui } }.objTouch .route r.eui.toNat

def State.dropRoute (s : State) (eui : BitVec 64) : State :=
  match s.route? eui with
  | some _ => { s with hold := { s.hold with routes := s.hold.routes.filter fun x => x.eui != eui } }.objTouch .route eui.toNat
  | none => s

/-- A kind-0 entry at JOIN_ACCEPT (R195): a pinned entry of the identity is kept aside. -/
def State.routeJoin (s : State) (r : Route) : State :=
  let s1 := match s.route? r.eui with
    | some p => if p.pinned then { s with hold := { s.hold with aside := p :: s.hold.aside.filter fun x => x.eui != r.eui } } else s
    | none => s
  s1.putRoute r

/-- The kind-0 entry of an identity goes (R195): a pinned entry kept aside returns. -/
def State.routeLeave (s : State) (eui : BitVec 64) : State :=
  match s.route? eui with
  | some r =>
    if r.kind = 0 ∧ !r.pinned then
      match s.hold.aside.find? fun x => x.eui == eui with
      | some p => { s with hold := { s.hold with aside := s.hold.aside.filter fun x => x.eui != eui } }.putRoute p
      | none => s.dropRoute eui
    else s
  | none => s

/-- A kind-1 entry learned from the fabric (R195, R205): a pinned entry stands; a full table refuses a new one. -/
def State.routeLearn (s : State) (eui : BitVec 64) (addr : BitVec 9) (epoch : BitVec 32) : State :=
  let r : Route := { eui := eui, kind := 1, pinned := false, fabAddr := addr, epoch := epoch, heard := s.now }
  match s.route? eui with
  | some p => if p.pinned then s else if p.kind = 1 ∧ p.fabAddr = addr ∧ p.epoch = epoch then
      { s with hold := { s.hold with routes := s.hold.routes.map fun x => if x.eui = eui then { x with heard := s.now } else x } }
    else s.putRoute r
  | none =>
    if s.hold.routes.length + s.hold.aside.length < s.routeRoom then s.putRoute r
    else (s.bump .routeFull).raiseEvery .routeFull (seconds 1) 0 0

/-! ## Resolution (R196) -/

/-- The berth whose route statistics a frame counts in: its own when it came from a berth, else instance 0. -/
def statBerth (srcKind srcIdx : Nat) : Nat := if srcKind = 0 then srcIdx else 0

/-- A frame for a station, from any input (R196). -/
def State.resolve (s : State) (srcKind srcIdx : Nat) (eui : BitVec 64) (tclass ctxSel : Nat) (redirected : Bool) (payload : Bytes) :
    State × RouteEnd :=
  match s.route? eui with
  | none => (s.bump .routeMiss (statBerth srcKind srcIdx), .miss)
  | some e =>
    match e.kind with
    | 0 =>
      let id := e.ctx + ctxSel
      -- a pinned entry may name a station that holds no context here
      if ctxSel ≤ e.nCtxM1 ∧ ((s.ctx? id).map fun c => c.eui) = some eui then s.toCtx srcKind srcIdx id tclass redirected payload
      else (s, .stale)
    | 1 =>
      if redirected then
        (((s.bump .routeLoop (statBerth srcKind srcIdx)).stick .routeLoopHist (statBerth srcKind srcIdx)).raiseEvery .routeLoop (seconds 1) 0
          e.fabAddr.toNat, .loop)
      else
        s.toFabric srcKind srcIdx e.fabAddr.toNat s.fab.addr.toNat 63 (srcKind == 3) (frameSub 0 tclass ctxSel 0 0 eui) payload
    | 2 =>
      let (s1, a) := s.takeIn { newFrame srcKind srcIdx 0 e.berth.val (if tclass = 3 then 0 else tclass) noCtx redirected with role := 2 } payload
      (s1, .ofAdmit noCtx a)
    | _ => (s.bump .routeMiss (statBerth srcKind srcIdx), .miss)

/-! ## Uplink (R284) -/

/-- The 24-byte backhaul header of an uplink (R283). -/
def bhUplink (tclass ctxSel len src berth ctx : Nat) (eui : BitVec 64) (arrivalUs : Nat) : Bytes :=
  leBytes 24 (1 + tclass % 4 * 2 ^ 8 + ctxSel % 4 * 2 ^ 10 + len % 2 ^ 14 * 2 ^ 16 + src % 512 * 2 ^ 32 + berth % 32 * 2 ^ 41 +
    ctx % 2 ^ 18 * 2 ^ 46 + eui.toNat * 2 ^ 64 + arrivalUs % 2 ^ 32 * 2 ^ 128)

/-- The lowest-numbered UP port that serves a berth. -/
def State.uplinkPort (s : State) (b : Berth) : Option EthId :=
  (List.finRange 4).find? fun (p : EthId) => s.eth[p].st == .up && decide (s.fnat .ethBerths p / 2 ^ b.val % 2 = 1)

/-- A station's data frame to its coordinator takes the first available path (R284). -/
def State.uplink (s : State) (b : Berth) (c : Ctx) (tclass : Nat) (payload : Bytes) : State × RouteEnd :=
  match s.uplinkPort b with
  | some p =>
    let f : Frame := { newFrame 0 b.val 1 p.val tclass c.id false with sub := leBytes 9 (c.eui.toNat + c.ctxSel * 2 ^ 64) }
    let (s1, a) := s.takeIn f payload
    (s1, .ofAdmit c.id a)
  | none =>
    let dst := s.fnat .uplinkAddr 0
    if s.fnat .fabUplinkBerths 0 / 2 ^ b.val % 2 = 1 ∧ s.fab.joined ∧ (s.nextHop dst).isSome then
      let h := bhUplink tclass c.ctxSel payload.length s.fab.addr.toNat b.val c.id c.eui (s.devTime / 1000)
      s.toFabric 0 b.val dst s.fab.addr.toNat 63 false (frameSub 3 tclass 0 (s.fnat .uplinkPort 0) 0 0) (h ++ payload)
    else s.toHost 0 b.val tclass c.id payload

/-! ## Hand-over to another owner (R175, R303) -/

/-- The frames queued on a context for its station go to the identity's owner, redirected. -/
def State.handOver (s : State) (c : Ctx) (addr : Nat) : State :=
  s.forAll (s.hold.frames.filter fun f => f.ctx == c.id && f.dstKind == 0) fun a f =>
    match a.readFrame f with
    | (a1, some d) => ((a1.dropFrames [f.no]).toFabric f.srcKind f.srcIdx addr a1.fab.addr.toNat 63 true
        (frameSub 0 f.tclass c.ctxSel 0 0 c.eui) d).1
    | (a1, none) => a1

/-! ## Limits on station frames (R246) -/

/-- The largest station frame of a class: the context's default is routed (R172). -/
def stationLimit (tclass : Nat) : Nat := if tclass = 2 then 7663 else 7619

end Sys2Proof.Machine
end

