-- ==== Sys2Proof/Machine/FabricLink.lean ====
section
/-! DEFINITION. Fabric links (chapter 12): codewords, control codewords, bring-up, retry, faults (R287 to R294). -/

namespace Sys2Proof.Machine
open Sys2Proof

/-! ## States of a link (R291) -/

/-- The event of a link entering or leaving UP: up in bit 0, the link above it. -/
def State.linkEvent (s : State) (l : LinkId) (up : Bool) : State :=
  s.raise .fabricLink (l.val + 1) ((if up then 1 else 0) + 2 * (l.val + 1))

/-- A link enters a state. Entry into and exit from UP raise EV_FABRIC_LINK. -/
def State.setLink (s : State) (l : LinkId) (st : LinkSt) : State :=
  let old := s.fab.link[l].st
  let s1 := s.modLink l fun x => { x with st := st, since := s.now }
  if old = .up ∧ st ≠ .up then s1.linkEvent l false else if old ≠ .up ∧ st = .up then s1.linkEvent l true else s1

/-- Links of a dimension larger than 1 are used (R287). -/
def State.usedLinks (s : State) : List LinkId := allLinks.filter fun l => decide (1 < linkDim s.fab.dims l)

/-- The conditions under which a link leaves DOWN (R291): enabled, its domain ON, HR_LINK not drained, INSERT_N
asserted and not in removal quiet, the configuration authenticated (R410, R21), the package a
member or joining. -/
def State.linkMayRun (s : State) (l : LinkId) : Bool :=
  s.fbool .linkEnable (l.val + 1) && s.domOn pdFab && !s.drained .link && !s.live.quiet && s.live.inserted && s.boot.configAuth &&
    decide (1 < linkDim s.fab.dims l) &&
    (s.fab.joined || s.fab.joining.isSome)

/-- TRAINING begins with a fresh HELLO nonce (R290, R291, R292); without one the link waits in FAILED for its retry (R383). Packets not
acknowledged stay to be sent again. -/
def State.startTraining (s : State) (l : LinkId) : State :=
  let d := s.draw
  if s.sec.rngFailed then s.setLink l .failed
  else (d.2.setLink l .training).modLink l fun x =>
      { x with nonce := d.1.take 16, lanes := 0, trainedAt := s.now, ctlOk := false,
               nak := false, xoffIn := false, tries := 0, nakAt := none, peer := {} }

/-- A link of the device goes from DOWN to TRAINING. -/
def State.raiseLink (s : State) (l : LinkId) : State :=
  if s.linkMayRun l && s.fab.link[l].st == .down then s.startTraining l else s

/-- A link goes DOWN: what it held is lost. -/
def State.linkDown (s : State) (l : LinkId) : State :=
  (s.setLink l .down).modLink l fun x =>
      { x with replay := [], ctl := [], lanes := 0, peer := {}, kLink := [], ctlOk := false,
               retraining := false, nak := false, xoffIn := false, tries := 0, nakAt := none, fmt := 0 }

/-- A link FAILS (R291, R294): the packets in its replay buffer and the partly sent packet are lost and counted; waiting packets go another
way. -/
def State.failLink (s : State) (l : LinkId) : State :=
  let k := s.fab.link[l]
  let lost := (k.replay.map (·.2)).foldl (· + ·) 0
  let recent := (k.fails.filter fun t => s.now < t + seconds 60) ++ [s.now]
  let s1 := ((s.setLink l .failed).stick .linkFailHist (l.val + 1)).modLink l fun x =>
      { x with replay := [], ctl := [], fails := recent, lanes := 0,
               retraining := false, ctlOk := false, kLink := [], tries := 0, nakAt := none, xoffIn := false, nak := false }
  let s2 := if lost = 0 then s1 else s1.bump .inflightLost (l.val + 1) 0 lost
  (s2.forAll k.ctl fun a p => a.sendTo p l).reroute

/-- A link is REFUSED, with its reason (R292). -/
def State.refuseLink (s : State) (l : LinkId) (why : Nat) : State := (s.setLink l .refused).modLink l fun x => { x with refuse := why }

/-- A link retrains (R293, R294). -/
def State.retrainLink (s : State) (l : LinkId) : State :=
  (((s.bump .retrains (l.val + 1)).startTraining l).modLink l fun x => { x with retraining := true }).emit (.fabRetrain l)

/-! ## Bring-up (R292) -/

/-- The release, epoch and formats of the running image (R237, R393). -/
def State.ownInfo (s : State) : ImgInfo := s.boot.running.getD ⟨0, 0, 0, 0, 0, [], []⟩

/-- Reads a control codeword's body (R290). -/
def parsePeer (cw : Bytes) : Peer where
  state := bitsAt cw 84 4
  fmtMax := bitsAt cw 88 4
  fmtMin := bitsAt cw 92 4
  epoch := bitsAt cw 96 8
  release := bitsAt cw 104 16
  addr := BitVec.ofNat 9 (bitsAt cw 120 9)
  joined := bitsAt cw 129 1 == 1
  dims := (bitsAt cw 130 3 + 1, bitsAt cw 133 3 + 1, bitsAt cw 136 3 + 1)
  port := bitsAt cw 139 3
  lanesOk := bitsAt cw 142 2
  ssm := bitsAt cw 144 4
  enh := bitsAt cw 148 8
  clock := bitsAt cw 160 2
  sysEpoch := bitsAt cw 168 8
  nonce := leBytes 16 (bitsAt cw 416 128)
  proof := leBytes 32 (bitsAt cw 544 256)

/-- Two releases are consecutive or equal (R43). -/
def relNear (a b : Nat) : Bool := decide (a ≤ b + 1 ∧ b ≤ a + 1)

/-- The first check of R292 that a peer in HELLO fails, 1 to 4 and 6. -/
def State.helloRefusal (s : State) (l : LinkId) (p : Peer) : Option Nat :=
  let me := s.ownInfo
  let fmt := min me.fmtMax p.fmtMax
  if p.addr.toNat ≠ farAddr s.fab.dims s.fab.addr.toNat l ∨ p.port ≠ (farPort l).val then some 1
  else if p.dims ≠ s.fab.dims then some 2
  else if fmt < me.fmtMin ∨ fmt < p.fmtMin then some 3
  else if !relNear me.release p.release || s.fab.members.any fun (m : Member) => !relNear m.release p.release then some 4
  else if s.fab.joined && !p.joined && s.fab.members.any fun (m : Member) => m.addr == p.addr then some 6
  else none

/-- The byte string shared by proof and key (R292): nonces and addresses, lower address first. -/
def linkSalt (aAddr pAddr : Nat) (aNonce pNonce : Bytes) : Bytes :=
  if aAddr ≤ pAddr then List.flatten [aNonce, pNonce, leBytes 2 aAddr, leBytes 2 pAddr]
  else List.flatten [pNonce, aNonce, leBytes 2 pAddr, leBytes 2 aAddr]

/-- The AUTH proof of a sender and K_link (R292). -/
def linkProof (kFab salt : Bytes) (sender : Nat) : Bytes :=
  Config.kmac256 kFab (List.flatten [ascii "PV3264 fabric link", salt, leBytes 2 sender]) 32
def linkKey (kFab salt : Bytes) : Bytes := Config.kmac256 kFab (ascii "PV3264 fabric key" ++ salt) 32

/-- The previous fabric key while it is held (R389). -/
def State.fabPrevKey (s : State) : Option Bytes :=
  match s.sec.fabPrev with
  | some (k, e) => if s.now < e + s.fnat .fabPrevDays 0 * seconds 86400 then some k else none
  | none => none

/-- A joining package has reached a joined peer over an UP link (R301): it broadcasts MEMBERSHIP of kind 0. -/
def State.memberMsg (s : State) (kind : Nat) : Bytes :=
  let i := s.ownInfo
  List.flatten [[BitVec.ofNat 8 kind, BitVec.ofNat 8 s.fab.dims.1, BitVec.ofNat 8 s.fab.dims.2.1, BitVec.ofNat 8 s.fab.dims.2.2,
    BitVec.ofNat 8 i.epoch, BitVec.ofNat 8 i.fmtMax], leBytes 2 i.release, leBytes 8 Config.serial.toNat, leBytes 2 (s.fab.members.length + 1),
    [0, 0]]

def State.reachPeer (s : State) : State :=
  match s.fab.joining with
  | some (t, false) =>
    if allLinks.any fun l => s.fab.link[l].st == .up && s.fab.link[l].peer.joined then
      { s with fab := { s.fab with joining := some (t, true) } }.broadcast 8 2 (s.memberMsg 0)
    else s
  | _ => s

/-- A link whose proofs verify is UP (R291, R292, R295): K_link, counters from 0; packets kept through a retrain are sent again. -/
def State.linkUp (s : State) (l : LinkId) (key : Bytes) (lanes : BitVec 2) : State :=
  let k := s.fab.link[l]
  let again := k.replay.zipIdx.map fun x => (BitVec.ofNat 8 x.2, x.1.2)
  let s1 := (s.setLink l .up).modLink l fun x =>
      { x with kLink := key, cwSeq := BitVec.ofNat 8 again.length, ackSeq := 0xFF, pktRx := 0,
               pktTx := (again.map (·.2)).foldl (· + ·) 0, replay := again, ackAt := s.now, retraining := false, ctlOk := true, refuse := 0, lanes := lanes,
               tries := 0, nakAt := none, share := (0, 0) }
  let s2 := if again.isEmpty then s1 else s1.emit (.fabReplay l 0)
  ((s2.reachPeer).flushLink l).reroute

/-- AUTH (R292, R389): the peer's proof under the current fabric key, then under the previous one. -/
def State.judgeAuth (s : State) (l : LinkId) (p : Peer) : State :=
  let k := s.fab.link[l]
  if p.state < 3 ∧ p.proof = leBytes 32 0 then s
  else
    let salt := linkSalt s.fab.addr.toNat p.addr.toNat k.nonce p.nonce
    let good := fun (key : Bytes) => p.proof == linkProof key salt p.addr.toNat
    match s.sec.fab, s.fabPrevKey with
    | some f, prev =>
      if good f then s.linkUp l (linkKey f salt) k.lanes
      else match prev with
        | some f' => if good f' then (s.stick .fabPrevUsed).linkUp l (linkKey f' salt) k.lanes else s.refuseLink l 5
        | none => s.refuseLink l 5
    | none, _ => s.refuseLink l 5

/-! ## Faults (R294) -/

/-- An UP link loses one lane: DEGRADED, an out-of-cadence control codeword, EV_LANE_FAILOVER with the lost lane. -/
def State.degrade (s : State) (l : LinkId) (lanes : BitVec 2) : State :=
  let s1 := (s.setLink l .degraded).modLink l fun x => { x with lanes := lanes }
  ((s1.emit (.fabControl l)).bump .laneFailovers (l.val + 1)).raise .laneFailover (l.val + 1) (if lanes.getLsbD 0 then 1 else 0)

/-- A replay from a sequence number (R293): the fourth replay of one codeword without its acknowledgement makes the link retrain. -/
def State.replayFrom (s : State) (l : LinkId) (seq : BitVec 8) : State :=
  if 4 ≤ s.fab.link[l].tries then s.retrainLink l
  else ((s.bump .replays (l.val + 1)).modLink l fun x => { x with tries := x.tries + 1 }).emit (.fabReplay l seq.toNat)

/-! ## Codewords (R288, R290, R293) -/

/-- The control field's acknowledgement and xoff (R288, R293). -/
def State.takeAck (s : State) (l : LinkId) (ack : BitVec 8) (xoff : Bool) : State :=
  let k := s.fab.link[l]
  let rest := if k.replay.any fun e => e.1 == ack then (k.replay.dropWhile fun e => e.1 != ack).drop 1 else k.replay
  let moved := decide (rest.length < k.replay.length)
  (s.modLink l fun x =>
      { x with replay := rest, xoffIn := xoff, ackAt := if moved then s.now else x.ackAt, tries := if moved then 0 else x.tries,
               nakAt := if moved then none else x.nakAt }).flushLink l

/-- FABRIC_CW_RX (R288, R293): a codeword arrives. A data codeword is accepted only in order. -/
def execFabricCwRx (t : Nat) (l : LinkId) (cw : Bytes) (decodable corrected : Bool) (s0 : State) : Host.Outcome State Fault Refusal :=
  let s := s0.at t
  let k := s.fab.link[l]
  if !k.carries then .next s
  else if !decodable then .next ((s.bump .cwUncorrectable (l.val + 1)).modLink l fun x => { x with nak := true })
  else
    let s1 := if corrected then s.bump .cwCorrected (l.val + 1) else s
    let seq := BitVec.ofNat 8 (bitsAt cw 2 8)
    let s2 := s1.takeAck l (BitVec.ofNat 8 (bitsAt cw 10 8)) (bitsAt cw 19 1 == 1)
    if bitsAt cw 0 2 = 0 then
      if seq = k.ackSeq + 1 then .next (s2.modLink l fun x => { x with ackSeq := seq, nak := false })
      else .next (s2.modLink l fun x => { x with nak := true })
    else .next s2

/-- FABRIC_NAK (R293): the first nak for an ack_seq replays from ack_seq + 1; further ones within 2 µs are ignored. -/
def execFabricNak (t : Nat) (l : LinkId) (ack : Nat) (s0 : State) : Host.Outcome State Fault Refusal :=
  let s := s0.at t
  let a := BitVec.ofNat 8 ack
  let k := s.fab.link[l]
  let again := match k.nakAt with | some (b, u) => b == a && decide (s.now < u + micros 2) | none => false
  if !k.carries || again then .next s
  else
    let s1 := s.takeAck l a k.xoffIn
    if s1.fab.link[l].replay.isEmpty then .next s1
    else .next ((s1.modLink l fun x => { x with nakAt := some (a, s.now) }).replayFrom l (a + 1))

/-- FABRIC_REPLAY_TIMEOUT (R293): ack_seq has not advanced for 5 µs while the buffer holds codewords. -/
def execFabricReplayTimeout (t : Nat) (l : LinkId) (s0 : State) : Host.Outcome State Fault Refusal :=
  let s := s0.at t
  let k := s.fab.link[l]
  match k.replay with
  | (q, _) :: _ =>
    if k.carries && decide (k.ackAt + micros 5 ≤ s.now) then .next ((s.modLink l fun x => { x with ackAt := s.now }).replayFrom l q) else .next s
  | [] => .next s

/-- The tag of a control codeword (R290) over its bits [799:20]. -/
def ctlTag (kLink cw : Bytes) : Bytes := Config.kmac256 kLink (ascii "PV3264 ctl" ++ leBytes 98 (bitsAt cw 20 780)) 16

/-- FABRIC_CONTROL_RX (R290 to R294): HELLO and AUTH checks; once UP, the fields count while the tag verifies, and a lane the peer has lost
makes the link DEGRADED. -/
def execFabricControlRx (t : Nat) (l : LinkId) (cw : Bytes) (s0 : State) : Host.Outcome State Fault Refusal :=
  let s := s0.at t
  let k := s.fab.link[l]
  if bitsAt cw 20 64 ≠ 0xC3A55A3C0FF096E1 ∨ bitsAt cw 0 2 ≠ 2 then .next s
  else
    let p := parsePeer cw
    match k.st with
    | .hello =>
      let s1 := s.modLink l fun x => { x with peer := p, fmt := min s.ownInfo.fmtMax p.fmtMax }
      match s1.helloRefusal l p with
      | some r => .next (s1.refuseLink l r)
      | none => .next (((s1.setLink l .auth).emit (.fabControl l)).judgeAuth l p)
    | .auth => .next ((s.modLink l fun x => { x with peer := p }).judgeAuth l p)
    | .up | .degraded =>
      let s1 := s.takeAck l (BitVec.ofNat 8 (bitsAt cw 10 8)) (bitsAt cw 19 1 == 1)
      if leBytes 16 (bitsAt cw 800 128) = ctlTag k.kLink cw then
        let s2 := (s1.modLink l fun x => { x with peer := p, ctlOk := true }).setCodes (⟨10 + l.val, by omega⟩ : InputId) p.ssm p.enh
        let s3 := s2.reachPeer
        if s3.fab.link[l].st = .up ∧ (p.lanesOk = 1 ∨ p.lanesOk = 2) then .next (s3.degrade l (BitVec.ofNat 2 p.lanesOk)) else .next s3
      else .next (s1.modLink l fun x => { x with ctlOk := false })
    | _ => .next s

/-- FABRIC_CONTROL_MISS (R290, R294): four control codewords missed. -/
def execFabricControlMiss (t : Nat) (l : LinkId) (s0 : State) : Host.Outcome State Fault Refusal :=
  let s := s0.at t
  match s.fab.link[l].st with
  | .hello | .auth | .up | .degraded => .next (s.failLink l)
  | _ => .next s

/-- FABRIC_LANE_LOSS (R294): the lanes that remain in lock after one or both have been out for 5 µs. -/
def execFabricLaneLoss (t : Nat) (l : LinkId) (lanes : BitVec 2) (s0 : State) : Host.Outcome State Fault Refusal :=
  let s := s0.at t
  let st := s.fab.link[l].st
  if st = .hello ∨ st = .auth ∨ st = .up ∨ st = .degraded then
    if lanes = 0 then .next (s.failLink l)
    else if lanes = 3 then .next s
    else if st = .up then .next (s.degrade l lanes)
    else .next (s.modLink l fun x => { x with lanes := lanes })
  else .next s

/-- FABRIC_DECODE_LOSS (R294): no codeword passes RS decode for 20 µs. -/
def execFabricDecodeLoss (t : Nat) (l : LinkId) (s0 : State) : Host.Outcome State Fault Refusal :=
  let s := s0.at t
  if s.fab.link[l].carries then .next (s.retrainLink l) else .next s

/-- FABRIC_TRAINING_DONE (R291): both lanes locked and adapted, to HELLO; else to FAILED. -/
def execFabricTrainingDone (t : Nat) (l : LinkId) (lanes : BitVec 2) (s0 : State) : Host.Outcome State Fault Refusal :=
  let s := s0.at t
  if s.fab.link[l].st = .training then
    if lanes = 3 then .next (((s.setLink l .hello).modLink l fun x => { x with lanes := lanes }).emit (.fabControl l))
    else .next (s.failLink l)
  else .next s

/-- FABRIC_AUTH_TIMEOUT (R291): proofs not verified within 1 ms. -/
def execFabricAuthTimeout (t : Nat) (l : LinkId) (s0 : State) : Host.Outcome State Fault Refusal :=
  let s := s0.at t
  if s.fab.link[l].st = .auth then .next (s.refuseLink l 5) else .next s

/-- Wait before a retry (R291): 10 s when REFUSED; 1 s when FAILED, 60 s after three failures within 60 s. -/
def FabLink.retryGap (k : FabLink) : Nat := if k.st = .refused then seconds 10 else if 3 ≤ k.fails.length then seconds 60 else seconds 1

/-- FABRIC_RETRY_TIMER (R291). -/
def execFabricRetryTimer (t : Nat) (l : LinkId) (s0 : State) : Host.Outcome State Fault Refusal :=
  let s := s0.at t
  let k := s.fab.link[l]
  if (k.st = .refused ∨ k.st = .failed) ∧ k.since + k.retryGap ≤ s.now ∧ s.linkMayRun l then .next (s.startTraining l) else .next s

/-- FABRIC_LANE_RESTORE (R294): the lost lane has held lock for 60 s. -/
def execFabricLaneRestore (t : Nat) (l : LinkId) (s0 : State) : Host.Outcome State Fault Refusal :=
  let s := s0.at t
  if s.fab.link[l].st = .degraded then .next (s.retrainLink l) else .next s

/-- The counter from which a retrain is due before it reaches 2⁴⁷: 2⁴⁷ − 2²⁰, DESIGN CHOICE of the margin. -/
def pktLate : Nat := 140737487306752

/-- FABRIC_PERIODIC_RETRAIN (R292): every 24 h, or before the packet counter reaches 2⁴⁷. -/
def execFabricPeriodicRetrain (t : Nat) (l : LinkId) (s0 : State) : Host.Outcome State Fault Refusal :=
  let s := s0.at t
  let k := s.fab.link[l]
  if k.carries && (decide (k.trainedAt + seconds 86400 ≤ s.now) || decide (pktLate ≤ k.pktTx)) then .next (s.retrainLink l) else .next s

end Sys2Proof.Machine
end

