-- ==== Sys2Proof/Machine/Uart.lean ====
section
/-! DEFINITION. Serial ports (R375 to R382), and the command frames of UART0 (R267). -/

namespace Sys2Proof.Machine
open Sys2Proof

def State.uartHost (s : State) (p : UartId) : Bool := s.fbool .uartMode p

/-- The interrupt cause of a port (R253, R381). -/
def uartCause (p : UartId) : Fin 8 := if p = 0 then 2 else 3

/-- fe, pe or oe sets: err_hist and the cause (R381). -/
def State.uartErr (s : State) (p : UartId) : State := (s.stick .uartErrHist p).cause (uartCause p)

/-- The majority of samples 7, 8 and 9 (R376). -/
def majority (l : List Bool) : Bool := decide (2 ≤ l.countP (· == true))

/-- Line settings take effect when the transmitter is idle (R382). -/
def State.uartIdle (s : State) (p : UartId) : State := if s.uart[p].tx.isEmpty then s.releaseAt .idleLine p else s

/-- A parity bit is wrong (R375, R382): 1 even, 2 odd. -/
def parityBad (mode : Nat) (data : List Bool) (par : Bool) : Bool :=
  match mode with
  | 0 => false
  | m => (data.countP (· == true) + b2n' par) % 2 != (if m = 1 then 0 else 1)
where b2n' (b : Bool) : Nat := if b then 1 else 0

/-- A character joins the receive FIFO (R377); in mode 0 the device takes it at once. -/
def State.uartPush (s : State) (p : UartId) (c : Byte) (fe pe : Bool) : State :=
  let x := s.uart[p]
  if 64 ≤ x.rx.length then ((s.modUart p fun y => { y with oe := true }).bump .overrun p).uartErr p
  else
    let s1 := s.modUart p fun y => { y with rx := if s.uartHost p then y.rx ++ [c] else y.rx, fe := y.fe || fe, pe := y.pe || pe }
    let s2 := if fe then s1.bump .feCount p else s1
    let s3 := if pe then s2.bump .peCount p else s2
    let s4 := if (fe && !x.fe) || (pe && !x.pe) then s3.uartErr p else s3
    if s.uartHost p && x.rx.isEmpty then s4.cause (uartCause p) else s4

/-- An opening flag of a UART0 command frame starts its 1 s (R267). -/
def State.flagSeen (s : State) (p : UartId) (c : Byte) : State :=
  if p = 0 ∧ c = 0x7E ∧ !s.uartHost p ∧ s.mgmt.frameOpen.isNone then { s with mgmt := { s.mgmt with frameOpen := some s.now } } else s

/-- UART_CHAR_RX (R376, R377): start-bit majority, data and parity bits by majority, the stop bit on its sample 8. -/
def execUartCharRx (t : Nat) (p : UartId) (ch : RxChar) (s0 : State) : Host.Outcome State Fault Refusal :=
  let s := s0.at t
  if s.uart[p].dead || !s.domOn pdMgmt then .next s
  else if ch.start.countP (· == false) < 2 then .next (s.bump .startGlitch p)
  else
    let bits := ch.bits.map majority
    let n := s.fnat .dataBits p
    let data := bits.take n
    let c : Byte := BitVec.ofNat 8 (natOfBits data)
    let pe := parityBad (s.fnat .parity p) data (bits.getD n false)
    .next ((((s.bump .rxChars p).flagSeen p c).uartPush p c (!ch.stop) pe).uartIdle p)

/-- The image of UART_STATUS (R381). -/
def State.uartStatus (s : State) (p : UartId) : Nat :=
  let x := s.uart[p]
  let h := s.uartHost p
  let bit := fun (b : Bool) (k : Nat) => if b then 2 ^ k else 0
  x.rx.length + x.tx.length * 2 ^ 7 + bit (h && x.fe) 14 + bit (h && x.pe) 15 + bit (h && x.oe) 16 + bit x.dead 17 + bit h 18 +
    bit (s.hist .lineDeadHist p) 19 + bit (s.hist .uartErrHist p) 20

/-- UART_STATUS_ARM (R378, R381): the read arms clearing of the flags it returns; in mode 0 it arms nothing. -/
def execUartStatusArm (t : Nat) (p : UartId) (s0 : State) : Host.Outcome State Fault Refusal :=
  let s := s0.at t
  let s1 := s.emit (.readData (BitVec.ofNat 64 (s.uartStatus p)))
  if s.uartHost p then .next (s1.modUart p fun x => { x with armed := some (x.fe, x.pe, x.oe) }) else .next s1

/-- UART_DATA_READ (R378, R381): the head character is returned and removed; flags that the arming read returned are cleared. -/
def execUartDataRead (t : Nat) (p : UartId) (s0 : State) : Host.Outcome State Fault Refusal :=
  let s := s0.at t
  if !s.uartHost p then .next (s.emit (.readData 0))
  else
    let x := s.uart[p]
    let s1 := s.emit (.readData ((x.rx.headD 0).setWidth 64))
    .next (s1.modUart p fun y =>
      match y.armed with
      | some (a, b, c) => { y with rx := y.rx.drop 1, fe := y.fe && !a, pe := y.pe && !b, oe := y.oe && !c, armed := none }
      | none => { y with rx := y.rx.drop 1 })

/-- A write of UART_TX (R381): mode 1 queues a character or counts an overflow; mode 0 discards it. -/
def State.uartQueue (s : State) (p : UartId) (val : BitVec 32) : State :=
  if !s.uartHost p then s
  else if s.uart[p].tx.length < 64 then s.modUart p fun x => { x with tx := x.tx ++ [val.setWidth 8] }
  else s.bump .txOverflow p

/-- UART_TX_WRITE (R381). -/
def execUartTxWrite (t : Nat) (p : UartId) (val : BitVec 32) (s : State) : Host.Outcome State Fault Refusal :=
  .next ((s.at t).uartQueue p val)

/-- UART_CHAR_TX (R382): a character has been sent; line settings may apply once the transmitter is idle. -/
def execUartCharTx (t : Nat) (p : UartId) (s0 : State) : Host.Outcome State Fault Refusal :=
  let s := (s0.at t).bump .txChars p
  match s.uart[p].tx with
  | [] => .next (s.uartIdle p)
  | c :: r => .next (((s.modUart p fun x => { x with tx := r }).emit (.uartTx p c)).uartIdle p)

/-- UART_LINE_DEAD (R379). -/
def execUartLineDead (t : Nat) (p : UartId) (s0 : State) : Host.Outcome State Fault Refusal :=
  let s := s0.at t
  if s.uart[p].dead then .next s
  else
    .next (((((s.modUart p fun x => { x with dead := true }).stick .lineDeadHist p).cause (uartCause p)).bump .lineDeadEvents p).raise
      .lineDead p p)

/-- UART_LINE_RESUME (R379). -/
def execUartLineResume (t : Nat) (p : UartId) (s0 : State) : Host.Outcome State Fault Refusal :=
  .next ((s0.at t).modUart p fun x => { x with dead := false })

/-- A change of mode (R380): FIFOs and flags empty, the UART0 session closes; UART1 in mode 1 leaves REF0 and REF1 with reason 6. -/
def State.uartModeSet (s : State) (p : UartId) (v : Int) : State :=
  if s.fval .uartMode p = v then s
  else
    let s1 := (s.fset .uartMode p [v]).modUart p fun x => { x with rx := [], tx := [], fe := false, pe := false, oe := false, armed := none }
    if p = 0 then (s1.closeWhere fun x => x.tr == .uart0)
    else if v = 1 then
      s1.modClk fun c => { c with inp := (c.inp.set 0 { c.inp[0] with reasons := c.inp[0].reasons ||| 64 }).set 1
                                    { c.inp[1] with reasons := c.inp[1].reasons ||| 64 } }
    else s1

/-! ## Requests over UART0 and the fabric (R263, R267, R268) -/

/-- A request that arrived over a transport other than QP0: its header and body, less its tag. -/
def parseReq (src : Src) (b : Bytes) : Nat × Req :=
  (bitsAt b 0 16, ⟨src, BitVec.ofNat 16 (bitsAt b 16 16), BitVec.ofNat 16 (bitsAt b 32 16), BitVec.ofNat 4 (bitsAt b 48 4),
    BitVec.ofNat 12 (bitsAt b 52 12), BitVec.ofNat 64 (bitsAt b 64 64), b.drop 16⟩)

/-- The codes of the command table (R274). -/
def knownCmd (c : Nat) : Bool := decide (1 ≤ c ∧ c ≤ 0x16)

/-- A request arrives (R263): every request after phase 1 carries a tag, and one whose tag fails is discarded unanswered. An unknown code is
answered INVALID; a request of an unknown session goes on to be answered STALE. -/
def State.receive (s : State) (src : Src) (b : Bytes) : State :=
  if b.length < 16 then s
  else
    let (cmd, r) := parseReq src b
    if cmd = 1 then { s with mgmt := { s.mgmt with inbox := s.mgmt.inbox ++ [(cmd, r)] } }
    else
      let msg := b.take (b.length - 16)
      let (_, r') := parseReq src msg
      match s.session r.session with
      | some x =>
        if b.length < 32 ∨ b.drop (b.length - 16) ≠ cmdTag x.key 0 msg then s.bump .cmdTagFail
        else if knownCmd cmd then { s with mgmt := { s.mgmt with inbox := s.mgmt.inbox ++ [(cmd, r')] } }
        else s.answer cmd r' x.key (.err .invalid)
      | none =>
        if knownCmd cmd then { s with mgmt := { s.mgmt with inbox := s.mgmt.inbox ++ [(cmd, r')] } }
        else s.answer cmd r' [] (.err .invalid)

/-- UART_CMD_FRAME (R267): the bytes between the flags of a frame. -/
def execUartCmdFrame (t : Nat) (bytes : Bytes) (s0 : State) : Host.Outcome State Fault Refusal :=
  let s := s0.at t
  if s.uartHost 0 || !s.domOn pdMgmt || s.drained .mgmt then .next s
  else
    let s1 := { s with mgmt := { s.mgmt with frameOpen := none } }
    if 4116 < (unescape bytes).length then .next (s1.bump .uartCmdLong)
    else match frameBody bytes with
      | none => .next (s1.bump .uartCmdCrc)
      | some b => .next (s1.receive .uart0 b)

/-- UART_FRAME_TIMEOUT (R267): a frame not closed within 1 s of its opening flag. -/
def execUartFrameTimeout (t : Nat) (s0 : State) : Host.Outcome State Fault Refusal :=
  let s := s0.at t
  match s.mgmt.frameOpen with
  | some o => if o + seconds 1 ≤ s.now then .next ({ s with mgmt := { s.mgmt with frameOpen := none } }.bump .uartCmdTimeout) else .next s
  | none => .next s

end Sys2Proof.Machine
end

