-- ==== Sys2Proof/Machine/Fabric.lean ====
section
/-! DEFINITION. Fabric packets, link states, membership, joining and leaving (chapter 12, R287 to R304, R268, R390). -/

namespace Sys2Proof.Machine
open Sys2Proof

/-! ## Membership and the system epoch (R302, R304, R425) -/

/-- Releases known: the system is mixed while they differ (R425). -/
def State.isMixed (s : State) : Bool := s.fab.joined && s.fab.members.any fun (m : Member) => m.release != s.ownInfo.release

/-- The mixed state begins or ends with the members known (R425). -/
def State.mixedUpdate (s : State) : State :=
  if s.isMixed then { s with live := { s.live with mixedSince := some (s.live.mixedSince.getD s.now) } }
  else { s with live := { s.live with mixedSince := none, mixedLogs := 0 } }

/-- sys_epoch is the least feature epoch among the members known (R304). The instants at which it first reaches each epoch are kept; features above
it close. -/
def State.epochUpdate (s : State) : State :=
  let e := s.fab.members.foldl (fun (n : Nat) (m : Member) => min n m.epoch) s.ownInfo.epoch
  let old := s.fab.sysEpoch
  let reached := (s.fab.reached.filter fun x => x.1 ≤ e) ++
    ((List.range (e + 1)).filter fun x => decide (old < x) && !s.fab.reached.any fun y => y.1 == x).map fun x => (x, s.now)
  ({ s with fab := { s.fab with sysEpoch := e, reached := reached, features := s.fab.features.filter fun x => x ≤ e } }).mixedUpdate

/-- A member is known by its last message (R296, R302). -/
def State.putMember (s : State) (m : Member) : State :=
  let others := s.fab.members.filter fun (x : Member) => x.addr != m.addr
  ({ s with fab := { s.fab with members := others ++ [m] } }).epochUpdate

/-- A member is dropped, with what the package knew of its links. -/
def State.dropMember (s : State) (a : BitVec 9) : State :=
  ({ s with fab :=
      { s.fab with members := s.fab.members.filter fun (x : Member) => x.addr != a,
                   views := s.fab.views.filter fun (x : LinkView) => x.addr != a } }).epochUpdate.reroute

/-! ## Owner advertisements (R195, R303) -/

/-- The identities owned here: kind-0 entries that are not pinned, with the epoch of their first context. -/
def State.ownedIds (s : State) : List (BitVec 64 × BitVec 32) :=
  (s.hold.routes.filter fun (r : Route) => r.kind == 0 && !r.pinned).map fun (r : Route) =>
    (r.eui, match s.ctx? r.ctx with | some c => c.ownEpoch | none => 0)

/-- One OWN_ADVERT of at most 1,024 entries (R296). -/
def advertMsg (l : List (BitVec 64 × BitVec 32)) : Bytes :=
  leBytes 2 l.length ++ [0, 0] ++ (l.map fun x => leBytes 8 x.1.toNat ++ leBytes 4 x.2.toNat).flatten

/-- Cut a list into runs of at most 1,024. -/
def runs1024 {α : Type} (fuel : Nat) (l : List α) : List (List α) :=
  match fuel, l with
  | 0, _ => []
  | _, [] => []
  | n + 1, l => l.take 1024 :: runs1024 n (l.drop 1024)

def State.advertise (s : State) (ids : List (BitVec 64 × BitVec 32)) : State :=
  if s.fab.joined then s.forAll (runs1024 ids.length ids) fun a r => a.broadcast 6 2 (advertMsg r) else s

/-! ## Joining and leaving (R301, R302) -/

/-- Every link goes DOWN and what the package knew of the fabric goes. -/
def State.fabricOff (s : State) : State :=
  let s1 := s.forAll allLinks fun a l => a.linkDown l
  ({ s1 with fab := { s1.fab with joined := false, joining := none, leaving := none, members := [], views := [] } }).epochUpdate

/-- A join ends without success (R301). -/
def State.joinFails (s : State) (st : Status) : State := s.fabricOff.completeRun (fun k => k == .join) (.err st)

/-- A join succeeds (R301): fabric_joined is 1, and the response carries sys_epoch and the members then known, this package among them. -/
def State.joinDone (s : State) : State :=
  if 512 ≤ s.fab.members.length then s.joinFails .range
  else
    let s1 := (({ s with fab := { s.fab with joined := true, joining := none } }).epochUpdate).dirty
    let s2 := s1.completeRun (fun k => k == .join)
      { body := List.flatten [[BitVec.ofNat 8 s1.fab.sysEpoch, 0, 0, 0], leBytes 2 (s1.fab.members.length + 1)] }
    s2.advertise s2.ownedIds

/-- A join starts (R301): the links of every dimension larger than 1 come up, announcing the address. -/
def State.startJoin (s : State) (addr : BitVec 9) (dims : Nat × Nat × Nat) : State :=
  let s1 : State := { s with fab := { s.fab with addr := addr, dims := dims, joining := some (s.now, false), members := [], views := [] } }
  s1.forAll s1.usedLinks fun a l => a.raiseLink l

/-- FABRIC_JOIN (R301, R41, R42). -/
def fabricJoinEff (r : Req) (s : State) : Eff :=
  let x := bitsAt r.body 0 8; let y := bitsAt r.body 8 8; let z := bitsAt r.body 16 8
  let nx := bitsAt r.body 24 8; let ny := bitsAt r.body 32 8; let nz := bitsAt r.body 40 8
  if r.body.length ≠ 8 then .done (.err .invalid) s
  else if bitsAt r.body 48 16 ≠ 0 then .done (.err .invalid (some 6)) s
  else if s.fab.joined || s.fab.joining.isSome then .done (.err .busy) s
  else if nx = 0 ∨ 8 < nx then .done (.err .range (some 3)) s
  else if ny = 0 ∨ 8 < ny then .done (.err .range (some 4)) s
  else if nz = 0 ∨ 8 < nz then .done (.err .range (some 5)) s
  else if nx ≤ x then .done (.err .range (some 0)) s
  else if ny ≤ y then .done (.err .range (some 1)) s
  else if nz ≤ z then .done (.err .range (some 2)) s
  else if s.sec.fab = none then .done (.err .notReady) s
  else .run .join (s.startJoin (BitVec.ofNat 9 (x + 8 * y + 64 * z)) (nx, ny, nz))

def execFabricJoin (t : Nat) (r : Req) (s0 : State) : Host.Outcome State Fault Refusal :=
  .next ((s0.at t).runLocked 0xE r ((List.range 7).map fun i => (.fabric, i)) (fabricJoinEff r))

/-- FABRIC_JOIN_TIMEOUT (R301): the 500 ms of the join are over. Without a joined peer the device forms a system of one, unless the dimensions differed
(RANGE), every link was refused for its release (DENIED), or its address is held (RANGE). -/
def execFabricJoinTimeout (t : Nat) (s0 : State) : Host.Outcome State Fault Refusal :=
  let s := s0.at t
  match s.fab.joining with
  | none => .next s
  | some (_, true) => .next s.joinDone
  | some (_, false) =>
    let whys := s.usedLinks.map fun l => if s.fab.link[l].st = .refused then s.fab.link[l].refuse else 0
    if whys.any fun w => w == 2 || w == 6 then .next (s.joinFails .range)
    else if !whys.isEmpty && whys.all fun w => w == 4 then .next (s.joinFails .denied)
    else .next s.joinDone

/-- FABRIC_LEAVE (R302): MEMBERSHIP of kind 2. -/
def fabricLeaveEff (r : Req) (s : State) : Eff :=
  if r.body ≠ [] then .done (.err .invalid) s
  else if !s.fab.joined then .done (.err .notReady) s
  else
    let s1 := s.broadcast 8 2 (s.memberMsg 2)
    .run .leave { s1 with fab := { s1.fab with leaving := some s.now } }

def execFabricLeave (t : Nat) (r : Req) (s0 : State) : Host.Outcome State Fault Refusal :=
  .next ((s0.at t).runLocked 0xF r ((List.range 7).map fun i => (.fabric, i)) (fabricLeaveEff r))

/-- FABRIC_LEAVE_DOWN (R302): 10 ms after the message the links go DOWN and fabric_joined becomes 0. -/
def execFabricLeaveDown (t : Nat) (s0 : State) : Host.Outcome State Fault Refusal :=
  let s := s0.at t
  match s.fab.leaving with
  | some u => if u + millis 10 ≤ s.now then .next ((s.fabricOff.dirty).completeRun (fun k => k == .leave) {}) else .next s
  | none => .next s

/-! ## Packets received (R295 to R299) -/

/-- A packet as received: its header fields with its payload in clear; none when its tag fails (R295). -/
def State.openPkt (s : State) (l : LinkId) (b : Bytes) : Option Pkt :=
  let k := s.fab.link[l]
  let n := bitsAt b 48 14
  match Config.gcmOpen k.kLink (pktNonce k.pktRx k.peer.addr.toNat k.peer.port) (b.take 16) ((b.drop 32).take n ++ (b.drop 16).take 16) with
  | none => none
  | some d => some { ptype := bitsAt b 4 4, prio := bitsAt b 8 2, redirected := bitsAt b 10 1 == 1, bcast := bitsAt b 11 1 == 1,
                     ttl := bitsAt b 12 6, dst := bitsAt b 18 9, src := bitsAt b 27 9, bphase := bitsAt b 36 2, brem := bitsAt b 38 3,
                     bdir := bitsAt b 41 1 == 1, payload := d }

/-- The header is as R295 and R296 give it for the link's format. -/
def State.headOk (s : State) (l : LinkId) (b : Bytes) : Bool :=
  decide (bitsAt b 0 4 = s.fab.link[l].fmt ∧ bitsAt b 4 4 ≤ 8 ∧ 1 ≤ bitsAt b 12 6 ∧ bitsAt b 42 6 = 0 ∧ bitsAt b 48 14 ≤ 16364 ∧
    bitsAt b 62 2 = 0 ∧ bitsAt b 112 16 = 0 ∧ (bitsAt b 11 1 = 1 → bitsAt b 36 2 ≤ 2 ∧ 1 ≤ bitsAt b 38 3))

/-- The sign of a broadcast's direction as a link. -/
def dirLink (phase : Nat) (minus : Bool) : LinkId :=
  match phase, minus with | 0, false => 0 | 0, true => 1 | 1, false => 2 | 1, true => 3 | _, false => 4 | _, true => 5

/-- A packet passes on without delivery (R298): ttl falls, and one that reaches 0 drops. A FRAME goes through the Hold (R15, R296). -/
def State.passOn (s : State) (l : LinkId) (p : Pkt) : State :=
  if p.ttl ≤ 1 then s.bump .ttlDrop (l.val + 1)
  else if p.ptype = 1 ∧ !p.bcast then
    if !s.switching then s
    else (s.toFabric 3 l.val p.dst p.src (p.ttl - 1) p.redirected (p.payload.take 16) (p.payload.drop 16) l).1
  else s.sendTo { p with ttl := p.ttl - 1 } l

/-- A broadcast delivered here goes on in its direction and starts every later phase (R299). -/
def State.spread (s : State) (l : LinkId) (p : Pkt) : State :=
  if p.ttl ≤ 1 then s
  else
    let q : Pkt := { p with ttl := p.ttl - 1 }
    let s1 := if 1 < p.brem then
        s.sendTo { q with dst := farAddr s.fab.dims s.fab.addr.toNat (dirLink p.bphase p.bdir), brem := p.brem - 1 } l
      else s
    s1.startPhases q ((List.range 3).filter fun ph => p.bphase < ph) l

/-- A packet arrives on a link that carries packets: link order guarantees pkt_ctr (R295). One whose tag fails counts in pkt_auth_fail, one out
of sequence or with a header outside R295 and R296 in pkt_invalid. A packet for this package is delivered, any other passes on. -/
def State.rxPacket (s : State) (l : LinkId) (ptype : Nat) (b : Bytes) (deliver : State → Pkt → State) : State :=
  let k := s.fab.link[l]
  if !k.carries || !s.domOn pdFab || s.drained .link then s
  else if bitsAt b 64 48 ≠ k.pktRx then s.bump .pktInvalid (l.val + 1)
  else
    let s1 := s.modLink l fun x => { x with pktRx := x.pktRx + 1 }
    match s.openPkt l b with
    | none => s1.bump .pktAuthFail (l.val + 1)
    | some p =>
      if !s.headOk l b || p.ptype != ptype then s1.bump .pktInvalid (l.val + 1)
      else if p.dst ≠ s.fab.addr.toNat then s1.passOn l p
      else if p.bcast then (deliver s1 p).spread l p
      else deliver s1 p

/-! ## FRAME (R296) -/

/-- A FRAME for this package: by EUI-64, on a context, for the host, or on an Ethernet port as that port's own frame. -/
def State.frameHere (s : State) (l : LinkId) (p : Pkt) : State :=
  let sub := p.payload.take 16
  let d := p.payload.drop 16
  let cls := bitsAt sub 3 2
  if d.isEmpty || bitsAt sub 7 1 != 0 || bitsAt sub 10 22 != 0 || bitsAt sub 50 14 != 0 then s.bump .pktInvalid (l.val + 1)
  else if !s.switching then s
  else match bitsAt sub 0 3 with
    | 0 => (s.resolve 3 l.val (BitVec.ofNat 64 (bitsAt sub 64 64)) cls (bitsAt sub 5 2) p.redirected d).1
    | 1 => (s.toCtx 3 l.val (bitsAt sub 32 18) cls p.redirected d).1
    | 2 => (s.toHost 3 l.val (if cls = 3 then 0 else cls) noCtx d).1
    | 3 => (s.takeIn (newFrame 3 l.val 1 (bitsAt sub 8 2) (if cls = 3 then 0 else cls) noCtx false) d).1
    | _ => s.bump .pktInvalid (l.val + 1)

/-- FRAME (R296). -/
def execFrame (t : Nat) (l : LinkId) (pkt : Bytes) (s0 : State) : Host.Outcome State Fault Refusal :=
  .next ((s0.at t).rxPacket l 1 pkt fun s p => s.frameHere l p)

/-! ## LINKSTATE (R300) -/

/-- The states of this package's six links, 4 bits each. -/
def State.linkBits (s : State) : Nat := allLinks.foldl (fun n l => n + s.fab.link[l].st.code * 2 ^ (4 * l.val)) 0

/-- The newest version from each origin is kept, and the frames queued follow the rebuilt table. -/
def State.takeLinkstate (s : State) (p : Pkt) : State :=
  let a := BitVec.ofNat 9 p.src
  let ver := BitVec.ofNat 16 (bitsAt p.payload 0 16)
  let fresh := match s.fab.views.find? fun (x : LinkView) => x.addr == a with
    | some x => newer 16 ver.toNat x.ver.toNat
    | none => true
  if fresh && decide (p.src ≠ s.fab.addr.toNat) then
    let v : LinkView := ⟨a, ver, (List.range 6).map fun i => bitsAt p.payload (16 + 4 * i) 4⟩
    ({ s with fab := { s.fab with views := v :: s.fab.views.filter fun (x : LinkView) => x.addr != a } }).reroute
  else s

/-- LINKSTATE (R300). -/
def execLinkstate (t : Nat) (l : LinkId) (pkt : Bytes) (s0 : State) : Host.Outcome State Fault Refusal :=
  .next ((s0.at t).rxPacket l 7 pkt fun s p => if p.payload.length = 8 then s.takeLinkstate p else s.bump .pktInvalid (l.val + 1))

/-- LINKSTATE_PERIODIC (R300): every 1 s, and within 20 µs of a change of a link. -/
def execLinkstatePeriodic (t : Nat) (s0 : State) : Host.Outcome State Fault Refusal :=
  let s := s0.at t
  if !s.domOn pdFab || s.drained .link || !(s.fab.joined || s.fab.joining.isSome) then .next s
  else
    let s1 := { s with fab := { s.fab with ver := s.fab.ver + 1 } }
    .next (s1.broadcast 7 2 (List.flatten [leBytes 2 s1.fab.ver.toNat, leBytes 3 s1.linkBits, [0, 0, 0]]))

/-! ## MEMBERSHIP (R301, R302, R304) -/

/-- Close the fabric sessions of an address (R302). -/
def State.closeFabric (s : State) (a : BitVec 9) : State := s.closeWhere fun x => x.tr == .fabric a

/-- MEMBERSHIP as received. -/
def State.takeMember (s : State) (p : Pkt) : State :=
  let b := p.payload
  let a := BitVec.ofNat 9 p.src
  let m : Member := ⟨a, BitVec.ofNat 64 (bitsAt b 64 64), bitsAt b 32 8, bitsAt b 40 8, bitsAt b 48 16, s.now⟩
  let same := decide (p.src = s.fab.addr.toNat)
  match bitsAt b 0 8 with
  | 0 =>
    if same then
      if s.fab.joined && m.serial != Config.serial then s.broadcast 8 2 (s.memberMsg 3) else s
    else
      let s1 := s.putMember m
      if s1.fab.joined then s1.advertise s1.ownedIds else s1
  | 1 => if same then s else s.putMember m
  | 2 =>
    if same then s
    else
      let gone := s.hold.routes.filter fun (r : Route) => r.kind == 1 && !r.pinned && r.fabAddr == a
      ((s.dropMember a).forAll gone fun x r => x.dropRoute r.eui).closeFabric a
  | 3 => if same ∧ s.fab.joining.isSome then s.joinFails .range else s
  | _ => s

/-- MEMBERSHIP (R302). -/
def execMembership (t : Nat) (l : LinkId) (pkt : Bytes) (s0 : State) : Host.Outcome State Fault Refusal :=
  .next ((s0.at t).rxPacket l 8 pkt fun s p =>
    if p.payload.length ≠ 20 ∨ 3 < bitsAt p.payload 0 8 then s.bump .pktInvalid (l.val + 1)
    else if s.drained .mgmt then s else s.takeMember p)

/-- MEMBERSHIP_HEARTBEAT (R302). -/
def execMembershipHeartbeat (t : Nat) (s0 : State) : Host.Outcome State Fault Refusal :=
  let s := s0.at t
  if s.fab.joined && s.domOn pdFab && !s.drained .link && !s.drained .mgmt then .next (s.broadcast 8 2 (s.memberMsg 1)) else .next s

/-- MEMBER_TIMEOUT (R302): a member silent for 3 s. -/
def execMemberTimeout (t : Nat) (addr : BitVec 9) (s0 : State) : Host.Outcome State Fault Refusal :=
  let s := s0.at t
  if s.fab.members.any fun (m : Member) => m.addr == addr && decide (m.heard + seconds 3 ≤ s.now) then .next (s.dropMember addr) else .next s

/-- FEATURE_EPOCH_START (R304): 2 s after sys_epoch first reached e. -/
def execFeatureEpochStart (t : Nat) (e : Nat) (s0 : State) : Host.Outcome State Fault Refusal :=
  let s := s0.at t
  if e ≤ s.fab.sysEpoch && !s.fab.features.contains e && s.fab.reached.any fun x => x.1 == e && decide (x.2 + seconds 2 ≤ s.now) then
    .next { s with fab := { s.fab with features := e :: s.fab.features } }
  else .next s

/-! ## MGMT (R268) and the member sessions of KEY_ROLL (R390) -/

/-- The security officers' key (R386). -/
def State.officerKey (s : State) : Bytes :=
  match s.sec.roleKey[2] with
  | some k => k
  | none => if s.sec.officerSet then [] else Config.kmac256 Config.kDev (ascii "PV3264 initial officer") 32

/-- A request's header (R258). -/
def reqHeader (cmd session seq : Nat) : Bytes := leBytes 16 (cmd % 2 ^ 16 + session % 2 ^ 16 * 2 ^ 16 + seq % 2 ^ 16 * 2 ^ 32)

/-- Send a request of the device's own to a member. -/
def State.askMember (s : State) (a : BitVec 9) (msg : Bytes) : State :=
  s.sendTo { ptype := 2, prio := 3, dst := a.toNat, src := s.fab.addr.toNat, payload := msg }

/-- A member session ends: it failed, or the member rolls. -/
def State.rollEnds (s : State) (a : BitVec 9) (ok : Bool) : State :=
  let s1 := { s with sec := { s.sec with memberRolls := s.sec.memberRolls.filter fun (x : MemberRoll) => x.addr != a } }
  let s2 := s1.report .rollMembersLeft 0 0 (s1.stat .rollMembersLeft - 1)
  if ok then s2 else s2.bump .rollMemberFail

/-- Open a session to each other member in ascending address order (R390). -/
def State.rollMembers (s : State) : State :=
  let l := (List.range 512).filterMap fun a => s.fab.members.find? fun (m : Member) => m.addr.toNat == a
  let s1 := s.report .rollMembersLeft 0 0 l.length
  s1.forAll l fun x m =>
    let d := x.draw
    let y : State := { d.2 with sec := { d.2.sec with memberRolls := d.2.sec.memberRolls ++
      [{ addr := m.addr, since := s.now, serial := m.serial, nonce := d.1.take 16 }] } }
    y.askMember m.addr (reqHeader 1 0 0 ++ [2, 0, 0, 0])

/-- The K_mgmt and the proof of a member session (R262, R263). -/
def mgmtKey (kRole devNonce reqNonce : Bytes) : Bytes := Config.kmac256 kRole (List.flatten [ascii "PV3264 mgmt", devNonce, reqNonce]) 32
def sessionProof (kRole devNonce reqNonce : Bytes) (role : Nat) (serial : BitVec 64) : Bytes :=
  Config.kmac256 kRole (List.flatten [ascii "PV3264 session", devNonce, reqNonce, [BitVec.ofNat 8 role], leBytes 8 serial.toNat]) 32

/-- A response that a member session waits for. -/
def MemberRoll.awaits (x : MemberRoll) (b : Bytes) : Bool :=
  decide (16 ≤ b.length ∧ bitsAt b 0 16 = (if x.stage = 2 then 0x14 else 1) ∧ bitsAt b 16 16 = (if x.stage = 2 then 1 else 0) ∧
    bitsAt b 64 64 ≠ 0)

/-- A member's response carries its session on, or ends it. -/
def State.rollResponse (s : State) (x : MemberRoll) (b : Bytes) : State :=
  let st := bitsAt b 32 4
  let set := fun (y : MemberRoll) (a : State) =>
    ({ a with sec := { a.sec with memberRolls := a.sec.memberRolls.map fun (z : MemberRoll) => if z.addr = y.addr then y else z } } : State)
  match x.stage with
  | 0 =>
    if st ≠ 0 ∨ b.length < 36 then s.rollEnds x.addr false
    else
      let dn := (b.drop 16).take 16
      let y : MemberRoll := { x with stage := 1, devNonce := dn, id := bitsAt b 256 16, key := mgmtKey s.officerKey dn x.nonce }
      (set y s).askMember x.addr (List.flatten [reqHeader 1 y.id 0, [2, 1, 0, 0], x.nonce, sessionProof s.officerKey dn x.nonce 2 x.serial])
  | 1 =>
    let msg := b.take (b.length - 16)
    if st ≠ 0 ∨ b.drop (b.length - 16) ≠ cmdTag x.key 1 msg then s.rollEnds x.addr false
    else
      let req := reqHeader 0x14 x.id 1 ++ [1, 0, 0, 0, 0, 0, 0, 0]
      (set { x with stage := 2 } s).askMember x.addr (req ++ cmdTag x.key 0 req)
  | _ =>
    let msg := b.take (b.length - 16)
    s.rollEnds x.addr (st == 0 && b.drop (b.length - 16) == cmdTag x.key 1 msg)

/-- Member sessions without an answer for 1 s fail (R390). -/
def State.rollTimeouts (s : State) : State :=
  s.forAll (s.sec.memberRolls.filter fun (x : MemberRoll) => decide (x.since + seconds 1 ≤ s.now)) fun a x => a.rollEnds x.addr false

/-- MGMT (R268): a request acts on this package only and its response goes to the originating address; a response goes to the member session that
awaits it. -/
def execMgmt (t : Nat) (l : LinkId) (pkt : Bytes) (s0 : State) : Host.Outcome State Fault Refusal :=
  .next ((s0.at t).rxPacket l 2 pkt fun s p =>
    if s.drained .mgmt then s
    else
      let a := BitVec.ofNat 9 p.src
      match s.sec.memberRolls.find? fun (x : MemberRoll) => x.addr == a && x.awaits p.payload with
      | some x => s.rollResponse x p.payload
      | none => s.receive (.fabric a) p.payload)

end Sys2Proof.Machine
end

