-- ==== Sys2Proof/Machine/Check.lean ====
section
/-! DEFINITION. Check-value units (R366 to R374). -/

namespace Sys2Proof.Machine
open Sys2Proof

/-- The settings of a unit as the computation uses them (R366). -/
structure ChkCfg where
  w : Nat
  poly : Nat
  init : Nat
  xorout : Nat
  refin : Bool
  refout : Bool

def State.chkCfg (s : State) (u : ChkId) : ChkCfg :=
  ⟨s.fnat .chkWidth u, s.fnat .chkPoly u, s.fnat .chkInit u, s.fnat .chkXorout u, s.fbool .chkRefin u, s.fbool .chkRefout u⟩

def ChkCfg.feed (c : ChkCfg) (reg : Nat) (l : Bytes) : Nat := crcFeed c.w c.poly c.refin reg l
def ChkCfg.out (c : ChkCfg) (reg : Nat) : Nat := crcOut c.w c.refout c.xorout reg

/-- The bytes of the fold tag of an item (R371): none, the fixed tag, or the per-item tag. -/
def State.foldBytes (s : State) (u : ChkId) (tag : Nat) : Bytes :=
  match s.fnat .foldMode u with
  | 0 => []
  | 1 => leBytes 8 (s.fnat .foldTag u)
  | _ => leBytes 8 tag

/-- A unit starts (R370): its running register from init with the fold tag fed once under scope 1; items count afresh. -/
def State.chkStart (s : State) (u : ChkId) : State :=
  let c := s.chkCfg u
  (s.modChk u fun x => { x with reg := c.feed c.init (s.foldBytes u 0), number := 0, busy := false, skip := false }).statSet .chkItems u 0 0

/-- Settings take effect at an item boundary, at once while the unit is off (R374); enable from 0 to 1 starts the unit (R370). -/
def State.chkBoundary (s : State) (u : ChkId) : State :=
  let s1 := s.releaseAt .item u
  if !s.fbool .chkEnable u && s1.fbool .chkEnable u then s1.chkStart u else s1

/-- A write of 1 to restart (R370, R374): under scope 1 the waiting settings take effect at once with it. -/
def State.chkRestartNow (s : State) (u : ChkId) : State :=
  let s1 := if s.fbool .chkScope u then s.chkBoundary u else s
  s1.chkStart u

/-- CHECK_ITEM_START (R368): an item that the 16 KiB buffer cannot take whole is skipped. -/
def execCheckItemStart (t : Nat) (u : ChkId) (fits : Bool) (s0 : State) : Host.Outcome State Fault Refusal :=
  let s := s0.at t
  if s.chk[u].busy then .next s
  else
    let s1 := s.chkBoundary u
    if !s1.fbool .chkEnable u || !s1.domOn pdMgmt then .next s1
    else if fits then .next (s1.modChk u fun x => { x with busy := true, skip := false })
    else .next (((s1.modChk u fun x => { x with skip := true }).bump .chkSkipped u).stick .chkSkipHist u)

/-- What an item gives (R369, R370): the running register after it, the result and, in modes 1 and 2, the expected value. -/
def State.chkItem (s : State) (u : ChkId) (tag : Nat) (bytes : Bytes) : Nat × Nat × Option Nat :=
  let c := s.chkCfg u
  let trailer := if s.fnat .chkMode u = 2 then c.w / 8 else 0
  let fed := bytes.take (bytes.length - trailer)
  let reg0 := if s.fbool .chkScope u then s.chk[u].reg else c.feed c.init (s.foldBytes u tag)
  let reg := c.feed reg0 fed
  let want := match s.fnat .chkMode u with
    | 1 => some (s.fnat .chkExpect u)
    | 2 => some (leNat (bytes.drop (bytes.length - trailer)))
    | _ => none
  (reg, c.out reg, want)

/-- A comparison that fails (R372). -/
def State.chkMismatch (s : State) (u : ChkId) (tag : Nat) : State :=
  let bad := if s.fnat .foldMode u = 2 then tag else s.chk[u].number
  ((((s.modChk u fun x => { x with lastBad := bad }).bump .chkMismatches u).stick .chkMismatchHist u).cause 1).raiseEvery .checkMismatch
    (seconds 1) u u

/-- The stream of a UART with framed 0 is fed character by character and has no items (R367). -/
def State.chkStream (s : State) (u : ChkId) : Bool := s.fnat .chkSource u == 3 && !s.fbool .chkFramed u

/-- CHECK_ITEM_END (R367 to R372): the item's result is written and compared; an item whose source stopped is abandoned, never compared.
A character of an unframed UART stream only moves the running value. -/
def execCheckItemEnd (t : Nat) (u : ChkId) (tag : BitVec 64) (bytes : Bytes) (whole : Bool) (s0 : State) : Host.Outcome State Fault Refusal :=
  let s := s0.at t
  let (reg, res, want) := s.chkItem u tag.toNat bytes
  let run := s.modChk u fun x => { x with reg := if s.fbool .chkScope u then reg else x.reg, busy := false }
  if !s.chk[u].busy then .next ((s.modChk u fun x => { x with skip := false }).chkBoundary u)
  else if !whole then .next ((run.bump .chkAbandoned u).chkBoundary u)
  else if s.chkStream u then .next ((run.modChk u fun x => { x with result := res }).chkBoundary u)
  else
    let bad := match want with | some e => res != e | none => false
    let s1 := (run.modChk u fun x =>
      { x with result := res, number := x.number + 1, mismatch := if want.isSome then bad else x.mismatch }).bump .chkItems u
    .next ((if bad then s1.chkMismatch u tag.toNat else s1).chkBoundary u)

/-- CHK_RESULT_LATCH (R373): a 32-bit read of CHK_RESULT_LO, or of CHK_LAST_BAD_LO, latches its upper half. -/
def execChkResultLatch (t : Nat) (u : ChkId) (which : Bool) (s0 : State) : Host.Outcome State Fault Refusal :=
  let s := s0.at t
  let x := s.chk[u]
  if which then .next ((s.modChk u fun x => { x with hiBad := x.lastBad / 2 ^ 32 }).emit (.readData (BitVec.ofNat 64 (x.lastBad % 2 ^ 32))))
  else .next ((s.modChk u fun x => { x with hiResult := x.result / 2 ^ 32 }).emit (.readData (BitVec.ofNat 64 (x.result % 2 ^ 32))))

end Sys2Proof.Machine
end

