-- ==== Sys2Proof/Machine/Eth.lean ====
section
/-! DEFINITION. Ethernet ports (R280 to R286) and the switch's rounds towards Ethernet and the fabric (R26, R15, R297). -/

namespace Sys2Proof.Machine
open Sys2Proof

def allEth : List EthId := List.finRange 4

/-! ## Ports (R281, R18) -/

/-- A port exists in the Ethernet mode (R18). -/
def State.portPresent (s : State) (p : EthId) : Bool :=
  match s.fnat .ethMode 0 with | 0 => p == 0 | 1 => decide (p.val ≤ 1) | _ => true

/-- A port may leave DOWN: present, enabled, PD_ETH ON, HR_LINK not drained, INSERT_N asserted and not in removal quiet, the configuration
authenticated (R281, R410, R21). -/
def State.portMayRun (s : State) (p : EthId) : Bool :=
  s.portPresent p && s.fbool .portEnable p && s.domOn pdEth && !s.drained .link && !s.live.quiet && s.live.inserted && s.boot.configAuth

/-- Negotiation, or training when an_enable is 0, begins, with the settings that wait for it (R281, R305). -/
def State.startPort (s : State) (p : EthId) : State :=
  let s1 := s.releaseAt .negotiation p
  s1.modEth p fun e => { e with st := if !s1.portMayRun p then .down else if s1.fbool .anEnable p then .negotiating else .training }

/-- EV_ETH_LINK: up in bit 0, the port above it. -/
def State.ethEvent (s : State) (p : EthId) (up : Bool) : State := s.raise .ethLink p ((if up then 1 else 0) + 2 * p.val)

/-- A port that is UP leaves it (R281). -/
def State.portLeavesUp (s : State) (p : EthId) : State :=
  if s.eth[p].st = .up then ((s.stick .linkDownHist p).ethEvent p false).modEth p fun e => { e with st := .down, qlSent := none } else s

/-- A port goes DOWN and stays there. -/
def State.portDown (s : State) (p : EthId) : State := (s.portLeavesUp p).modEth p fun e => { e with st := .down }

/-- ETH_LINK_FAULT (R281): the port leaves UP and starts again. -/
def execEthLinkFault (t : Nat) (p : EthId) (s0 : State) : Host.Outcome State Fault Refusal :=
  let s := s0.at t
  if s.eth[p].st = .up then .next ((s.portLeavesUp p).startPort p) else .next s

/-- ETH_LINK_UP (R281). -/
def execEthLinkUp (t : Nat) (p : EthId) (s0 : State) : Host.Outcome State Fault Refusal :=
  let s := s0.at t
  if (s.eth[p].st = .negotiating ∨ s.eth[p].st = .training) ∧ s.portMayRun p then
    .next ((s.modEth p fun e => { e with st := .up }).ethEvent p true)
  else .next s

/-! ## Ingress (R282, R283) -/

/-- A big-endian number of the bytes at a place, as IEEE 802.3 and IP order them (R5). -/
def beAt (b : Bytes) (i n : Nat) : Nat := leNat ((b.drop i).take n).reverse

/-- A MAC address of six bytes in transmission order. -/
def macOf (b : Bytes) (i : Nat) : Nat := beAt b i 6

/-- An Ethernet frame without its FCS: 802.1Q tag, EtherType, and where its payload begins. -/
structure EthView where
  vid : Option Nat
  etype : Nat
  body : Bytes
  deriving DecidableEq, Repr

def ethView (b : Bytes) : EthView :=
  if beAt b 12 2 = 0x8100 then ⟨some (beAt b 14 2 % 4096), beAt b 16 2, b.drop 18⟩ else ⟨none, beAt b 12 2, b.drop 14⟩

/-- A PTP message (R282, R285): over IEEE 802.3, or UDP ports 319 or 320 when ptp_transport is 1 or 2. -/
def isPtp (v : EthView) (transport : Nat) : Bool :=
  let udp := fun (p : Nat) => p == 319 || p == 320
  if v.etype = 0x88F7 then true
  else if transport = 0 then false
  else if v.etype = 0x0800 then
    let ihl := beAt v.body 0 1 % 16 * 4
    beAt v.body 9 1 == 17 && udp (beAt v.body (ihl + 2) 2)
  else v.etype == 0x86DD && beAt v.body 6 1 == 17 && udp (beAt v.body 42 2)

/-- A backhaul header is valid at ingress (R283). -/
def bhValid (b : Bytes) (bcastOk : Berth → Bool) : Bool :=
  let h := b.take 24
  let kind := bitsAt h 4 3
  let len := bitsAt h 16 14
  let lim := if kind = 3 then 7663 else stationLimit (bitsAt h 8 2)
  decide (24 ≤ b.length ∧ bitsAt h 0 4 = 1 ∧ 1 ≤ kind ∧ kind ≤ 3 ∧ bitsAt h 7 1 = 0 ∧ bitsAt h 12 4 = 0 ∧ bitsAt h 30 2 = 0 ∧
    bitsAt h 160 32 = 0 ∧ len = b.length - 24 ∧ 1 ≤ len ∧ len ≤ lim ∧ bitsAt h 32 9 = 0 ∧ bitsAt h 128 32 = 0 ∧
    (kind = 1 ∨ (bitsAt h 10 2 = 0 ∧ bitsAt h 64 64 = 0)) ∧ (kind = 2 ∨ bitsAt h 46 18 = 0) ∧ (kind = 3 ∨ bitsAt h 41 5 = 0)) &&
    (kind != 3 || bcastOk (Fin.ofNat 32 (bitsAt h 41 5)))

/-- A valid backhaul frame goes where its bh_kind directs (R283, R196). -/
def State.backhaul (s : State) (p : EthId) (b : Bytes) : State :=
  let d := b.drop 24
  let cls := bitsAt b 8 2
  match bitsAt b 4 3 with
  | 1 => (s.resolve 1 p.val (BitVec.ofNat 64 (bitsAt b 64 64)) cls (bitsAt b 10 2) false d).1
  | 2 => (s.toCtx 1 p.val (bitsAt b 46 18) cls false d).1
  | _ => (s.toBroadcast 1 p.val (Fin.ofNat 32 (bitsAt b 41 5)) d).1

/-- The first row of the ingress table that matches (R282). `b` is the frame without its FCS. -/
def State.ethIngress (s : State) (p : EthId) (b : Bytes) : State :=
  let dst := macOf b 0
  let v := ethView b
  let vlan := s.fnat .vlanId p
  let known := dst == s.fnat .macAddr p || dst == 0xFFFFFFFFFFFF || dst == 0x011B19000000 || dst == 0x0180C200000E || dst == 0x0180C2000002
  if !known then s.bump .rxUnmatched p
  else if v.etype = 0x8808 then s.bump .rxPause p
  else if v.etype = 0x8809 ∧ beAt v.body 0 1 = 0x0A then s
  else if isPtp v (s.fnat .ptpTransport p) then s
  else if v.vid ≠ (if vlan = 0 then none else some vlan) then s.bump .rxVlanDrop p
  else if v.etype = s.fnat .ethType p then
    if bhValid v.body fun k => decide (s.fnat .role k ≤ 1) then s.backhaul p v.body else s.bump .rxBhInvalid p
  else if s.fbool .hostDefault p then (s.toHost 1 p.val 0 noCtx b).1
  else s.bump .rxUnmatched p

/-- ETH_FRAME_RX (R282): `bytes` is the whole frame with its FCS; `fecC` and `fecU` the RS codewords corrected and uncorrectable since the last. -/
def execEthFrameRx (t : Nat) (p : EthId) (bytes : Bytes) (fcsOk : Bool) (fecC fecU : Nat) (s0 : State) : Host.Outcome State Fault Refusal :=
  let s := s0.at t
  if s.eth[p].st ≠ PortSt.up ∨ !s.portMayRun p then .next s
  else
    let s1 := (s.bump .fecCorrected p 0 fecC).bump .fecUncorrectable p 0 fecU
    if !fcsOk then .next (s1.bump .rxFcsErr p)
    else if bytes.length < 64 then .next (s1.bump .rxRunt p)
    else if s.fnat .ethMaxFrame p < bytes.length then .next (s1.bump .rxOversize p)
    else if !s.switching then .next s1
    else .next (s1.ethIngress p (bytes.take (bytes.length - 4)))

/-! ## PTP (R285) -/

/-- The reference input of a port's PTP and of its recovered clock (R307). -/
def ptpInput (p : EthId) : InputId := ⟨6 + p.val, by omega⟩
def syncEInput (p : EthId) : InputId := ⟨2 + p.val, by omega⟩

/-- PTP_MESSAGE_RX (R285): messages of another domain are counted and discarded. A time receiver takes Sync and Announce, whose clockClass is
its input's quality; a time transmitter answers Delay_Req. -/
def execPtpMessageRx (t : Nat) (p : EthId) (bytes : Bytes) (s0 : State) : Host.Outcome State Fault Refusal :=
  let s := s0.at t
  let role := s.fnat .ptpRole p
  if s.eth[p].st ≠ PortSt.up ∨ role = 0 then .next s
  else if beAt bytes 4 1 ≠ s.fnat .ptpDomain p then .next (s.bump .ptpForeign p)
  else
    let kind := beAt bytes 0 1 % 16
    if role = 1 then
      if kind = 0 then .next (s.modEth p fun e => { e with syncAt := some s.now, ptpLost := false })
      else if kind = 0xB then
        let c := beAt bytes 48 1
        .next ((s.modEth p fun e => { e with annClass := some c }).setRank (ptpInput p) (classRank c))
      else .next s
    else if kind = 1 then .next (s.emit (.ptpTx p 9 0))
    else .next s

/-- PTP_SYNC_TIMEOUT (R285): a time receiver without Sync for 3 intervals reports its input lost. -/
def execPtpSyncTimeout (t : Nat) (p : EthId) (s0 : State) : Host.Outcome State Fault Refusal :=
  let s := s0.at t
  if s.fnat .ptpRole p = 1 then .next (((s.modEth p fun e => { e with ptpLost := true }).setReason (ptpInput p) 1).clkSelect) else .next s

/-- PTP_INTERVAL (R285): a time receiver sends Delay_Req; a time transmitter sends Sync, and Follow_Up in two-step mode. -/
def execPtpInterval (t : Nat) (p : EthId) (s0 : State) : Host.Outcome State Fault Refusal :=
  let s := s0.at t
  if s.eth[p].st ≠ PortSt.up then .next s
  else match s.fnat .ptpRole p with
    | 1 => .next (s.emit (.ptpTx p 1 0))
    | 2 =>
      let s1 := s.emit (.ptpTx p 0 0)
      .next (if s.fnat .ptpMode p = 1 then s1.emit (.ptpTx p 8 0) else s1)
    | _ => .next s

/-! ## ESMC (R286) -/

/-- SSM and enhanced codes of an ESMC PDU, from its subtype byte on; none: malformed. -/
def esmcCodes (b : Bytes) (enhanced : Bool) : Option (Nat × Nat) :=
  if decide (28 ≤ b.length) && b.take 6 == [0x0A, 0x00, 0x19, 0xA7, 0x00, 0x01] && beAt b 6 1 / 16 == 1 && beAt b 10 1 == 1 && beAt b 11 2 == 4 then
    let enh := if enhanced && beAt b 14 1 == 2 && beAt b 15 2 == 0x14 then beAt b 17 1 else 0xFF
    some (beAt b 13 1 % 16, enh)
  else none

/-- ESMC_PDU_RX (R286). -/
def execEsmcPduRx (t : Nat) (p : EthId) (bytes : Bytes) (s0 : State) : Host.Outcome State Fault Refusal :=
  let s := s0.at t
  if s.eth[p].st ≠ PortSt.up ∨ !s.fbool .esmcEnable p then .next s
  else match esmcCodes bytes (s.fbool .esmcEnhanced p) with
    | none => .next (s.bump .esmcInvalid p)
    | some (ssm, enh) =>
      .next ((s.modEth p fun e => { e with esmcAt := some s.now, ssm := ssm, enh := enh, qlFailed := false }).setCodes (syncEInput p) ssm enh)

/-- ESMC_INFO_TX (R286): every 1 s an information PDU. -/
def execEsmcInfoTx (t : Nat) (p : EthId) (s0 : State) : Host.Outcome State Fault Refusal :=
  let s := s0.at t
  if s.eth[p].st = .up ∧ s.fbool .esmcEnable p then
    .next ((s.modEth p fun e => { e with qlSent := some (s.qlPort p) }).emit (.esmcTx p false (s.qlPort p)))
  else .next s

/-- ESMC_TIMEOUT (R286): no valid PDU for 5 s, QL-FAILED. -/
def execEsmcTimeout (t : Nat) (p : EthId) (s0 : State) : Host.Outcome State Fault Refusal :=
  let s := s0.at t
  if (s.eth[p].esmcAt.map fun a => decide (s.now < a + seconds 5)).getD false then .next s
  else .next ((s.modEth p fun e => { e with qlFailed := true }).setRank (syncEInput p) 9)

/-! ## Egress: switch rounds (R15, R26, R283, R284, R297) -/

/-- Bytes of a number in transmission order. -/
def beBytes (n v : Nat) : Bytes := (leBytes n v).reverse

/-- An uplink or fabric frame as the port builds it, without its FCS (R283). -/
def State.buildEth (s : State) (p : EthId) (inner : Bytes) : Bytes :=
  let vlan := s.fnat .vlanId p
  List.flatten [beBytes 6 (s.fnat .peerMac p), beBytes 6 (s.fnat .macAddr p), if vlan = 0 then [] else beBytes 2 0x8100 ++ beBytes 2 vlan,
    beBytes 2 (s.fnat .ethType p), inner]

/-- What a stored frame becomes on a port: the host's whole frame, an uplink with its header, or a fabric frame with the header it brought. -/
def State.ethOut (s : State) (p : EthId) (f : Frame) (d : Bytes) : Bytes :=
  if f.srcKind = 2 then d
  else if f.srcKind = 0 then
    s.buildEth p (bhUplink f.tclass (bitsAt f.sub 64 8) f.len s.fab.addr.toNat f.srcIdx f.ctx (BitVec.ofNat 64 (bitsAt f.sub 0 64)) f.arrivalUs.toNat ++ d)
  else s.buildEth p d

/-- One frame leaves an UP port: the oldest of its queues. One that would exceed eth_max_frame is dropped. -/
def State.ethSend (s : State) (p : EthId) : State :=
  if s.eth[p].st ≠ PortSt.up ∨ !s.portMayRun p then s
  else match s.hold.frames.find? fun (f : Frame) => f.dstKind == 1 && f.dstIdx == p.val with
    | none => s
    | some f =>
      match s.readFrame f with
      | (s1, none) => s1
      | (s1, some d) =>
        let e := s.ethOut p f d
        if s.fnat .ethMaxFrame p < e.length + 4 then (s1.dropFrames [f.no]).bump .txTooLong p else (s1.dropFrames [f.no]).emit (.ethTx p e)

/-- The frame that a link sends next (R297): prio 1 before prio 0, unless prio 0 waits with less than 10 % of the flits. -/
def State.linkFrame (s : State) (l : LinkId) : Option Frame :=
  let q := s.hold.frames.filter fun (f : Frame) => f.dstKind == 3 && f.dstIdx == l.val
  let hi := q.find? fun (f : Frame) => subPrio f.sub == 1
  let lo := q.find? fun (f : Frame) => subPrio f.sub == 0
  let sh := s.fab.link[l].share
  match hi, lo with
  | some f, some g => if 10 * sh.1 < sh.2 then some g else some f
  | some f, none => some f
  | none, g => g

/-- One FRAME packet leaves a link, behind the device's own packets (R297). -/
def State.linkSend (s : State) (l : LinkId) : State :=
  let s0 := s.flushLink l
  if !s0.fab.link[l].ctl.isEmpty then s0
  else match s0.linkFrame l with
    | none => s0
    | some f =>
      let p : Pkt := { ptype := 1, prio := subPrio f.sub, redirected := f.redirected, ttl := f.fabTtl, dst := f.fabDst.toNat, src := f.fabSrc.toNat,
                       payload := f.sub ++ List.replicate f.len 0 }
      if !s0.linkTakes l p.codewords then s0
      else match s0.readFrame f with
        | (s1, none) => s1
        | (s1, some d) =>
          let s2 := (s1.dropFrames [f.no]).putPkt l { p with payload := f.sub ++ d }
          if s2.hold.frames.any fun (g : Frame) => g.dstKind == 3 && g.dstIdx == l.val && subPrio g.sub == 0 then s2
          else s2.modLink l fun x => { x with share := (0, 0) }

/-- SWITCH_ROUND (R26, R15): one round of 1.0 µs. The ports and links named can take a further frame in it. -/
def execSwitchRound (t : Nat) (eths : List EthId) (links : List LinkId) (s0 : State) : Host.Outcome State Fault Refusal :=
  let s := s0.at t
  if !s.switching then .next s
  else .next ((s.forAll eths fun a p => a.ethSend p).forAll links fun a l => a.linkSend l)

end Sys2Proof.Machine
end

