-- ==== Sys2Proof/Machine/Host.lean ====
section
/-! DEFINITION. The host interface (chapter 10): queue pairs, doorbells, submission entries, delivery to the host, interrupts, host loss and
the register writes of BAR0, BAR2 and BAR4. -/

namespace Sys2Proof.Machine
open Sys2Proof

/-! ## Host loss and return (R255 to R257) -/

/-- The host reaches the windows: the link is up, the function in D0, PD_HOST ON. -/
def State.hostAccess (s : State) : Bool := s.host.linkUp && !s.host.d3 && s.domOn pdHost

/-- A queue pair at host loss (R256): ACTIVE and ERROR become LOST with enable cleared; entries fetched and buffers posted are forgotten. -/
def Qp.lose (x : Qp) : Qp :=
  if x.st = .active ∨ x.st = .error then
    { x with st := .lost, enable := false, fetched := [], rxFetched := [], bufs := [], modCount := 0, modSince := none }
  else x

/-- TX_FRAME entries fetched and not admitted. -/
def Qp.txWaiting (x : Qp) : Nat := x.fetched.countP fun e => bitsAt e 0 8 == 1

def loseReq (q : LockReq) : LockReq := if q.req.src.transport = .qp0 then { q with lost := true } else q

/-- The host is lost (R255, R256). -/
def State.loseHost (s : State) (cause : Nat) : State :=
  if s.host.lost then s
  else
    let gone := (allQps.map fun (q : QpId) => s.qp[q].txWaiting).foldl (· + ·) 0
    let s1 : State := { s with
      host := { s.host with lost := true, lossCause := cause, epoch := s.host.epoch + 1, lossDropped := 0, returnDue := true, dmaTimeouts := 0 }
      qp := s.qp.map Qp.lose
      mgmt := { s.mgmt with arrivals := s.mgmt.arrivals.map loseReq, waiting := s.mgmt.waiting.map loseReq,
                            granted := s.mgmt.granted.map loseReq,
                            running := s.mgmt.running.map fun (y : Running) => ({ y with q := loseReq y.q } : Running) } }
    let s2 := (((s1.bump .txDiscarded 0 0 gone).stick .hostLossHist).raise .hostLost 44 cause)
    s2.closeWhere fun x => x.tr == .qp0

/-- The PCIe controller and its configuration space are reset (R256): link down, PERST_N and Function Level Reset. -/
def State.resetPcie (s : State) (link : Bool) : State :=
  { s with host := { s.host with linkUp := link, d3 := false, msixEnable := false, busMaster := false, funcMask := false } }

/-- PCIE_LINK_DOWN (R255): the link is down, or PCIE_REFCLK has stopped. -/
def execPcieLinkDown (t : Nat) (s : State) : Host.Outcome State Fault Refusal :=
  .next (((s.at t).loseHost 1).resetPcie false)

/-- PERST_N_ASSERT (R255). -/
def execPerstNAssert (t : Nat) (s : State) : Host.Outcome State Fault Refusal :=
  .next (((s.at t).loseHost 2).resetPcie false)

/-- FUNCTION_LEVEL_RESET (R255). -/
def execFunctionLevelReset (t : Nat) (s : State) : Host.Outcome State Fault Refusal :=
  .next (((s.at t).loseHost 3).resetPcie (s.at t).host.linkUp)

/-- The host watchdog is due (R255): host_wdog_ms without a write of host_heartbeat, ±1 ms. -/
def State.hostWdogDue (s : State) : Bool :=
  decide (s.host.wdogMs ≠ 0 ∧ s.host.heartbeatAt + millis s.host.wdogMs ≤ s.now + millis 1)

/-- HOST_WATCHDOG_EXPIRY (R255). -/
def execHostWatchdogExpiry (t : Nat) (s0 : State) : Host.Outcome State Fault Refusal :=
  let s := s0.at t
  .next (if s.hostWdogDue then s.loseHost 5 else s)

/-- D3hot is entered (R255). -/
def State.enterD3 (s : State) : State := let s1 := s.loseHost 7; { s1 with host := { s1.host with d3 := true } }

/-- D3HOT_ENTRY (R255). -/
def execD3hotEntry (t : Nat) (s : State) : Host.Outcome State Fault Refusal := .next (s.at t).enterD3

/-- PCIE_LINK_TRAINING_START (R410): 1 ms after INSERT_N is judged asserted, with PD_HOST ON. -/
def execPcieLinkTrainingStart (t : Nat) (s0 : State) : Host.Outcome State Fault Refusal :=
  let s := s0.at t
  if s.live.inserted && !s.live.quiet && s.domOn pdHost && !s.drained .link && decide (s.live.insertAt + millis 1 ≤ s.now) then
    .next { s with host := { s.host with training := true } }
  else .next s

/-- PCIE_LINK_UP (R257, R410): the link is up and the host is no longer lost; its watchdog counts afresh. -/
def execPcieLinkUp (t : Nat) (s0 : State) : Host.Outcome State Fault Refusal :=
  let s := s0.at t
  if s.host.training && s.domOn pdHost && !s.drained .link && !s.live.quiet then
    .next { s with host := { s.host with linkUp := true, lost := false, d3 := false, heartbeatAt := s.now } }
  else .next s

/-- One more DMA read ends by completion timeout (R255): the fourth in a row loses the host. -/
def State.dmaTimedOut (s : State) : State :=
  let n := s.host.dmaTimeouts + 1
  let s1 := ({ s with host := { s.host with dmaTimeouts := n } }).bump .fetchErr
  if 4 ≤ n then s1.loseHost 6 else s1

/-- A DMA read ends otherwise: the row of timeouts ends. -/
def State.dmaEnded (s : State) : State := { s with host := { s.host with dmaTimeouts := 0 } }

/-! ## Queue pairs (R240, R241) -/

/-- Frames queued for a queue pair are steered afresh (R241, R248). -/
def State.reSteer (s : State) (q : QpId) : State :=
  s.forAll (s.hold.frames.filter fun f => f.dstKind == 2 && f.dstIdx == q.val) fun a f =>
    match a.steer f.srcKind f.srcIdx with
    | some p => a.reHead { f with dstIdx := p.val }
    | none => (a.dropFrames [f.no]).bump .rxUnsteered

/-- rx_index lies in the range of its rx_select (R240). -/
def rxIndexOk (sel idx : Nat) : Bool := match sel with | 1 => decide (idx < 32) | 2 => decide (idx < 4) | 3 => decide (idx < 6) | _ => true

/-- The fields of a QP_CFG write other than enable (R240, R241): ring_log2 only while enable is 0, steering on data queue pairs only, and a field
outside its range discarded. -/
def Qp.config (x : Qp) (q : QpId) (v : BitVec 32) : Qp :=
  let sel := bitsAt (leBytes 4 v.toNat) 18 3
  let idx := bitsAt (leBytes 4 v.toNat) 21 8
  let sel' : BitVec 3 := if 2 ≤ q.val ∧ sel ≤ 4 then BitVec.ofNat 3 sel else x.rxSelect
  { x with ringLog2 := if x.enable then x.ringLog2 else v.extractLsb' 1 5, vector := v.extractLsb' 8 9, irqEnable := v.getLsbD 17,
           rxSelect := sel', rxIndex := if 2 ≤ q.val ∧ rxIndexOk sel'.toNat idx then BitVec.ofNat 8 idx else x.rxIndex }

/-- Bases and ring size at enable: 0, or the err_code (R240, R241). QP1 ignores sq_base. -/
def Qp.enableErr (x : Qp) (q : QpId) : Nat :=
  if (q ≠ 1 ∧ x.sqBase.toNat % 4096 ≠ 0) ∨ x.cqBase.toNat % 4096 ≠ 0 then 1
  else if x.ringLog2.toNat < 6 ∨ 16 < x.ringLog2.toNat then 2
  else 0

/-- EV_HOST_RETURN is raised when QP1 is re-enabled after a loss (R257): the next ev_seq, its own argument, first on QP1, never dropped. -/
def State.hostReturn (s : State) : State :=
  let e : Evt := ⟨s.host.evSeq + 1, Ev.hostReturn.desc.code, s.host.lossCause % 8 + s.host.lossDropped % 2 ^ 32 * 8⟩
  ({ s with host := { s.host with evSeq := s.host.evSeq + 1, returnEv := some e, returnDue := false, lossDropped := 0 } }).notify e

/-- A write sets enable from 0 to 1 (R241): the check, then ACTIVE or ERROR. -/
def State.enableQp (s : State) (q : QpId) : State :=
  let x := s.qp[q]
  let e := x.enableErr q
  if e ≠ 0 then (s.setQp q { x with enable := true }).qpError q e
  else
    let s1 := s.setQp q { x with enable := true, st := .active, sqHead := 0, sqTail := 0, cqTail := 0, cqHead := 0, cqPhase := true, fetched := [],
                                 rxFetched := [], bufs := [], modCount := 0, modSince := none }
    let s2 : State := { s1 with host := { s1.host with lost := false, heartbeatAt := if s1.host.lost then s1.now else s1.host.heartbeatAt } }
    if q = 1 ∧ s2.host.returnDue then s2.hostReturn else s2

/-- A write clears enable (R241): buffers not yet filled are abandoned, frames are steered afresh; ACTIVE ends once the fetched entries have
their completions, ERROR and LOST at once. -/
def State.disableQp (s : State) (q : QpId) : State :=
  let x := s.qp[q]
  let s1 := match x.st with
    | .active => (s.setQp q { x with enable := false, rxFetched := [], bufs := [] }).qpSettle q
    | _ => s.setQp q { x with enable := false, st := .disabled, fetched := [], rxFetched := [], bufs := [] }
  s1.reSteer q

/-- A write of QP_CFG (R240, R241): enable = 1 is discarded while host_if_ready is 0 (R239). -/
def State.writeCfg (s : State) (q : QpId) (v : BitVec 32) : State :=
  if !s.hostAccess then s
  else if v.getLsbD 0 then
    if !s.boot.hostReady then s
    else
      let s1 := s.modQp q fun x => x.config q v
      if s.qp[q].enable then s1 else s1.enableQp q
  else
    let s1 := s.modQp q fun x => x.config q v
    if s.qp[q].enable || s.qp[q].st == .lost then s1.disableQp q else s1

/-- QP_ENABLE (R241). -/
def execQpEnable (t : Nat) (q : QpId) (val : BitVec 32) (s : State) : Host.Outcome State Fault Refusal :=
  .next ((s.at t).writeCfg q (val ||| 1))

/-- QP_DISABLE (R241). -/
def execQpDisable (t : Nat) (q : QpId) (val : BitVec 32) (s : State) : Host.Outcome State Fault Refusal :=
  .next ((s.at t).writeCfg q (val &&& 0xFFFFFFFE))

/-! ## Doorbells (R242) -/

/-- A doorbell to a queue pair that is not ACTIVE, or is being disabled. -/
def State.dropBell (s : State) : State := s.bump .dbDropped

/-- A doorbell value outside its range (R242). -/
def State.badBell (s : State) (q : QpId) : State := (s.bump .dbInvalid).qpError q 3

/-- The SQ tail doorbell (R242). -/
def State.sqBell (s : State) (q : QpId) (v : BitVec 32) : State :=
  let x := s.qp[q]
  if !s.hostAccess then s
  else if x.st ≠ .active ∨ x.enable = false ∨ q = 1 then s.dropBell
  else if x.size ≤ v.toNat ∨ 65536 ≤ v.toNat then s.badBell q
  else s.setQp q { x with sqTail := v.toNat }

/-- SQ_TAIL_DOORBELL (R242). -/
def execSqTailDoorbell (t : Nat) (q : QpId) (val : BitVec 32) (s : State) : Host.Outcome State Fault Refusal :=
  .next ((s.at t).sqBell q val)

/-- Entries from the CQ head to a place, around the ring. -/
def Qp.cqSpan (x : Qp) (i : Nat) : Nat := (i + x.size - x.cqHead % x.size) % x.size

/-- The CQ head doorbell (R242): a head in the circular range from the old head to cq_tail. -/
def State.cqBell (s : State) (q : QpId) (v : BitVec 32) : State :=
  let x := s.qp[q]
  if !s.hostAccess then s
  else if x.st ≠ .active ∨ x.enable = false then s.dropBell
  else if x.size ≤ v.toNat ∨ 65536 ≤ v.toNat ∨ x.cqSpan x.cqTail < x.cqSpan v.toNat then s.badBell q
  else s.setQp q { x with cqHead := v.toNat }

/-- CQ_HEAD_DOORBELL (R242). -/
def execCqHeadDoorbell (t : Nat) (q : QpId) (val : BitVec 32) (s : State) : Host.Outcome State Fault Refusal :=
  .next ((s.at t).cqBell q val)

/-! ## Interrupt set-up (R253, R254) -/

/-- A write of host_heartbeat restarts the host watchdog (R238). -/
def State.beat (s : State) (v : BitVec 32) : State := { s with host := { s.host with heartbeat := v, heartbeatAt := s.now } }

/-- HOST_HEARTBEAT (R238). -/
def execHostHeartbeat (t : Nat) (val : BitVec 32) (s0 : State) : Host.Outcome State Fault Refusal :=
  let s := s0.at t
  .next (if s.hostAccess then s.beat val else s)

/-- A write of int_enable (R253): a newly set enable whose cause is already set sends the message. -/
def State.writeIntEnable (s : State) (v : BitVec 32) : State :=
  let old := s.host.intEnable
  let s1 : State := { s with host := { s.host with intEnable := v.setWidth 8 } }
  s1.forAll (List.finRange 8) fun a k =>
    if v.getLsbD k && !old.getLsbD k && a.host.intCause.getLsbD k then a.msix a.host.causeVec[k] else a

/-- INT_ENABLE_WRITE (R253). -/
def execIntEnableWrite (t : Nat) (val : BitVec 32) (s0 : State) : Host.Outcome State Fault Refusal :=
  let s := s0.at t
  .next (if s.hostAccess then s.writeIntEnable val else s)

def State.setMsix (s : State) (v : Fin 512) (m : Msix) : State := { s with host := { s.host with msix := s.host.msix.set v m } }

/-- The pending message of a vector that is no longer masked is sent (R254); one that is due while no message can be sent is dropped. -/
def State.sendPending (s : State) (v : Fin 512) : State :=
  let m := s.host.msix[v]
  if m.pend && !m.mask && !s.host.funcMask then (s.setMsix v { m with pend := false }).msix (BitVec.ofFin v) else s

/-- A write of a vector's Mask bit (R254). -/
def State.maskVec (s : State) (v : Fin 512) (mask : Bool) : State := (s.setMsix v { s.host.msix[v] with mask := mask }).sendPending v

/-- MSIX_UNMASK (R254). -/
def execMsixUnmask (t : Nat) (v : Fin 512) (s0 : State) : Host.Outcome State Fault Refusal :=
  let s := s0.at t
  .next (if s.hostAccess then s.maskVec v false else s)

/-! ## Fetching (R243, R244) -/

/-- The device may fetch one more entry (R243). -/
def Qp.room (x : Qp) : Bool :=
  decide (x.fetched.length + x.rxFetched.length + x.bufs.length + x.cqSpan x.cqTail < x.size - 1)

/-- A queue pair has an entry to fetch and room for it. -/
def Qp.mayFetch (x : Qp) : Bool := x.st == .active && x.enable && x.sqHead != x.sqTail && x.room

/-- cpl_kind of an opcode (R250). -/
def opKind : Nat → Option Nat | 1 => some 0 | 2 => some 1 | 3 => some 4 | 0x40 => some 2 | _ => none

/-- An opcode is accepted on a queue pair (R244). -/
def opAccepted (op : Nat) (q : QpId) : Bool :=
  match op with | 1 => decide (2 ≤ q.val) | 2 => decide (2 ≤ q.val) | 3 => q != 1 | 0x40 => q == 0 | _ => false

/-- The tag of an entry (R244). -/
def entryTag (e : Bytes) : Nat := bitsAt e 16 16

/-- The status of a COMMAND entry's own fields, none when it may be read (R249). -/
def commandErr (e : Bytes) : Option Status :=
  if bitsAt e 8 8 ≠ 0 ∨ bitsAt e 224 32 ≠ 0 ∨ bitsAt e 64 64 % 8 ≠ 0 ∨ bitsAt e 128 64 % 8 ≠ 0 then some .invalid
  else if bitsAt e 32 32 < 16 ∨ 65536 < bitsAt e 32 32 ∨ 16777216 < bitsAt e 192 32 then some .range
  else none

/-- One entry is fetched (R243, R244): an opcode that is unlisted or not accepted here completes with INVALID, its cpl_kind free when the opcode
has none; TX_FRAME, NOP and COMMAND wait for their completion, RX_BUF to be posted. -/
def State.fetchEntry (s : State) (q : QpId) (e : Bytes) : State :=
  let x := s.qp[q]
  let op := bitsAt e 0 8
  let s1 := ((s.setQp q { x with sqHead := (x.sqHead + 1) % x.size }).emit (.fetch q x.sqHead)).dmaEnded
  if opAccepted op q then
    if op = 2 then s1.modQp q fun y => { y with rxFetched := y.rxFetched ++ [e] }
    else if op = 0x40 then
      match commandErr e with
      | some st => s1.cqWrite q (cplEntry (entryTag e) st 2 false 0 false 0 0)
      | none => s1.modQp q fun y => { y with fetched := y.fetched ++ [e] }
    else s1.modQp q fun y => { y with fetched := y.fetched ++ [e] }
  else match opKind op with
    | some k => s1.cqWrite q (cplEntry (entryTag e) .invalid k false 0 false 0 0)
    | none =>
      let (v, s2) := s1.free
      s2.cqWrite q (cplEntry (entryTag e) .invalid (v % 8).toNat false 0 false 0 0)

/-- Up to 32 entries of a queue pair in one round (R243). -/
def State.fetchQp (s : State) (q : QpId) (es : List Bytes) : State :=
  s.forAll (es.take 32) fun a e => if a.qp[q].mayFetch then a.fetchEntry q e else a

/-- QP1 has room for a completion (R243). -/
def Qp.cqRoom (x : Qp) : Bool := decide (x.cqSpan x.cqTail < x.size - 1)

/-- QP1's pending events are written (R252, R257): EV_HOST_RETURN first, then the held ones in order, at most 32 in a round. -/
def State.writeEvents (s : State) : State :=
  s.forAll (List.range 32) fun a _ =>
    let x := a.qp[(1 : QpId)]
    if x.st = .active ∧ x.enable = true ∧ x.cqRoom = true then
      match a.host.returnEv with
      | some e => ({ a with host := { a.host with returnEv := none } }).cqWrite 1 (evtEntry e)
      | none => match a.host.held with
        | e :: r => ({ a with host := { a.host with held := r } }).cqWrite 1 (evtEntry e)
        | [] => a
    else a

/-- The data queue pairs from the round-robin's next on (R243). -/
def rrOrder (next : Nat) : List QpId := (List.range 254).map fun i => Fin.ofNat 256 (2 + (next - 2 + i) % 254)

/-- The round-robin goes on after the last data queue pair served. -/
def nextRr (next : Nat) (served : List QpId) : Nat :=
  match served.getLast? with
  | some q => if q.val = 255 then 2 else q.val + 1
  | none => next

/-- HOST_LINK_ROUND (R243): QP0, QP1's events, then the data queue pairs; `entries` are the ring entries read, in ring order. The admin and event
queues are not served while HR_MGMT is drained (R34). -/
def execHostLinkRound (t : Nat) (entries : List (QpId × Bytes)) (s0 : State) : Host.Outcome State Fault Refusal :=
  let s := s0.at t
  if !s.hostAccess || s.drained .link || s.host.lost then .next s
  else
    let of := fun (q : QpId) => (entries.filter fun e => e.1 == q).map (·.2)
    let s1 := if s.drained .mgmt then s else (s.fetchQp 0 (of 0)).writeEvents
    let order := (rrOrder s.host.rrNext).filter fun q => s.qp[q].mayFetch && entries.any fun e => e.1 == q
    let s2 := s1.forAll order fun a q => a.fetchQp q (of q)
    .next { s2 with host := { s2.host with rrNext := nextRr s.host.rrNext order } }

/-- SUBMISSION_FETCH_ERROR (R240): an SQ fetch ends in a PCIe error. -/
def execSubmissionFetchError (t : Nat) (q : QpId) (s0 : State) : Host.Outcome State Fault Refusal :=
  let s := s0.at t
  if s.qp[q].st = .active then .next (((s.bump .fetchErr).dmaEnded).qpError q 4) else .next s

/-- CQ_WRITE_REFUSED (R240): the root port refuses a CQ write. -/
def execCqWriteRefused (t : Nat) (q : QpId) (s0 : State) : Host.Outcome State Fault Refusal :=
  let s := s0.at t
  if s.qp[q].st = .active then .next (s.qpError q 5) else .next s

/-- A fetched COMMAND whose request buffer has not been read. -/
def State.unreadCommand (s : State) : Option Bytes :=
  let all := s.mgmt.arrivals ++ s.mgmt.waiting ++ s.mgmt.granted ++ s.mgmt.running.map (·.q)
  s.qp[(0 : QpId)].fetched.find? fun e => entryIs 0x40 (BitVec.ofNat 16 (entryTag e)) e &&
    !all.any fun q => match q.req.src with | .qp0 tag _ => tag.toNat == entryTag e && !q.lost | _ => false

/-- DMA_COMPLETION_TIMEOUT (R255): on QP0 the oldest COMMAND whose request is not yet read completes with FAULT; elsewhere an SQ fetch has
failed, err_code 4. The fourth in a row loses the host. -/
def execDmaCompletionTimeout (t : Nat) (q : QpId) (s0 : State) : Host.Outcome State Fault Refusal :=
  let s := s0.at t
  if s.qp[q].st ≠ .active then .next s
  else match (if q = 0 then s.unreadCommand else none) with
    | some e =>
      let s1 := s.modQp 0 fun x => { x with fetched := x.fetched.erase e }
      .next (((s1.cqWrite 0 (cplEntry (entryTag e) .fault 2 false 0 false 0 0)).qpSettle 0).dmaTimedOut)
    | none => .next ((s.qpError q 4).dmaTimedOut)

/-- NOP (R244): its completion follows those of every earlier entry; a reserved field not 0 gives INVALID (R9). -/
def execNop (t : Nat) (q : QpId) (s0 : State) : Host.Outcome State Fault Refusal :=
  let s := s0.at t
  match s.qp[q].fetched with
  | e :: r =>
    if s.qp[q].st = .active ∧ bitsAt e 0 8 = 3 then
      let st : Status := if bitsAt e 8 8 ≠ 0 ∨ bitsAt e 32 224 ≠ 0 then .invalid else .ok
      .next (((s.modQp q fun x => { x with fetched := r }).cqWrite q (cplEntry (entryTag e) st 4 false 0 false 0 0)).qpSettle q)
    else .next s
  | [] => .next s

/-! ## TX_FRAME (R245, R246) -/

/-- A fabric address lies in the system's dimensions (R42). -/
def inSystem (dims : Nat × Nat × Nat) (a : Nat) : Bool := decide (a < 512 ∧ a % 8 < dims.1 ∧ a / 8 % 8 < dims.2.1 ∧ a / 64 < dims.2.2)

/-- The largest length for an entry (R246). -/
def State.txLimit (s : State) (kind tclass dst : Nat) : Nat :=
  match kind with
  | 0 => stationLimit (if tclass = 3 then ((s.ctx? dst).map (·.tclass)).getD 0 else tclass)
  | 1 => stationLimit tclass
  | 2 => min (s.fnat .ethMaxFrame (dst % 4) - 4) 16348
  | 3 => 16348
  | _ => 7663

/-- The status of a station destination by route (R196): none when it may be queued. -/
def State.stationErr (s : State) (eui : BitVec 64) (sel : Nat) : Option Status :=
  match s.route? eui with
  | none => some .notReady
  | some e =>
    if e.kind = 0 then (if sel ≤ e.nCtxM1 ∧ (s.ctxSt (e.ctx + sel)).takes then none else some .stale)
    else if e.kind = 1 ∨ e.kind = 2 then none
    else some .notReady

/-- The status of a TX_FRAME entry before its buffer is read, none when its frame may be admitted (R244 to R246). -/
def State.txErr (s : State) (e : Bytes) : Option Status :=
  let kind := bitsAt e 8 3
  let sel := bitsAt e 46 2
  let len := bitsAt e 32 14
  let dst := bitsAt e 128 64
  if bitsAt e 13 3 ≠ 0 ∨ bitsAt e 48 16 ≠ 0 ∨ bitsAt e 192 64 ≠ 0 ∨ 4 < kind ∨ (kind ≠ 1 ∧ sel ≠ 0) then some .invalid
  else if kind = 3 ∧ !s.fab.joined then some .notReady
  else if (kind = 0 ∧ 262143 < dst) ∨ (kind = 4 ∧ 31 < dst) ∨ (kind = 2 ∧ (3 < dst ∨ !s.portPresent (Fin.ofNat 4 dst))) ∨
      (kind = 3 ∧ !inSystem s.fab.dims dst) ∨ len = 0 ∨ s.txLimit kind (bitsAt e 11 2) dst < len then some .range
  else if kind = 0 ∧ !(s.ctxSt dst).takes then some .stale
  else if kind = 1 then s.stationErr (BitVec.ofNat 64 dst) sel
  else if kind = 4 ∧ 2 ≤ s.fnat .role dst then some .denied
  else none

/-- The frame of an entry joins its queue in the Hold (R245, R196, R212). -/
def State.txAdmit (s : State) (e : Bytes) (payload : Bytes) : State × RouteEnd :=
  let tclass := bitsAt e 11 2
  let sel := bitsAt e 46 2
  let dst := bitsAt e 128 64
  match bitsAt e 8 3 with
  | 0 => s.toCtx 2 0 dst tclass false payload
  | 1 => s.resolve 2 0 (BitVec.ofNat 64 dst) tclass sel false payload
  | 2 =>
    let (s1, a) := s.takeIn (newFrame 2 0 1 dst 0 noCtx false) payload
    (s1, .ofAdmit noCtx a)
  | 3 => s.toFabric 2 0 dst s.fab.addr.toNat 63 false (frameSub 2 0 0 0 0 0) payload
  | _ => s.toBroadcast 2 0 (Fin.ofNat 32 dst) payload

/-- The status and the context of a TX_FRAME's admission (R246, R250). -/
def RouteEnd.tx : RouteEnd → Status × Nat
  | .ok c => (.ok, c) | .stale => (.stale, noCtx) | .miss => (.notReady, noCtx) | .loop => (.notReady, noCtx)
  | .unreachable => (.notReady, noCtx) | .full => (.busy, noCtx)

/-- The completion of a TX_FRAME (R250). -/
def State.txDone (s : State) (q : QpId) (e : Bytes) (st : Status) (ctx : Nat) : State :=
  ((s.modQp q fun x => { x with fetched := x.fetched.erase e }).cqWrite q (cplEntry (entryTag e) st 0 false 0 false 0 ctx)).qpSettle q

/-- The bytes of a read of `n` bytes. -/
def readBytes (n : Nat) (b : Bytes) : Bytes := b.take n ++ List.replicate (n - b.length) 0

/-- TX_FRAME (R245, R246): the oldest TX_FRAME entry fetched on a queue pair, with what the read of its buffer gives. -/
def execTxFrame (t : Nat) (q : QpId) (dma : Dma) (s0 : State) : Host.Outcome State Fault Refusal :=
  let s := s0.at t
  if s.qp[q].st ≠ .active ∨ !s.switching then .next s
  else match s.qp[q].fetched.find? fun e => bitsAt e 0 8 == 1 with
    | none => .next s
    | some e =>
      match s.txErr e with
      | some st =>
        let s1 := if st = .notReady ∧ bitsAt e 8 3 = 1 then s.bump .routeMiss else s
        .next (s1.txDone q e st noCtx)
      | none =>
        match dma with
        | .data b =>
          let (s1, r) := s.dmaEnded.txAdmit e (readBytes (bitsAt e 32 14) b)
          .next (s1.txDone q e r.tx.1 r.tx.2)
        | .error => .next (((s.bump .fetchErr).dmaEnded).txDone q e .fault noCtx)
        | .timeout => .next ((s.txDone q e .fault noCtx).dmaTimedOut)

/-! ## Receive buffers and delivery (R247, R248) -/

/-- RX_BUF (R247): the oldest RX_BUF entry fetched on a queue pair. -/
def execRxBuf (t : Nat) (q : QpId) (s0 : State) : Host.Outcome State Fault Refusal :=
  let s := s0.at t
  match s.qp[q].rxFetched with
  | [] => .next s
  | e :: r =>
    if s.qp[q].st ≠ .active then .next s
    else
      let s1 := s.modQp q fun x => { x with rxFetched := r }
      let len := bitsAt e 32 15
      let done := fun (st : Status) => s1.cqWrite q (cplEntry (entryTag e) st 1 false 0 false 0 0)
      if bitsAt e 8 8 ≠ 0 ∨ bitsAt e 47 17 ≠ 0 ∨ bitsAt e 128 128 ≠ 0 ∨ bitsAt e 64 6 ≠ 0 then .next (done .invalid)
      else if len < 256 ∨ 16384 < len ∨ len % 256 ≠ 0 then .next (done .range)
      else .next (s1.modQp q fun x => { x with bufs := x.bufs ++ [⟨BitVec.ofNat 16 (entryTag e), len, BitVec.ofNat 64 (bitsAt e 64 64)⟩] })

/-- The fewest buffers in posting order that hold n bytes, with the bytes of each (R248). -/
def takeBufs : List RxBuf → Nat → Option (List (RxBuf × Nat))
  | [], _ => none
  | b :: r, n => if n ≤ b.len then some [(b, n)] else (takeBufs r (n - b.len)).map fun l => (b, b.len) :: l

/-- The info of an RX completion (R250). -/
def rxInfo (f : Frame) (sel : Nat) : Nat :=
  f.ctx % 2 ^ 18 + sel % 4 * 2 ^ 18 + f.srcKind % 8 * 2 ^ 20 + f.srcIdx % 256 * 2 ^ 23 + f.arrivalUs.toNat * 2 ^ 31

/-- The buffers of a frame are filled and completed in order (R248, R250). -/
def State.fillBufs (s : State) (q : QpId) (f : Frame) (sel : Nat) (first : Bool) : List (RxBuf × Nat) → Bytes → State
  | [], _ => s
  | (b, n) :: r, data =>
    let s1 := (s.modQp q fun x => { x with bufs := x.bufs.drop 1 }).emit (.rxData q b (data.take n))
    let s2 := s1.cqWrite q (cplEntry b.tag.toNat .ok 1 r.isEmpty f.tclass first n (rxInfo f sel))
    State.fillBufs s2 q f sel false r (data.drop n)

/-- RX_FRAME_DELIVER (R248): the oldest frame bound for a queue pair, once enough buffers are posted. -/
def execRxFrameDeliver (t : Nat) (q : QpId) (s0 : State) : Host.Outcome State Fault Refusal :=
  let s := s0.at t
  if s.qp[q].st ≠ .active ∨ s.qp[q].enable = false ∨ !s.switching ∨ s.drained .link then .next s
  else match s.hold.frames.find? fun f => f.dstKind == 2 && f.dstIdx == q.val with
    | none => .next s
    | some f => match takeBufs s.qp[q].bufs f.len with
      | none => .next s
      | some l => match s.readFrame f with
        | (s1, none) => .next s1
        | (s1, some d) => .next ((s1.fillBufs q f (((s.ctx? f.ctx).map (·.ctxSel)).getD 0) true l d).dropFrames [f.no])

/-- IRQ_MODERATION_EXPIRY (R251): holdoff_us since the first completion without a message, ±1 µs. -/
def execIrqModerationExpiry (t : Nat) (q : QpId) (s0 : State) : Host.Outcome State Fault Refusal :=
  let s := s0.at t
  let x := s.qp[q]
  match x.modSince with
  | some c => if x.irqEnable && decide (c + micros x.holdoff.toNat ≤ s.now + micros 1) then .next (s.cqMessage q) else .next s
  | none => .next s

/-! ## Register writes (R7 to R11, R236 to R240, R253, R254) -/

/-- A W1C write: each listed bit written 1 clears its statistic (R7, R8). -/
def State.clearBits (s : State) (v : BitVec 32) (i : Nat) (l : List (Nat × Stat)) : State :=
  s.forAll l fun a p => if v.getLsbD p.1 then a.statSet p.2 i 0 0 else a

/-- A half of a base of a queue pair (R11, R241): the upper half brings the value into effect; while enable is 1 both are discarded. -/
def Qp.writeBase (x : Qp) (cq hi : Bool) (v : BitVec 32) : Qp :=
  if x.enable then (if cq then { x with cqLo := x.cqBase.setWidth 32 } else { x with sqLo := x.sqBase.setWidth 32 })
  else match cq, hi with
    | false, false => { x with sqLo := v }
    | false, true => { x with sqBase := v ++ x.sqLo }
    | true, false => { x with cqLo := v }
    | true, true => { x with cqBase := v ++ x.cqLo }

/-- A 32-bit write into a queue pair's set-up block (R240). -/
def State.writeQp (s : State) (q : QpId) (off : Nat) (v : BitVec 32) : State :=
  match off with
  | 0x00 => s.modQp q fun x => x.writeBase false false v
  | 0x04 => s.modQp q fun x => x.writeBase false true v
  | 0x08 => s.modQp q fun x => x.writeBase true false v
  | 0x0C => s.modQp q fun x => x.writeBase true true v
  | 0x10 => s.writeCfg q v
  | 0x14 => s.modQp q fun x => { x with holdoff := v.setWidth 16, irqCount := v.extractLsb' 16 12 }
  | 0x18 => s.modQp q fun x => { x with errHist := x.errHist && !v.getLsbD 6, rxDropHist := x.rxDropHist && !v.getLsbD 7 }
  | _ => s

/-- host_wdog_ms (R238): 0 or 10 to 60,000; another value is discarded. -/
def State.writeWdog (s : State) (v : BitVec 32) : State :=
  let n := v.toNat % 65536
  if n = 0 ∨ (10 ≤ n ∧ n ≤ 60000) then { s with host := { s.host with wdogMs := n, heartbeatAt := s.now } } else s

/-- The W1C bits of PD_STATUS (R49), the boot and health window (R238), the clock mirror (R324), a check unit (R373) and a UART (R381). -/
def pdW1c : List (Nat × Stat) := [(13, .slackLowHist), (14, .dropHist), (15, .faultHist)]
def healthW1c : List (Nat × Stat) := [(1, .alarmHist), (2, .hostLossHist), (3, .qpErrorHist), (4, .evOverflowHist), (5, .dieLostHist)]
def clkW1c : List (Nat × Stat) :=
  [(0, .clkStateHist), (1, .clkSwitchHist), (2, .clkSlipHist), (3, .clkDriftHist), (4, .clkDisagreeHist), (5, .clkHoldoverHist), (6, .clkLimitHist)]
def chkW1c : List (Nat × Stat) := [(3, .chkMismatchHist), (4, .chkSkipHist)]
def uartW1c : List (Nat × Stat) := [(19, .lineDeadHist), (20, .uartErrHist)]

/-- An aligned 32-bit write into BAR0 (R236): read-only registers and reserved offsets discard it. -/
def State.writeBar0 (s : State) (off : Nat) (v : BitVec 32) : State :=
  if 0x2000 ≤ off ∧ off < 0x4000 then s.writeQp (Fin.ofNat 256 ((off - 0x2000) / 32)) (off % 32) v
  else if 0x5000 ≤ off ∧ off < 0x50B0 then s.clearBits v ((off - 0x5000) / 4) pdW1c
  else if 0x6000 ≤ off ∧ off < 0x6080 then
    let p : UartId := Fin.ofNat 2 ((off - 0x6000) / 64)
    if off % 64 = 4 then s.clearBits v p uartW1c else if off % 64 = 8 then s.uartQueue p v else s
  else if 0x7000 ≤ off ∧ off < 0x7100 then
    if off % 32 = 8 then s.clearBits v ((off - 0x7000) / 32) chkW1c else s
  else if 0x4010 ≤ off ∧ off < 0x4030 then
    { s with host := { s.host with causeVec := s.host.causeVec.set (Fin.ofNat 8 ((off - 0x4010) / 4)) (v.setWidth 9) } }
  else if off = 0x1004 then s.clearBits v 0 healthW1c
  else if off = 0x1008 then s.writeWdog v
  else if off = 0x100C then s.beat v
  else if off = 0x1018 then s.clearBits v 0 [(4, .removeHist)]
  else if off = 0x4000 then { s with host := { s.host with intCause := s.host.intCause &&& ~~~(v.setWidth 8) } }
  else if off = 0x4004 then s.writeIntEnable v
  else if off = 0x8004 then s.clearBits v 0 clkW1c
  else s

/-- An aligned 64-bit write into BAR0 (R10): to the 64-bit registers that take writes, the two bases of a queue pair. -/
def State.writeBar0Wide (s : State) (off : Nat) (v : BitVec 64) : State :=
  if 0x2000 ≤ off ∧ off < 0x4000 ∧ (off % 32 = 0 ∨ off % 32 = 8) then
    (s.writeBar0 off (v.setWidth 32)).writeBar0 (off + 4) (v.extractLsb' 32 32)
  else s

/-- An aligned 32-bit write into BAR2 (R242). -/
def State.writeBar2 (s : State) (off : Nat) (v : BitVec 32) : State :=
  let q : QpId := Fin.ofNat 256 (off / 4096)
  if off % 4096 = 0 then s.sqBell q v else if off % 4096 = 4 then s.cqBell q v else s

/-- An aligned 32-bit write into BAR4 (R254): the MSI-X table; the PBA and other offsets discard it. -/
def State.writeBar4 (s : State) (off : Nat) (v : BitVec 32) : State :=
  if 0x2000 ≤ off then s
  else
    let k : Fin 512 := Fin.ofNat 512 (off / 16)
    let m := s.host.msix[k]
    if off % 16 = 0 then s.setMsix k { m with addr := m.addr.extractLsb' 32 32 ++ v }
    else if off % 16 = 4 then s.setMsix k { m with addr := v ++ m.addr.setWidth 32 }
    else if off % 16 = 8 then s.setMsix k { m with data := v }
    else s.maskVec k (v.getLsbD 0)

/-- A write of the configuration-space bits that R254 and R255 name, as the model numbers them: bit 0 MSI-X Enable, 1 Bus Master Enable, 2 MSI-X
Function Mask, 3 D3hot. -/
def State.writeConfig (s : State) (v : BitVec 32) : State :=
  let s1 : State := { s with host := { s.host with msixEnable := v.getLsbD 0, busMaster := v.getLsbD 1, funcMask := v.getLsbD 2,
                                                    d3 := s.host.d3 && v.getLsbD 3 } }
  let s2 := if v.getLsbD 3 && !s.host.d3 then s1.enterD3 else s1
  if v.getLsbD 2 then s2 else s2.forAll (List.finRange 512) State.sendPending

/-- REGISTER_WRITE (R7, R10, R11): a write of `width` bytes at an offset of a BAR; bar 6 stands for configuration space. An access that is not
aligned, or of a width the window does not take, is discarded. -/
def execRegisterWrite (t : Nat) (bar off width : Nat) (val : BitVec 64) (s0 : State) : Host.Outcome State Fault Refusal :=
  let s := s0.at t
  if bar = 6 then .next (if s.host.linkUp && off == 0 then s.writeConfig (val.setWidth 32) else s)
  else if !s.hostAccess || width == 0 || off % width != 0 then .next s
  else if bar = 0 ∧ width = 4 then .next (if off < 0x10000 then s.writeBar0 off (val.setWidth 32) else s)
  else if bar = 0 ∧ width = 8 then .next (if off < 0x10000 then s.writeBar0Wide off val else s)
  else if bar = 2 ∧ width = 4 then .next (if off < 0x100000 then s.writeBar2 off (val.setWidth 32) else s)
  else if bar = 4 ∧ width = 4 then .next (s.writeBar4 off (val.setWidth 32))
  else if bar = 4 ∧ width = 8 then .next ((s.writeBar4 off (val.setWidth 32)).writeBar4 (off + 4) (val.extractLsb' 32 32))
  else .next s

end Sys2Proof.Machine
end

