-- ==== Sys2Proof/Machine/Context.lean ====
section
/-! DEFINITION. The lifecycle of session contexts, station numbers, and ownership across the fabric (R162, R173 to R175, R195, R303). -/

namespace Sys2Proof.Machine
open Sys2Proof

/-! ## Changes of state (R173) -/

/-- A context changes its state, which changes the object (R269); entering CLOSING or REMOTE clears its soft values (R221). -/
def State.ctxTo (s : State) (id : Nat) (st : CtxSt) : State :=
  match s.ctx? id with
  | some c => if c.st = st then s else (s.setCtx
      { c with st := st, since := s.line[c.berth].bpc, soft := if st = .closing ∨ st = .remote then [] else c.soft, dirty := true }).objTouch .context id
  | none => s

/-- Contexts of a station of a berth, and of an identity. -/
def State.ctxsOf (s : State) (b : Berth) (station : Nat) : List Ctx := s.ctxs.filter fun c => c.berth == b && c.station == station
def State.ctxsOfEui (s : State) (eui : BitVec 64) : List Ctx := s.ctxs.filter fun c => c.eui == eui

/-- A context returns to FREE (R162, R195): its frames towards the station go; the last context of a number sends the number into quarantine, unless
it was JOINING; the last context of an identity takes its kind-0 entry along. -/
def State.freeCtx (s : State) (c : Ctx) : State :=
  let nos := (s.hold.frames.filter fun (f : Frame) => f.ctx == c.id && f.dstKind == 0).map fun (f : Frame) => f.no
  let s1 : State := { s with ctxs := s.ctxs.filter fun d => d.id != c.id, hold := { s.hold with cache := s.hold.cache.erase c.id } }
  let s2 := (s1.dropFrames nos).objTouch .context c.id
  let s3 := if c.st ≠ .joining ∧ (s2.ctxsOf c.berth c.station).isEmpty then
      s2.modLine c.berth fun l => { l with quarantine := l.quarantine ++ [(c.station, l.bpc)] }
    else s2
  if (s3.ctxsOfEui c.eui).isEmpty then s3.routeLeave c.eui else s3

/-- Periods of the berth since an earlier one. -/
def periodsSince (l : Line) (a : BitVec 32) : Nat := (l.bpc - a).toNat

/-- No frame is queued on a context, in either direction. -/
def State.ctxEmpty (s : State) (id : Nat) : Bool := !s.hold.frames.any fun (f : Frame) => f.ctx == id

/-- CONTEXT_STATION_TIMEOUT (R173). -/
def execContextStationTimeout (t : Nat) (id : Nat) (s0 : State) : Host.Outcome State Fault Refusal :=
  let s := s0.at t
  match s.ctx? id with
  | some c =>
    if c.st = .active ∧ s.fnat .stationTimeout c.berth ≤ periodsSince s.line[c.berth] c.lastRx then .next (s.ctxTo id .dormant) else .next s
  | none => .next s

/-- CONTEXT_DORMANT_TIMEOUT (R173). -/
def execContextDormantTimeout (t : Nat) (id : Nat) (s0 : State) : Host.Outcome State Fault Refusal :=
  let s := s0.at t
  match s.ctx? id with
  | some c =>
    if c.st = .dormant ∧ s.fnat .dormantTimeout c.berth ≤ periodsSince s.line[c.berth] c.since then .next (s.ctxTo id .closing) else .next s
  | none => .next s

/-- CONTEXT_CLOSING_END (R173): its queues are empty, or 256 periods have passed. -/
def execContextClosingEnd (t : Nat) (id : Nat) (s0 : State) : Host.Outcome State Fault Refusal :=
  let s := s0.at t
  match s.ctx? id with
  | some c =>
    if c.st = .closing ∧ (s.ctxEmpty id ∨ 256 ≤ periodsSince s.line[c.berth] c.since) then .next (s.freeCtx c) else .next s
  | none => .next s

/-- CONTEXT_REMOTE_END (R173): its frames are forwarded and 256 periods have passed. -/
def execContextRemoteEnd (t : Nat) (id : Nat) (s0 : State) : Host.Outcome State Fault Refusal :=
  let s := s0.at t
  match s.ctx? id with
  | some c =>
    if c.st = .remote ∧ 256 ≤ periodsSince s.line[c.berth] c.since ∧ !s.hold.frames.any fun (f : Frame) => f.ctx == id && f.dstKind == 0 then
      .next (s.freeCtx c)
    else .next s
  | none => .next s

/-- NUMBER_QUARANTINE_END (R162): 256 periods of the berth. -/
def execNumberQuarantineEnd (t : Nat) (b : Berth) (num : Nat) (s0 : State) : Host.Outcome State Fault Refusal :=
  let s := s0.at t
  .next (s.modLine b fun l => { l with quarantine := l.quarantine.filter fun q => !(q.1 == num && decide (256 ≤ periodsSince l q.2)) })

/-- LEAVE (R173): the station's contexts in ACTIVE or DORMANT go to CLOSING. -/
def execLeave (t : Nat) (b : Berth) (ctx : Nat) (s0 : State) : Host.Outcome State Fault Refusal :=
  let s := s0.at t
  match s.ctx? ctx with
  | some c =>
    if c.berth = b then
      .next (s.forAll ((s.ctxsOf b c.station).filter fun d => d.st == .active || d.st == .dormant) fun a d => a.ctxTo d.id .closing)
    else .next s
  | none => .next s

/-! ## Ownership (R175, R303) -/

/-- After a proof verifies, the device asks the system for other owners of the identity. -/
def State.askOwners (s : State) (eui : BitVec 64) (b : Berth) : State :=
  let v := s.free
  let id := (v.1 % 2 ^ 32).toNat
  let q : OwnQuery := { eui := eui, id := id, berth := b, since := s.now }
  let s1 : State := { v.2 with owns := (v.2.owns.filter fun (x : OwnQuery) => x.eui != eui) ++ [q] }
  if s1.fab.joined then s1.broadcast 3 2 (leBytes 8 eui.toNat ++ leBytes 4 id) else s1

/-- Contexts that make this package an owner of an identity. -/
def State.ownedCtxs (s : State) (eui : BitVec 64) : List Ctx := (s.ctxsOfEui eui).filter fun c => c.st.takes

/-- OWN_QUERY (R175): an owner answers with its epoch. -/
def execOwnQuery (t : Nat) (l : LinkId) (pkt : Bytes) (s0 : State) : Host.Outcome State Fault Refusal :=
  .next ((s0.at t).rxPacket l 3 pkt fun s p =>
    if p.payload.length ≠ 12 then s.bump .pktInvalid (l.val + 1)
    else if s.drained .mgmt then s
    else match s.ownedCtxs (BitVec.ofNat 64 (bitsAt p.payload 0 64)) with
      | c :: _ => s.sendTo { ptype := 4, prio := 2, dst := p.src, src := s.fab.addr.toNat, payload := p.payload ++ leBytes 4 c.ownEpoch.toNat }
      | [] => s)

/-- The later of two epochs (R6). -/
def laterEpoch (a : BitVec 32) : Option (BitVec 32) → BitVec 32
  | some b => if newer 32 a.toNat b.toNat then a else b
  | none => a

/-- OWN_ANSWER (R175): the epoch of another owner is recorded. -/
def execOwnAnswer (t : Nat) (l : LinkId) (pkt : Bytes) (s0 : State) : Host.Outcome State Fault Refusal :=
  .next ((s0.at t).rxPacket l 4 pkt fun s p =>
    if p.payload.length ≠ 16 then s.bump .pktInvalid (l.val + 1)
    else if s.drained .mgmt then s
    else
      let eui := BitVec.ofNat 64 (bitsAt p.payload 0 64)
      let e := BitVec.ofNat 32 (bitsAt p.payload 96 32)
      { s with owns := s.owns.map fun q =>
          if q.eui = eui ∧ q.id = bitsAt p.payload 64 32 ∧ s.now < q.since + millis 2 then { q with heard := some (laterEpoch e q.heard) } else q })

/-- OWN_CLAIM_WINDOW_END (R175): the device claims with the highest epoch heard plus 1, or with 1, and advertises. -/
def execOwnClaimWindowEnd (t : Nat) (eui : BitVec 64) (s0 : State) : Host.Outcome State Fault Refusal :=
  let s := s0.at t
  match s.owns.find? fun q => q.eui == eui with
  | some q =>
    if s.now < q.since + millis 2 ∨ s.drained .mgmt then .next s
    else
      let e := match q.heard with | some h => h + 1 | none => 1
      let s1 : State := { s with owns := s.owns.filter fun x => x.eui != eui, ctxs := s.ctxs.map fun c =>
        if c.eui = eui ∧ c.berth = q.berth ∧ c.st ≠ .closing ∧ c.st ≠ .remote then { c with ownEpoch := e, owner := s.fab.addr, dirty := true } else c }
      -- a join abandoned in the meantime leaves nothing to claim
      if s1.fab.joined && (s.ctxsOfEui eui).any fun c => c.berth == q.berth && c.st != .closing && c.st != .remote then
        .next ((s1.broadcast 5 2 (List.flatten [leBytes 8 eui.toNat, leBytes 4 e.toNat, [BitVec.ofNat 8 q.berth.val, 0, 0, 0]])).advertise [(eui, e)])
      else .next s1
  | none => .next s

/-- A claim of an epoch by an address wins over another (R62): the higher epoch; at equal epochs the lower address. -/
def claimWins (e : BitVec 32) (a : Nat) (e' : BitVec 32) (a' : Nat) : Bool := newer 32 e.toNat e'.toNat || (e == e' && decide (a < a'))

/-- The claim of another package has won (R175): contexts in ACTIVE, DORMANT or HELD go to REMOTE, one in JOINING to FREE; the frames queued for
the station go to the winner; the kind-0 entry becomes kind 1. -/
def State.loseTo (s : State) (eui : BitVec 64) (addr : Nat) : State :=
  let l := s.ctxsOfEui eui
  let s1 := s.forAll l fun a c =>
    let b := if c.st = .joining then
        (a.modLine c.berth fun x => { x with joins := x.joins.filter fun (j : Join) => j.eui != eui }).freeCtx c
      else if c.st.takes then
        (a.ctxTo c.id .remote).modCtx c.id fun (d : Ctx) => ({ d with owner := BitVec.ofNat 9 addr } : Ctx)
      else a
    b.handOver c addr
  let s2 := { s1 with owns := s1.owns.filter fun q => q.eui != eui }
  match s2.route? eui with
  | some r => if r.kind = 0 ∧ !r.pinned then s2.putRoute { eui := eui, kind := 1, pinned := false, fabAddr := BitVec.ofNat 9 addr, heard := s2.now } else s2
  | none => s2

/-- The package's own claim on an identity: the epoch of its first context. -/
def State.ownClaimOn (s : State) (eui : BitVec 64) : Option Ctx := ((s.ctxsOfEui eui).filter fun c => c.st != .remote).head?

/-- OWN_CLAIM (R175): a claim that wins takes the identity over; a losing one is ignored. -/
def execOwnClaim (t : Nat) (l : LinkId) (pkt : Bytes) (s0 : State) : Host.Outcome State Fault Refusal :=
  .next ((s0.at t).rxPacket l 5 pkt fun s p =>
    if p.payload.length ≠ 16 ∨ bitsAt p.payload 104 24 ≠ 0 then s.bump .pktInvalid (l.val + 1)
    else if s.drained .mgmt then s
    else
      let eui := BitVec.ofNat 64 (bitsAt p.payload 0 64)
      match s.ownClaimOn eui with
      | some c => if claimWins (BitVec.ofNat 32 (bitsAt p.payload 64 32)) p.src c.ownEpoch s.fab.addr.toNat then s.loseTo eui p.src else s
      | none => s)

/-- One advertised identity (R195, R303, R175): a claim that stands beside the package's own is decided by R62, and the loser raises
EV_CTX_CONFLICT; otherwise it is learned unless a better claim is known. -/
def State.takeAdvert (s : State) (eui : BitVec 64) (e : BitVec 32) (addr : Nat) : State :=
  match s.ownedCtxs eui with
  | c :: _ =>
    if claimWins e addr c.ownEpoch s.fab.addr.toNat then (s.loseTo eui addr).raise .ctxConflict c.id addr else s
  | [] =>
    match s.route? eui with
    | some r =>
      if r.kind = 1 ∧ r.fabAddr.toNat ≠ addr ∧ !claimWins e addr r.epoch r.fabAddr.toNat then s else s.routeLearn eui (BitVec.ofNat 9 addr) e
    | none => s.routeLearn eui (BitVec.ofNat 9 addr) e

/-- OWN_ADVERT (R195, R303). -/
def execOwnAdvert (t : Nat) (l : LinkId) (pkt : Bytes) (s0 : State) : Host.Outcome State Fault Refusal :=
  .next ((s0.at t).rxPacket l 6 pkt fun s p =>
    let n := bitsAt p.payload 0 16
    if n = 0 ∨ 1024 < n ∨ p.payload.length ≠ 4 + 12 * n then s.bump .pktInvalid (l.val + 1)
    else if s.drained .mgmt ∨ p.src = s.fab.addr.toNat then s
    else s.forAll (List.range n) fun a i =>
      a.takeAdvert (BitVec.ofNat 64 (bitsAt p.payload (32 + 96 * i) 64)) (BitVec.ofNat 32 (bitsAt p.payload (96 + 96 * i) 32)) p.src)

/-- OWN_ADVERT_REFRESH (R303): every advert_refresh_s every kind-0 identity is advertised again. -/
def execOwnAdvertRefresh (t : Nat) (s0 : State) : Host.Outcome State Fault Refusal :=
  let s := (s0.at t).releaseAt .advert 0
  if s.drained .mgmt then .next s else .next (s.advertise s.ownedIds)

/-- ROUTE_ENTRY_EXPIRY (R303): a kind-1 entry not refreshed for three intervals. -/
def execRouteEntryExpiry (t : Nat) (eui : BitVec 64) (s0 : State) : Host.Outcome State Fault Refusal :=
  let s := s0.at t
  match s.route? eui with
  | some r => if r.kind = 1 ∧ !r.pinned ∧ r.heard + seconds (3 * s.fnat .advertRefresh 0) ≤ s.now then .next (s.dropRoute eui) else .next s
  | none => .next s

end Sys2Proof.Machine
end

