-- ==== Sys2Proof/Machine/Line.lean ====
section
/-! DEFINITION. What a berth sends on its line: keys and generations (R163, R167), replay windows (R166), mesh headers and hops (R179 to R182, R187,
R192), frames built, chosen and started inside allocations (R91, R149 to R158), acknowledgements (R152 to R154). -/

namespace Sys2Proof.Machine
open Sys2Proof

/-! ## Keys (R159, R163) -/

def installKey (root : Bytes) (eui : BitVec 64) : Bytes := Config.kmac256 root (ascii "PV3264 install" ++ leBytes 8 eui.toNat) 32

def joinProof (kInst dev st : Bytes) (number : Nat) (eui serial : BitVec 64) : Bytes :=
  Config.kmac256 kInst (List.flatten [ascii "PV3264 join", dev, st, leBytes 2 number, leBytes 8 eui.toNat, leBytes 8 serial.toNat]) 32

def sessionKeyOf (kInst dev st : Bytes) : Bytes := Config.kmac256 kInst (List.flatten [ascii "PV3264 station session", dev, st]) 32

def frameKeyOf (kSess : Bytes) (g c tag : Nat) : Bytes :=
  Config.kmac256 kSess (List.flatten [ascii "PV3264 frame", [BitVec.ofNat 8 g, BitVec.ofNat 8 c], leBytes 2 tag]) 32

def rolledSessionKey (kSess dev st : Bytes) : Bytes := Config.kmac256 kSess (List.flatten [ascii "PV3264 rekey", dev, st]) 32

/-- A fresh 16-byte nonce (R160, R167). -/
def State.nonce16 (s : State) : Bytes × State := let d := s.draw; (d.1.take 16, d.2)

/-! ## Generations (R167) -/

/-- Generation in use on a berth's own domain, and its K_dom. -/
def Line.domKey (l : Line) (g : Nat) : Option Bytes :=
  if g = l.keyGen then l.kDom
  else if g = l.keyNext then l.kDomNext
  else match l.keyOld with
    | some (h, k, _) => if g = h then some k else none
    | none => none

/-- K_frame of a context for a live generation. -/
def Ctx.frameKey (c : Ctx) (g : Nat) : Option Bytes :=
  if g = c.keyCur then some c.kFrame
  else if g = c.keyNext ∧ c.kFrameNext ≠ [] then some c.kFrameNext
  else none

/-- A period counter has reached another (R6). -/
def reached (bpc target : BitVec 32) : Bool := !newer 32 target.toNat bpc.toNat

/-- Period counter of the domain the station side has joined. -/
def StationSide.bpcNow (x : StationSide) : BitVec 32 := x.lastBpc.getD 0

/-- Period counter of a side of a berth. -/
def Line.bpcOf (l : Line) (side : Bool) : BitVec 32 := if side then l.st.bpcNow else l.bpc

/-- Generation and keys in use on the station side. -/
def StationSide.gen (x : StationSide) (bpc : BitVec 32) : Nat :=
  if x.kSessNext.isSome && reached bpc x.keySwitch then (x.keyGen + 1) % 256 else x.keyGen

def StationSide.frameKey (x : StationSide) (g c tag : Nat) : Option Bytes :=
  if g = x.keyGen then some (frameKeyOf x.kSess g c tag)
  else if g = (x.keyGen + 1) % 256 then x.kSessNext.map fun k => frameKeyOf k g c tag
  else none

def StationSide.domKey (x : StationSide) (g : Nat) : Option Bytes :=
  if g = x.keyGen then some x.kDom else if g = (x.keyGen + 1) % 256 then x.kDomNext else none

/-! ## Sequence numbers and replay windows (R165, R166) -/

def takeSeq (l : List (Nat × BitVec 16)) (k : Nat) : BitVec 16 × List (Nat × BitVec 16) :=
  let n := (l.lookup k).getD 0
  (n, (k, n + 1) :: l.filter fun x => x.1 != k)

/-- How a replay window answers. -/
inductive Replay where
  | fresh (hi : BitVec 16) (win : BitVec 1024) | dup | stale
  deriving DecidableEq, Repr

/-- The test of R166: newer than the highest, or at most 1,023 behind it with its bit clear. -/
def replayTest (hi : BitVec 16) (win : BitVec 1024) (seq : BitVec 16) : Replay :=
  if newer 16 seq.toNat hi.toNat then .fresh seq ((win <<< (seq - hi).toNat) ||| 1)
  else
    let d := (hi - seq).toNat
    if 1023 < d then .stale
    else if win.getLsbD d then .dup
    else .fresh hi (win ||| (1 <<< d))

/-- The test over a list of windows by key; an unknown key starts with an empty window. -/
def replayIn (l : List HopWindow) (key : Nat) (seq : BitVec 16) (bpc : BitVec 32) : Replay × List HopWindow :=
  let w : HopWindow := (l.find? fun x => x.key == key).getD ⟨key, 0, 0, bpc⟩
  match replayTest w.hi w.win seq with
  | .fresh hi win => (.fresh hi win, ⟨key, hi, win, bpc⟩ :: l.filter fun x => x.key != key)
  | r => (r, l)

/-! ## Mesh headers (R179 to R182) -/

/-- The fields of a mesh header (R180). -/
structure MeshHdr where
  ver : Nat := 1
  relayed : Bool
  down : Bool
  ttl : Nat
  orig : Nat
  final : Nat
  ctxSel : Nat
  rank : Nat := 0
  seq : Nat
  bpc : Nat
  gen : Nat
  srLen : Nat := 0
  srNext : Nat := 0
  sr : List Nat := []
  deriving DecidableEq, Repr

def meshHdrBytes (h : MeshHdr) : Bytes :=
  leBytes 28 (h.ver % 16 + b2n h.relayed * 2 ^ 4 + b2n h.down * 2 ^ 5 + h.ttl % 16 * 2 ^ 6 + h.orig % 4096 * 2 ^ 10 + h.final % 4096 * 2 ^ 22 +
    h.ctxSel % 4 * 2 ^ 34 + h.rank % 65536 * 2 ^ 36 + h.seq % 65536 * 2 ^ 52 + h.bpc % 2 ^ 32 * 2 ^ 68 + h.gen % 256 * 2 ^ 100 +
    h.srLen % 8 * 2 ^ 108 + h.srNext % 8 * 2 ^ 111 + (h.sr.take 7).foldr (fun x a => x % 4096 + 4096 * a) 0 * 2 ^ 114)

def parseMeshHdr (b : Bytes) : MeshHdr where
  ver := bitsAt b 0 4
  relayed := bitsAt b 4 1 == 1
  down := bitsAt b 5 1 == 1
  ttl := bitsAt b 6 4
  orig := bitsAt b 10 12
  final := bitsAt b 22 12
  ctxSel := bitsAt b 34 2
  rank := bitsAt b 36 16
  seq := bitsAt b 52 16
  bpc := bitsAt b 68 32
  gen := bitsAt b 100 8
  srLen := bitsAt b 108 3
  srNext := bitsAt b 111 3
  sr := (List.range 7).map fun i => bitsAt b (114 + 12 * i) 12

/-- The additional authenticated data of the end-to-end payload: ttl, sender_rank and sr_next at 0 (R181). -/
def meshAad (h : MeshHdr) : Bytes := meshHdrBytes { h with ttl := 0, rank := 0, srNext := 0 }

/-- A frame-control block that names only what a nonce needs. -/
def nonceFc (ftype src ctxSel gen bpc seq tag : Nat) : FrameCtl :=
  { version := 1, ftype := ftype, src := src, dst := 0, bcast := false, ackReq := false, ctxSel := ctxSel, gi := 0, mode := 0, tmId := 0,
    short := false, rate := 0, len := 0, attempt := 0, tag := tag, keyGen := gen, bpcFirst := bpc, seq := seq }

/-- The end-to-end nonce (R181). -/
def meshNonce (h : MeshHdr) (tag : Nat) : Bytes := gcmNonce (nonceFc 0 h.orig h.ctxSel h.gen h.bpc h.seq tag)

def meshSeal (k : Bytes) (h : MeshHdr) (tag : Nat) (data : Bytes) : Bytes := Config.gcmSeal k (meshNonce h tag) (meshAad h) data
def meshOpen (k : Bytes) (h : MeshHdr) (tag : Nat) (ct : Bytes) : Option Bytes := Config.gcmOpen k (meshNonce h tag) (meshAad h) ct

/-- A mesh header keeps R179 and R180: version 1, relayed as the class tag says, reserved bits 0. -/
def meshHdrOk (relayedTag : Bool) (b : Bytes) : Bool :=
  let h := parseMeshHdr b
  h.ver == 1 && h.relayed == relayedTag && bitsAt b 198 26 == 0 && h.ttl != 0

/-! ## The line's parameters -/

/-- Data carriers that are on. -/
def State.dCount (s : State) (b : Berth) : Nat := (s.emission b).dataCarriers.length

/-- The key of a link in the tone-map list: the far end's station number, those of the station side kept apart. -/
def mapKey (side : Bool) (station : Nat) : Nat := if side then 4096 + station else station

/-- How a frame for a link is sent. -/
structure LineMode where
  mode : Nat
  tm : Nat
  gi : Nat
  rate : Nat
  /-- Coded bits per payload symbol, B. -/
  bits : Nat
  deriving DecidableEq, Repr

/-- The newest map received whose valid_from has been reached (R117). -/
def BerthSt.txMap (x : BerthSt) (key : Nat) (bpc : BitVec 32) : Option ToneMap :=
  match x.maps.find? fun m => m.station == key with
  | some m => m.held.find? fun y => reached bpc y.validFrom
  | none => none

/-- The mode of a new frame on a link: its tone map, or a hardtack mode, which of the four being the device's choice (R109, R117). -/
def State.lineMode (s : State) (b : Berth) (side : Bool) (station : Nat) : LineMode × State :=
  match s.berth[b].txMap (mapKey side station) (s.line[b].bpcOf side) with
  | some m => (⟨0, m.id, m.gi, m.rate, mapBits (s.emission b) m⟩, s)
  | none =>
    let v := s.free
    let mode := 1 + (v.1 % 4).toNat
    (⟨mode, 0, s.fnat .giDefault b, 0, hardtackB mode (s.dCount b)⟩, v.2)

/-- The mode of a retransmission: the present mode, at the first transmission's code (R111). -/
def LineMode.keepRate (m : LineMode) (f : FrameCtl) : LineMode := { m with rate := f.rate }

/-- Payload symbols of a frame of `len` bytes (R108). -/
def LineMode.symbols (m : LineMode) (short : Bool) (len : Nat) : Nat := nSymbols (nCodewords short len) (ldpcN short m.rate) m.bits

/-- Duration of a frame in ns (R91). -/
def frameNs (gi nSym : Nat) : Nat := headNs + nSym * tSym gi

/-- A frame starts on the line (R91). -/
def State.sendFrame (s : State) (b : Berth) (f : FrameCtl) (nSym : Nat) (payload : Bytes) (ref : Option Nat) : State :=
  (s.modBerth b fun x => { x with tx := some { fc := f, nSym := nSym, ref := ref } }).emit (.lineFrame b (fcBytes f) payload)

/-- A short control frame: one short codeword at rate 1/2 in QPSK ×2 (R152, R170, R458). -/
def State.sendShort (s : State) (b : Berth) (f : FrameCtl) (payload : Bytes) : State :=
  let g : FrameCtl := { f with version := 1, mode := 1, tmId := 0, short := true, rate := 0, len := payload.length, attempt := 0 }
  if s.mayDrive b then s.sendFrame b g (nSymbols 1 1920 (hardtackB 1 (s.dCount b))) payload none else s

/-- A short control frame protected under a key (R164). -/
def State.sendSealed (s : State) (b : Berth) (f : FrameCtl) (key plain : Bytes) : State :=
  let g : FrameCtl := { f with version := 1, mode := 1, tmId := 0, short := true, rate := 0, len := plain.length + 16, attempt := 0 }
  s.sendShort b g (Config.gcmSeal key (gcmNonce g) (fcAad g) plain)

/-! ## Allocations -/

/-- Whole periods since the last verified beacon of the station side. -/
def State.stElapsed (s : State) (b : Berth) : Nat := (s.now - s.line[b].st.periodAt) / max 1 (s.line[b].st.nPeriod * 1024000)

/-- The allocation of an index: the berth's own map, then the station side's, where an entry holds in its own period, a persistent one for at
most four more (R151). With it, whether it is the station side's, and T_k. -/
def State.allocAt (s : State) (b : Berth) (i : Nat) : Option (Bool × Alloc × Nat) :=
  let l := s.line[b]
  if i < l.map.length then l.map[i]?.map fun a => (false, a, l.periodAt)
  else
    let e := s.stElapsed b
    ((l.st.map[i - l.map.length]?).filter fun a => e == 0 || (a.persist && decide (e ≤ 4))).map fun a =>
      (true, a, l.st.periodAt + e * (l.st.nPeriod * 1024000))

/-- The allocation in progress. -/
def State.curAlloc (s : State) (b : Berth) : Option (Bool × Alloc × Nat) := s.line[b].alloc.bind (s.allocAt b)

/-- Instant at which an allocation ends. -/
def allocEnd (a : Alloc) (t0 : Nat) : Nat := t0 + micros (a.start + a.dur)

/-- Full duplex is permitted on a berth now (R135). -/
def State.fdPermitted (s : State) (b : Berth) : Bool :=
  s.berth[b].cancel == .tracking && s.fbool .fdEnable b && (s.berth[b].fdFrom.map fun t => decide (t ≤ s.now)).getD true

/-- The stations a berth may send data to in an allocation, and on which side (R149, R158): none when it does not transmit. -/
def State.txTarget (s : State) (b : Berth) (side : Bool) (a : Alloc) : Option Nat :=
  let l := s.line[b]
  if side then
    let me := l.st.number
    if !l.st.joined then none
    else match a.kind with
      | 0 => if a.src = me ∧ me ≠ 0 then some a.dst else none
      | 1 => if a.src = me then some 0 else none
      | 2 => if a.src = me then some 0 else none
      | _ => none
  else match a.kind with
    | 0 => if a.src = 0 ∧ a.dst ≠ 0 then some a.dst else none
    | 1 => if s.fdPermitted b then some a.dst else none
    | 2 => if s.fdPermitted b then some a.src else none
    | _ => none

/-! ## Hops (R179, R187, R192) -/

/-- Where a frame goes next: on the station side or not, the station (0 the coordinator), broadcast, and the header it travels under. -/
structure HopPlan where
  side : Bool
  dst : Nat
  bcast : Bool := false
  /-- Class tag (R179). -/
  tag : Nat
  /-- Repeaters of a source route or of a relayed path; ttl at origin. -/
  meshed : Bool := false
  sr : List Nat := []
  ttl : Nat := 0
  rank : Nat := 0
  deriving DecidableEq, Repr

/-- The relay entry of a station in the period's map (R190). -/
def relayOf (l : List (Nat × Nat × Nat)) (st : Nat) : Option (Nat × Nat) := (l.find? fun x => x.1 == st).map fun x => x.2

/-- The hop of a stored frame: down to a context's station (R187, R192), to every station (R245), or up from the station side. -/
def State.hopOf (s : State) (b : Berth) (f : Frame) : Option HopPlan :=
  let m := s.mesh[b]
  match f.role with
  | 1 => some { side := false, dst := 0, bcast := true, tag := 0 }
  | 2 =>
    let me := s.line[b].st.number
    match f.tclass with
    | 0 =>
      match m.own with
      | some (r, hops) =>
        if r.parent = 0xFFFF then some { side := true, dst := 0, tag := 1, meshed := true, ttl := hops, rank := r.rank }
        else some { side := true, dst := r.parent, tag := 1, meshed := true, ttl := hops, rank := r.rank }
      | none => some { side := true, dst := 0, tag := 1, meshed := true, ttl := 1, rank := 0xFFFF }
    | 1 =>
      match (if m.direct then none else m.map.bind fun x => relayOf x.2 me) with
      | some (r1, r2) => some { side := true, dst := r1, tag := 2, meshed := true, ttl := if r2 = 0 then 2 else 3 }
      | none => some { side := true, dst := 0, tag := 2, meshed := true, ttl := 1 }
    | _ => some { side := true, dst := 0, tag := 0 }
  | _ =>
    match s.ctx? f.ctx with
    | none => none
    | some c =>
      match f.tclass with
      | 0 =>
        let down := ((m.routes.find? fun r => r.station == c.station).map fun (r : StRoute) => r.down).getD []
        match down with
        | [] => some { side := false, dst := c.station, tag := 0 }
        | r1 :: _ => some { side := false, dst := r1, tag := 1, meshed := true, sr := down, ttl := down.length + 1 }
      | 1 =>
        match relayOf m.relays c.station with
        | some (r1, r2) => some { side := false, dst := if r2 = 0 then r1 else r2, tag := 2, meshed := true, ttl := if r2 = 0 then 2 else 3 }
        | none => some { side := false, dst := c.station, tag := 2, meshed := true, ttl := 1 }
      | _ => some { side := false, dst := c.station, tag := 0 }

/-- A context transmits: its station is served and its berth is not held back (R173). -/
def CtxSt.transmits (x : CtxSt) : Bool := x == .active || x == .dormant || x == .closing

/-- A stored frame may be started towards a station in the present allocation. -/
def State.mayStart (s : State) (b : Berth) (side : Bool) (target : Nat) (f : Frame) : Bool :=
  decide (f.dstKind = 0 ∧ f.dstIdx = b.val) && !f.sent &&
  (f.role != 0 || (match s.ctx? f.ctx with | some c => c.st.transmits && decide (c.unacked < 32767) | none => false)) &&
  match s.hopOf b f with
  | some h => h.side == side && (h.bcast || h.dst == target)
  | none => false

/-- Service order of the classes: relayed, local, routed (R156). -/
def byClass (l : List Frame) : List Frame :=
  (l.filter fun f => f.tclass == 1) ++ (l.filter fun f => f.tclass != 1 && f.tclass != 0) ++ l.filter fun f => f.tclass == 0

/-! ## Building a data frame -/

/-- Key, generation, sequence and context selector of a new hop (R163, R165, R180), with the counters moved on. -/
def State.hopKey (s : State) (b : Berth) (h : HopPlan) (f : Frame) : Option (Bytes × Nat × BitVec 16 × Nat × State) :=
  let l := s.line[b]
  if h.side then
    let x := l.st
    let g := x.gen x.bpcNow
    let tag := s.fnat .ferryTag b
    if h.dst = 0 ∧ !h.meshed then
      let (n, seqs) := takeSeq x.seqs 0
      (x.frameKey g 0 tag).map fun k => (k, g, n, 0, s.modLine b fun y => { y with st := { y.st with seqs := seqs } })
    else
      let n := s.mesh[b].stHopSeq
      let s1 := s.modMesh b fun m => { m with stHopSeq := n + 1 }
      (if h.dst = 0 then x.frameKey g 0 tag else x.domKey g).map fun k => (k, g, n, 0, s1)
  else if h.bcast then
    let n := s.mesh[b].hopSeq
    l.kDom.map fun k => (k, l.keyGen, n, 0, s.modMesh b fun m => { m with hopSeq := n + 1 })
  else if h.meshed then
    match s.ctxs.find? fun c => c.berth == b && c.station == h.dst && c.ctxSel == 0 with
    | some c =>
      let n := s.mesh[b].hopSeq
      (c.frameKey l.keyGen).map fun k => (k, l.keyGen, n, 0, s.modMesh b fun m => { m with hopSeq := n + 1 })
    | none => none
  else
    match s.ctx? f.ctx with
    | some c => (c.frameKey l.keyGen).map fun k => (k, l.keyGen, c.txSeq, c.ctxSel, s.modCtx c.id fun (y : Ctx) => ({ y with txSeq := y.txSeq + 1 } : Ctx))
    | none => none

/-- The mesh header of a new frame and its end-to-end key: inner_seq comes from the counter of the context's direct data frames (R181). -/
def State.newMeshHdr (s : State) (b : Berth) (h : HopPlan) (f : Frame) : Option (MeshHdr × Bytes × State) :=
  let l := s.line[b]
  if h.side then
    let x := l.st
    let g := x.gen x.bpcNow
    let (n, seqs) := takeSeq x.seqs 0
    let hd : MeshHdr := { relayed := h.tag == 2, down := false, ttl := h.ttl, orig := x.number, final := 0, ctxSel := 0, rank := if h.tag = 1 then h.rank else 0,
                          seq := n.toNat, bpc := x.bpcNow.toNat, gen := g }
    (x.frameKey g 0 (s.fnat .ferryTag b)).map fun k => (hd, k, s.modLine b fun y => { y with st := { y.st with seqs := seqs } })
  else
    match s.ctx? f.ctx with
    | some c =>
      let hd : MeshHdr := { relayed := h.tag == 2, down := true, ttl := h.ttl, orig := 0, final := c.station, ctxSel := c.ctxSel, seq := c.txSeq.toNat,
                            bpc := l.bpc.toNat, gen := l.keyGen, srLen := h.sr.length, srNext := if h.sr.isEmpty then 0 else 1, sr := h.sr }
      (c.frameKey l.keyGen).map fun k => (hd, k, s.modCtx c.id fun (y : Ctx) => ({ y with txSeq := y.txSeq + 1 } : Ctx))
    | none => none

/-- The end-to-end key of a header sent before (R111). -/
def State.meshKeyOf (s : State) (b : Berth) (h : MeshHdr) (f : Frame) : Option Bytes :=
  if h.down then (s.ctx? f.ctx).bind fun c => c.frameKey h.gen else s.line[b].st.frameKey h.gen h.ctxSel (s.fnat .ferryTag b)

/-- The key of a hop sent before. -/
def State.hopKeyOf (s : State) (b : Berth) (h : HopPlan) (f : Frame) (fc : FrameCtl) : Option Bytes :=
  let l := s.line[b]
  if h.side then (if fc.dst = 0 then l.st.frameKey fc.keyGen 0 (s.fnat .ferryTag b) else l.st.domKey fc.keyGen)
  else if h.bcast then l.domKey fc.keyGen
  else if h.meshed then (s.ctxs.find? fun c => c.berth == b && c.station == fc.dst && c.ctxSel == 0).bind fun c => c.frameKey fc.keyGen
  else (s.ctx? f.ctx).bind fun c => c.frameKey fc.keyGen

/-- What a frame of the Hold becomes on the line: frame control, hop key, plaintext, the frame with its identity, and the state with counters
moved on (R111, R164, R165, R179 to R181). A frame whose generation has retired is sent as a new frame. -/
def State.buildFrame (s : State) (b : Berth) (h : HopPlan) (f : Frame) (data : Bytes) : Option (FrameCtl × Nat × Bytes × Frame × State) :=
  let dtag := if h.side then s.fnat .ferryTag b else s.fnat .domainTag b
  let again := match f.line with
    | some fc => (s.hopKeyOf b h f fc).bind fun k =>
        if f.meshHdr = [] then some (fc, k, [BitVec.ofNat 8 h.tag] ++ data)
        else
          let hd := parseMeshHdr f.meshHdr
          (s.meshKeyOf b hd f).map fun e => (fc, k, List.flatten [[BitVec.ofNat 8 h.tag], f.meshHdr, meshSeal e hd dtag data])
    | none => none
  match again with
  | some (fc, k, plain) =>
    let lm := s.lineMode b h.side fc.dst
    let m := lm.1.keepRate fc
    let g : FrameCtl := { fc with mode := m.mode, tmId := m.tm, gi := m.gi, attempt := min f.attempts 7 }
    some (g, m.symbols g.short g.len, Config.gcmSeal k (gcmNonce g) (fcAad g) plain,
      { f with attempts := f.attempts + 1, sent := g.ackReq, line := some g }, lm.2)
  | none =>
    let built : Option (Bytes × Bytes × State) :=
      if h.meshed then (s.newMeshHdr b h f).map fun x => (meshHdrBytes x.1, meshSeal x.2.1 x.1 dtag data, x.2.2) else some ([], data, s)
    built.bind fun x => (x.2.2.hopKey b h f).map fun y =>
      let plain := List.flatten [[BitVec.ofNat 8 h.tag], x.1, x.2.1]
      let lm := y.2.2.2.2.lineMode b h.side h.dst
      let len := plain.length + 16
      let out := lm.2.hold.frames.countP fun (z : Frame) =>
        z.dstKind == 0 && z.dstIdx == b.val && z.sent && ((z.line.map fun (y : FrameCtl) => y.ackReq && y.dst == h.dst).getD false)
      let g : FrameCtl :=
        { version := 1, ftype := 0, src := if h.side then lm.2.line[b].st.number else 0, dst := h.dst, bcast := h.bcast,
          ackReq := !h.bcast && decide (out < 25), ctxSel := y.2.2.2.1, gi := lm.1.gi, mode := lm.1.mode, tmId := lm.1.tm,
          short := decide (len ≤ s.fnat .shortCodeMax b), rate := lm.1.rate, len := len, attempt := 0, tag := dtag, keyGen := y.2.1,
          bpcFirst := (s.line[b].bpcOf h.side).toNat, seq := y.2.2.1.toNat }
      (g, lm.1.symbols g.short len, Config.gcmSeal y.1 (gcmNonce g) (fcAad g) plain,
        { f with attempts := f.attempts + 1, sent := g.ackReq, line := some g, meshHdr := x.1 }, lm.2)

/-- Counts of a context for a frame sent (R172). -/
def State.countSent (s : State) (f g : Frame) : State :=
  if f.role = 0 then
    s.modCtx f.ctx fun (c : Ctx) => ({ c with txFrames := satTo 32 (c.txFrames + 1), retx := if f.attempts = 0 then c.retx else satTo 32 (c.retx + 1),
                                                unacked := if g.sent && f.line.isNone then c.unacked + 1 else c.unacked } : Ctx)
  else s

/-- A frame fits: it ends before the ack tail begins (R152), and has at most 1,024 payload symbols (R108). -/
def State.fits (s : State) (b : Berth) (a : Alloc) (t0 gi nSym : Nat) : Bool :=
  let tail := if a.kind ≤ 2 then ackTail gi (s.dCount b) else 4 * tSym gi + 10000 + tAck gi (s.dCount b)
  decide (nSym ≤ 1024 ∧ 0 < nSym) && decide (s.now + frameNs gi nSym + tail ≤ allocEnd a t0)

/-- A stored frame is in the air: it keeps its identity. -/
def State.afterSend (s : State) (f : Frame) : State := s.setFrame { f with sent := true }

/-- Start the first frame in service order that fits (R152, R156). -/
def State.startOne (s : State) (b : Berth) (a : Alloc) (t0 : Nat) (side : Bool) : List Frame → State
  | [] => s
  | f :: rest =>
    match s.hopOf b f with
    | none => s.startOne b a t0 side rest
    | some h =>
      match s.readFrame f with
      | (s1, none) => s1.startOne b a t0 side rest
      | (s1, some data) =>
        match s1.buildFrame b h f data with
        | none => s.startOne b a t0 side rest
        | some (fc, nSym, payload, g, s2) =>
          if s.fits b a t0 fc.gi nSym then ((s2.sendFrame b fc nSym payload (some f.no)).countSent f g).afterSend g
          else s.startOne b a t0 side rest

/-! ## Management messages on the line (R160, R164) -/

/-- A management message for a context waits for a downlink; `noCtx` is the station side's, for its coordinator. -/
def State.queueMsg (s : State) (b : Berth) (ctx : Nat) (plain : Bytes) : State := s.modLine b fun l => { l with msgs := l.msgs ++ [(ctx, plain)] }

/-- Frame control and key of an encrypted management, time or acknowledgement frame to the station of a context, or of the station side to its
coordinator (R163, R165). -/
def State.msgFc (s : State) (b : Berth) (ctx ftype : Nat) : Option (FrameCtl × Bytes × State) :=
  let l := s.line[b]
  if ctx = noCtx then
    let x := l.st
    let g := x.gen x.bpcNow
    let tag := s.fnat .ferryTag b
    let (n, seqs) := takeSeq x.seqs (4 * ftype)
    (x.frameKey g 0 tag).map fun k =>
      ({ nonceFc ftype x.number 0 g x.bpcNow.toNat n.toNat tag with gi := s.fnat .giDefault b }, k, s.modLine b fun y => { y with st := { y.st with seqs := seqs } })
  else
    match s.ctx? ctx with
    | some c =>
      match s.ctxs.find? fun d => d.berth == b && d.station == c.station && d.ctxSel == 0 with
      | some d =>
        let (n, seqs) := takeSeq d.seqs ftype
        (d.frameKey l.keyGen).map fun k =>
          ({ nonceFc ftype 0 0 l.keyGen l.bpc.toNat n.toNat (s.fnat .domainTag b) with dst := c.station, gi := s.fnat .giDefault b }, k,
            s.modCtx d.id fun (y : Ctx) => ({ y with seqs := seqs } : Ctx))
      | none => none
    | none => none

/-- The station a waiting message goes to. -/
def State.msgTarget (s : State) (ctx : Nat) : Nat := if ctx = noCtx then 0 else ((s.ctx? ctx).map fun (c : Ctx) => c.station).getD 0

/-- A management message starts: the long or the short code by its length (R104), in the mode of its link. -/
def State.sendMsg (s : State) (b : Berth) (a : Alloc) (t0 ctx : Nat) (plain : Bytes) : Option State :=
  (s.msgFc b ctx 3).bind fun x =>
    let lm := x.2.2.lineMode b (ctx == noCtx) (s.msgTarget ctx)
    let len := plain.length + 16
    let short := decide (len ≤ s.fnat .shortCodeMax b)
    let fc : FrameCtl := { x.1 with gi := lm.1.gi, mode := lm.1.mode, tmId := lm.1.tm, rate := lm.1.rate, short := short, len := len }
    let n := lm.1.symbols short len
    if s.fits b a t0 fc.gi n then some (lm.2.sendFrame b fc n (Config.gcmSeal x.2.1 (gcmNonce fc) (fcAad fc) plain) none) else none

/-! ## Forwarding on the station side (R182, R193) -/

/-- Start the oldest held frame for a neighbour that fits: relayed frames first. -/
def State.startFwd (s : State) (b : Berth) (a : Alloc) (t0 target : Nat) (relayedOnly : Bool) : Option State :=
  let m := s.mesh[b]
  let l := s.line[b]
  let cand := m.fwd.filter fun (f : FwdFrame) => !f.sent && f.next == target
  let pick := match cand.find? fun (f : FwdFrame) => f.relayed with
    | some f => some f
    | none => if relayedOnly then none else cand.head?
  pick.bind fun (f : FwdFrame) =>
    let tag := s.fnat .ferryTag b
    let g := l.st.gen l.st.bpcNow
    let keyAt := fun n => if target = 0 then l.st.frameKey n 0 tag else l.st.domKey n
    let held := f.line.bind fun fc => (keyAt fc.keyGen).map fun k => (fc, k)
    let first := held.isNone
    let lm := s.lineMode b true target
    let base : Option (FrameCtl × Bytes) := match held with
      | some x => some x
      | none => (keyAt g).map fun k =>
          ({ nonceFc 0 l.st.number 0 g l.st.bpcNow.toNat m.stHopSeq.toNat tag with
               dst := target, ackReq := true, rate := lm.1.rate, len := f.data.length + 16, short := decide (f.data.length + 16 ≤ s.fnat .shortCodeMax b) }, k)
    base.bind fun x =>
      let md := lm.1.keepRate x.1
      let fc : FrameCtl := { x.1 with mode := md.mode, tmId := md.tm, gi := md.gi, attempt := min f.attempts 7 }
      let n := md.symbols fc.short fc.len
      if s.fits b a t0 fc.gi n then
        let s1 := lm.2.modMesh b fun y =>
          { y with stHopSeq := if first then y.stHopSeq + 1 else y.stHopSeq,
                   fwd := y.fwd.map fun (z : FwdFrame) => if z = f then ({ z with line := some fc, attempts := z.attempts + 1, sent := true } : FwdFrame) else z }
        some (s1.sendFrame b fc n (Config.gcmSeal x.2 (gcmNonce fc) (fcAad fc) f.data) none)
      else none

/-! ## Starting what an allocation holds -/

/-- The next frame of the allocation in progress: management messages, forwarded frames, then the queues (R149, R156). -/
def State.startNext (s : State) (b : Berth) : State :=
  match s.curAlloc b with
  | none => s
  | some (side, a, t0) =>
    if s.berth[b].tx.isSome || s.berth[b].silentAlloc || !s.mayDrive b then s
    else match s.txTarget b side a with
      | none => s
      | some target =>
        let msg := s.line[b].msgs.find? fun x => (x.1 == noCtx) == side && s.msgTarget x.1 == target
        let sent := msg.bind fun x => (s.modLine b fun l => { l with msgs := l.msgs.erase x }).sendMsg b a t0 x.1 x.2
        match sent with
        | some s1 => s1
        | none =>
          match (if side then s.startFwd b a t0 target false else none) with
          | some s1 => s1
          | none => if s.switching then s.startOne b a t0 side (byClass (s.hold.frames.filter fun f => s.mayStart b side target f)) else s

/-! ## Acknowledgements (R152 to R154) -/

/-- An entry's 32 bits. -/
def ackEntryBytes (e : AckEntry) : Bytes :=
  leBytes 4 (e.seq % 65536 + e.ctxSel % 4 * 2 ^ 16 + b2n e.delivered * 2 ^ 18 + e.cwOk % 256 * 2 ^ 20)

def ackPlain (l : List AckEntry) : Bytes := List.flatten [[BitVec.ofNat 8 l.length, 0], l.flatMap ackEntryBytes]

/-- Send the acknowledgement owed to a station (R152): at most 25 entries; nothing when none is owed. -/
def State.sendAck (s : State) (b : Berth) (side : Bool) (station gi : Nat) : State :=
  let l := s.line[b]
  if side then
    let owed := ((l.st.acks.filter fun x => x.1 == station).map (·.2)).take 25
    if owed.isEmpty then s
    else match s.msgFc b noCtx 2 with
      | some (fc, k, s1) =>
        let key := if station = 0 then k else (l.st.domKey fc.keyGen).getD []
        (s1.modLine b fun y => { y with st := { y.st with acks := y.st.acks.filter fun x => x.1 != station } }).sendSealed b
          { fc with gi := gi, dst := station } key (ackPlain owed)
      | none => s
  else
    let owed := ((l.acks.filter fun x => x.1 == station).map (·.2)).take 25
    if owed.isEmpty then s
    else match s.ctxs.find? fun c => c.berth == b && c.station == station && c.ctxSel == 0 with
      | some c =>
        match s.msgFc b c.id 2 with
        | some (fc, k, s1) => (s1.modLine b fun y => { y with acks := y.acks.filter fun x => x.1 != station }).sendSealed b { fc with gi := gi } k (ackPlain owed)
        | none => s
      | none => s

end Sys2Proof.Machine
end

