-- ==== Sys2Proof/Machine/Mesh.lean ====
section
/-! DEFINITION. Mesh routing and dynamic relays (chapter 08): link costs, routes, relays, and the rows of reports, route sets, relay maps and
hop frames. -/

namespace Sys2Proof.Machine
open Sys2Proof

/-- Insertion sort by a strict order. -/
def insertBy {α : Type} (lt : α → α → Bool) (x : α) : List α → List α
  | [] => [x]
  | y :: r => if lt y x then y :: insertBy lt x r else x :: y :: r
def sortBy {α : Type} (lt : α → α → Bool) (l : List α) : List α := l.foldr (insertBy lt) []

/-! ## Link cost (R184) -/

/-- Cost of a reported link. -/
def linkCost (penalty : Nat) (r : LinkRep) : Nat :=
  let (p, q) := rateFrac r.rate
  if r.ok64 = 0 ∨ r.bps = 0 then 65535
  else min 65534 (ceilDiv (1638400 * q * tSym r.gi) (p * r.bps * r.ok64 * 1000) + penalty)

/-- Cost of the link from a to b from reports at most `age` periods old; 65,535 when unusable. -/
def costIn (links : List LinkRep) (penalty age : Nat) (bpc : BitVec 32) (a b : Nat) : Nat :=
  match links.find? fun r => r.from_ == a && r.to_ == b with
  | some r => if (bpc - r.bpc).toNat ≤ age then linkCost penalty r else 65535
  | none => 65535

/-! ## Routed paths (R185) -/

/-- A path between a station and the coordinator: cost and repeaters in order from its start. -/
structure MPath where
  cost : Nat
  reps : List Nat
  deriving DecidableEq, Repr

/-- Lexicographic order of repeater lists. -/
def lexLt : List Nat → List Nat → Bool
  | x :: a, y :: b => decide (x < y) || (x == y && lexLt a b)
  | [], _ :: _ => true
  | _, [] => false

/-- Least cost, then fewer hops, then the lower first differing repeater. -/
def MPath.lt (a b : MPath) : Bool :=
  decide (a.cost < b.cost) || (a.cost == b.cost && (decide (a.reps.length < b.reps.length) || (a.reps.length == b.reps.length && lexLt a.reps b.reps)))

def leastPath : List MPath → Option MPath
  | [] => none
  | p :: r => match leastPath r with | some q => if p.lt q then some p else some q | none => some p

/-- Best paths of at most `h` hops of every station, uplink or downlink. -/
def paths (c : Nat → Nat → Nat) (sts : List Nat) (up : Bool) : Nat → List (Nat × MPath)
  | 0 => []
  | h + 1 =>
    let prev := paths c sts up h
    sts.filterMap fun st =>
      let w := fun x y => if up then c x y else c y x
      let direct := if w st 0 < 65535 then [(⟨w st 0, []⟩ : MPath)] else []
      let via := prev.filterMap fun x =>
        if x.1 = st ∨ 65535 ≤ w st x.1 ∨ x.2.reps.contains st then none
        else some (⟨w st x.1 + x.2.cost, if up then x.1 :: x.2.reps else x.2.reps ++ [x.1]⟩ : MPath)
      (leastPath (direct ++ via)).map fun p => (st, p)

/-- Stations of a berth in ACTIVE, ascending. -/
def State.activeStations (s : State) (b : Berth) : List Nat :=
  sortBy (fun x y => decide (x < y)) ((s.ctxs.filter fun c => c.berth == b && c.st == .active).map (·.station)).eraseDups

/-- The new routes of a station (R185, R186). -/
def newRoute (c : Nat → Nat → Nat) (sts : List Nat) (ups downs : List (Nat × MPath)) (st : Nat) : StRoute :=
  let rankOf := fun x => if x = 0 then 0 else ((ups.lookup x).map fun (p : MPath) => min 65535 p.cost).getD 65535
  let down := ((downs.lookup st).map fun (p : MPath) => p.reps).getD []
  match ups.lookup st with
  | none => { station := st, ver := 0, parent := 0xFFFF, parentRank := 0xFFFF, rank := 0xFFFF, alt := 0xFFFF, altRank := 0xFFFF, down := down, hops := 0 }
  | some p =>
    let parent := p.reps.headD 0
    let rank := min 65535 p.cost
    let alts := sortBy (fun (x y : Nat × Nat) => decide (x.2 < y.2) || (x.2 == y.2 && decide (x.1 < y.1)))
      (((0 :: sts).filter fun x => x != parent && x != st && decide (rankOf x < rank) && decide (c st x < 65535)).map fun x => (x, c st x + rankOf x))
    let alt := (alts.head?.map fun x => x.1).getD 0xFFFF
    { station := st, ver := 0, parent := parent, parentRank := rankOf parent, rank := rank, alt := alt,
      altRank := if alt = 0xFFFF then 0xFFFF else rankOf alt, down := down, hops := p.reps.length + 1 }

/-- The entries of a ROUTE_SET agree. -/
def StRoute.sameSet (a b : StRoute) : Bool :=
  a.parent == b.parent && a.parentRank == b.parentRank && a.rank == b.rank && a.alt == b.alt && a.altRank == b.altRank

/-- The plaintext of a ROUTE_SET (R186). -/
def routeSetPlain (r : StRoute) (maxHops : Nat) : Bytes :=
  List.flatten [[0x0D], leBytes 2 r.ver.toNat, leBytes 2 r.parent, leBytes 2 r.parentRank, leBytes 2 r.rank, leBytes 2 r.alt, leBytes 2 r.altRank,
    [BitVec.ofNat 8 maxHops]]

/-- The kind-0 entry of a station follows its routes (R194). -/
def State.routeFollows (s : State) (b : Berth) (r : StRoute) : State :=
  match s.ctxs.find? fun c => c.berth == b && c.station == r.station with
  | some c =>
    match s.route? c.eui with
    | some e => if e.kind = 0 ∧ (e.hops ≠ r.hops ∨ e.cost ≠ r.rank ∨ e.ver ≠ r.ver) then
        s.putRoute { e with hops := r.hops, cost := r.rank, ver := r.ver } else s
    | none => s
  | none => s

/-- Recompute the routes of a domain at a beacon boundary (R185, R186). A source route holds at most seven repeaters, so a downlink path has at
most eight hops. -/
def State.recompute (s0 : State) (b : Berth) : State :=
  let s := s0.releaseAt .route b
  let m := s.mesh[b]
  if !m.changed then s
  else
    let maxHops := s.fnat .maxHops b
    let c := costIn m.links (s.fnat .hopPenalty b) (s.fnat .linkAgeMax b) s.line[b].bpc
    let sts := s.activeStations b
    let ups := paths c sts true maxHops
    let downs := paths c sts false (min maxHops 8)
    let all := sts.map fun st =>
      let r := newRoute c sts ups downs st
      match m.routes.find? fun (x : StRoute) => x.station == st with
      | some old => if old.sameSet r && m.hopsUsed == maxHops then (({ r with ver := old.ver } : StRoute), false) else ({ r with ver := old.ver + 1 }, true)
      | none => ({ r with ver := 1 }, true)
    let routes := all.map fun x => x.1
    let s1 := s.modMesh b fun y => { y with changed := false, routes := routes, hopsUsed := maxHops }
    let sends := sortBy (fun (x y : StRoute) => decide (x.rank < y.rank)) ((all.filter fun x => x.2).map fun x => x.1)
    let s2 := s1.forAll sends fun a r =>
      match a.ctxs.find? fun c => c.berth == b && c.station == r.station && c.ctxSel == 0 with
      | some k => a.queueMsg b k.id (routeSetPlain r maxHops)
      | none => a
    let s3 := s2.forAll routes fun a r => a.routeFollows b r
    let top : Nat := (routes.map fun (r : StRoute) => if r.rank = 0xFFFF then 0 else r.rank).foldl max 0
    (s3.bump .recomputes b).report .maxRank b 0 top

/-! ## Relays (R190, R191) -/

/-- Cost of a chain of stations, none when a link of it is not usable. -/
def chainCost (c : Nat → Nat → Nat) : List Nat → Option Nat
  | x :: y :: r => if c x y < 65535 then (chainCost c (y :: r)).map fun n => c x y + n else none
  | _ => some 0

/-- A candidate path of a station: score and repeaters. -/
def relayScore (c : Nat → Nat → Nat) (st : Nat) (reps : List Nat) : Option Nat :=
  match chainCost c (st :: (reps ++ [0])), chainCost c (0 :: (reps.reverse ++ [st])) with
  | some u, some d => some (max u d)
  | _, _ => none

/-- The candidate paths of a station in the order of R190. -/
def relayPaths (c : Nat → Nat → Nat) (elig : List Nat) (st d : Nat) : List (Nat × List Nat) :=
  let one := (elig.filter fun r => r != st).map fun r => [r]
  let two := (elig.filter fun r => r != st).flatMap fun r => ((elig.filter fun q => q != st && q != r).map fun q => [r, q])
  sortBy (fun (x y : Nat × List Nat) => decide (x.1 < y.1) || (x.1 == y.1 && (decide (x.2.length < y.2.length) || (x.2.length == y.2.length && lexLt x.2 y.2))))
    ((one ++ two).filterMap fun p => match relayScore c st p with | some v => if v < d then some (v, p) else none | none => none)

/-- Stations take their best path whose repeaters are not full, in descending order of D. -/
def assignRelays (fanout : Nat) (cands : List (Nat × List (Nat × List Nat))) : List (Nat × Nat × Nat) :=
  (cands.foldl (fun (a : List (Nat × Nat × Nat)) x =>
    let load := fun r => a.countP fun e => e.2.1 == r || e.2.2 == r
    match x.2.find? fun p => p.2.all fun r => decide (load r < fanout) with
    | some p => a ++ [(x.1, p.2.headD 0, (p.2.drop 1).headD 0)]
    | none => a) [])

/-- Length in ns of a RELAY_MAP of n entries (R191). -/
def relayMapSyms (d n : Nat) : Nat := nSymbols (nCodewords false (23 + 5 * n)) (ldpcN false 0) (hardtackB 1 d)
def relayMapNs (gi d n : Nat) : Nat := frameNs gi (relayMapSyms d n)

/-- A map of n entries fits: at most 1,024 payload symbols, ended before the midpoint of the period (R191). -/
def relayMapFits (gi d nPeriod n : Nat) : Bool :=
  decide (relayMapSyms d n ≤ 1024 ∧ micros 1024 + relayMapNs gi d n ≤ nPeriod * 512000)

/-- Choose the relays of the period that begins (R190), and how many were left out (R191). -/
def State.chooseRelays (s : State) (b : Berth) : State :=
  if !s.fbool .relayEnable b then (s.modMesh b fun m => { m with relays := [] }).report .relayedStations b 0 0
  else
    let m := s.mesh[b]
    let bpc := s.line[b].bpc
    let pen := s.fnat .hopPenalty b
    let c := costIn m.links pen (s.fnat .linkAgeMax b) bpc
    -- links reported in the window, no report in it with ok64 of 0
    let cw := costIn (m.links.filter fun (r : LinkRep) => !(r.zeroAt.map fun z => decide ((bpc - z).toNat ≤ s.fnat .relayWindow b)).getD false) pen
      (s.fnat .relayWindow b) bpc
    let sts := s.activeStations b
    let score := fun st => max (c st 0) (c 0 st)
    let elig := sts.filter fun st => match m.heardAt.find? fun x => x.1 == st with | some x => decide ((bpc - x.2).toNat ≤ 1) | none => false
    let need := sortBy (fun x y => decide (score y < score x) || (score x == score y && decide (x < y))) (sts.filter fun st => decide (s.fnat .relayDirectMax b < score st))
    let listed := assignRelays (s.fnat .relayFanout b) (need.map fun st => (st, relayPaths cw elig st (score st)))
    let d := s.dCount b
    let fit := ((List.range 1501).reverse.find? fun n => relayMapFits (s.fnat .giDefault b) d (s.fnat .nPeriod b) n).getD 0
    let kept := listed.take fit
    ((s.modMesh b fun y => { y with relays := sortBy (fun (x z : Nat × Nat × Nat) => decide (x.1 < z.1)) kept }).bump .relayOverflow b 0
      (listed.length - kept.length)).report .relayedStations b 0 kept.length

/-- The plaintext of a RELAY_MAP (R191). -/
def relayMapPlain (bpc : BitVec 32) (l : List (Nat × Nat × Nat)) : Bytes :=
  List.flatten [[0x0C], leBytes 4 bpc.toNat, leBytes 2 l.length, l.flatMap fun e => leBytes 5 (e.1 + e.2.1 * 2 ^ 12 + e.2.2 * 2 ^ 24)]

/-- The coordinator sends the RELAY_MAP (R191). -/
def State.sendRelayMap (s : State) (b : Berth) : State :=
  let l := s.line[b]
  match l.kDom with
  | none => s
  | some k =>
    let n := s.mesh[b].hopSeq
    let plain := relayMapPlain l.bpc s.mesh[b].relays
    let fc : FrameCtl := { nonceFc 3 0 0 l.keyGen l.bpc.toNat n.toNat (s.fnat .domainTag b) with
      bcast := true, gi := s.fnat .giDefault b, mode := 1, len := plain.length + 16 }
    let s1 := s.modMesh b fun m => { m with hopSeq := n + 1 }
    if s.mayDrive b then s1.sendFrame b fc (relayMapSyms (s.dCount b) s.mesh[b].relays.length) (Config.gcmSeal k (gcmNonce fc) (fcAad fc) plain) none
    else s

/-! ## Rows -/

/-- A link report replaces the one held; a change of its figures is noted (R183, R185). -/
def putLink (l : List LinkRep) (r : LinkRep) : List LinkRep × Bool :=
  let same := l.any fun (x : LinkRep) => x.from_ == r.from_ && x.to_ == r.to_ && x.bps == r.bps && x.rate == r.rate && x.gi == r.gi && x.ok64 == r.ok64
  let zero := if r.ok64 = 0 then some r.bpc else (l.find? fun (x : LinkRep) => x.from_ == r.from_ && x.to_ == r.to_).bind fun (x : LinkRep) => x.zeroAt
  ({ r with zeroAt := zero } :: l.filter fun (x : LinkRep) => !(x.from_ == r.from_ && x.to_ == r.to_), !same)

def State.noteLink (s : State) (b : Berth) (r : LinkRep) : State :=
  s.modMesh b fun m => let x := putLink m.links r; { m with links := x.1, changed := m.changed || x.2 }

/-- The entries of a LINK_REPORT (R183): none when the plaintext breaks the layout. -/
def parseLinkReport (p : Bytes) (to_ : Nat) (bpc : BitVec 32) (known : Nat → Bool) : Option (List LinkRep) :=
  let n := (p.getD 1 0).toNat
  if p.headD 0 ≠ 0x0B ∨ 64 < n ∨ p.length ≠ 5 + 6 * n ∨ bitsAt p 18 6 ≠ 0 then none
  else
    let es := (List.range n).map fun i => (p.drop (5 + 6 * i)).take 6
    if es.all fun e => bitsAt e 12 4 == 0 && bitsAt e 36 4 == 0 && decide (bitsAt e 40 8 ≤ 64) && known (bitsAt e 0 12) then
      some (es.map fun e => ⟨bitsAt e 0 12, to_, bitsAt e 16 16, bitsAt e 32 2, bitsAt e 34 2, bitsAt e 40 8, bpc, none⟩)
    else none

/-- LINK_REPORT (R183): the figures of the links into the reporter; a report that breaks its layout counts in mesh_invalid. -/
def execLinkReport (t : Nat) (b : Berth) (ctx : Nat) (bytes : Bytes) (s0 : State) : Host.Outcome State Fault Refusal :=
  let s := s0.at t
  match s.ctx? ctx with
  | none => .next s
  | some c =>
    match parseLinkReport bytes c.station s.line[b].bpc fun n => n == 0 || !(s.ctxsOf b n).isEmpty with
    | some l => .next (s.forAll l fun a r => a.noteLink b r)
    | none => .next (s.bump .meshInvalid b)

/-- ROUTE_SET (R186): the station side takes one whose route_ver is newer than the one it holds. -/
def execRouteSet (t : Nat) (b : Berth) (bytes : Bytes) (s0 : State) : Host.Outcome State Fault Refusal :=
  let s := s0.at t
  if bytes.length ≠ 14 ∨ bytes.headD 0 ≠ 0x0D then .next (s.bump .meshInvalid b)
  else
    let f := fun i => bitsAt bytes (8 + 16 * i) 16
    let r : StRoute := { station := s.line[b].st.number, ver := BitVec.ofNat 16 (f 0), parent := f 1, parentRank := f 2, rank := f 3, alt := f 4,
                         altRank := f 5, down := [], hops := 0 }
    if (s.mesh[b].own.map fun (o : StRoute × Nat) => newer 16 r.ver.toNat o.1.ver.toNat).getD true then .next (s.modMesh b fun m => { m with own := some (r, bitsAt bytes 104 8), parentFails := 0 })
    else .next (s.bump .routeStale b)

/-- The entries of a RELAY_MAP (R191). -/
def parseRelayMap (p : Bytes) : Option (BitVec 32 × List (Nat × Nat × Nat)) :=
  let n := bitsAt p 40 16
  if p.headD 0 ≠ 0x0C ∨ 1500 < n ∨ p.length ≠ 7 + 5 * n then none
  else some (BitVec.ofNat 32 (bitsAt p 8 32), (List.range n).map fun i =>
    (bitsAt p (56 + 40 * i) 12, bitsAt p (68 + 40 * i) 12, bitsAt p (80 + 40 * i) 12))

/-- RELAY_MAP (R192): the station side holds the map of the current period. -/
def execRelayMap (t : Nat) (b : Berth) (bytes : Bytes) (s0 : State) : Host.Outcome State Fault Refusal :=
  let s := s0.at t
  match parseRelayMap bytes with
  | none => .next (s.bump .meshInvalid b)
  | some x =>
    if s.line[b].st.lastBpc = some x.1 then .next (s.modMesh b fun m => { m with map := some x, relayFails := 0, direct := false })
    else .next (s.bump .routeStale b)

/-- Next hop of a relayed frame under a map (R192): towards the coordinator, or towards the listed station; direct without an entry. -/
def relayNext (l : List (Nat × Nat × Nat)) (me : Nat) (h : MeshHdr) : Nat :=
  let st := if h.down then h.final else h.orig
  match relayOf l st with
  | some (r1, r2) =>
    if h.down then (if r2 = me ∧ r2 ≠ 0 then r1 else h.final)
    else if r1 = me then r2 else 0
  | none => if h.down then h.final else 0

/-- Data that reached the station side: for the host of this package, steered as from its berth (R248). -/
def State.stDeliver (s : State) (b : Berth) (tclass : Nat) (data : Bytes) : State := (s.toHost 0 b.val tclass noCtx data).1

/-- The end-to-end payload at its final receiver on the station side (R181). -/
def State.stFinal (s : State) (b : Berth) (h : MeshHdr) (ct : Bytes) : State :=
  let l := s.line[b]
  match (l.st.frameKey h.gen h.ctxSel (s.fnat .ferryTag b)).bind fun k => meshOpen k h (s.fnat .ferryTag b) ct with
  | none => s.bump .rxAuthFail b
  | some data =>
    match replayIn l.st.wins h.ctxSel (BitVec.ofNat 16 h.seq) l.st.bpcNow with
    | (.fresh _ _, w) => (s.modLine b fun y => { y with st := { y.st with wins := w } }).stDeliver b (if h.relayed then 1 else 0) data
    | (.dup, _) => s.bump .rxDup b
    | (.stale, _) => s.bump .rxReplay b

/-- A frame held for forwarding (R182). -/
def State.forward (s : State) (b : Berth) (h : MeshHdr) (next : Nat) (ct : Bytes) : State :=
  let f : FwdFrame := { relayed := h.relayed, next := next, bpc := s.line[b].st.bpcNow,
                        data := List.flatten [[if h.relayed then 2 else 1], meshHdrBytes h, ct] }
  (s.modMesh b fun m => { m with fwd := m.fwd ++ [f] }).bump .meshFwd b

/-- A repeater acts on a hop frame in the order of R182. -/
def State.hopStep (s : State) (b : Berth) (h : MeshHdr) (ct : Bytes) : State :=
  let m := s.mesh[b]
  let me := s.line[b].st.number
  let g : MeshHdr := { h with ttl := h.ttl - 1 }
  if h.down ∧ h.final = me then s.stFinal b h ct
  else if g.ttl = 0 then s.bump .meshTtlDrop b
  else if h.relayed then
    let l := match m.map with | some (p, l) => if some p = s.line[b].st.lastBpc then l else [] | none => []
    s.forward b g (relayNext l me h) ct
  else if h.down then
    if h.srNext = h.srLen then s.forward b g h.final ct
    else s.forward b { g with srNext := h.srNext + 1 } (h.sr.getD h.srNext 0) ct
  else
    match m.own with
    | some (r, _) =>
      if r.rank < h.rank then s.forward b { g with rank := r.rank } (if r.parent = 0xFFFF then 0 else r.parent) ct
      else (s.modMesh b fun y => { y with rankDrop := true, reportDue := true }).bump .meshRankDrop b
    | none => (s.modMesh b fun y => { y with rankDrop := true, reportDue := true }).bump .meshRankDrop b

/-- MESH_HOP_RX (R182, R179): a hop frame that the station side has accepted, its plaintext given. -/
def execMeshHopRx (t : Nat) (b : Berth) (fc : Bytes) (frame : Bytes) (s0 : State) : Host.Outcome State Fault Refusal :=
  let s := s0.at t
  let tag := (frame.headD 0).toNat
  let hdr := (frame.drop 1).take 28
  if (parseFc fc).ftype ≠ 0 ∨ !(tag == 1 || tag == 2) ∨ frame.length < 45 ∨ !meshHdrOk (tag == 2) hdr then .next (s.bump .meshInvalid b)
  else .next (s.hopStep b (parseMeshHdr hdr) (frame.drop 29))

/-- PARENT_LINK_FAIL (R188): the station side turns to its alternate parent with alt_rank + c(S→alt) as its rank, or sends direct. The cost of the
link to the alternate comes with the command. -/
def execParentLinkFail (t : Nat) (b : Berth) (cost : Nat) (s0 : State) : Host.Outcome State Fault Refusal :=
  let s := s0.at t
  .next (s.modMesh b fun m =>
    match m.own with
    | some (r, h) =>
      let r' : StRoute := if r.alt = 0xFFFF then { r with parent := 0xFFFF }
        else { r with parent := r.alt, parentRank := r.altRank, rank := min 65535 (r.altRank + cost), alt := 0xFFFF, altRank := 0xFFFF }
      let up := if r'.parent = 0xFFFF then 0 else r'.parent
      { m with own := some (r', h), parentLost := true, reportDue := true, parentFails := 0,
               fwd := m.fwd.map fun (f : FwdFrame) =>
                 if !f.relayed && f.next == r.parent then ({ f with next := up, line := none, sent := false } : FwdFrame) else f }
    | none => m)

/-- RELAY_LATE_DROP (R193): a relayed frame not sent by the end of the period after its acceptance. -/
def execRelayLateDrop (t : Nat) (b : Berth) (s0 : State) : Host.Outcome State Fault Refusal :=
  let s := s0.at t
  let late := fun (f : FwdFrame) => f.relayed && !f.sent && decide (2 ≤ (s.line[b].st.bpcNow - f.bpc).toNat)
  let n := s.mesh[b].fwd.countP late
  .next ((s.modMesh b fun m => { m with fwd := m.fwd.filter fun f => !late f }).bump .relayLate b 0 n)

end Sys2Proof.Machine
end

