-- ==== Sys2Proof/Machine/Timing.lean ====
section
/-! DEFINITION. Slack, the AVS loop and the die-to-die links: the commands of chapters 02 and 03 that no berth work needs. -/

namespace Sys2Proof.Machine
open Sys2Proof

/-! ## AVS requests (R51 to R53) -/

/-- The loop acts: avs_enable is 1, PD_MGMT is ON and HR_MGMT is not drained (R53). -/
def State.avsRuns (s : State) : Bool := s.fbool .avsEnable 44 && s.domOn pdMgmt && !s.drained .mgmt

/-- Request a voltage, limited to v_min to v_max; none when it equals the present value (R51). -/
def State.avsRequest (s : State) (mv : Int) : State :=
  let v := (max (s.fval .vMin 44) (min mv (s.fval .vMax 44))).toNat
  if v = s.avs.present then s
  else { s with avs := { s.avs with request := some (v, false) } }.emit (.avsWrite v)

/-- A cluster misses a deadline (R48, R49, R52): margin 0, drop_count, drop_hist; for an input berth cluster the emergency request, once in a
window. -/
def State.missDeadline (s : State) (k : DomId) : State :=
  let s1 := ((s.setDomRec k { s.dom[k] with windowMin := some 0 }).bump .dropCount k).stick .dropHist k
  if k.val < 32 ∧ s.domOn k ∧ s.avsRuns ∧ !s.avs.emergency then
    let s2 := s1.avsRequest (s.avs.present + s.fval .emergencyStep 44)
    { s2 with avs := { s2.avs with emergency := true, lower := 0 } }
  else s1

/-- The inputs of the loop for the window just closed (R51): slack of PD_SWITCH and of the berth domains ON throughout that reported one. -/
def State.avsInputs (s : State) : List Nat :=
  (allDoms.filter fun k => (decide (k.val < 32) || k == pdSwitch) && s.dom[k].onWhole && s.dom[k].slackPct != 255).map fun k => s.dom[k].slackPct

/-- The loop's action at the end of a window (R51, R53). -/
def State.avsAct (s : State) : State :=
  if !s.avsRuns then { s with avs := { s.avs with lower := 0, emergency := false } }
  else
    let ins := s.avsInputs
    let raise := s.fnat .slackRaise 44
    let low := s.fnat .slackLower 44
    let s0 := { s with avs := { s.avs with emergency := false } }
    if ins.any fun x => x < raise then
      let least := ins.foldl min 255
      let s1 := ({ s0 with avs := { s0.avs with lower := 0 } }).avsRequest (s.avs.present + s.fval .stepMv 44)
      if s.avs.present = s.fnat .vMax 44 then s1.raiseEvery .avsLimit (seconds 1) 44 least else s1
    else if ins.isEmpty then s0
    else if ins.all fun x => low ≤ x then
      if s.fnat .lowerWindows 44 ≤ s.avs.lower + 1 then
        ({ s0 with avs := { s0.avs with lower := 0 } }).avsRequest (s.avs.present - s.fval .stepMv 44)
      else { s0 with avs := { s0.avs with lower := s.avs.lower + 1 } }
    else { s0 with avs := { s0.avs with lower := 0 } }

/-- One cluster latches its slack at the end of a window (R48, R49). -/
def State.latchSlack (s : State) (k : DomId) : State :=
  let d := s.dom[k]
  let pct := d.windowMin.getD 255
  let s2 := (s.setDomRec k { d with slackPct := pct, windowMin := none }).slackJudge k
  if pct = 255 then s2 else s2.statSet .slackMin k 0 (min (s2.stat .slackMin k) pct)

/-- A slack window begins: every ON domain may be ON throughout it (R51). -/
def State.openWindow (s : State) (k : DomId) : State := s.setDomRec k { s.dom[k] with onWhole := s.dom[k].st == .on }

/-- dev_heartbeat rises every 1.024 ms while the management firmware runs (R238). -/
def State.devBeat (s : State) : State :=
  if s.domOn pdMgmt && !s.drained .mgmt && (s.boot.stage == 4 || s.boot.stage == 5) then
    { s with mgmt := { s.mgmt with devHeartbeat := s.mgmt.devHeartbeat + 1 } }
  else s

/-- SLACK_WINDOW_END (R48, R51): every cluster latches its slack, the loop acts, the next window opens. -/
def execSlackWindowEnd (t : Nat) (s : State) : Host.Outcome State Fault Refusal :=
  .next ((((s.at t).forAll allDoms State.latchSlack).avsAct).forAll allDoms State.openWindow).devBeat

/-- AVS_READBACK (R53): within ±10 mV the request is the present value; else one retry; on the second failure avs_errors, avs_fault_hist and
EV_AVS_FAULT. `mv` none is a readback that timed out. -/
def execAvsReadback (t : Nat) (mv : Option Nat) (s0 : State) : Host.Outcome State Fault Refusal :=
  let s := s0.at t
  match s.avs.request with
  | none => .next s
  | some (v, retried) =>
    let good := match mv with | some m => decide (m ≤ v + 10 ∧ v ≤ m + 10) | none => false
    if good then .next { s with avs := { s.avs with present := v, request := none } }
    else if !retried then .next ({ s with avs := { s.avs with request := some (v, true) } }.emit (.avsWrite v))
    else .next (((({ s with avs := { s.avs with request := none } }).bump .avsErrors 44).stick .avsFaultHist 44).raise .avsFault 44 v)

/-- D2D_FLIT_ERROR (R37): the flit is sent again up to four times; after the fourth failure the link retrains. -/
def execD2dFlitError (t : Nat) (l : D2dId) (s0 : State) : Host.Outcome State Fault Refusal :=
  let s := s0.at t
  let x := s.die[l]
  if x.lost || x.retraining then .next (s.setD2d l { x with cleanSince := none })
  else if x.replays < 4 then .next ((s.setD2d l { x with replays := x.replays + 1 }).emit (.flitResend l))
  else .next ((s.setD2d l { x with retraining := true }).emit (.dieRetrain l))

/-- D2D_RETRAIN_DONE (R37): the link resumes, or retrains once more, or is declared lost after two failures in a row. -/
def execD2dRetrainDone (t : Nat) (l : D2dId) (ok : Bool) (s0 : State) : Host.Outcome State Fault Refusal :=
  let s := s0.at t
  let x := s.die[l]
  if !x.retraining then .next s
  else if ok then .next (s.setD2d l { x with retraining := false, replays := 0, fails := 0 })
  else if x.fails = 0 then .next ((s.setD2d l { x with fails := 1 }).emit (.dieRetrain l))
  else .next ((s.setD2d l { x with fails := 2 }).loseLink l)

/-- DIE_RETRAIN_RETRY (R422): every 10 s the device tries the lost link; once it trains, its second of clean traffic starts. -/
def execDieRetrainRetry (t : Nat) (l : D2dId) (ok : Bool) (s0 : State) : Host.Outcome State Fault Refusal :=
  let s := s0.at t
  let x := s.die[l]
  if x.lost then .next ((s.setD2d l { x with cleanSince := if ok then some (x.cleanSince.getD s.now) else none }).emit (.dieRetrain l))
  else .next s

/-- A domain held in FAULT for a lost die returns with it (R422, R423). -/
def State.domReturns (s : State) (k : DomId) : State :=
  if s.dom[k].byDie && s.domSt k == .fault && !s.domDieLost k then
    ((s.setDomRec k { s.dom[k] with byDie := false }).setDom k .off).ownBringUp k
  else s

/-- DIE_RETURN (R422): after 1 s of clean traffic the die returns and its domains held in FAULT ramp up. -/
def execDieReturn (t : Nat) (l : D2dId) (s0 : State) : Host.Outcome State Fault Refusal :=
  let s := s0.at t
  let x := s.die[l]
  match x.lost, x.cleanSince with
  | true, some c =>
    if c + seconds 1 ≤ s.now then
      let s1 := s.setD2d l { x with lost := false, fails := 0, replays := 0, cleanSince := none }
      let s2 := s1.forAll (dieBerths (linkDie l)) fun a b => a.domReturns (berthDom b)
      .next (if linkDie l = 3 then s2.domReturns pdSense else s2)
    else .next s
  | _, _ => .next s

end Sys2Proof.Machine
end

