-- ==== Sys2Proof/Machine/Receive.lean ====
section
/-! DEFINITION. Reception on a berth: preambles, frame control, payload symbols, the decoder, soft values, acceptance and delivery (chapters 03, 05,
09), and the erasures of R46 and R54. -/

namespace Sys2Proof.Machine
open Sys2Proof

/-! ## Transmit ends (R54, R55, R110) -/

/-- The frame in the air ends early: it stays queued and is sent again in a later allocation (R55). -/
def State.backToQueue (s : State) (b : Berth) : State :=
  let s1 := s.modBerth b fun x => { x with tx := none }
  match (s.berth[b].tx.bind fun (f : TxFrame) => f.ref).bind s.frame? with
  | some f => s1.setFrame { f with sent := false }
  | none => s1

/-- A late transmit symbol: the abort symbol in its place, or nothing when P1 itself is late; then silence until the allocation ends (R54, R110). -/
def State.abortTx (s : State) (b : Berth) : State :=
  match s.berth[b].tx with
  | none => s
  | some f =>
    let s1 := (s.backToQueue b).modBerth b fun x => { x with silentAlloc := true }
    if f.sym = 0 then s1 else s1.emit (.lineAbort b)

/-! ## Soft values (R111, R217 to R221) -/

/-- A descriptor matches a frame's codeword (R111). -/
def SoftDesc.is (d : SoftDesc) (f : FrameCtl) (cw : Nat) : Bool :=
  d.keyGen == f.keyGen && d.bpcFirst.toNat == f.bpcFirst && d.seq == f.seq && d.short == f.short && d.rate == f.rate && d.len == f.len && d.cw == cw

/-- Store the combined input LLRs of a failed codeword (R221): over its own slot, in the free descriptor of lowest index, or in place of the
oldest. A slot in a channel out of service is never written. -/
def State.storeSoft (s : State) (b : Berth) (ctx : Option Nat) (f : FrameCtl) (cw : Nat) (llrs : List Int) : State :=
  match ctx.bind s.ctx? with
  | none => s
  | some c =>
    let bpc := s.line[b].bpc
    if 2 ^ 19 ≤ (bpc - BitVec.ofNat 32 f.bpcFirst).toNat then s
    else
      let own := (c.soft.find? fun d => d.is f cw).map fun (d : SoftDesc) => d.slot
      let free := (List.range s.softSlots).find? fun i => !c.soft.any fun (d : SoftDesc) => d.slot == i
      let oldest := c.soft.foldl (fun (a : Option SoftDesc) d => match a with
        | none => some d
        | some e => if (bpc - e.written).toNat < (bpc - d.written).toNat then some d else a) none
      let pick : Nat × Bool := match own, free with
        | some i, _ => (i, false)
        | none, some i => (i, false)
        | none, none => ((oldest.map fun (d : SoftDesc) => d.slot).getD 0, true)
      let m := s.softChan c.id pick.1
      let st := s.hold.chan[m].st
      if st = .fenced ∨ st = .retired ∨ st = .untrained then s.bump .softNoSlot
      else
        let d : SoftDesc := { slot := pick.1, valid := true, keyGen := f.keyGen, bpcFirst := BitVec.ofNat 32 f.bpcFirst, seq := f.seq, short := f.short,
                              rate := f.rate, len := f.len, cw := cw, written := bpc }
        let img := packLlrs (llrs.map clipLlr)
        let s1 := if pick.2 then s.bump .softEvict else s
        let s2 := { s1 with hold := { s1.hold with mem := s1.hold.mem.puts (s.softAddr c.id pick.1) img } }
        ((s2.modCtx c.id fun (y : Ctx) => ({ y with soft := d :: y.soft.filter fun (z : SoftDesc) => z.slot != pick.1 } : Ctx)).bump .softStored).addPend m 0
          (bursts img.length)

/-- Fetch the slots that match a frame before its decode, and discard the stored values of its sequence that do not match (R111, R221). -/
def State.fetchSoft (s : State) (b : Berth) (ctx : Nat) (f : FrameCtl) : State :=
  match s.ctx? ctx with
  | none => s
  | some c =>
    if 2 ^ 19 ≤ (s.line[b].bpc - BitVec.ofNat 32 f.bpcFirst).toNat then s
    else
      let mine := c.soft.filter fun (d : SoftDesc) => d.seq == f.seq
      let good := mine.filter fun (d : SoftDesc) => d.is f d.cw
      let bad := mine.filter fun (d : SoftDesc) => !d.is f d.cw
      let s1 := s.forAll good fun a (d : SoftDesc) => a.addPend (a.softChan ctx d.slot) 0 (bursts (ldpcN d.short d.rate / 2))
      (s1.clearSoft ctx fun d => bad.contains d).bump .combineMismatch b 0 bad.length

/-! ## The frame being received -/

/-- The identity of a frame across its attempts (R111). -/
def FrameCtl.same (f g : FrameCtl) : Bool :=
  f.ftype == g.ftype && f.src == g.src && f.ctxSel == g.ctxSel && f.keyGen == g.keyGen && f.bpcFirst == g.bpcFirst && f.seq == g.seq && f.short == g.short &&
    f.rate == g.rate && f.len == g.len

/-- Every codeword of the frame has left the decoder. -/
def RxFrame.over (r : RxFrame) : Bool := (List.range r.nCw).all fun i => r.failed.contains i || r.good.any fun x => x.1 == i

/-- Bit i: codeword i converged in this or an earlier attempt (R154). -/
def RxFrame.cwOk (r : RxFrame) : Nat := (List.range (min r.nCw 8)).foldl (fun n i => if r.good.any fun x => x.1 == i then n + 2 ^ i else n) 0

/-- The payload of a frame whose codewords have all converged (R103). -/
def RxFrame.payload (r : RxFrame) (len : Nat) : Bytes :=
  (bytesOfBits (r.nCw * 960) ((List.range r.nCw).flatMap fun i => ((r.good.find? fun x => x.1 == i).map fun x => x.2).getD [])).take len

/-- Of the last 64 first-attempt frames of a link, newest first. -/
def push64 (l : List (Nat × List Bool)) (st : Nat) (ok : Bool) : List (Nat × List Bool) :=
  (st, (ok :: (l.lookup st).getD []).take 64) :: l.filter fun x => x.1 != st

def ok64 (l : List (Nat × List Bool)) (st : Nat) : Nat := ((l.lookup st).getD []).countP fun x => x

/-- The receiver measures the link a frame came by (R183). -/
def State.measureLink (s : State) (b : Berth) (side : Bool) (f : FrameCtl) (bits : Nat) (ok : Bool) : State :=
  if side then
    s.modMesh b fun m =>
      let h := if f.attempt = 0 then push64 m.stFirst64 f.src ok else m.stFirst64
      { m with stFirst64 := h, stLinks := (putLink m.stLinks ⟨f.src, s.line[b].st.number, bits, f.rate, f.gi, ok64 h f.src, s.line[b].st.bpcNow, none⟩).1 }
  else if f.src = 0 then s
  else
    let h := if f.attempt = 0 then push64 s.mesh[b].first64 f.src ok else s.mesh[b].first64
    (s.modMesh b fun m => { m with first64 := h }).noteLink b ⟨f.src, 0, bits, f.rate, f.gi, ok64 h f.src, s.line[b].bpc, none⟩

/-- An acknowledgement entry is owed to the sender (R154). -/
def State.oweAck (s : State) (b : Berth) (side : Bool) (f : FrameCtl) (delivered : Bool) (cwOk : Nat) : State :=
  if !f.ackReq then s
  else
    let e : AckEntry := ⟨f.seq, f.ctxSel, delivered, cwOk⟩
    s.modLine b fun l => if side then { l with st := { l.st with acks := l.st.acks ++ [(f.src, e)] } } else { l with acks := l.acks ++ [(f.src, e)] }

/-- A frame has been accepted from a station (R166, R173, R190). -/
def State.heardFrom (s : State) (b : Berth) (station : Nat) : State :=
  let bpc := s.line[b].bpc
  let s1 := s.modMesh b fun m => { m with heardAt := (station, bpc) :: m.heardAt.filter fun x => x.1 != station }
  let woke := (s1.ctxsOf b station).filter fun c => c.st == .dormant
  let s2 := s1.forAll woke fun a c => a.ctxTo c.id .active
  { s2 with ctxs := s2.ctxs.map fun c => if c.berth = b ∧ c.station = station then { c with lastRx := bpc } else c }

/-- The end-to-end payload of an uplink mesh frame at the coordinator (R181). -/
def State.coFinal (s : State) (b : Berth) (h : MeshHdr) (ct : Bytes) : State :=
  match s.ctxs.find? fun c => c.berth == b && c.station == h.orig && c.ctxSel == h.ctxSel && c.st.transmits with
  | none => s.bump .meshInvalid b
  | some c =>
    match c.frameKey h.gen with
    | none => s.bump .keyGenUnknown b
    | some k =>
      match meshOpen k h (s.fnat .domainTag b) ct with
      | none => (s.bump .rxAuthFail b).modCtx c.id fun (y : Ctx) => ({ y with rxAuthFail := satTo 32 (y.rxAuthFail + 1) } : Ctx)
      | some data =>
        match replayTest c.rxSeqHi c.replay (BitVec.ofNat 16 h.seq) with
        | .fresh hi win =>
          (((s.modCtx c.id fun (y : Ctx) => ({ y with rxSeqHi := hi, replay := win, rxFrames := satTo 32 (y.rxFrames + 1) } : Ctx)).heardFrom b h.orig).uplink b c
            (if h.relayed then 1 else 0) data).1
        | .dup => s.bump .rxDup b
        | .stale => (s.bump .rxReplay b).modCtx c.id fun (y : Ctx) => ({ y with rxReplay := satTo 32 (y.rxReplay + 1) } : Ctx)

/-- The plaintext of a data frame at the coordinator (R179). -/
def State.coData (s : State) (b : Berth) (c : Ctx) (plain : Bytes) : State :=
  let tag := (plain.headD 255).toNat
  if tag = 0 ∧ plain ≠ [] then (s.uplink b c 2 (plain.drop 1)).1
  else if tag = 1 ∨ tag = 2 then
    let hdr := (plain.drop 1).take 28
    let h := parseMeshHdr hdr
    if plain.length < 45 ∨ !meshHdrOk (tag == 2) hdr ∨ h.down = true ∨ h.final ≠ 0 then s.bump .meshInvalid b
    else s.coFinal b h (plain.drop 29)
  else s.bump .meshInvalid b

/-- Key of a replay window of the coordinator for a frame of a context: 16 for hop frames, else the frame type (R166, R180). -/
def coWindow (f : FrameCtl) (plain : Bytes) : Option Nat :=
  if f.ftype = 0 then (if plain.headD 0 = 1 ∨ plain.headD 0 = 2 then some 16 else none) else some f.ftype

/-- cw_ok of a frame whose codewords have all converged (R154). -/
def allCw (f : FrameCtl) : Nat := 2 ^ min 8 (nCodewords f.short f.len) - 1

/-- A whole frame at the coordinator (R164, R166): its key, its tag, its window; then delivery. Clear join messages, and the messages of types 1
to 4, have rows of their own. -/
def State.coFrame (s : State) (b : Berth) (f : FrameCtl) (payload : Bytes) : State :=
  let sel := if f.ftype = 0 then f.ctxSel else 0
  match s.ctxs.find? fun c => c.berth == b && c.station == f.src && c.ctxSel == sel && c.st.transmits with
  | none => s
  | some c =>
    match c.frameKey f.keyGen with
    | none => s.bump .keyGenUnknown b
    | some k =>
      match Config.gcmOpen k (gcmNonce f) (fcAad f) payload with
      | none =>
        ((s.bump .rxAuthFail b).modCtx c.id fun (y : Ctx) => ({ y with rxAuthFail := satTo 32 (y.rxAuthFail + 1) } : Ctx)).clearSoft c.id
          fun d => d.is f d.cw
      | some plain =>
        let bpc := s.line[b].bpc
        let r : Replay × (Ctx → Ctx) := match coWindow f plain with
          | none => match replayTest c.rxSeqHi c.replay (BitVec.ofNat 16 f.seq) with
            | .fresh hi win => (.fresh hi win, fun (y : Ctx) => ({ y with rxSeqHi := hi, replay := win } : Ctx))
            | x => (x, fun y => y)
          | some key => let w := replayIn c.wins key (BitVec.ofNat 16 f.seq) bpc; (w.1, fun (y : Ctx) => ({ y with wins := w.2 } : Ctx))
        match r.1 with
        | .fresh _ _ =>
          let s1 := ((s.modCtx c.id fun y => { r.2 y with rxFrames := satTo 32 (y.rxFrames + 1) }).heardFrom b f.src).oweAck b false f true (allCw f)
          if f.ftype = 0 then s1.coData b c plain else s1
        | .dup => (s.bump .rxDup b).oweAck b false f true (allCw f)
        | .stale => (s.bump .rxReplay b).modCtx c.id fun (y : Ctx) => ({ y with rxReplay := satTo 32 (y.rxReplay + 1) } : Ctx)

/-- A whole frame on the station side (R164, R166, R180). -/
def State.stFrame (s : State) (b : Berth) (f : FrameCtl) (payload : Bytes) : State :=
  let x := s.line[b].st
  if !x.joined && x.challenge.isNone then s
  else
    let key := if !x.joined then (if f.bcast || f.src != 0 then none else some (frameKeyOf x.kSess f.keyGen 0 (s.fnat .ferryTag b)))
      else if f.bcast || f.src != 0 then x.domKey f.keyGen else x.frameKey f.keyGen (if f.ftype = 0 then f.ctxSel else 0) (s.fnat .ferryTag b)
    match key with
    | none => s.bump .keyGenUnknown b
    | some k =>
      match Config.gcmOpen k (gcmNonce f) (fcAad f) payload with
      | none => s.bump .rxAuthFail b
      | some plain =>
        let tag := plain.headD 0
        let win := if f.bcast then 512 + f.ftype else if f.src ≠ 0 then 1024 + f.src else if f.ftype = 0 ∧ tag ≠ 0 then 1024 else 4 * f.ftype + f.ctxSel
        match replayIn x.wins win (BitVec.ofNat 16 f.seq) x.bpcNow with
        | (.fresh _ _, w) =>
          let s1 := (s.modLine b fun l => { l with st := { l.st with wins := w } }).oweAck b true f true (allCw f)
          if f.ftype = 0 ∧ tag = 0 ∧ plain ≠ [] then s1.stDeliver b 2 (plain.drop 1)
          else if f.ftype = 0 ∧ 2 < tag.toNat then s1.bump .meshInvalid b
          else s1
        | (.dup, _) => (s.bump .rxDup b).oweAck b true f true (allCw f)
        | (.stale, _) => s.bump .rxReplay b

/-- The CRC-32C of a clear join message (R160). -/
def clearCrcOk (m : Bytes) : Bool := m.drop (m.length - 4) == crc32cBytes (m.take (m.length - 4))

/-- A message sent in clear (R160): from station 0, or from a number whose contexts are JOINING; a broadcast JOIN_CHAL or JOIN_REJECT. -/
def State.isClear (s : State) (b : Berth) (side : Bool) (f : FrameCtl) (m : Bytes) : Bool :=
  f.ftype == 3 && if side then f.bcast && (m.headD 0 == 2 || m.headD 0 == 5) && clearCrcOk m
    else (f.src == 0 || (s.ctxsOf b f.src).all fun c => c.st == .joining)

/-- The frame in reception is over (R154, R111): its parts are kept for a later attempt, or it is accepted and delivered. -/
def State.frameOver (s : State) (b : Berth) (r : RxFrame) (f : FrameCtl) : State :=
  let side := r.stationSide
  let bits := if f.mode = 0 then
      ((s.berth[b].maps.find? fun m => m.station == mapKey side f.src).bind fun m => (m.issued.find? fun y => y.id == f.tmId).map fun y => mapBits (s.emission b) y).getD 0
    else hardtackB f.mode (s.dCount b)
  let s0 := s.modBerth b fun x => { x with rx := none, partials := x.partials.filter fun (p : PartFrame) => !(some p.ctx == r.ctx && p.fc.same f) }
  if r.failed.isEmpty then
    let s1 := s0.measureLink b side f bits true
    if f.ftype = 1 || s1.isClear b side f (r.payload f.len) then s1
    else
      let s2 := if side then s1.stFrame b f (r.payload f.len) else s1.coFrame b f (r.payload f.len)
      match s2.curAlloc b with
      | some (_, a, _) => if a.kind = 3 ∨ a.kind = 4 then s2.sendAck b side f.src f.gi else s2
      | none => s2
  else
    let s1 := (s0.measureLink b side f bits false).oweAck b side f false r.cwOk
    match r.ctx with
    | some c => s1.modBerth b fun x => { x with partials := ⟨c, f, r.good, s.line[b].bpc⟩ :: x.partials }
    | none => s1

/-- When every codeword has ended, the frame is over. -/
def State.checkOver (s : State) (b : Berth) : State :=
  match s.berth[b].rx with
  | some r =>
    match r.fc with
    | some f => if r.nSym ≤ r.done && r.over then s.frameOver b r f else s
    | none => s
  | none => s

/-- A codeword leaves the decoder; the next that waits enters it (R59). -/
def decLeave (cw : Nat) (x : BerthSt) : BerthSt :=
  let rest := x.dec.filter fun (d : DecCw) => d.idx != cw
  let wait := x.decWait.filter fun (d : DecCw) => d.idx != cw
  let room := 16 - rest.length
  { x with dec := rest ++ wait.take room, decWait := wait.drop room }

/-- A codeword fails (R59, R54): its combined input LLRs go to the soft buffer. -/
def State.failCw (s : State) (b : Berth) (cw : Nat) (llrs : List Int) : State :=
  match s.berth[b].rx with
  | some r =>
    match r.fc with
    | some f =>
      let s1 := s.storeSoft b r.ctx f cw llrs
      (s1.modBerth b fun x => { decLeave cw x with rx := some { r with failed := if r.failed.contains cw then r.failed else cw :: r.failed } }).checkOver b
    | none => s
  | none => s

/-- Codewords whose last bit has arrived after `n` symbols and not after `n − 1` (R106). -/
def arrived (r : RxFrame) (f : FrameCtl) (bits n : Nat) : List Nat :=
  let nb := ldpcN f.short f.rate
  (List.range r.nCw).filter fun i => decide ((i + 1) * nb ≤ n * bits) && !decide (1 ≤ n ∧ (i + 1) * nb ≤ (n - 1) * bits) && !r.good.any fun x => x.1 == i

/-- Codewords enter the decoder, at most sixteen in flight (R59). -/
def decEnter (l : List Nat) (x : BerthSt) : BerthSt :=
  let all := x.decWait ++ l.map fun i => ({ idx := i } : DecCw)
  let room := 16 - x.dec.length
  { x with dec := x.dec ++ all.take room, decWait := all.drop room }

/-- Coded bits per payload symbol of a frame received (R108). -/
def State.rxBits (s : State) (b : Berth) (side : Bool) (f : FrameCtl) : Nat :=
  if f.mode = 0 then
    ((s.berth[b].maps.find? fun m => m.station == mapKey side f.src).bind fun m => (m.issued.find? fun y => y.id == f.tmId).map fun y => mapBits (s.emission b) y).getD 0
  else hardtackB f.mode (s.dCount b)

/-- One payload symbol has been received or erased, at a weight in sixteenths. -/
def State.symbolIn (s : State) (b : Berth) (w : Nat) : State :=
  match s.berth[b].rx with
  | some r =>
    match r.fc with
    | some f =>
      if r.nSym ≤ r.done then s
      else
        let r1 : RxFrame := { r with done := r.done + 1, weights := w :: r.weights }
        (s.modBerth b fun x => decEnter (arrived r f (s.rxBits b r.stationSide f) (r.done + 1)) { x with rx := some r1 }).checkOver b
    | none => s
  | none => s

/-- A receive symbol is erased (R54, R56): the frame-control symbol takes its frame along, a payload symbol enters decoding with weight 0. -/
def State.eraseSymbol (s : State) (b : Berth) (sym : Nat) : State :=
  if sym = 0 then s.modBerth b fun x => { x with rx := none } else s.symbolIn b 0

/-! ## Rows -/

/-- BERTH_DEADLINE_MISS (R54, R48): the miss counts against the cluster, the work is erased whole. -/
def execBerthDeadlineMiss (t : Nat) (b : Berth) (work : LateWork) (s0 : State) : Host.Outcome State Fault Refusal :=
  let s := (s0.at t).missDeadline (berthDom b)
  match work with
  | .rxSymbol n => .next ((s.bump .rxSymLate b).eraseSymbol b n)
  | .codeword i llrs => .next ((s.bump .cwLate b).failCw b i llrs)
  | .txSymbol => .next ((s.bump .txSymLate b).abortTx b)
  | .allocation _ => .next (s.bump .allocUnused b)

/-- RX_FIFO_OVERFLOW (R46): every symbol that overlaps a lost sample is erased and counted. -/
def execRxFifoOverflow (t : Nat) (b : Berth) (syms : List Nat) (s0 : State) : Host.Outcome State Fault Refusal :=
  .next ((s0.at t).forAll syms fun a n => (a.bump .rxSymLate b).eraseSymbol b n)

/-- The gain that brings a measured rms (0.1 dBFS at the present gain) nearest to −15 dBFS (R93). -/
def gainFor (g level : Int) : Int := max (-12) (min 60 (g + (2 * (-150 - level) + 5) / 10))

/-- P1_DETECT (R92, R93): without P2 at its place the frame is abandoned; else the gain is set and the frame begins. -/
def execP1Detect (t : Nat) (b : Berth) (p2 : Bool) (level : Int) (s0 : State) : Host.Outcome State Fault Refusal :=
  let s := s0.at t
  if !s.domOn (berthDom b) then .next s
  else if p2 then .next (s.modBerth b fun x => { x with gain := gainFor x.gain level, gainDrop := false, rx := some {} })
  else .next ((s.modBerth b fun x => { x with rx := none }).bump .preFalse b)

/-- A frame-control block's codes and ranges (R95, R108). -/
def fcRange (f : FrameCtl) : Bool :=
  f.version == 1 && decide (f.ftype ≤ 4 ∧ f.mode ≤ 4 ∧ 1 ≤ f.len ∧ f.len ≤ (if f.short then 960 else 7680)) && ((f.mode == 0) == (f.tmId != 0))

/-- The side of a berth a frame is for: the coordinator's, the station's, or neither (R95, R142). -/
def State.fcSide (s : State) (b : Berth) (f : FrameCtl) : Option Bool :=
  let role := s.fnat .role b
  if (role = 0 ∨ role = 1) ∧ f.tag = s.fnat .domainTag b then (if f.dst = 0 ∧ !f.bcast then some false else none)
  else if (role = 1 ∨ role = 2) ∧ f.tag = s.fnat .ferryTag b then
    (if f.bcast || ((s.line[b].st.joined || s.line[b].st.challenge.isSome) && f.dst == s.line[b].st.number) then some true else none)
  else none

/-- The tag of one of the berth's domains. -/
def State.knownTag (s : State) (b : Berth) (f : FrameCtl) : Bool :=
  let role := s.fnat .role b
  (decide (role = 0 ∨ role = 1) && f.tag == s.fnat .domainTag b) || (decide (role = 1 ∨ role = 2) && f.tag == s.fnat .ferryTag b)

/-- FRAME_CONTROL_RX (R95, R96, R117, R221): the block is checked, the frame's soft values are fetched, or the frame is discarded. -/
def execFrameControlRx (t : Nat) (b : Berth) (fc : Bytes) (s0 : State) : Host.Outcome State Fault Refusal :=
  let s := s0.at t
  let f := parseFc fc
  let drop := fun (a : State) => a.modBerth b fun x => { x with rx := none }
  if s.berth[b].rx.isNone then .next s
  else if !fcCrcOk fc then .next ((drop s).bump .fcCrcErr b)
  else if !fcRange f then .next ((drop s).bump .fcInvalid b)
  else if !s.knownTag b f then .next (drop s)
  else match s.fcSide b f with
    | none => .next (drop s)
    | some side =>
      let held := (s.berth[b].maps.find? fun m => m.station == mapKey side f.src).any fun m => m.issued.any fun y => y.id == f.tmId
      let n := nCodewords f.short f.len
      let nSym := nSymbols n (ldpcN f.short f.rate) (s.rxBits b side f)
      if f.mode = 0 ∧ held = false then .next ((drop s).bump .tmUnknown b)
      else if 1024 < nSym ∨ nSym = 0 then .next ((drop s).bump .fcInvalid b)
      else
        let ctx := if side then none
          else (s.ctxs.find? fun c => c.berth == b && c.station == f.src && c.ctxSel == f.ctxSel).map fun (c : Ctx) => c.id
        let part := ((s.berth[b].partials.find? fun (p : PartFrame) => some p.ctx == ctx && p.fc.same f).map fun (p : PartFrame) => p.good).getD []
        let r : RxFrame := { fc := some f, nSym := nSym, nCw := n, good := part, ctx := ctx, stationSide := side }
        let s1 := (s.modBerth b fun x => { x with rx := some r }).modLine b fun l => { l with allocGi := some f.gi }
        match ctx with
        | some c => .next ((s1.cacheUse c).fetchSoft b c f)
        | none => .next s1

/-- PAYLOAD_SYMBOL_RX (R138, R74, R76): the symbol is weighted and passed to decoding; clipping lowers the gain, clipped codes raise cdac_fs. -/
def execPayloadSymbolRx (t : Nat) (b : Berth) (w : SymbolQuality) (s0 : State) : Host.Outcome State Fault Refusal :=
  let s := s0.at t
  let x := s.berth[b]
  let weight := symWeight w.blanked w.tx (x.cancel == .diverged) w.excess
  let s1 := (((s.bump .blankedSamples b 0 w.blankCount).bump .blankEvents b 0 w.spans).bump .adcClip b 0 w.clipped).bump .cdacClip b 0 w.codesClipped
  let s2 := if weight = 0 then s1.bump .symErased b else if weight < 16 then s1.bump .symDeweighted b else s1
  let clips := decide (w.codes < 100 * w.codesClipped)
  let s3 := s2.modBerth b fun y => { y with gainDrop := y.gainDrop || decide (16 < w.clipped), cdacUp := y.cdacUp || (clips && decide (y.cdac < 2)) }
  let s4 := if clips && decide (2 ≤ x.cdac) then s3.raise .cdacRange b 0 else s3
  .next (s4.symbolIn b weight)

/-- ABORT_SYMBOL_RX (R110): the codewords not completed fail with their LLRs (in codeword order), and no acknowledgement is sent. -/
def execAbortSymbolRx (t : Nat) (b : Berth) (llrs : List (List Int)) (s0 : State) : Host.Outcome State Fault Refusal :=
  let s := s0.at t
  match s.berth[b].rx with
  | none => .next s
  | some r =>
    let s1 := s.bump .rxAbort b
    match r.fc with
    | none => .next (s1.modBerth b fun x => { x with rx := none })
    | some f =>
      let nb := ldpcN f.short f.rate
      let open_ := (List.range r.nCw).filter fun i =>
        !decide ((i + 1) * nb ≤ r.done * s.rxBits b r.stationSide f) && !(r.good.any fun x => x.1 == i) && !r.failed.contains i
      let s2 := s1.modBerth b fun x => { x with rx := some { r with fc := some { f with ackReq := false }, nSym := r.done } }
      .next ((s2.forAll open_.zipIdx fun a i => a.failCw b i.1 (llrs.getD i.2 [])).checkOver b)

/-- CODEWORD_DECODE (R59, R221): converged, its descriptor is cleared; failed or late, its combined input LLRs are stored. -/
def execCodewordDecode (t : Nat) (b : Berth) (cw : Nat) (e : CwEnd) (s0 : State) : Host.Outcome State Fault Refusal :=
  let s := s0.at t
  match s.berth[b].rx with
  | none => .next s
  | some r =>
    match r.fc with
    | none => .next s
    | some f =>
      if !(s.berth[b].dec.any fun (d : DecCw) => d.idx == cw) then .next s
      else
        let held := (r.ctx.bind s.ctx?).any fun (c : Ctx) => c.soft.any fun d => d.is f cw
        let s1 := if held then s.bump .softCombined else s
        match e with
        | .converged bits =>
          let s2 := match r.ctx with | some c => s1.clearSoft c fun d => d.is f cw | none => s1
          .next ((s2.modBerth b fun x => { decLeave cw x with rx := some { r with good := (cw, bits.take (ldpcK f.short)) :: r.good } }).checkOver b)
        | .failed llrs => .next ((s1.bump .cwFail b).failCw b cw llrs)
        | .late llrs => .next (((s1.bump .cwLate b).missDeadline (berthDom b)).failCw b cw llrs)

/-- What a transmit symbol boundary does (R91, R110, R133): the next symbol, the abort symbol, or the end of the frame and the next frame. Once the
last symbol has started no abort symbol follows. -/
def State.txBoundary (s : State) (b : Berth) : State :=
  let begin_ := fun (a : State) => match a.berth[b].tx with
    | some f => (a.modBerth b fun x => { x with tx := some { f with sym := 1 } }).emit (.lineSymbol b 1)
    | none => a
  match s.berth[b].tx with
  | none => begin_ (s.startNext b)
  | some f =>
    if f.abort && !f.skip && decide (f.sym < 3 + f.nSym) then s.abortTx b
    else if f.sym < 3 + f.nSym then (s.modBerth b fun x => { x with tx := some { f with sym := f.sym + 1, skip := false } }).emit (.lineSymbol b (f.sym + 1))
    else
      let s1 := s.modBerth b fun x => { x with tx := none }
      let s2 := match f.ref with
        | some n => if f.fc.ackReq then s1 else s1.dropFrames [n]
        | none => s1
      begin_ (s2.startNext b)

/-- SYMBOL_BOUNDARY (R93, R74, R76, R91): settings that wait for a symbol, cdac_fs and gain steps, then the transmitter. `level` is the rms measured
between frames, in 0.1 dBFS. -/
def execSymbolBoundary (t : Nat) (b : Berth) (level : Option Int) (s0 : State) : Host.Outcome State Fault Refusal :=
  let s := (s0.at t).releaseAt .symbol b
  if !s.domOn (berthDom b) then .next s
  else
    let s1 := s.modBerth b fun x =>
      let step := fun (l : Int) => let g := gainFor x.gain l; max (x.gain - 6) (min (x.gain + 6) g)
      let gain := if x.gainDrop then max (-12) (x.gain - 12)
        else if x.rx.isSome then x.gain
        else match level with | some l => step l | none => x.gain
      { x with gain := gain, gainDrop := false, cdac := if x.cdacUp then min 2 (x.cdac + 1) else x.cdac, cdacUp := false,
               symIdx := x.symIdx + 1 }
    .next (s1.txBoundary b)

end Sys2Proof.Machine
end

