-- ==== Sys2Proof/Machine/Sense.lean ====
section
/-! DEFINITION. Sensor channels, filters and loop outputs (chapters 14 and 15): breaks, probes, outputs, detectors, loops, calibration. -/

namespace Sys2Proof.Machine
open Sys2Proof

/-! ## Channel settings -/

/-- Excitation current in µA by exc_code (R328). -/
def excUa (code : Nat) : Nat := match code with | 0 => 250 | 1 => 500 | _ => 1000

/-- A thermocouple curve (R334). -/
def isTc (c : Nat) : Bool := decide (10 ≤ c ∧ c ≤ 17)

/-- The settings call for excitation (R328). -/
def State.excited (s : State) (n : SensId) : Bool :=
  decide (s.fnat .wiring n ≤ 2) && !isTc (s.fnat .curve n) && s.fnat .curve n != 30

/-- Excitation flows: PD_SENSE ON and no WIRE_BREAK (R328, R340). -/
def State.excFlows (s : State) (n : SensId) : Bool := s.excited n && s.domOn pdSense && !s.sense[n].broken

/-- The largest input in µV that a curve's range and the excitation produce (R331): the largest resistance times the excitation, the largest
electromotive force, or the shunt's drop. The standards' figures are not part of the spec's text beyond its examples. -/
def State.largestUv (s : State) (n : SensId) : Option Nat :=
  let i := excUa (s.fnat .excCode n)
  match s.fnat .curve n with
  | 0 => none
  | 1 => some (390481 * i / 1000)
  | 2 => some (3904810 * i / 1000)
  | 20 => some (s.fnat .ntcRMax n * i)
  | 30 => some 1200000
  | 10 => some 54900
  | c => some (Config.curveMaxUv c i)

/-- log₂ of the gain in use (R331): forced, 0 for curve 0, or the largest whose range holds 1.05 times the largest input. -/
def State.pickGain (s : State) (n : SensId) : Nat :=
  if s.fnat .pgaGain n ≠ 255 then s.fnat .pgaGain n
  else match s.largestUv n with
    | none => 0
    | some u => ((List.range 8).reverse.find? fun g => decide (u * 105 * 2 ^ g ≤ 250000000)).getD 0

/-- Group delay of a preset in ns (R353). -/
def groupDelay (preset : Nat) : Nat := match preset with | 0 => 150500000 | 1 => 30500000 | 2 => 3800000 | 3 => 480000 | _ => 125000

/-- Output period of a preset in ns, times 1000 (R353). -/
def outPeriod (preset : Nat) : Nat := match preset with | 0 => 100000000000 | 1 => 20000000000 | 2 => 2500000000 | 3 => 312500000 | _ => 78125000

/-! ## Calibration (R349) -/

/-- Offset of a channel's raw unit for 100 µV (R349): 10 nV without excitation, 0.1 mΩ with. -/
def State.rawOf100Uv (s : State) (n : SensId) : Int := if s.excited n then 1000000 / (excUa (s.fnat .excCode n) : Int) else 10000

/-- A calibration of one channel ends (R349, R358, R362): the result of the SENSOR_CAL it belongs to is noted, the filter is reset, the DC
blocker of an AC-input channel engages after a failed offset calibration and disengages after a good one. The command completes with its last
channel. -/
def State.calEnds (s : State) (n : SensId) (st : Status) : State :=
  match s.sense[n].cal with
  | none => s
  | some kind =>
    let eng := kind == 0 && st != .ok && s.fbool .acInput n
    let rel := kind == 0 && st == .ok
    let s1 := s.modSense n fun x =>
      { x with cal := none, resetDue := true, dcb := (x.dcb || eng) && !rel, mu := if rel || (eng && !x.dcb) then none else x.mu }
    let s2 := if eng && !s.sense[n].dcb then s1.stick .dcbHist n else s1
    let upd := fun (y : Running) => match y.kind with
      | .cal left k ref done => if left.contains n then ({ y with kind := .cal (left.erase n) k ref (done ++ [(n, st)]) } : Running) else y
      | _ => y
    let s3 := { s2 with mgmt := { s2.mgmt with running := s2.mgmt.running.map upd } }
    match s3.mgmt.running.find? fun y => match y.kind with | .cal [] _ _ _ => true | _ => false with
    | some y =>
      match y.kind with
      | .cal _ _ _ done =>
        let rows := (List.finRange 16).flatMap fun (k : SensId) => match done.find? (fun d => d.1 == k) with
          | some d => leBytes 4 d.2.code
          | none => []
        s3.completeRun (fun k => k == y.kind) { body := rows }
      | _ => s3
    | none => s3

/-- SENSOR_CAL (R349, R274): BUSY when a channel is in WIRE_BREAK. Kind 2 restores the OTP calibration at once; kinds 0 and 1 measure. -/
def sensorCalEff (r : Req) (s : State) : Eff :=
  let mask := bitsAt r.body 0 16
  let kind := bitsAt r.body 16 8
  let chans := (List.finRange 16).filter fun (n : SensId) => mask.testBit n
  if r.body.length ≠ 8 then .done (.err .invalid) s
  else if 2 < kind then .done (.err .range (some 2)) s
  else if bitsAt r.body 24 8 ≠ 0 then .done (.err .invalid (some 3)) s
  else if chans.any fun n => s.sense[n].broken || s.sense[n].cal.isSome then .done (.err .busy (some 0)) s
  else if !s.domOn pdSense then .done (.err .notReady) s
  else if chans.isEmpty then .done {} s
  else if kind = 2 then
    let s1 := s.forAll chans fun a n =>
      (a.modSense n fun x => { x with calOff := (Config.senseCal n).1, calGain := (Config.senseCal n).2, resetDue := true })
    .done { body := chans.flatMap fun _ => leBytes 4 0 } s1.dirty
  else
    .run (.cal chans kind (intOfLe 4 (r.body.drop 4)) []) (s.forAll chans fun a n => a.modSense n fun x => { x with cal := some kind })

/-- SENSOR_CAL_DONE (R349): the measurement over 1 s ends with a raw value, or with none when a break occurred. -/
def execSensorCalDone (t : Nat) (n : SensId) (raw : Option Int) (s0 : State) : Host.Outcome State Fault Refusal :=
  let s := s0.at t
  match s.sense[n].cal, raw with
  | none, _ => .next s
  | some _, none => .next (s.calEnds n .fault)
  | some 0, some v =>
    if s.rawOf100Uv n < v.natAbs then .next (s.calEnds n .range)
    else .next ((s.modSense n fun x => { x with calOff := v }).calEnds n .ok).dirty
  | some _, some v =>
    let ref := (s.mgmt.running.findSome? fun y => match y.kind with
      | .cal left _ ref _ => if left.contains n then some ref else none
      | _ => none).getD 0
    let got := v - s.sense[n].calOff
    -- the gain ref / got differs from 1 by more than 2 %
    if got = 0 ∨ 2 * (got.natAbs : Int) < 100 * ((ref - got).natAbs : Int) then .next (s.calEnds n .range)
    else .next ((s.modSense n fun x => { x with calGain := Config.roundDiv ((ref - got) * 1000000) got }).calEnds n .ok).dirty

/-! ## Wire break (R338 to R341) -/

/-- A break is detected (R340): excitation off, WIRE_BREAK, the alarm event; a calibration of the channel is abandoned with FAULT. -/
def State.senseBreak (s : State) (n : SensId) (cause : Nat) : State :=
  if s.sense[n].broken then s
  else
    let s1 := s.modSense n fun x =>
      { x with broken := true, cause := cause, passes := 0, fine := { x.fine with valid := false }, fast := { x.fast with valid := false },
               badFine := some (x.badFine.getD s.now), badFast := some (x.badFast.getD s.now) }
    let s2 := if s.excFlows n then s1.emit (.excitation n false) else s1
    (((s2.bump .wireBreaks n).stick .wireBreakHist n).raise .wireBreak n n).calEnds n .fault

/-- WIRE_BREAK (R338, R340): compliance (1) or overrange (2) on a channel with excitation flowing. -/
def execWireBreak (t : Nat) (n : SensId) (cause : Nat) (s0 : State) : Host.Outcome State Fault Refusal :=
  let s := s0.at t
  if s.excFlows n then .next (s.senseBreak n cause) else .next s

/-- A blanking source that blank_src enables is active (R337). -/
def State.blanking (s : State) (n : SensId) : Bool :=
  let src := s.fnat .blankSrc n
  (src.testBit 0 && s.senseBlank) ||
    (src.testBit 1 && allBerths.any fun b => (s.fnat .blankBerths n).testBit b && s.berth[b].tx.isSome)

/-- BREAK_PROBE (R339): the differential voltage changed by `uv` µV. It fails above 5 µA × R_last + 40 mV, R_last 1 kΩ in wiring 3. A blank at
its start puts the probe off; the one after runs regardless. -/
def execBreakProbe (t : Nat) (n : SensId) (uv : Nat) (s0 : State) : Host.Outcome State Fault Refusal :=
  let s := (s0.at t).releaseAt .probe n
  if !s.fbool .probeEnable n || s.fnat .wiring n == 0 || s.sense[n].broken || !s.domOn pdSense then .next s
  else if s.blanking n && !s.sense[n].probeOff then .next (s.modSense n fun x => { x with probeOff := true })
  else
    let s1 := s.modSense n fun x => { x with probeOff := false }
    let res : Int := if s.fnat .wiring n = 3 then 10000000 else s.sense[n].lastRes.getD 10000000
    if 5 * res + 400000000 < (uv : Int) * 10000 then .next ((s1.bump .probeFails n).senseBreak n 3) else .next s1

/-- Loops fed by a channel. -/
def State.loopsOf (s : State) (n : SensId) : List LoopId := (List.finRange 4).filter fun j => s.fnat .srcChannel j == n.val

/-- WIRE_BREAK_RETEST (R341): after three passing retests in a row the channel leaves WIRE_BREAK, its filter resets, its stored settings take
effect, and its loops wait for a valid output. -/
def execWireBreakRetest (t : Nat) (n : SensId) (pass : Bool) (s0 : State) : Host.Outcome State Fault Refusal :=
  let s := s0.at t
  if !s.sense[n].broken then .next s
  else if !pass then .next (s.modSense n fun x => { x with passes := 0 })
  else if s.sense[n].passes < 2 then .next (s.modSense n fun x => { x with passes := x.passes + 1 })
  else
    let s1 := s.modSense n fun x => { x with broken := false, passes := 0, resetDue := true }
    let s2 := s1.forAll (s1.loopsOf n) fun a j => a.modLoop j fun x => { x with waitValid := true }
    .next (if s2.excFlows n then s2.emit (.excitation n true) else s2)

/-- SENSE_BLANK_CHANGE (R337). -/
def execSenseBlankChange (t : Nat) (level : Bool) (s0 : State) : Host.Outcome State Fault Refusal :=
  .next { s0.at t with senseBlank := level }

/-! ## Outputs (R354 to R363) -/

/-- The value range of a curve in its value unit (R334): raw input range for curve 0 by gain. -/
def State.curveSpan (s : State) (n : SensId) : Option (Int × Int) :=
  match s.fnat .curve n with
  | 0 =>
    let top : Int := 250000000 / 2 ^ s.sense[n].gain
    let lim := if s.excited n then top * 100 / excUa (s.fnat .excCode n) else top
    some (-lim, lim)
  | 1 | 2 => some (-20000000, 85000000)
  | 3 => some (-10000000, 26000000)
  | 4 => some (-6000000, 25000000)
  | 20 => none
  | 30 => some (0, 24000000)
  | c => some (Config.tcRange c)

/-- The calibrated raw value (R349) less the lead compensation of 2-wire wiring (R330). -/
def State.calRaw (s : State) (n : SensId) (raw : Int) : Int :=
  let x := s.sense[n]
  let v := Config.roundDiv ((raw - x.calOff) * (1000000 + x.calGain)) 1000000
  if s.excited n && s.fnat .wiring n == 0 then v - 10 * s.fval .leadComp n else v

/-- The cold-junction value of a channel and whether it fell back (R335). -/
def State.coldJunction (s : State) (n : SensId) (internal : Int) : Int × Bool :=
  if isTc (s.fnat .curve n) && s.fbool .cjSrc n then
    if s.sense[(15 : SensId)].fine.valid then (s.sense[(15 : SensId)].fine.value, false) else (internal, true)
  else (internal, false)

/-- Linearisation (R334 to R336): value, curve_range, cj_fallback. -/
def State.engValue (s : State) (n : SensId) (raw cj : Int) : Int × Bool × Bool :=
  let r := s.calRaw n raw
  let c := s.fnat .curve n
  let (j, fb) := s.coldJunction n cj
  -- an NTC's range is a range of resistance (R334); one end of it gives the value at that end
  let lo := s.fval .ntcRMin n * 10000
  let hi := s.fval .ntcRMax n * 10000
  let r' := if c = 20 then max lo (min r hi) else r
  let v := if c = 0 then r' else if c = 30 then Config.roundDiv r' 5
    else Config.linearise c [s.fval .ntcA n, s.fval .ntcB n, s.fval .ntcC n] j r'
  match s.curveSpan n with
  | some (a, b) => (max a (min v b), decide (v < a ∨ b < v), fb)
  | none => (v, decide (r ≠ r'), fb)

/-- Settings whose change resets the filter (R350, R358). -/
def resetFields : List Fld := [.wiring, .curve, .excCode, .pgaGain, .cjSrc, .preset]

/-- Settings of a channel take effect at its output instant, unless it is in WIRE_BREAK; a change among those of R350 resets the filter. -/
def State.outputSettings (s : State) (n : SensId) : State :=
  if s.sense[n].broken then s
  else
    let due := s.pend.any fun e => decide (e.1.2 = n.val) && resetFields.contains e.1.1 && decide (e.2.1 ≠ s.fget e.1.1 n)
    let s1 := s.releaseAt .output n
    let s2 := if due then s1.modSense n fun x => { x with resetDue := true } else s1
    -- ac_input 0 disengages the DC blocker (R362)
    if s2.fbool .acInput n then s2 else s2.modSense n fun x => { x with dcb := false, mu := none }

/-- A filter reset (R358, R359): settling of both paths, a new detector window, the gain in force. -/
def State.filterReset (s : State) (n : SensId) : State :=
  if !s.sense[n].resetDue || s.sense[n].broken then s
  else
    let g := s.pickGain n
    let s1 := s.modSense n fun x =>
      { x with resetDue := false, gain := g, settleFine := s.now + 2 * groupDelay (s.fnat .preset n) + micros 50,
               settleFast := s.now + micros 200, fine := { x.fine with seq := 0 }, fast := { x.fast with seq := 0 },
               det := { x.det with n := 0, valid := 0, hi := 0, lo := 0, sq := 0, env := 0 } }
    (s1.bump .resets n).raiseEvery .senseSettling (seconds 1) n n

/-- The engine produces values (R363, R28): PD_SENSE and PD_MGMT ON, die A3 not lost, HR_MGMT not drained. -/
def State.engineRuns (s : State) : Bool := s.domOn pdSense && s.domOn pdMgmt && !s.lostDie 3 && !s.drained .mgmt

/-- The envelope detector (R361). -/
def envStep (env v : Int) (shift : Nat) : Int := if env < v.natAbs then (v.natAbs : Int) else env - (env - v.natAbs) / (2 ^ shift : Nat)

/-- The detectors take one output (R361); at a window's end they latch. `f1` and `f2` stand for the peaks of a window without a valid value. -/
def detStep (d : DetSt) (valid : Bool) (v : Int) (window shift : Nat) (f1 f2 : Int) : DetSt :=
  let d1 : DetSt := if valid then
      { d with valid := d.valid + 1, hi := if d.valid = 0 then v else max d.hi v, lo := if d.valid = 0 then v else min d.lo v,
               sq := d.sq + v.natAbs * v.natAbs, env := envStep d.env v shift }
    else d
  if d1.n + 1 < window then { d1 with n := d1.n + 1 }
  else
    { d1 with n := 0, valid := 0, hi := 0, lo := 0, sq := 0, max_ := if d1.valid = 0 then f1 else d1.hi, min_ := if d1.valid = 0 then f2 else d1.lo,
              rms := Config.rootMean d1.sq d1.valid, ok := decide (window ≤ 2 * d1.valid) }

/-- The DC blocker (R362): the value passed on and the mean after it. -/
def dcStep (mu : Option Int) (v : Int) (freeze : Bool) (shift : Nat) : Int × Option Int :=
  let m := mu.getD v
  (v - m, some (if freeze then m else m + Config.roundDiv (v - m) (2 ^ shift : Nat)))

/-- Counters of an output (R352, R357, R363). -/
def State.countOutput (s : State) (n : SensId) (erased late gap : Bool) : State :=
  let s1 := if erased then s.bump .blankedOutputs n else s
  let s2 := if gap then s1.bump .outputsInvalid n else s1
  if late then s2.bump .outputsLate n else s2

/-- A valid output lets the channel's loops of that kind leave their fault current (R341). -/
def State.loopsServed (s : State) (n : SensId) (kind : Nat) : State :=
  s.forAll ((s.loopsOf n).filter fun (j : LoopId) => s.fnat .srcKind j == kind) fun a j => a.modLoop j fun x => { x with waitValid := false }

/-- FILTER_OUTPUT (R354, R355, R358 to R363): a fine output instant. -/
def execFilterOutput (t : Nat) (n : SensId) (f : FilterIn) (s0 : State) : Host.Outcome State Fault Refusal :=
  let sa := s0.at t
  if !sa.engineRuns then .next sa
  else
    let sb := (sa.outputSettings n).filterReset n
    -- detect_window changes with the first output of a window (R364)
    let s := (if sb.sense[n].det.n = 0 then sb.releaseAt .window n else sb).countOutput n f.erased f.late f.gap
    let x := s.sense[n]
    let settling := decide (s.now < x.settleFine)
    let (v, rng, fb) := s.engValue n f.raw f.cj
    let ok := !settling && !f.erased && !x.cal.isSome && !x.broken && !f.late && !f.gap
    -- a 4–20 mA input below 3.6 mA is a break (R339)
    let s1 := if ok && s.fnat .curve n == 30 && decide (v < 3600000) then s.senseBreak n 4 else s
    let valid := ok && !s1.sense[n].broken
    let (v', mu') := if x.dcb && valid then dcStep x.mu v (s.fbool .dcbFreeze n) (s.fnat .dcbShift n) else (v, x.mu)
    let (f1, s2) := s1.free
    let (f2, s3) := s2.free
    let det := detStep x.det valid v' (s.fnat .detectWindow n) (s.fnat .envShift n) f1 f2
    let ts := s.devTime - groupDelay (s.fnat .preset n)
    let delayed := settling || x.cal.isSome || s3.sense[n].broken || s.fbool .testMode n
    let s4 := s3.modSense n fun y =>
      { y with mu := mu', det := det, reversed := if s.fnat .wiring n = 1 then !y.reversed else y.reversed,
               badFine := if valid then none else some (y.badFine.getD s.now),
               lastRes := if valid && s.excited n then some (s.calRaw n f.raw) else y.lastRes,
               fine := { value := v', tsNs := ts % 1000000000, tsSec := ts / 1000000000 % 65536, valid := valid, settling := settling,
                         blanked := f.erased, curveRange := rng, cjFallback := fb, cal := x.cal.isSome, dcBlocked := x.dcb,
                         delayed := delayed, seq := x.fine.seq + 1 } }
    .next (if valid then s4.loopsServed n 0 else s4)

/-- FAST_OUTPUT (R356, R358): a fast output; it has no programmed delay, no orientation mean and no DC blocker. -/
def execFastOutput (t : Nat) (n : SensId) (f : FastIn) (s0 : State) : Host.Outcome State Fault Refusal :=
  let s := s0.at t
  if !s.engineRuns then .next s
  else
    let s1 := s.countOutput n f.erased f.late f.gap
    let x := s1.sense[n]
    let settling := decide (s.now < x.settleFast)
    let (v, rng, fb) := s1.engValue n f.raw f.cj
    let valid := !settling && !f.erased && !x.cal.isSome && !x.broken && !f.late && !f.gap
    let s2 := s1.modSense n fun y =>
      { y with badFast := if valid then none else some (y.badFast.getD s.now),
               fast := { value := v, tsNs := s.devNs, tsSec := s.devSec % 65536, valid := valid, settling := settling, blanked := f.erased,
                         curveRange := rng, cjFallback := fb, cal := x.cal.isSome, dcBlocked := false, delayed := false,
                         seq := x.fast.seq + 1 } }
    .next (if valid then s2.loopsServed n 1 else s2)

/-! ## Loops (R344 to R348) -/

/-- The fault current of a loop (R345). -/
def State.faultUa (s : State) (j : LoopId) : Nat := if s.fbool .faultDir j then 21500 else 3500

/-- The mapping and clamp of R344, in µA. -/
def State.loopMap (s : State) (j : LoopId) (v : Int) : Nat :=
  let lo := s.fval .loValue j
  let hi := s.fval .hiValue j
  (max 3800 (min 20500 (4000 + Config.roundDiv (16000 * (v - lo)) (hi - lo)))).toNat

/-- The channel that feeds a loop. -/
def State.loopChan (s : State) (j : LoopId) : SensId := ⟨s.fnat .srcChannel j % 16, Nat.mod_lt _ (by decide)⟩

/-- The first row of the loop-current table that applies, and its current (R345). Removal quiet and a supply out of its range leave the gates
undriven as row 1 does (R413, R433). -/
def State.loopRow (s : State) (j : LoopId) : Nat × Option Nat :=
  let x := s.loop[j]
  let c := s.sense[s.loopChan j]
  let fast := s.fbool .srcKind j
  let rec_ := if fast then c.fast else c.fine
  let bad := if fast then c.badFast else c.badFine
  let stale := match bad with | some a => decide (a + seconds 1 ≤ s.now) | none => false
  if !s.domOn pdSense || s.lostDie 3 || s.live.quiet || s.live.senseLow || !s.live.badRails.isEmpty then (1, none)
  else if !s.boot.configAuth then (2, some 3500)
  else if s.live.loopsFault then (2, some (s.faultUa j))
  else if s.drained .mgmt then (3, x.cmd)
  else if !s.fbool .loopEnable j then (4, none)
  else match x.force with
    | some (ua, _) => (5, some ua)
    | none =>
      if c.broken || stale || x.waitValid then (6, some (s.faultUa j))
      else if !rec_.valid then (7, x.cmd)
      else (8, some (s.loopMap j rec_.value))

/-- One loop period (R345, R348): the current by the first row that applies; a change into rows 1 to 3 ends a force; entries into row 6
count. -/
def State.loopStep (s : State) (j : LoopId) : State :=
  let s0 := if s.drained .mgmt then s else s.releaseAt .loopPeriod j
  let (row, ua) := s0.loopRow j
  let x := s0.loop[j]
  let s1 := s0.modLoop j fun y => { y with row := row, cmd := ua, force := if row ≤ 3 ∧ 3 < x.row then none else y.force }
  let s2 := if row = 6 ∧ x.row ≠ 6 then s1.bump .faultEntries j else s1
  if ua = x.cmd then s2 else s2.emit (.loopDrive j ua)

/-- LOOP_PERIOD (R345). -/
def execLoopPeriod (t : Nat) (j : LoopId) (s0 : State) : Host.Outcome State Fault Refusal := .next ((s0.at t).loopStep j)

/-- MGMT_DRAIN_LOOP_FAULT (R36, R345): HR_MGMT has been drained for 1 s. -/
def execMgmtDrainLoopFault (t : Nat) (s0 : State) : Host.Outcome State Fault Refusal :=
  let s := s0.at t
  let r := s.region[Region.mgmt.idx]
  if r.drained && decide (r.since + seconds 1 ≤ s.now) then
    .next ({ s with live := { s.live with loopsFault := true } }.forAll (List.finRange 4) State.loopStep)
  else .next s

/-- LOOP_OPEN (R347): a readback in µA. Off by more than 0.5 mA for 10 ms it sets loop_open; tracking within 50 µA for 1 s clears it. -/
def execLoopOpen (t : Nat) (j : LoopId) (ua : Nat) (gateMax : Bool) (s0 : State) : Host.Outcome State Fault Refusal :=
  let s := (s0.at t).report .loopUa j 0 ua
  let x := s.loop[j]
  match x.cmd with
  | none => .next (s.modLoop j fun y => { y with offSince := none, trackSince := none })
  | some c =>
    let off := (gateMax && decide (ua + 500 < c)) || decide (c + 500 < ua)
    let track := decide (ua ≤ c + 50 ∧ c ≤ ua + 50)
    let offS := if off then some (x.offSince.getD s.now) else none
    let trS := if track then some (x.trackSince.getD s.now) else none
    let s1 := s.modLoop j fun y => { y with offSince := offS, trackSince := trS }
    let late := match offS with | some a => decide (a + millis 10 ≤ s.now) | none => false
    let well := match trS with | some a => decide (a + seconds 1 ≤ s.now) | none => false
    if late && !x.openSet then .next (((s1.modLoop j fun y => { y with openSet := true }).stick .loopFaultHist j).raise .loopFault j j)
    else if well then .next (s1.modLoop j fun y => { y with openSet := false })
    else .next s1

/-- LOOP_FORCE (R348, R274). -/
def loopForceEff (r : Req) (s : State) : Eff :=
  let j := bitsAt r.body 0 8
  let ua := bitsAt r.body 16 16
  let hold := bitsAt r.body 32 16
  if r.body.length ≠ 6 then .done (.err .invalid) s
  else if h : j < 4 then
    if bitsAt r.body 8 8 ≠ 0 then .done (.err .invalid (some 1)) s
    else if ua = 0 then .done {} (s.modLoop ⟨j, h⟩ fun x => { x with force := none })
    else if ua < 3500 ∨ 23000 < ua then .done (.err .range (some 2)) s
    else .done {} (s.modLoop ⟨j, h⟩ fun x => { x with force := some (ua, if hold = 0 then none else some (s.now + seconds hold)) })
  else .done (.err .range (some 0)) s

/-- LOOP_FORCE_EXPIRY (R348). -/
def execLoopForceExpiry (t : Nat) (j : LoopId) (s0 : State) : Host.Outcome State Fault Refusal :=
  let s := s0.at t
  match s.loop[j].force with
  | some (_, some e) => if e ≤ s.now then .next (s.modLoop j fun x => { x with force := none }) else .next s
  | _ => .next s

/-- SENSOR_CAL (R349): its locks are the channels of the mask. -/
def execSensorCal (t : Nat) (r : Req) (s : State) : Host.Outcome State Fault Refusal :=
  .next ((s.at t).runLocked 0x11 r (((List.range 16).filter fun n => (bitsAt r.body 0 16).testBit n).map fun n => (Cls.sense, n)) (sensorCalEff r))

/-- LOOP_FORCE (R348). -/
def execLoopForce (t : Nat) (r : Req) (s : State) : Host.Outcome State Fault Refusal :=
  .next ((s.at t).runLocked 0x12 r [(.loop, bitsAt r.body 0 8)] (loopForceEff r))

end Sys2Proof.Machine
end

