-- ==== Sys2Proof/Machine/Store.lean ====
section
/-! DEFINITION. The commands of the Hold (chapter 09): rounds, reads with their errors, scrubbing, timing and temperature, retirement, rebuild,
capture. -/

namespace Sys2Proof.Machine
open Sys2Proof

/-! ## Retirement triggers (R227) -/

/-- A trigger of R227 occurs on a channel in service. -/
def State.retireTrigger (s : State) (m : Chan) : State :=
  let st := s.hold.chan[m].st
  if st = .active ∨ st = .draining then s.modChan m fun c => { c with trig := true } else s

/-- Words of a sliding second. -/
def lastSecond (now : Nat) (l : List (Nat × Nat)) : List (Nat × Nat) := l.filter fun x => now < x.1 + seconds 1
def wordsOf (l : List (Nat × Nat)) : Nat := (l.map (·.2)).foldl (· + ·) 0

/-- Corrected words of a channel (R207, R210, R227). -/
def State.countCe (s : State) (m : Chan) (n : Nat) : State :=
  if n = 0 then s
  else
    let s1 := (s.bump .eccCe 0 m n).modChan m fun c => { c with ces := lastSecond s.now c.ces ++ [(s.now, n)] }
    if s1.fbool .autoRetire 0 ∧ s1.fnat .ceRetire 0 ≤ wordsOf s1.hold.chan[m].ces then s1.retireTrigger m else s1

/-- Uncorrectable words of a channel (R207, R210, R227). -/
def State.countUe (s : State) (m : Chan) (n : Nat) : State :=
  if n = 0 then s
  else
    let s1 := ((((s.bump .eccUe 0 m n).stick .eccUeHist).raiseKey .storeEcc m (seconds 1) 0 m)).modChan m fun c =>
      { c with ues := lastSecond s.now c.ues ++ [(s.now, n)] }
    if s1.fbool .autoRetire 0 ∧ s1.fnat .ueRetire 0 ≤ wordsOf s1.hold.chan[m].ues then s1.retireTrigger m else s1

/-- A store-unit watchdog fault (R22, R227): three within 1 ms are a trigger. -/
def State.storeWatchdog (s : State) (m : Chan) : State :=
  let s1 := s.modChan m fun c => { c with wd := (c.wd.filter fun x => s.now < x + millis 1) ++ [s.now] }
  if s1.fbool .autoRetire 0 ∧ 3 ≤ s1.hold.chan[m].wd.length then s1.retireTrigger m else s1

/-! ## Reads and their errors (R207, R210) -/

/-- Both copies of a mirrored word are lost (R207): a context goes to FREE, a route entry is deleted, a firmware image is marked invalid, a log record
is skipped. -/
def State.wordLost (s : State) (item : StoreItem) : State :=
  match item with
  | .ctx id _ => match s.ctx? id with | some c => (s.freeCtx c).raise .ctxLost id 0 | none => s
  | .route eui _ => s.dropRoute eui
  | .fw slot _ => { s with boot := { s.boot with fwImg := s.boot.fwImg.set (if slot then 1 else 0) none (by split <;> decide) } }
  | _ => s

/-- The action on an uncorrectable word of a mirrored partition (R207, R230). -/
def State.badCopy (s : State) (m : Chan) (item : StoreItem) (other : OtherCopy) (block : Nat) : State :=
  match other with
  | .good => s.bump .mirrorRepair 0 m
  | .bad => s.wordLost item
  | .gone => (s.raise .mirrorLost 0 (block % 2 ^ 25)).wordLost item

/-- The action on an uncorrectable word (R207). -/
def State.badWord (s : State) (m : Chan) (block : Nat) (item : StoreItem) : State :=
  match item with
  | .frame no => if (s.frame? no).isSome then (s.dropFrames [no]).bump .frameDropEcc 0 m else s
  | .ctx _ o => s.badCopy m item o block
  | .route _ o => s.badCopy m item o block
  | .fw _ o => s.badCopy m item o block
  | .log o => s.badCopy m item o block
  | .soft id d => s.clearSoft id fun x => x.slot == d
  | .granule i =>
    { s with hold := { s.hold with capture := { s.hold.capture with
        granules := s.hold.capture.granules.zipIdx.map fun x => if x.2 = i then x.1.gap else x.1 } } }
  | .space => s
  | .sram k => s.bump .fltSramUe k

/-- One word read (R207): good, corrected, or uncorrectable with its action. A corrected word of an on-die SRAM is no store error. -/
def State.readWord (s : State) (a : StoreAccess) : State :=
  match eccOutcome a.syn, a.item with
  | .good, _ => s
  | .corrected, .sram _ => s
  | .corrected, _ => s.countCe a.chan 1
  | .uncorrectable, .sram k => s.badWord a.chan a.block (.sram k)
  | .uncorrectable, item => (s.countUe a.chan 1).badWord a.chan a.block item

/-! ## The arbitration round (R213, R214) -/

/-- Guarantees in bursts at 12,800 MT/s (R213), scaled by the data rate and rounded down (R214). -/
def guarantee (rate cls : Nat) : Nat :=
  let g := match cls with | 0 => 96 | 1 => 96 | 2 => 502 | 3 => 32 | _ => 16
  match rate with | 0 => g * 8533 / 12800 | 1 => g * 10667 / 12800 | _ => g

/-- Serve the classes in order, each up to a limit, within a capacity: what is served of each. -/
def servePass : List (Nat × Nat) → Nat → List Nat
  | [], _ => []
  | (want, lim) :: r, cap => let n := min (min want lim) cap; n :: servePass r (cap - n)

/-- One round of a channel (R214): every class up to its guarantee in order, then the rest in the same order, up to the capacity. -/
def roundServe (rate : Nat) (pend : List Nat) (cap : Nat) : List Nat :=
  let first := servePass (pend.zipIdx.map fun x => (x.1, guarantee rate x.2)) cap
  let left := cap - first.foldl (· + ·) 0
  let rest := List.zipWith (· - ·) pend first
  List.zipWith (· + ·) first (servePass (rest.map fun x => (x, x)) left)

def vec5 (l : List Nat) : Vector Nat 5 := #v[l.getD 0 0, l.getD 1 0, l.getD 2 0, l.getD 3 0, l.getD 4 0]

/-- A channel's round: transactions of a channel out of service wait. -/
def State.chanRound (s : State) (m : Chan) (cap : Nat) : State :=
  let c := s.hold.chan[m]
  if c.st = .active ∨ c.st = .draining then
    let done := roundServe s.boot.holdRate c.pend.toList cap
    let used := done.zipIdx.map fun x => min x.1 (guarantee s.boot.holdRate x.2)
    s.modChan m fun c => { c with pend := vec5 (List.zipWith (· - ·) c.pend.toList done), used := vec5 (List.zipWith (· + ·) c.used.toList used) }
  else s

/-- class_util_pct over the 1,024 rounds just ended (R234). -/
def State.latchUtil (s : State) (m : Chan) : State :=
  let s1 := s.forAll (List.finRange 5) fun a (k : Fin 5) =>
    a.report .classUtil 0 (5 * m.val + k.val)
      (Config.roundDiv (s.hold.chan[m].used[k] * 100) (guarantee s.boot.holdRate k * 1024 : Nat))
  s1.modChan m fun c => { c with used := .replicate 5 0 }

/-- STORE_ROUND (R214): every channel serves its classes within the bursts it can run in this round, and the words read are judged. -/
def execStoreRound (t : Nat) (caps : List Nat) (reads : List StoreAccess) (s0 : State) : Host.Outcome State Fault Refusal :=
  let s := s0.at t
  let s1 := s.forAll (List.finRange 16) fun a (m : Chan) => a.chanRound m (caps.getD m.val 0)
  let s2 := s1.forAll reads State.readWord
  if s2.hold.rounds + 1 < 1024 then .next { s2 with hold := { s2.hold with rounds := s2.hold.rounds + 1 } }
  else .next ({ s2 with hold := { s2.hold with rounds := 0 } }.forAll (List.finRange 16) State.latchUtil)

/-! ## Upkeep (R201, R210) -/

/-- STORE_TIMING_UPDATE (R201): a failed update is tried again 1 ms later. -/
def execStoreTimingUpdate (t : Nat) (m : Chan) (ok : Bool) (s0 : State) : Host.Outcome State Fault Refusal :=
  .next ((s0.at t).modChan m fun c => { c with retry := !ok && (c.st == .active || c.st == .draining) })

/-- STORE_TIMING_RETRY (R227): a second failure retires the channel, whatever auto_retire says. -/
def execStoreTimingRetry (t : Nat) (m : Chan) (ok : Bool) (s0 : State) : Host.Outcome State Fault Refusal :=
  let s := s0.at t
  if !s.hold.chan[m].retry then .next s
  else
    let s1 := s.modChan m fun c => { c with retry := false }
    .next (if ok then s1 else s1.retireTrigger m)

/-- STORE_TEMP_READ (R201): the temperature with whether it lies in the extended range; three missed readouts are treated as extended. -/
def execStoreTempRead (t : Nat) (m : Chan) (temp : Option (Int × Bool)) (s0 : State) : Host.Outcome State Fault Refusal :=
  let s := s0.at t
  match temp with
  | some (c, ext) =>
    let s1 := (s.report .dramTemp 0 m c).modChan m fun x => { x with missed := 0, hot := ext }
    .next (if ext then s1.raiseKey .storeHot 0 (seconds 60) 0 m else s1)
  | none =>
    let n := s.hold.chan[m].missed + 1
    let s1 := s.modChan m fun x => { x with missed := n, hot := x.hot || decide (3 ≤ n) }
    .next (if 3 ≤ n then s1.raiseKey .storeHot 0 (seconds 60) 0 m else s1)

/-- SCRUB_PASS (R210): a pass over a channel that is not retired; scrub_hours applies from the next pass. -/
def execScrubPass (t : Nat) (m : Chan) (ce ue : Nat) (s0 : State) : Host.Outcome State Fault Refusal :=
  let s := (s0.at t).releaseAt .scrub 0
  if s.chanOut m then .next s else .next ((s.countCe m ce).countUe m ue)

/-! ## Retirement (R226 to R232) -/

/-- A channel becomes RETIRED (R228, R231): mask, retired_hist, EV_STORE_RETIRED; its STORE_RETIRE completes; the next rebuild starts. -/
def State.retireNow (s : State) (m : Chan) : State :=
  let fifth := decide (4 ≤ s.retiredCount)
  let s1 := (s.modChan m fun c => { c with st := .retired, rebuilt := true, drainSince := none }).maskChan m
  let s2 := { s1 with hold := { s1.hold with retiring := s1.hold.retiring.erase m } }
  let s3 := if fifth then s2.bump .mirrorSingle 0 0 s2.mirrorBlocks else s2
  ((((s3.emit (.flash 2)).stick .retiredHist).raise .storeRetired 0 m).completeRun fun k => k == .retire m) {}

/-- STORE_AUTO_RETIRE (R227, R228): a channel with a trigger is fenced; one whose planned rebuild is already complete is then RETIRED (R229). -/
def execStoreAutoRetire (t : Nat) (m : Chan) (s0 : State) : Host.Outcome State Fault Refusal :=
  let s := s0.at t
  let c := s.hold.chan[m]
  if !c.trig then .next s
  else if c.st == .draining && c.rebuilt then .next ((s.fence m).retireNow m)
  else .next (s.fence m)

/-- REBUILD_DONE (R230, R232): the rebuild of the first channel in order is complete. A fenced channel becomes RETIRED; a draining one waits
for its fence. -/
def execRebuildDone (t : Nat) (m : Chan) (s0 : State) : Host.Outcome State Fault Refusal :=
  let s := s0.at t
  if s.hold.retiring.head? ≠ some m then .next s
  else if s.hold.chan[m].st = .fenced then .next (s.retireNow m)
  else .next (s.modChan m fun c => { c with rebuilt := true })

/-- Frames resident in a channel are dropped and counted (R229). -/
def State.dropResident (s : State) (m : Chan) : State :=
  let l := s.hold.frames.filter fun f => f.chan == m
  if l.isEmpty then s else (s.dropFrames (l.map (·.no))).bump .framesLost 0 m l.length

/-- STORE_DRAIN_FENCE (R229): the rebuild is complete and no queued frame remains, or 2 s have passed. -/
def execStoreDrainFence (t : Nat) (m : Chan) (s0 : State) : Host.Outcome State Fault Refusal :=
  let s := s0.at t
  let c := s.hold.chan[m]
  let late := match c.drainSince with | some a => decide (a + seconds 2 ≤ s.now) | none => false
  if c.st = .draining ∧ c.rebuilt ∧ (late || s.hold.frames.all fun f => f.chan != m) then .next (((s.fence m).dropResident m).retireNow m)
  else .next s

/-- STORE_RETIRE (R229). -/
def storeRetireEff (r : Req) (s : State) : Eff :=
  let m := bitsAt r.body 0 8
  if r.body.length ≠ 4 then .done (.err .invalid) s
  else if bitsAt r.body 8 24 ≠ 0 then .done (.err .invalid (some 1)) s
  else if h : m < 16 then
    let c : Chan := ⟨m, h⟩
    if !s.hold.retiring.isEmpty || decide (4 ≤ s.retiredCount) || s.chanOut c then .done (.err .denied) s
    else if s.hold.chan[c].st = .untrained then .done (.err .notReady) s
    else
      let s1 := s.modChan c fun x => { x with st := .draining, drainSince := some s.now, rebuilt := false }
      .run (.retire c) { s1 with hold := { s1.hold with retiring := [c] } }
  else .done (.err .range (some 0)) s

/-- STORE_RETIRE (R229): it locks class STORE. -/
def execStoreRetire (t : Nat) (r : Req) (s : State) : Host.Outcome State Fault Refusal :=
  .next ((s.at t).runLocked 0x0D r [(.store, 0)] (storeRetireEff r))

/-! ## Capture (R222 to R225) -/

/-- The mantissa of a sample (R223). -/
def capMant (e : Nat) (x : Int) : Int := if e = 0 then x else (x + (2 ^ (e - 1) : Nat)) / (2 ^ e : Nat)

/-- The exponent of a block: the smallest that holds every mantissa, 8 at most (R223). -/
def capExp (b : List Int) : Nat := ((List.range 9).find? fun e => b.all fun x => inRange (-128) 127 (capMant e x)).getD 8

/-- Samples that saturate (R223). -/
def capSat (b : List Int) : Nat := b.countP fun x => 32640 ≤ x

/-- A block as its 132-bit number (R224); none is a gap block. -/
def capBlock : Option (List Int) → Nat
  | none => 15
  | some b =>
    let e := capExp b
    e + (b.zipIdx.map fun x => ((min 127 (capMant e x.1)) % 256).toNat * 2 ^ (4 + 8 * x.2)).foldl (· + ·) 0

/-- Eight blocks in a unit of 132 bytes (R224). -/
def capUnit (l : List (Option (List Int))) : Bytes :=
  leBytes 132 ((l.zipIdx.map fun x => capBlock x.1 * 2 ^ (132 * x.2)).foldl (· + ·) 0)

/-- Cut a list into pieces of n; `fuel` bounds the pieces. -/
def piecesOf {α : Type} (n : Nat) : Nat → List α → List (List α)
  | 0, _ => []
  | k + 1, l => if l.isEmpty then [] else l.take n :: piecesOf n k (l.drop n)

/-- The next channel of the round-robin over the channels in service (R224). -/
def State.capChan (s : State) : Chan :=
  let l := (List.finRange 16).filter fun (m : Chan) => s.hold.chan[m].st == .active
  l.getD (s.hold.capNext % max l.length 1) 0

/-- Record the blocks of one stream: units of eight blocks, granules of eight units, a last unit filled with gap blocks. -/
def State.capStream (s : State) (x : Nat × List (Option (List Int))) : State :=
  let units := (piecesOf 8 (x.2.length + 1) x.2).map fun u => capUnit (u ++ List.replicate (8 - u.length) none)
  let grans := (piecesOf 8 (units.length + 1) units).zipIdx
  let s1 := grans.foldl (fun (a : State) g =>
    { a with hold := { a.hold with
        capture := { a.hold.capture with granules := a.hold.capture.granules ++ [⟨x.1, 8 * g.2, a.capChan, g.1⟩] },
        capNext := a.hold.capNext + 1 } }) s
  let gaps := x.2.countP (·.isNone)
  let sats := ((x.2.filterMap id).map capSat).foldl (· + ·) 0
  (s1.bump .captureGaps 0 0 gaps).bump .captureSat 0 0 sats

/-- The streams of an armed capture: berth in [4:0], bit 5 transmit. -/
def Capture.streams (c : Capture) : List Nat :=
  (List.range 32).filter (fun k => c.rx.getLsbD k) ++ ((List.range 32).filter fun k => c.tx.getLsbD k).map (· + 32)

/-- The trigger of a capture happens: the last pre_us are kept, recording of len_us begins (R225). -/
def State.capStart (s : State) : State :=
  let c := s.hold.capture
  let first := s.devTime - c.preUs * 1000
  { s with hold := { s.hold with capture :=
      { c with st := .running, at_ := s.now, firstSec := first / 1000000000, firstNs := first % 1000000000 } } }

/-- CAPTURE_TRIGGER (R225). -/
def execCaptureTrigger (t : Nat) (s0 : State) : Host.Outcome State Fault Refusal :=
  let s := s0.at t
  if s.hold.capture.st = .armed then .next s.capStart else .next s

/-- CAPTURE_DONE (R225): the streams recorded, block by block, a lost block none; the event counts the gap blocks. -/
def execCaptureDone (t : Nat) (rec : List (Nat × List (Option (List Int)))) (s0 : State) : Host.Outcome State Fault Refusal :=
  let s := s0.at t
  if s.hold.capture.st ≠ .running then .next s
  else
    let l := rec.filter fun x => s.hold.capture.streams.contains x.1
    let s1 := s.forAll l State.capStream
    let gaps := (l.map fun x => x.2.countP (·.isNone)).foldl (· + ·) 0
    .next ({ s1 with hold := { s1.hold with capture := { s1.hold.capture with st := .done } } }.raise .captureDone 0 (min gaps (2 ^ 25 - 1)))

/-- CAPTURE_ARM (R225, R274): its body, or the first offending byte offset. -/
def parseArm (b : Bytes) : Except (Status × Nat) Capture :=
  let point := bitsAt b 64 8
  let trig := bitsAt b 72 8
  let gpio := bitsAt b 80 8
  let pre := bitsAt b 192 32
  let len := bitsAt b 224 32
  if b.length ≠ 32 then .error (.invalid, 0xFFFFFFFF)
  else if 2 < point then .error (.range, 8)
  else if 4 < trig then .error (.range, 9)
  else if 32 ≤ gpio then .error (.invalid, 10)
  else if bitsAt b 88 8 ≠ 0 then .error (.invalid, 11)
  else if bitsAt b 144 32 ≥ 1000000000 then .error (.range, 12)
  else if bitsAt b 176 16 ≠ 0 then .error (.invalid, 22)
  else if 1000000 < pre then .error (.range, 24)
  else if len = 0 ∨ 60000000 < len then .error (.range, 28)
  else .ok { st := .armed, rx := BitVec.ofNat 32 (bitsAt b 0 32), tx := BitVec.ofNat 32 (bitsAt b 32 32), point := point, trigger := trig,
             pin := gpio % 16, falling := decide (16 ≤ gpio), trigSec := bitsAt b 96 48, trigNs := bitsAt b 144 32, preUs := pre, lenUs := len }

/-- CAPTURE_ARM: BUSY while a capture is armed or running; trigger 0 starts at once. -/
def captureArmEff (r : Req) (s : State) : Eff :=
  match parseArm r.body with
  | .error (st, off) => .done (.err st (some off)) s
  | .ok c =>
    if s.hold.capture.st = .armed ∨ s.hold.capture.st = .running then .done (.err .busy) s
    else
      let s1 := { s with hold := { s.hold with capture := c } }
      .done {} (if c.trigger = 0 then s1.capStart else s1)

/-- CAPTURE_ARM (R225): it locks class STORE. -/
def execCaptureArm (t : Nat) (r : Req) (s : State) : Host.Outcome State Fault Refusal :=
  .next ((s.at t).runLocked 0x06 r [(.store, 0)] (captureArmEff r))

/-- Gap blocks of a unit. -/
def unitGaps (u : Bytes) : Nat := (List.range 8).countP fun i => bitsAt u (132 * i) 4 == 15

/-- CAPTURE_READ (R224, R274): units of one recorded stream; the time is that of the first sample returned. -/
def captureReadRsp (r : Req) (s : State) : Rsp :=
  let b := r.body
  let c := s.hold.capture
  let stream := bitsAt b 0 8
  let start := bitsAt b 32 32
  let n := bitsAt b 64 32
  let units := (c.granules.filter fun g => g.stream == stream).flatMap (·.units)
  if b.length ≠ 12 then .err .invalid
  else if 64 ≤ stream then .err .invalid (some 0)
  else if bitsAt b 8 24 ≠ 0 then .err .invalid (some 1)
  else if c.st = .armed ∨ c.st = .running then .err .notReady
  else if c.st = .idle ∨ !c.streams.contains stream then .err .range (some 0)
  else if units.length < start + n then .err .range (some 4)
  else
    let l := (units.drop start).take n
    let ns := c.firstNs + start * 640
    { body := leBytes 6 (c.firstSec + ns / 1000000000) ++ leBytes 4 (ns % 1000000000) ++ leBytes 4 n ++
        leBytes 4 ((l.map unitGaps).foldl (· + ·) 0) ++ leBytes 2 0 ++ l.flatten }

/-- CAPTURE_READ (R224). -/
def execCaptureRead (t : Nat) (r : Req) (s : State) : Host.Outcome State Fault Refusal :=
  .next ((s.at t).runFree 0x07 r fun a _ => (captureReadRsp r a, a))

end Sys2Proof.Machine
end

