-- ==== Sys2Proof/Machine/Bringup.lean ====
section
/-! DEFINITION. Power domains coming up and down, faults of units, clusters, supplies and dies, and the small pins (chapters 02, 03 and 19). -/

namespace Sys2Proof.Machine
open Sys2Proof

/-! ## Regions and microcode -/

/-- The power domains of a region (Table of region membership). -/
def regionDoms (r : Region) : List DomId :=
  match r with
  | .store => [32, 33, 34, 35] | .switch => [39] | .link => [36, 37, 38] | .mgmt => [40, 41, 42] | .sec => [43]
  | b => allDoms.filter fun k => decide (8 * b.code ≤ k.val ∧ k.val < 8 * b.code + 8)

def regionBerths (r : Region) : List Berth := allBerths.filter fun b => berthRegion b == r

/-- Region names by code. -/
def berthRegions : List Region := [.bg0, .bg1, .bg2, .bg3]

/-- Slot 0 is A, slot 1 is B. -/
def slotIdx (b : Bool) : Fin 2 := if b then 1 else 0

/-- The microcode slot that serves (R397): uc_active, or the other valid one. -/
def State.servingUc (s : State) : Option Bool :=
  let a := match s.boot.dir with | some d => d.ucActive | none => false
  if (s.boot.ucImg[slotIdx a]).isSome then some a else if (s.boot.ucImg[slotIdx !a]).isSome then some !a else none

/-- A berth starts on the serving microcode when it has none yet (R397). -/
def State.loadUc (s : State) (b : Berth) : State :=
  if s.berth[b].ucSlot.isSome then s
  else match s.servingUc with
    | some a =>
      let rel : Nat := ((s.boot.ucImg[slotIdx a]).map fun (i : ImgInfo) => i.release).getD 0
      (s.modBerth b fun x => { x with ucSlot := some a }).report .ucRelease b 0 rel
    | none => s

/-! ## Domains (R30 to R33, R454, R455) -/

/-- DOMAIN_RAMP_DONE (R32). -/
def execDomainRampDone (t : Nat) (k : DomId) (s0 : State) : Host.Outcome State Fault Refusal :=
  let s := s0.at t
  .next (if s.domSt k = .ramp then s.setDom k .init else s)

/-- The domains that a rail feeds (R435). -/
def railDoms : Rail → List DomId
  | .core => allDoms.filter fun k => k != pdSec
  | .sram => [32, 33, 34, 35, pdSwitch, pdMgmt]
  | .drv => allDoms.filter fun k => decide (k.val < 32)
  | .afe => allDoms.filter fun k => decide (k.val < 32) || k == pdClk
  | .serdes | .hSerdes => [pdHost, pdEth, pdFab]
  | .ddq m => [chanDom m]
  | .io18 => [pdMgmt]
  | .sense => [pdSense]
  | .io33 | .aon => []

/-- The channels of a PD_STORE domain serve once it is ON: those trained and not retired. -/
def State.openChans (s : State) (k : DomId) : State :=
  s.forAll ((List.finRange 16).filter fun (m : Chan) => chanDom m == k && s.hold.chan[m].st == .untrained && !s.sec.retireMask.getLsbD m)
    fun a m => a.modChan m fun c => { c with st := .active }

/-- What a domain does on reaching ON (R411, R358, R281, R291, R131, R217, R32). -/
def State.domReady (s : State) (k : DomId) : State :=
  match domBerth k with
  | some b => ((s.loadUc b).modLine b fun l => { l with trainNext := true }).berthReturns b
  | none =>
    if 32 ≤ k.val ∧ k.val < 36 then (if s.boot.stage = 1 then s else s.openChans k)
    else if k = pdEth then s.forAll allEth State.startPort
    else if k = pdFab then s.forAll s.usedLinks State.raiseLink
    else if k = pdSwitch then { s with hold := { s.hold with cache := [], pins := [] } }
    else if k = pdSense then
      ({ s with live := { s.live with senseLow := false } } : State).forAll (List.finRange 16) fun a n => a.modSense n fun x => { x with resetDue := true }
    else s

/-- Starter or the bring-up of the boot domains fails for a supply or clock fault (R239). -/
def State.bootFault5 (s : State) : State := if s.boot.stage < 4 then s.stopBoot 5 else s

/-- A berth region's return completes once none of its domains is coming up (R419). -/
def State.settleReturns (s : State) : State :=
  s.forAll berthRegions fun a r =>
    if (regionDoms r).any fun k => a.domSt k == .ramp || a.domSt k == .init || a.dom[k].rampQueued then a
    else a.completeRun (fun x => x == .ret r) {}

/-- DOMAIN_INIT_DONE (R32, R33, R455): the domain is ON, its ON request completes, an OFF that waited drains it, and the next bring-up starts; or
the bring-up has failed into FAULT. -/
def execDomainInitDone (t : Nat) (k : DomId) (ok : Bool) (s0 : State) : Host.Outcome State Fault Refusal :=
  let s := s0.at t
  if s.domSt k ≠ .init then .next s
  else if !ok then
    let s1 := (s.faultDom k).nextRamp
    .next ((if k = pdClk ∨ k = pdMgmt ∨ k = pdSwitch ∨ k = pdHost then s1.bootFault5 else s1).servedOwn.settleReturns)
  else
    let rails := s.live.badRails.filter fun r => !(railDoms r).contains k
    let s1 := (({ s with live := { s.live with badRails := rails } } : State).setDom k .on).completeRun (fun x => x == .powerOn k) {}
    let s2 := if s.dom[k].offAfterInit then s1.startDrain k else (s1.domReady k).bootFollows k
    .next (s2.nextRamp.servedOwn.settleReturns)

/-- DOMAIN_DRAIN_DONE (R455): the domain is OFF; ports and links of a link domain are down. -/
def execDomainDrainDone (t : Nat) (k : DomId) (s0 : State) : Host.Outcome State Fault Refusal :=
  let s := s0.at t
  if s.domSt k ≠ .draining then .next s
  else
    let s1 := s.nowOff k
    let s2 := if k = pdEth then s1.forAll allEth State.portDown else if k = pdFab then s1.forAll allLinks State.linkDown else s1
    .next (s2.servedOwn.nextRamp)

/-! ## Units and clusters (R22 to R27, R48, R54) -/

/-- The item that a unit abandons is erased as a missed deadline would erase it, without the deadline counters (R22, R54). -/
def State.eraseItem (s : State) (k : DomId) (item : UnitItem) : State :=
  match item, domBerth k with
  | .rxSymbol n, some b => s.eraseSymbol b n
  | .codeword i llrs, some b => s.failCw b i llrs
  | .txSymbol, some b => s.abortTx b
  | .driver, some b => s.modBerth b fun x => { x with hsLost := true, tx := none }
  | .store m, _ => s.storeWatchdog m
  | _, _ => s

/-- UNIT_WATCHDOG_EXPIRY (R22, R23, R27): the item is erased and counted; three in one period declare the cluster faulty. -/
def execUnitWatchdogExpiry (t : Nat) (k : DomId) (item : UnitItem) (s0 : State) : Host.Outcome State Fault Refusal :=
  let s := s0.at t
  if s.domSt k ≠ .on ∧ s.domSt k ≠ .draining then .next s
  else
    let n := s.dom[k].wdPeriod + 1
    let s1 := ((s.setDomRec k { s.dom[k] with wdPeriod := n }).bump .fltWatchdog k).eraseItem k item
    .next (if 3 ≤ n then s1.clusterFault k else s1)

/-- CLUSTER_PERIOD_DEADLINE (R26, R27, R48): the period is committed with its margin, or dropped; eight drops in a row declare the cluster
faulty. -/
def execClusterPeriodDeadline (t : Nat) (k : DomId) (done : Bool) (marginPct : Nat) (s0 : State) : Host.Outcome State Fault Refusal :=
  let s := s0.at t
  if s.domSt k ≠ .on then .next s
  else
    let d := s.dom[k]
    if done then
      .next (s.setDomRec k { d with wdPeriod := 0, dropRow := 0, windowMin := some (min (d.windowMin.getD 100) (min marginPct 100)) })
    else
      let n := d.dropRow + 1
      let s1 := (s.setDomRec k { d with wdPeriod := 0, dropRow := n }).missDeadline k
      .next (if 8 ≤ n then s1.clusterFault k else s1)

/-! ## Supplies, clock, dies (R433, R446, R320) -/

/-- The loops step now: their gates follow the table of R345. -/
def State.stepLoops (s : State) : State := s.forAll (List.finRange 4) State.loopStep

/-- A domain that is powered enters FAULT with EV_CLUSTER_FAULT. -/
def State.faultPowered (s : State) (k : DomId) : State :=
  if k = pdSec ∨ s.domSt k = .off ∨ s.domSt k = .fault then s else s.clusterFault k

/-- RAIL_OUT_OF_RANGE (R433): every driver at high impedance, every loop gate undriven, the domains fed in FAULT. VDD_DRV and VDD_SENSE are judged by
their own rules. -/
def execRailOutOfRange (t : Nat) (rail : Rail) (s0 : State) : Host.Outcome State Fault Refusal :=
  let s := s0.at t
  if rail = .drv ∨ rail = .sense then .next s
  else
    let s1 : State := { s with live := { s.live with badRails := if s.live.badRails.contains rail then s.live.badRails else rail :: s.live.badRails } }
    let s2 := (s1.forAll allBerths fun a b => a.modBerth b fun x => { x with tx := none }).stepLoops
    let s3 := s2.forAll (railDoms rail) State.faultPowered
    .next (if (railDoms rail).isEmpty then s3 else s3.bootFault5)

/-- VDD_SENSE_LOW (R433): below 4.50 V for 10 µs. -/
def execVddSenseLow (t : Nat) (s0 : State) : Host.Outcome State Fault Refusal :=
  let s := s0.at t
  .next ((({ s with live := { s.live with senseLow := true } } : State).stepLoops).faultPowered pdSense)

/-- XO_IN_LOSS (R320): PD_CLK enters FAULT; at bring-up Starter stops with a clock fault. -/
def execXoInLoss (t : Nat) (s0 : State) : Host.Outcome State Fault Refusal :=
  let s := s0.at t
  .next ((s.faultPowered pdClk).bootFault5)

/-! ## PMBus, GPIO, test port (R431, R442, R443) -/

/-- The listed regulator addresses (R444). -/
def State.pmbAddrs (s : State) : List Nat := (s.fget .pmbAddr 44).filterMap fun a => if a = 0 then none else some a.toNat

/-- One regulator is read: its STATUS_WORD, none when the transaction was abandoned; CLEAR_FAULTS follows each read (R431). -/
def State.pmbPoll (s : State) (x : Nat × Option (BitVec 16)) : State :=
  let s1 := s.emit (.pmbRead x.1)
  match x.2 with
  | some w =>
    let s2 := if w = 0 then s1 else s1.statSet .pmbStatusLast 44 0 w.toNat
    s2.emit (.pmbClear x.1)
  | none => s1.bump .pmbAlerts 44

/-- PMB_ALERT (R431): the words read from the listed addresses in order. An AVSBus transaction in flight completes first. -/
def execPmbAlert (t : Nat) (words : List (Option (BitVec 16))) (s0 : State) : Host.Outcome State Fault Refusal :=
  let s := s0.at t
  if !s.domOn pdMgmt then .next s
  else .next ((s.bump .pmbAlerts 44).forAll (s.pmbAddrs.zip words) State.pmbPoll)

/-- GPIO_INPUT_CHANGE (R443): gpio_in follows the pins that are inputs. -/
def execGpioInputChange (t : Nat) (level : BitVec 16) (s0 : State) : Host.Outcome State Fault Refusal :=
  let s := s0.at t
  let dir := BitVec.ofInt 16 (s.fval .gpioDir 44)
  let old := BitVec.ofInt 16 (s.stat .gpioIn 44)
  .next (s.statSet .gpioIn 44 0 ((level &&& ~~~dir ||| old &&& dir).toNat : Int))

/-- Instructions that take control of pins (R442). -/
def takesPins : JtagInstr → Bool
  | .extest | .highz | .clamp | .extestPulse | .extestTrain => true
  | _ => false

/-- The IDCODE value (R442). -/
def idcode : BitVec 64 := BitVec.ofNat 64 (2 ^ 28 + 0x3264 * 2 ^ 12 + Config.jedecId.toNat * 2 + 1)

/-- JTAG_INSTRUCTION (R442): while POR_N is deasserted an instruction that takes control of pins acts as BYPASS and is counted. -/
def execJtagInstruction (t : Nat) (i : JtagInstr) (s0 : State) : Host.Outcome State Fault Refusal :=
  let s := s0.at t
  if takesPins i && !s.boot.porLow then .next (({ s with live := { s.live with jtag := .bypass } } : State).bump .jtagRefused 44)
  else
    let s1 : State := { s with live := { s.live with jtag := i } }
    .next (if i = .idcode then s1.emit (.readData idcode) else s1)

end Sys2Proof.Machine
end

