-- ==== Sys2Proof/Machine/Domain.lean ====
section
/-! DEFINITION. The domain of a berth: its grid, beacon, allocation map and allocations, contention, acknowledgements, time over the line, tone maps and
the roll of keys (chapters 05 and 07). -/

namespace Sys2Proof.Machine
open Sys2Proof

/-- One beacon period of a berth in ns (R144). -/
def State.periodNs (s : State) (b : Berth) : Nat := s.fnat .nPeriod b * 1024000

/-- A berth coordinates a domain (R142). -/
def State.coordinates (s : State) (b : Berth) : Bool := decide (s.fnat .role b ≤ 1)

/-! ## Listening (R143) -/

/-- The berth's own domain_tag was heard from another coordinator (R143). -/
def State.clash (s : State) (b : Berth) : State := (s.raise .domainClash b (s.fnat .domainTag b)).stick .clashHist b

/-- The instant T_0 of a new grid: the first whole second of device time after now, plus beacon_offset_us (R144). -/
def State.newT0 (s : State) (b : Berth) : Nat := (((s.devSec + 1) * 1000000000 + micros (s.fnat .beaconOffset b) : Nat) - s.clk.offset).toNat

/-- A domain key for a berth that has none yet (R163). -/
def State.withKDom (s : State) (b : Berth) : State :=
  if s.line[b].kDom.isSome then s
  else
    let d := s.draw
    d.2.modLine b fun l => { l with kDom := some d.1, keySince := s.now }

/-- DOMAIN_LISTEN_END (R143, R419): after two periods of listening the grid is chosen or resumed; the berth's own tag heard is a clash. In service it is
noted at most once per 60 s. -/
def execDomainListenEnd (t : Nat) (b : Berth) (heard : List Heard) (s0 : State) : Host.Outcome State Fault Refusal :=
  let s := s0.at t
  let own := heard.any fun h => h.own
  if s.stopped b || !s.coordinates b then .next s
  else match s.line[b].grid with
    | .listening since =>
      if s.now < since + 2 * s.periodNs b || (s.line[b].kDom.isNone && s.sec.rngFailed) then .next s
      else if own = true then .next ((s.clash b).modLine b fun l => { l with grid := .clashWait s.now })
      else .next ((s.withKDom b).modLine b fun l => { l with grid := .starting (s.newT0 b) })
    | .on =>
      if s.silent b then .next s
      else match s.line[b].relisten with
      | some since =>
        if s.now < since + 2 * s.periodNs b then .next s
        else if own = true then .next ((s.clash b).modLine b fun l => { l with relisten := some (s.now + 64 * s.periodNs b) })
        else .next ((s.modLine b fun l => { l with relisten := none }).resumeCtxs b)
      | none =>
        if own = true then .next ((s.raiseEvery .domainClash (seconds 60) b (s.fnat .domainTag b)).stick .clashHist b) else .next s
    | _ => .next s

/-- DOMAIN_CLASH_WAIT_END (R143): 64 periods after a clash the berth listens afresh. -/
def execDomainClashWaitEnd (t : Nat) (b : Berth) (s0 : State) : Host.Outcome State Fault Refusal :=
  let s := s0.at t
  match s.line[b].grid with
  | .clashWait since =>
    if s.now < since + 64 * s.periodNs b ∨ s.stopped b = true then .next s
    else .next (s.modLine b fun l => { l with grid := .listening s.now })
  | _ => .next s

/-! ## Rolling keys (R167, R168, R390) -/

/-- A REKEY for the station of a context: a fresh device nonce and K_dom of the next generation (R167). -/
def State.queueRekey (s : State) (b : Berth) (c : Ctx) : State :=
  match s.line[b].kDomNext with
  | none => s
  | some k =>
    let d := s.nonce16
    let s1 : State := { d.2 with ctxs := d.2.ctxs.map fun x =>
      if x.berth = b ∧ x.station = c.station then { x with rekey := some d.1, keyNext := s.line[b].keyNext, keySwitch := s.line[b].keySwitch, dirty := true } else x }
    s1.queueMsg b c.id (List.flatten [[0x07], d.1, k])

/-- Announce a roll (R167, R390): the switch is 16 periods after the next beacon; every station gets a REKEY. -/
def State.startRoll (s : State) (b : Berth) : State :=
  let l := s.line[b]
  let d := s.draw
  let s1 := d.2.modLine b fun y => { y with keyNext := (l.keyGen + 1) % 256, keySwitch := l.bpc + 17, kDomNext := some d.1 }
  s1.forAll (s1.ctxs.filter fun c => c.berth == b && c.ctxSel == 0 && (c.st == .active || c.st == .dormant || c.st == .held)) fun a c => a.queueRekey b c

/-- A roll is announced and its switch has not come. -/
def Line.rolling (l : Line) : Bool := l.keyNext != l.keyGen

/-- KEY_AGE_ROLL (R168): the generation has been in use for key_age_max_days. -/
def execKeyAgeRoll (t : Nat) (b : Berth) (s0 : State) : Host.Outcome State Fault Refusal :=
  let s := s0.at t
  let l := s.line[b]
  if s.coordinates b && l.kDom.isSome && !l.rolling && !s.drained .mgmt && !s.sec.rngFailed && decide (l.keySince + s.fnat .keyAgeMax b * seconds 86400 ≤ s.now) then
    .next ((s.startRoll b).raise .keyAge b ((l.keyGen + 1) % 256))
  else .next s

/-- The switch of generations at its boundary (R167). -/
def State.switchKeys (s : State) (b : Berth) : State :=
  let l := s.line[b]
  if l.rolling && reached l.bpc l.keySwitch then
    s.modLine b fun y =>
        { y with keyOld := y.kDom.map fun k => (l.keyGen, k, l.keySwitch + 16), keyGen := l.keyNext, kDom := l.kDomNext, kDomNext := none,
                 keySince := s.now }
  else s

/-- A context when generation `g` retires (R167, R174, R221): the next one becomes current, or the context closes; its soft values go. -/
def ctxRetire (b : Berth) (g : Nat) (c : Ctx) : Ctx :=
  if c.berth = b ∧ c.keyCur = g ∧ c.st ≠ .closing ∧ c.st ≠ .remote then
    let c1 : Ctx := { c with soft := c.soft.filter fun (d : SoftDesc) => d.keyGen != g, dirty := true }
    if c.kFrameNext ≠ [] then { c1 with keyCur := c.keyNext, kFrame := c.kFrameNext, kFrameNext := [], rekey := none }
    else if c.st = .held then { c1 with stale := true }
    else c1
  else c

/-- Retirement of the old generation 16 periods after the switch (R167): a station that has not completed its REKEY loses its contexts. -/
def State.retireKeys (s : State) (b : Berth) : State :=
  match s.line[b].keyOld with
  | some (g, _, at_) =>
    if reached s.line[b].bpc at_ then
      let lost := s.ctxs.filter fun c => c.berth == b && c.keyCur == g && c.kFrameNext == [] && (c.st == .active || c.st == .dormant || c.st == .joining)
      let s1 : State := { s with ctxs := s.ctxs.map (ctxRetire b g) }
      (s1.modLine b fun l => { l with keyOld := none }).forAll lost fun a c => if c.st = .joining then a else a.ctxTo c.id .closing
    else s
  | none => s

/-- REKEY (R167): received by the station side, it holds the next generation's key and answers REKEY_ACK; with no message, the coordinator sends one to
the station of the context. -/
def execRekey (t : Nat) (b : Berth) (ctx : Nat) (bytes : Bytes) (s0 : State) : Host.Outcome State Fault Refusal :=
  let s := s0.at t
  if bytes = [] then
    match s.ctx? ctx with
    | some c => if c.berth = b ∧ s.line[b].rolling = true ∧ s.drained .mgmt = false then .next (s.queueRekey b c) else .next s
    | none => .next s
  else
    let x := s.line[b].st
    if bytes.length ≠ 49 ∨ bytes.headD 0 ≠ 0x07 ∨ x.joined = false then .next s
    else
      let d := s.nonce16
      let dev := (bytes.drop 1).take 16
      .next ((d.2.modLine b fun l => { l with st := { l.st with kDomNext := some (bytes.drop 17), kSessNext := some (rolledSessionKey x.kSess dev d.1) } }).queueMsg b
        noCtx ([0x08] ++ d.1))

/-- REKEY_ACK (R167, R163): the station's nonce completes the roll of its session key. -/
def execRekeyAck (t : Nat) (b : Berth) (ctx : Nat) (bytes : Bytes) (s0 : State) : Host.Outcome State Fault Refusal :=
  let s := s0.at t
  match s.ctx? ctx with
  | some c =>
    match c.rekey with
    | some dev =>
      if bytes.length ≠ 17 ∨ bytes.headD 0 ≠ 0x08 ∨ c.berth ≠ b then .next s
      else
        let k := rolledSessionKey c.kSess dev (bytes.drop 1)
        .next { s with ctxs := s.ctxs.map fun x =>
          if x.berth = b ∧ x.station = c.station then
            { x with kSess := k, kFrameNext := frameKeyOf k x.keyNext x.ctxSel x.domainTag, rekey := none, dirty := true }
          else x }
    | none => .next s
  | none => .next s

/-! ## The map (R149, R150, R156, R158, R458) -/

/-- Two entries overlap. -/
def overlaps (a c : Alloc) : Bool := decide (a.start < c.start + c.dur ∧ c.start < a.start + a.dur)

/-- An entry lies in its period, outside the beacon slot (R144, R149). -/
def insideOf (a : Alloc) (n : Nat) : Bool := decide (1024 ≤ a.start ∧ 1 ≤ a.dur ∧ a.start + a.dur ≤ n * 1024 ∧ a.src < 4096 ∧ a.dst < 4096)

/-- Add the entries that overlap none before them. -/
def addFree (l new : List Alloc) : List Alloc := new.foldl (fun acc a => if acc.any (overlaps a) then acc else acc ++ [a]) l

/-- The coordinator transmits, or receives, in an entry (R149): acknowledgements count. -/
def entrySends (a : Alloc) : Bool := decide (a.kind ≤ 4 ∨ a.kind = 6 ∨ a.kind = 7)
def entryHears (a : Alloc) : Bool := decide (a.kind ≤ 6) && !(a.kind == 0 && a.src == 0 && a.dst == 0)

/-- A reception in one entry overlaps a transmission in the other (R157). -/
def barred (a c : Alloc) : Bool := overlaps a c && ((entryHears a && entrySends c) || (entrySends a && entryHears c))

/-- The entries of the maps in force of the berths in conflict with this one (R136, R157), with their beacon slots, in µs from the period that begins; what ends
before it is left out, and a part of a microsecond counts whole. -/
def State.nbrBars (s : State) (b : Berth) : List Alloc :=
  let conflict := fun (x y : Berth) => (List.range 3).any fun j => s.stat .nbrConflict x j == 1 && (s.fget .nbrRef x).getD j 255 == (y.val : Int)
  (allBerths.filter fun k => k != b && s.line[k].grid == .on && !s.silent k && (conflict b k || conflict k b)).flatMap fun k =>
    let l := s.line[k]
    let beacon : Alloc := { start := 0, dur := 1024, src := 0, dst := 0, kind := 7, persist := false }
    ((beacon :: l.map ++ [{ beacon with start := s.fnat .nPeriod k * 1024 }]).filter fun (a : Alloc) => decide (s.now < l.periodAt + micros (a.start + a.dur))).map fun (a : Alloc) =>
      let first := (l.periodAt + micros a.start - s.now) / 1000
      ({ a with start := first, dur := ceilDiv (l.periodAt + micros (a.start + a.dur) - s.now) 1000 - first } : Alloc)

/-- Put an entry at the first free place that starts in [lo, hi); `bars` are the neighbours' entries that it must not meet. -/
def insertFit (l bars : List Alloc) (n dur lo hi kind : Nat) : List Alloc :=
  let at_ := fun c => ({ start := c, dur := dur, src := 0, dst := 0, kind := kind, persist := false } : Alloc)
  let cands := sortBy (fun x y => decide (x < y)) ((lo :: (l ++ bars).map fun a => a.start + a.dur).filter fun c => decide (lo ≤ c ∧ c < hi))
  match cands.find? fun c => insideOf (at_ c) n && !l.any (overlaps (at_ c)) && !bars.any (barred (at_ c)) with
  | some c => l ++ [at_ c]
  | none => l

/-- Messages that a join owes on the broadcast allocation of this period: a challenge or a rejection caused in an earlier period, at most 2 ago
(R160, R458). -/
def joinsOwed (l : Line) : List Join :=
  (l.joins.filter fun (j : Join) => (j.reject.isSome || !j.challenged) && j.causeBpc != l.bpc && decide ((l.bpc - j.causeBpc).toNat ≤ 2)).take 16

/-- The station pairs of R157: A's latest report, at most 8 periods old, lists B at least pair_margin_db below, or not at all. -/
def State.mayPair (s : State) (b : Berth) (down up : Nat) : Bool :=
  match s.line[b].hears.find? fun x => x.1 == down with
  | some (_, at_, levels) =>
    if 8 < (s.line[b].bpc - at_).toNat then true
    else match levels.lookup up with
      | some v => decide (v ≤ -(s.fval .pairMargin b))
      | none => true
  | none => true

/-- An entry of the scheduler's plan that the rules takeIn (R149, R156 to R158). -/
def State.admits (s : State) (b : Berth) (a : Alloc) : Bool :=
  insideOf a (s.fnat .nPeriod b) && decide (a.kind ≤ 8) && !(s.nbrBars b).any (barred a) &&
  match a.kind with
  | 1 => s.berth[b].cancel == .tracking && s.fbool .fdEnable b && s.mayPair b a.dst a.src
  | 2 => s.berth[b].cancel == .tracking && s.fbool .fdEnable b && a.src == a.dst && s.ctxs.any fun c => c.berth == b && c.station == a.src && c.fdCapable
  | 3 => a.dur == s.fnat .hiCont b
  | 5 => s.fbool .joinOpen b && a.dur == s.fnat .joinSlot b
  | 7 => s.berth[b].trainDue && a.dur == 461
  | _ => true

/-- Length in µs of the RELAY_MAP allocation and of the join broadcast allocation (R191, R458). -/
def State.relayAllocUs (s : State) (b : Berth) : Nat := ceilDiv (relayMapNs (s.fnat .giDefault b) (s.dCount b) s.mesh[b].relays.length) 1000 + 10
def State.joinAllocUs (s : State) (b : Berth) (n : Nat) : Nat := ceilDiv (n * (tAck (s.fnat .giDefault b) (s.dCount b) + 10000)) 1000

/-- The map of the period that begins, from the scheduler's plan (R156, R191, R458): the broadcast allocations, TRAINING when due, four CONTENTION_HI,
one JOIN, then the plan's other entries in its order; ascending, at most 64. -/
def State.makeMap (s : State) (b : Berth) (plan : List Alloc) : List Alloc :=
  let n := s.fnat .nPeriod b
  let bars := s.nbrBars b
  let relay := if s.mesh[b].relays.isEmpty then [] else [({ start := 1024, dur := s.relayAllocUs b, src := 0, dst := 0, kind := 0, persist := false } : Alloc)]
  let owed := (joinsOwed s.line[b]).length
  let after := 1024 + (relay.map fun (a : Alloc) => a.dur).sum
  let join := if owed = 0 then [] else [({ start := after, dur := s.joinAllocUs b owed, src := 0, dst := 0, kind := 0, persist := false } : Alloc)]
  let ok := plan.filter fun a => s.admits b a && !(a.kind == 0 && a.src == 0 && a.dst == 0)
  let l1 := addFree (relay ++ join) (ok.filter fun (a : Alloc) => a.kind == 7 || a.kind == 3 || a.kind == 5)
  let l2 := if s.berth[b].trainDue && !l1.any fun (a : Alloc) => a.kind == 7 then insertFit l1 bars n 461 1024 (n * 1024) 7 else l1
  let l3 := (List.range 4).foldl (fun (l : List Alloc) q =>
    if l.any fun (a : Alloc) => a.kind == 3 && decide (q * n * 256 ≤ a.start ∧ a.start < (q + 1) * n * 256) then l
    else insertFit l bars n (s.fnat .hiCont b) (max 1024 (q * n * 256)) ((q + 1) * n * 256) 3) l2
  let l4 := if s.fbool .joinOpen b && !l3.any fun (a : Alloc) => a.kind == 5 then insertFit l3 bars n (s.fnat .joinSlot b) 1024 (n * 1024) 5 else l3
  (sortBy (fun (x y : Alloc) => decide (x.start < y.start)) (addFree l4 (ok.filter fun (a : Alloc) => !(a.kind == 7 || a.kind == 3 || a.kind == 5)))).take 64

/-! ## The beacon (R145, R147, R148) -/

/-- The 64 bits of an allocation entry (R149). -/
def allocBytes (a : Alloc) : Bytes :=
  leBytes 8 (a.start % 2 ^ 17 + a.dur % 2 ^ 17 * 2 ^ 17 + a.src % 4096 * 2 ^ 34 + a.dst % 4096 * 2 ^ 46 + a.kind % 16 * 2 ^ 58 + b2n a.persist * 2 ^ 62)

def ClkSt.beaconCode : ClkSt → Nat
  | .locked => 0 | .holdover => 1 | .freeRun => 2 | .acquiring => 3

/-- The notches as 5-byte entries (R147). -/
def notchBytes : List Int → Bytes
  | a :: b :: r => leBytes 5 (a.toNat % 2 ^ 20 + b.toNat % 2 ^ 20 * 2 ^ 20) ++ notchBytes r
  | _ => []

/-- The beacon body of the period that begins (R147). The timestamp is the device time 5.12 µs after T_k (R145). -/
def State.beaconBody (s : State) (b : Berth) : Bytes :=
  let l := s.line[b]
  let e := s.emission b
  let ts := s.devTime + 5120
  let role := s.fnat .role b
  let head := 1 + role % 4 * 2 ^ 4 + s.fnat .joinOpen b * 2 ^ 6 + b2n (s.berth[b].cancel == .tracking && s.fbool .fdEnable b) * 2 ^ 7 +
    s.fnat .nPeriod b * 2 ^ 8 + s.fnat .domainTag b * 2 ^ 16 + l.bpc.toNat * 2 ^ 32 + ts / 1000000000 % 2 ^ 48 * 2 ^ 64 + ts % 1000000000 * 2 ^ 112 +
    min s.clk.timeErr 0xFFFF * 2 ^ 144 + s.clk.st.beaconCode * 2 ^ 160 + l.keyGen * 2 ^ 168 + l.keyNext * 2 ^ 176 + e.edge * 2 ^ 184 +
    s.fnat .giDefault b * 2 ^ 186 + l.keySwitch.toNat * 2 ^ 192 + (if role = 1 then s.fnat .ferryTag b else 0) * 2 ^ 224 +
    e.notches.length / 2 * 2 ^ 240 + l.map.length * 2 ^ 248
  List.flatten [leBytes 32 head, (List.range 216).map fun g => BitVec.ofNat 8 (e.code g), notchBytes e.notches, l.map.flatMap allocBytes]

/-- The tag of a beacon (R148). -/
def beaconTag (k : Bytes) (gen bpc tag : Nat) (body : Bytes) : Bytes := Config.gcmSeal k (gcmNonce (nonceFc 1 0 0 gen bpc 0 tag)) body []

/-- The beacon is sent (R145). -/
def State.sendBeacon (s : State) (b : Berth) : State :=
  match s.line[b].kDom with
  | none => s
  | some k =>
    let l := s.line[b]
    let body := s.beaconBody b
    let pay := body ++ beaconTag k l.keyGen l.bpc.toNat (s.fnat .domainTag b) body
    let fc : FrameCtl := { nonceFc 1 0 0 l.keyGen l.bpc.toNat 0 (s.fnat .domainTag b) with bcast := true, gi := s.fnat .giDefault b, mode := 1, len := pay.length }
    ((s.sendFrame b fc (nSymbols (nCodewords false pay.length) (ldpcN false 0) (hardtackB 1 (s.dCount b))) pay none).bump .beaconsSent b)

/-! ## Boundaries (R83, R144, R457) -/

/-- The taps of each reference slot whose berth has changed restart at 0 (R127). -/
def State.newRefs (before s : State) (b : Berth) : State :=
  s.forAll (List.finRange 3) fun a j =>
    if (before.fget .nbrRef b).getD j.val 255 = (s.fget .nbrRef b).getD j.val 255 then a
    else a.modBerth b fun x => { x with taps := x.taps.set (j.val + 1) [] }

/-- Settings of a berth that wait for a beacon boundary take effect, those due at its present bpc or all (R83), and what follows from them. -/
def State.applyWaiting (s : State) (b : Berth) (all : Bool) : State :=
  let was := s.fbool .txEnable b
  let s1 := s.newRefs (s.release fun f j bpc =>
    decide (f.desc.app = .beacon ∧ j = b.val) && (match bpc with | some k => all || reached s.line[b].bpc k | none => true)) b
  let s2 := s1.modBerth b fun x => { x with thermal := x.thermal || x.thermalDue, thermalDue := false }
  let s3 := s2.updateBackoff b
  let now_ := s3.fbool .txEnable b
  if was && !now_ then (s3.holdCtxs b).silence b
  else if !was && now_ then
    let s4 := s3.modBerth b fun x => { x with heldOff := false }
    if s4.silent b || s4.line[b].relisten.isSome then s4 else s4.resumeCtxs b
  else s3

/-- Settings that take effect at this boundary (R83). -/
def State.boundarySettings (s : State) (b : Berth) : State := s.applyWaiting b false

/-- A swap that is armed for this boundary, or for the next start of service, takes place (R415, R417). -/
def State.doSwap (s : State) (b : Berth) : State :=
  match s.berth[b].swap with
  | some (slot, at_) =>
    if at_ = 0 ∨ reached s.line[b].bpc at_ = true then
      let rel := ((s.boot.ucImg[(if slot then 1 else 0 : Fin 2)]).map fun (i : ImgInfo) => i.release).getD 0
      (((s.modBerth b fun x => { x with ucSlot := some slot, swap := none }).report .ucRelease b 0 rel).bump .swaps b).raise .berthSwapped b
        (s.line[b].bpc.toNat % 2 ^ 25)
    else s
  | none => s

/-- Soft values and parts of frames age (R221). -/
def State.ageSoft (s : State) (b : Berth) : State :=
  let bpc := s.line[b].bpc
  let max_ := s.fnat .softAgeMax 0
  ({ s with ctxs := s.ctxs.map fun c =>
      if c.berth = b then { c with soft := c.soft.filter fun (d : SoftDesc) => decide ((bpc - d.written).toNat < max_) } else c } : State).modBerth b fun x =>
    { x with partials := x.partials.filter fun (p : PartFrame) => decide ((bpc - p.bpc).toNat < max_) }

/-- The contexts of the stations named in the map are held in the cache (R216). -/
def State.pinCtxs (s : State) (b : Berth) : State :=
  let named := s.line[b].map.flatMap fun (a : Alloc) => [a.src, a.dst]
  let ids := (s.ctxs.filter fun c => c.berth == b && c.station != 0 && named.contains c.station).map (·.id)
  let others := s.hold.pins.filter fun i => !(s.ctxs.any fun c => c.id == i && c.berth == b)
  let s1 : State := { s with hold := { s.hold with pins := (ids ++ others).take 8192 } }
  s1.forAll ids fun a i => a.cacheUse i

/-- Joins whose message has not been sent within 2 periods are given up (R160, R161). -/
def State.expireJoins (s : State) (b : Berth) : State :=
  s.modLine b fun l => { l with joins := l.joins.filter fun (j : Join) => (j.challenged && !j.proven && j.reject.isNone) || decide ((l.bpc - j.causeBpc).toNat ≤ 2) || j.proven }

/-- A drain of the berth's region reaches it at the end of its period (R419): it is silent; the drain completes with its last berth. -/
def State.drainBerth (s : State) (b : Berth) : State :=
  if !s.line[b].draining then s
  else
    let s1 := ((s.modLine b fun l => { l with draining := false }).holdCtxs b).silence b
    let r := berthRegion b
    if allBerths.any fun k => berthRegion k == r && s1.line[k].draining then s1
    else ({ s1 with region := s1.region.set r.idx { s1.region[r.idx] with done := true } } : State).completeRun (fun x => x == .drain r) {}

/-- A boundary of the grid (R144, R457): the counter, the drain, the settings, the keys. -/
def State.boundary (s : State) (b : Berth) : State :=
  let l := s.line[b]
  let next := if l.counted then l.bpc + 1 else l.bpc
  let s1 := s.modLine b fun y => { y with grid := .on, bpc := next, counted := true, periodAt := s.now, alloc := none, allocGi := none }
  let s2 := if l.counted && l.bpc == 0xFFFFFFFF then s1.raise .bpcWrap b 0 else s1
  ((((s2.drainBerth b).boundarySettings b).switchKeys b).retireKeys b).ageSoft b

/-- The period of a coordinating berth in service (R156, R185, R190, R131): routes, relays, the map, the swap, the beacon. HR_MGMT drained leaves the
standing schedule (R35). -/
def State.openPeriod (s : State) (b : Berth) (plan : List Alloc) : State :=
  let s1 := s.doSwap b
  let s2 := if s1.drained .mgmt then s1
    else
      let a := ((s1.expireJoins b).recompute b).chooseRelays b
      a.modLine b fun l => { l with map := a.makeMap b plan }
  let s3 := (s2.pinCtxs b).sendBeacon b
  let every := s.fnat .retrainInterval b
  let first := s.line[b].trainNext
  s3.modBerth b (fun x =>
    let n := x.retrainCount + 1
    let due := every != 0 && decide (every ≤ n)
    { x with trainDue := x.trainDue || first || due, retrainCount := if due then 0 else n }) |>.modLine b fun l => { l with trainNext := false }

/-- BEACON_BOUNDARY (R144, R457, R83, R156): the berth's next boundary; `plan` is what the scheduler fills the period with. -/
def execBeaconBoundary (t : Nat) (b : Berth) (plan : List Alloc) (s0 : State) : Host.Outcome State Fault Refusal :=
  let s := s0.at t
  if !s.coordinates b then .next s
  else
    let due := match s.line[b].grid with
      | .starting t0 => decide (t0 ≤ s.now)
      | .on => true
      | _ => false
    if !due then .next s
    else
      let s0 := s.boundary b
      let s1 := if s.line[b].grid == .on || s0.silent b then s0 else s0.resumeCtxs b
      let s2 := match s1.line[b].relisten with
        | some since =>
          if since + 2 * s1.periodNs b ≤ s1.now ∧ s1.silent b = false then (s1.modLine b fun l => { l with relisten := none }).resumeCtxs b else s1
        | none => s1
      if s2.silent b || s2.line[b].relisten.isSome || !s2.mayDrive b then .next s2 else .next (s2.openPeriod b plan)

/-! ## Allocations -/

/-- Frames that were sent and not acknowledged are sent again (R154), after a contention attempt under a doubled window (R155); the station side notes the
misses of its parent and first relay (R188, R192). -/
def State.missAcks (s : State) (b : Berth) : State :=
  let lost := s.hold.frames.filter fun (f : Frame) => f.dstKind == 0 && f.dstIdx == b.val && f.sent
  let up := lost.filter fun (f : Frame) => f.role == 2 && (f.line.map fun (c : FrameCtl) => c.ackReq).getD false
  let m := s.mesh[b]
  let parent := (m.own.map fun (r : StRoute × Nat) => r.1.parent).getD 0xFFFF
  let rep1 := ((m.map.bind fun x => relayOf x.2 s.line[b].st.number).map fun (p : Nat × Nat) => p.1).getD 0xFFFF
  let sentTo := fun (n : Nat) (f : Frame) => (f.line.map fun (c : FrameCtl) => c.dst == n && f.meshHdr != []).getD false
  let nP := up.countP fun f => f.tclass == 0 && sentTo parent f
  let nR := up.countP fun f => f.tclass == 1 && sentTo rep1 f
  let missed := decide (0 < s.line[b].attempts) && (lost.any (fun (f : Frame) => f.role == 2) || m.fwd.any fun (f : FwdFrame) => f.sent)
  let s1 := if missed then s.modLine b fun l => { l with cw := min 1024 (2 * l.cw) } else s
  ({ s1 with hold := { s1.hold with frames := s1.hold.frames.map fun (f : Frame) => if f.dstKind = 0 ∧ f.dstIdx = b.val then { f with sent := false } else f } } : State).modMesh b
    fun y =>
        { y with parentFails := y.parentFails + nP, relayFails := y.relayFails + nR, direct := y.direct || decide (2 ≤ y.relayFails + nR),
                 fwd := y.fwd.map fun (f : FwdFrame) => ({ f with sent := false } : FwdFrame) }

/-- The clear JOIN_PROOF of the station side (R160). -/
def State.sendJoinProof (s : State) (b : Berth) : State :=
  let x := s.line[b].st
  match x.challenge, s.sec.root with
  | some (n, _), some root =>
    let eui := BitVec.ofNat 64 (s.fnat .stEui b)
    let p := List.flatten [[0x03], leBytes 8 eui.toNat, joinProof (installKey root eui) x.devNonce x.stNonce n eui x.devSerial]
    let fc : FrameCtl := { nonceFc 3 n 0 0 x.bpcNow.toNat 0 (s.fnat .ferryTag b) with gi := s.fnat .giDefault b }
    s.sendShort b fc (p ++ crc32cBytes p)
  | _, _ => s

/-- TT_REQ of the station side (R170): its own timestamp t1 is that of the first body sample of P1 (R169). -/
def State.sendTtReq (s : State) (b : Berth) : State :=
  match s.msgFc b noCtx 4 with
  | some (fc, k, s1) => (s1.modLine b fun l => { l with st := { l.st with t1 := some (s.devTime + 5120 : Nat) } }).sendSealed b fc k [1]
  | none => s

/-- The broadcast allocation of the RELAY_MAP (R191). -/
def State.isRelayAlloc (s : State) (b : Berth) (a : Alloc) : Bool :=
  decide (a.kind = 0 ∧ a.src = 0 ∧ a.dst = 0 ∧ a.start = 1024) && !s.mesh[b].relays.isEmpty && !s.drained .mgmt

/-- ALLOCATION_START (R149, R65, R67, R68, R128, R170, R191): a driver stopped until its next allocation returns, and the transmitter of the entry
starts. -/
def execAllocationStart (t : Nat) (b : Berth) (idx : Nat) (s0 : State) : Host.Outcome State Fault Refusal :=
  let s := s0.at t
  match s.allocAt b idx with
  | none => .next s
  | some (side, a, _) =>
    let s1 := ((s.missAcks b).modLine b fun l => { l with alloc := some idx, allocGi := none }).modBerth b fun x =>
      { x with ocStop := false, supplyStop := false, silentAlloc := false, hsLost := false, tx := none }
    if !s1.mayDrive b then .next s1
    else if side then
      let me := s1.line[b].st.number
      if a.kind = 0 ∧ a.src = me ∧ s1.line[b].st.challenge.isSome = true then .next (s1.sendJoinProof b)
      else if a.kind = 6 ∧ a.src = me ∧ s1.line[b].st.joined = true then .next (s1.sendTtReq b)
      else .next (s1.startNext b)
    else if a.kind = 7 then
      let x := s1.berth[b]
      if x.cancel = .untrained ∨ x.cancel = .tracking ∨ x.cancel = .fallback then
        .next (((s1.releaseAt .training b).modBerth b fun y => { y with cancel := .training, trainDue := false, fdFrom := none }).emit (.lineTraining b))
      else .next s1
    else if s1.isRelayAlloc b a then .next (s1.sendRelayMap b)
    else .next (s1.startNext b)

/-- ACK_TAIL_START (R152, R158): each party that received in the allocation sends its acknowledgement. -/
def execAckTailStart (t : Nat) (b : Berth) (idx : Nat) (s0 : State) : Host.Outcome State Fault Refusal :=
  let s := s0.at t
  match s.allocAt b idx with
  | none => .next s
  | some (side, a, _) =>
    let gi := s.line[b].allocGi.getD (s.fnat .giDefault b)
    let me := s.line[b].st.number
    if side then
      if a.kind = 0 ∧ a.dst = me then .next (s.sendAck b true a.src gi)
      else if (a.kind = 1 ∧ a.dst = me) ∨ (a.kind = 2 ∧ a.src = me) then .next (s.sendAck b true 0 gi)
      else .next s
    else if (a.kind = 0 ∧ a.dst = 0 ∧ a.src ≠ 0) ∨ a.kind = 1 ∨ a.kind = 2 then .next (s.sendAck b false a.src gi)
    else .next s

/-! ## Contention (R155) -/

/-- Contention windows: least and largest (R155). -/
def cwRange (kind : Nat) : Nat × Nat := match kind with | 3 => (4, 64) | 5 => (32, 1024) | _ => (16, 256)

/-- A uniform draw below n from the entropy source. -/
def State.drawBelow (s : State) (n : Nat) : Nat × State := let d := s.draw; (leNat (d.1.take 4) % max 1 n, d.2)

/-- The station side sends JOIN_REQ (R160): its EUI-64, a fresh nonce, its capabilities. The contexts it wants are its own choice. -/
def State.sendJoinReq (s : State) (b : Berth) : State :=
  let d := s.nonce16
  let v := d.2.free
  let x := s.line[b].st
  let p := List.flatten [[0x01], leBytes 8 (s.fnat .stEui b), d.1, [BitVec.ofNat 8 (s.fnat .fdEnable b % 2 + 2 * (v.1 % 4).toNat)]]
  let fc : FrameCtl := { nonceFc 3 0 0 0 x.bpcNow.toNat 0 (s.fnat .ferryTag b) with gi := s.fnat .giDefault b }
  (v.2.modLine b fun l => { l with st := { l.st with stNonce := d.1, reqBpc := some x.bpcNow } }).sendShort b fc (p ++ crc32cBytes p)

/-- The station side wants to join: it has an identity, has received two beacons, and no answer is outstanding (R94, R160). -/
def State.wantsJoin (s : State) (b : Berth) : Bool :=
  let x := s.line[b].st
  !x.joined && x.challenge.isNone && s.fnat .stEui b != 0 && decide (2 ≤ x.beacons) &&
    (match x.reqBpc with | some r => decide (3 ≤ (x.bpcNow - r).toNat) | none => true)

/-- The station side has a frame for a contention allocation: relayed frames only in CONTENTION_HI. -/
def State.contends (s : State) (b : Berth) (kind : Nat) : Bool :=
  (s.mesh[b].fwd.any fun (f : FwdFrame) => !f.sent && (kind == 4 || f.relayed)) ||
  s.hold.frames.any fun (f : Frame) => f.dstKind == 0 && f.dstIdx == b.val && f.role == 2 && !f.sent && (kind == 4 || f.tclass == 1)

/-- Start a contention frame of the station side (R153). -/
def State.startContention (s : State) (b : Berth) (a : Alloc) (t0 : Nat) : State :=
  let hi := a.kind == 3
  let tgt := (s.mesh[b].fwd.find? fun (f : FwdFrame) => !f.sent && (!hi || f.relayed)).map fun (f : FwdFrame) => f.next
  match tgt.bind fun n => s.startFwd b a t0 n hi with
  | some s1 => s1
  | none => s.startOne b a t0 true (byClass (s.hold.frames.filter fun (f : Frame) =>
      f.dstKind == 0 && f.dstIdx == b.val && f.role == 2 && !f.sent && (!hi || f.tclass == 1)))

/-- CONTENTION_SLOT (R155): an idle slot counts the backoff down, and at 0 the frame starts; a busy slot holds it. -/
def execContentionSlot (t : Nat) (b : Berth) (busy : Bool) (s0 : State) : Host.Outcome State Fault Refusal :=
  let sa := s0.at t
  match sa.curAlloc b with
  | none => .next sa
  | some (side, a, t0) =>
    -- the acknowledgement of an earlier attempt has not come by its end
    let s := if side && sa.berth[b].tx.isNone && decide ((a.kind = 3 ∨ a.kind = 4) ∧ sa.line[b].busyUntil ≤ sa.now) then sa.missAcks b else sa
    let l := s.line[b]
    let (lo, hi) := cwRange a.kind
    let want := side && s.mayDrive b && (if a.kind = 5 then s.wantsJoin b
      else decide (a.kind = 3 ∨ a.kind = 4) && l.st.joined && decide (l.attempts < 7) && s.contends b a.kind)
    if !want || s.berth[b].tx.isSome then .next s
    else
      let cw := max lo (min hi l.cw)
      let s1 := if l.backoff.isNone then
          let d := s.drawBelow cw
          d.2.modLine b fun y => { y with cw := cw, backoff := some d.1 }
        else s
      if busy = true ∨ s.now < l.busyUntil then .next s1
      else match s1.line[b].backoff with
        | some 0 =>
          let s2 := if a.kind = 5 then s1.sendJoinReq b else s1.startContention b a t0
          let dur := match s2.berth[b].tx with | some f => frameNs f.fc.gi f.nSym + 4 * tSym f.fc.gi + 10000 + tAck f.fc.gi (s.dCount b) + 40960 | none => 0
          .next (s2.modLine b fun y => { y with backoff := none, attempts := y.attempts + (if a.kind = 5 then 0 else 1), busyUntil := s.now + dur })
        | some (n + 1) => .next (s1.modLine b fun y => { y with backoff := some n })
        | none => .next s1

/-! ## Acknowledgements received (R154) -/

/-- The entries of an acknowledgement's plaintext: none when it breaks the layout. -/
def parseAck (p : Bytes) : Option (List AckEntry) :=
  let n := (p.headD 0).toNat
  if n = 0 ∨ 25 < n ∨ p.length ≠ 2 + 4 * n ∨ p.getD 1 0 ≠ 0 then none
  else
    let es := (List.range n).map fun i => (p.drop (2 + 4 * i)).take 4
    if es.all fun e => bitsAt e 19 1 == 0 && bitsAt e 28 4 == 0 then
      some (es.map fun e => ⟨bitsAt e 0 16, bitsAt e 16 2, bitsAt e 18 1 == 1, bitsAt e 20 8⟩)
    else none

/-- One entry: a delivered frame leaves its queue; of another, the codewords that converged are noted. -/
def State.takeAckEntry (s : State) (b : Berth) (side : Bool) (station : Nat) (e : AckEntry) : State :=
  let hit := fun (fc : Option FrameCtl) => (fc.map fun (c : FrameCtl) => c.seq == e.seq && c.ctxSel == e.ctxSel && (side || c.dst == station)).getD false
  match s.hold.frames.find? fun (f : Frame) => f.dstKind == 0 && f.dstIdx == b.val && f.sent && (f.role == 2) == side && hit f.line with
  | some f =>
    if e.delivered then
      let s1 := s.dropFrames [f.no]
      let s2 := if f.role = 0 then s1.modCtx f.ctx fun (c : Ctx) => ({ c with unacked := c.unacked - 1 } : Ctx) else s1
      if side then (s2.modLine b fun l => { l with cw := 0, attempts := 0 }).modMesh b fun m => { m with parentFails := 0, relayFails := 0 } else s2
    else s.setFrame { f with cwOk := f.cwOk ||| e.cwOk }
  | none =>
    if side && e.delivered then
      let s1 := if s.mesh[b].fwd.any fun (f : FwdFrame) => f.sent && hit f.line then s.modLine b fun l => { l with cw := 0, attempts := 0 } else s
      s1.modMesh b fun m => { m with fwd := m.fwd.filter fun (f : FwdFrame) => !(f.sent && hit f.line), parentFails := 0 }
    else s

/-- ACK_RX (R154): the plaintext of an accepted acknowledgement from the station of a context, or (0x3FFFF) to the station side. -/
def execAckRx (t : Nat) (b : Berth) (ctx : Nat) (bytes : Bytes) (s0 : State) : Host.Outcome State Fault Refusal :=
  let s := s0.at t
  match parseAck bytes with
  | none => .next s
  | some es => .next (s.forAll es fun a e => a.takeAckEntry b (ctx == noCtx) (s.msgTarget ctx) e)

/-! ## Time over the line (R169 to R171) -/

/-- A timestamp: 6 bytes of seconds, 4 of nanoseconds. -/
def stampBytes (t : Nat) : Bytes := leBytes 6 (t / 1000000000) ++ leBytes 4 (t % 1000000000)

/-- TT_REQ (R170): the coordinator answers with t2, the scheduled t3 and its time error. What the station computes from them is not known to the
coordinator, so the θ and δ of its context take free values (R171). -/
def execTtReq (t : Nat) (b : Berth) (ctx : Nat) (t2 : Nat) (s0 : State) : Host.Outcome State Fault Refusal :=
  let s := s0.at t
  match s.curAlloc b, s.ctx? ctx with
  | some (false, a, t0), some c =>
    if a.kind ≠ 6 ∨ a.src ≠ c.station ∨ c.berth ≠ b then .next s
    else
      let gi := s.fnat .giDefault b
      let start := t0 + micros a.start + tAck gi (s.dCount b) + 4 * tSym gi + 10000
      let t3 := (start + 5120 + s.clk.offset).toNat
      match s.msgFc b ctx 4 with
      | some (fc, k, s1) =>
        let s2 := s1.sendSealed b fc k (List.flatten [[2], stampBytes t2, stampBytes t3, leBytes 2 (min s.clk.timeErr 0xFFFF)])
        let v := s2.free
        let w := v.2.free
        .next { w.2 with ctxs := w.2.ctxs.map fun x => if x.berth = b ∧ x.station = c.station then { x with ttOffset := v.1, ttDelay := w.1, dirty := true } else x }
      | none => .next s
  | _, _ => .next s

/-- TT_RESP (R171): the station side computes δ and θ; the halves are rounded as the spec leaves open. -/
def execTtResp (t : Nat) (b : Berth) (payload : Bytes) (t4 : Nat) (s0 : State) : Host.Outcome State Fault Refusal :=
  let s := s0.at t
  if payload.length ≠ 23 ∨ payload.headD 0 ≠ 2 then .next s
  else match s.line[b].st.t1 with
    | none => .next s
    | some t1 =>
      let at_ := fun lo => (bitsAt payload lo 48 * 1000000000 + bitsAt payload (lo + 48) 32 : Nat)
      let t2 : Int := at_ 8
      let t3 : Int := at_ 88
      let d := Config.roundDiv ((t4 - t1) - (t3 - t2)) 2
      let th := Config.roundDiv ((t2 - t1) + (t3 - t4)) 2
      .next (s.modLine b fun l => { l with st := { l.st with t1 := none, delta := d, theta := th } })

/-! ## Tone maps (R113 to R118) -/

def modMaps (l : List LinkMaps) (key : Nat) (f : LinkMaps → LinkMaps) : List LinkMaps :=
  f ((l.find? fun (m : LinkMaps) => m.station == key).getD { station := key }) :: l.filter fun (m : LinkMaps) => m.station != key

/-- TONE_MAP (R116, R117): a map for transmission on a link (4,096 and above: of the station side). -/
def execToneMap (t : Nat) (b : Berth) (link : Nat) (bytes : Bytes) (s0 : State) : Host.Outcome State Fault Refusal :=
  let s := s0.at t
  let m := parseToneMap (bytes.drop 1)
  let bpc := s.line[b].bpcOf (decide (4096 ≤ link))
  if bytes.headD 0 = 0x09 ∧ toneMapOk (s.emission b) (bytes.drop 1) = true ∧ newer 32 m.validFrom.toNat bpc.toNat = true ∧ (m.validFrom - bpc).toNat ≤ 256 then
    .next (s.modBerth b fun x => { x with maps := modMaps x.maps link fun y => { y with held := m :: y.held.filter fun (z : ToneMap) => z.id != m.id } })
  else .next (s.bump .tmInvalid b)

/-- An id not in use on the link; when all are, that of the oldest map issued (R117). -/
def freeMapId (issued : List ToneMap) : Nat :=
  match ((List.range 15).map (· + 1)).find? fun i => !issued.any fun (m : ToneMap) => m.id == i with
  | some i => i
  | none => (issued.getLast?.map fun (m : ToneMap) => m.id).getD 1

/-- TONE_MAP_ISSUE (R114, R117, R118): the link's figures are reported; a new map goes out when r Σ b has changed by 5 % or more, at most once per
period. `snr` gives γ of carriers 37 on in 0.1 dB. -/
def execToneMapIssue (t : Nat) (b : Berth) (link : Nat) (snr : List Nat) (s0 : State) : Host.Outcome State Fault Refusal :=
  let s := (s0.at t).releaseAt .toneMap b
  let e := s.emission b
  let side := decide (4096 ≤ link)
  let bpc := s.line[b].bpcOf side
  let maxB := s.fnat .maxBits b
  let (entries, rate) := loadBits e (s.fnat .rateMask b) (s.fnat .loadMargin b) maxB (snr.map Int.ofNat)
  let lm := (s.berth[b].maps.find? fun (m : LinkMaps) => m.station == link).getD { station := link }
  let val := fun (r : Nat) (n : Nat) => (rateFrac r).1 * n * (18 / (rateFrac r).2)
  let new := val rate entries.sum
  let cur := lm.issued.head?
  let changed := match cur with
    | some m => decide (20 * max new (val m.rate m.bits) - 20 * min new (val m.rate m.bits) ≥ val m.rate m.bits)
    | none => true
  let rep := fun (a : State) (ents : List Nat) (r : Nat) =>
    let c := Config.capacityReport snr ents r
    let k := link + 1
    let f := a.free
    let g := f.2.free
    let h := g.2.free
    let d := h.2.free
    let a1 := ((((((d.2.report .capRatio b k c.1).report .snrGap b k c.2.1).report .meanSnr b k c.2.2).report .cappedCarriers b k
      (ents.countP fun x => x == maxB)).report .bitsPerSymbol b k ents.sum).report .codeRate b k r)
    (((((a1.report .fdGain b 0 d.1).report .capRatio b 0 f.1).report .snrGap b 0 g.1).report .meanSnr b 0 h.1).report .bitsPerSymbol b 0 ents.sum).report .codeRate b 0 r
  let s1 := match cur with | some m => rep s m.entries m.rate | none => rep s entries rate
  if changed && lm.lastIssue != some bpc then
    let m : ToneMap := { id := freeMapId lm.issued, gi := s.fnat .giDefault b, rate := rate, edge := e.edge, bits := entries.sum, validFrom := bpc + 2, entries := entries }
    let s2 := s1.modBerth b fun x =>
      { x with maps := modMaps x.maps link fun y => { y with issued := m :: y.issued.filter fun (z : ToneMap) => z.id != m.id, lastIssue := some bpc } }
    let owner := if side then some noCtx else (s.ctxs.find? fun c => c.berth == b && c.station == link && c.ctxSel == 0).map fun (c : Ctx) => c.id
    let s3 := match owner with | some c => s2.queueMsg b c ([0x09] ++ toneMapBytes m) | none => s2
    -- a change of a receive link's map calls for a LINK_REPORT of the station side (R183)
    .next (if side then s3.modMesh b fun y => { y with reportDue := true } else s3)
  else .next s1

/-! ## Reports of what stations hear (R157) -/

/-- HEAR_REPORT (R160): a count of at most 64, then station number and level, three bytes each. -/
def execHearReport (t : Nat) (b : Berth) (ctx : Nat) (bytes : Bytes) (s0 : State) : Host.Outcome State Fault Refusal :=
  let s := s0.at t
  let n := (bytes.getD 1 0).toNat
  match s.ctx? ctx with
  | some c =>
    if bytes.headD 0 ≠ 0x0A ∨ 64 < n ∨ bytes.length ≠ 2 + 3 * n then .next s
    else
      let es := (List.range n).map fun i => (bitsAt bytes (16 + 24 * i) 16, intOfLe 1 ((bytes.drop (4 + 3 * i)).take 1))
      .next (s.modLine b fun l => { l with hears := (c.station, l.bpc, es) :: l.hears.filter fun x => x.1 != c.station })
  | none => .next s

/-! ## The station side's beacons (R148, R150, R151) -/

/-- A beacon body as received (R147). -/
structure Beacon where
  role : Nat
  joinOpen : Bool
  n : Nat
  tag : Nat
  bpc : BitVec 32
  gen : Nat
  genNext : Nat
  switch : BitVec 32
  allocs : List Alloc
  deriving DecidableEq, Repr

/-- The entries of a beacon are ascending, apart and inside their period (R150). -/
def allocsOk (n : Nat) : List Alloc → Bool
  | a :: b :: r => insideOf a n && decide (a.start + a.dur ≤ b.start) && allocsOk n (b :: r)
  | [a] => insideOf a n
  | [] => true

/-- Parse a beacon's payload (R147, R150): none when it is invalid. -/
def parseBeacon (p : Bytes) : Option Beacon :=
  let nn := bitsAt p 240 8
  let na := bitsAt p 248 8
  let n := bitsAt p 8 8
  let allocs := (List.range na).map fun i =>
    let e := (p.drop (248 + 5 * nn + 8 * i)).take 8
    ({ start := bitsAt e 0 17, dur := bitsAt e 17 17, src := bitsAt e 34 12, dst := bitsAt e 46 12, kind := bitsAt e 58 4, persist := bitsAt e 62 1 == 1 } : Alloc)
  if bitsAt p 0 4 = 1 ∧ nn ≤ 32 ∧ na ≤ 64 ∧ 16 ≤ n ∧ n ≤ 128 ∧ p.length = 248 + 5 * nn + 8 * na + 16 ∧ bitsAt p 112 32 < 1000000000 ∧ allocsOk n allocs = true then
    some { role := bitsAt p 4 2, joinOpen := bitsAt p 6 1 == 1, n := n, tag := bitsAt p 16 16, bpc := BitVec.ofNat 32 (bitsAt p 32 32), gen := bitsAt p 168 8,
           genNext := bitsAt p 176 8, switch := BitVec.ofNat 32 (bitsAt p 192 32), allocs := allocs }
  else none

/-- The LINK_REPORT of the station side (R183). -/
def State.linkReportPlain (s : State) (b : Berth) : Bytes :=
  let m := s.mesh[b]
  let es := m.stLinks.take 64
  let kib := ceilDiv (m.fwd.foldl (fun n (f : FwdFrame) => n + f.data.length) 0) 1024
  List.flatten [[0x0B, BitVec.ofNat 8 es.length, BitVec.ofNat 8 (b2n m.parentLost + 2 * b2n m.rankDrop)], leBytes 2 (min 65535 kib),
    es.flatMap fun (r : LinkRep) => leBytes 6 (r.from_ % 4096 + r.bps % 65536 * 2 ^ 16 + r.rate % 4 * 2 ^ 32 + r.gi % 4 * 2 ^ 34 + r.ok64 * 2 ^ 40)]

/-- The station side's own steps at a verified beacon: link reports every 4 periods or when due (R183), windows of neighbours heard in the last 64
periods (R180), a roll completed (R167), and in role 2 the settings that wait for a boundary (R83). -/
def State.stPeriod (s : State) (b : Berth) : State :=
  let x := s.line[b].st
  let s1 := s.modLine b fun l =>
    let st : StationSide := { l.st with wins := l.st.wins.filter fun (w : HopWindow) => decide (w.key < 1024) || decide ((x.bpcNow - w.bpc).toNat ≤ 64) }
    let st' : StationSide := if x.kSessNext.isSome && reached x.bpcNow (x.keySwitch + 16) then
        { st with keyGen := (x.keyGen + 1) % 256, kSess := x.kSessNext.getD x.kSess, kDom := x.kDomNext.getD x.kDom, kSessNext := none, kDomNext := none }
      else st
    { l with st := st' }
  let s2 := if x.bpcNow.toNat % 4 = 0 ∨ s.mesh[b].reportDue = true then
      (s1.queueMsg b noCtx (s1.linkReportPlain b)).modMesh b fun m => { m with reportDue := false, parentLost := false, rankDrop := false }
    else s1
  if s.fnat .role b = 2 then
    let s3 := (s2.modLine b fun l => { l with bpc := x.bpcNow, counted := true, periodAt := s.now })
    ((s3.drainBerth b).boundarySettings b).doSwap b
  else s2

/-- BEACON_RX (R148, R150, R151): the payload of a beacon of the neighbouring domain. A joined station uses a beacon whose tag verifies and whose bpc
is newer; before the join it serves for the JOIN allocations alone. -/
def execBeaconRx (t : Nat) (b : Berth) (bytes : Bytes) (s0 : State) : Host.Outcome State Fault Refusal :=
  let s := s0.at t
  let role := s.fnat .role b
  if role ≠ 1 ∧ role ≠ 2 then .next s
  else match parseBeacon bytes with
    | none => .next (s.bump .bcnInvalid b)
    | some k =>
      let x := s.line[b].st
      if k.tag ≠ s.fnat .ferryTag b then .next s
      else if x.joined then
        let body := bytes.take (bytes.length - 16)
        let tagOk := (x.domKey k.gen).any fun key => beaconTag key k.gen k.bpc.toNat k.tag body == bytes.drop (bytes.length - 16)
        let fresh := (x.lastBpc.map fun (p : BitVec 32) => newer 32 k.bpc.toNat p.toNat).getD true
        if tagOk = true ∧ fresh = true then
          let gap := (x.lastBpc.map fun (p : BitVec 32) => (k.bpc - p).toNat - 1).getD 0
          .next (((s.modLine b fun l => { l with st :=
              { l.st with lastBpc := some k.bpc, map := k.allocs, nPeriod := k.n, periodAt := s.now, missed := 0,
                          beacons := l.st.beacons + 1,
                          keySwitch := if k.genNext ≠ k.gen then k.switch else l.st.keySwitch } }).bump .beaconsMissed b 0 gap).stPeriod b)
        else .next (s.bump .bcnInvalid b)
      else
        .next (s.modLine b fun l => { l with st :=
            { l.st with lastBpc := some k.bpc, nPeriod := k.n, periodAt := s.now, beacons := l.st.beacons + 1,
                        map := k.allocs.filter fun (a : Alloc) => a.kind == 5 || (a.kind == 0 && l.st.challenge.isSome) } })

/-- COORD_LOST (R151): eight periods without a verified beacon; the station side stops and joins afresh; in role 2 no domain is joined now, and what waits for
a boundary applies at once (R83). -/
def execCoordLost (t : Nat) (b : Berth) (s0 : State) : Host.Outcome State Fault Refusal :=
  let s := s0.at t
  let x := s.line[b].st
  if x.joined && decide (8 ≤ s.stElapsed b) then
    let s1 := (s.modLine b fun l => { l with st := {} }).modMesh b fun m =>
      { m with own := none, map := none, fwd := [], stLinks := [], stFirst64 := [], parentFails := 0, relayFails := 0, direct := false }
    let s2 := ((s1.bump .beaconsMissed b 0 (s.stElapsed b)).raise .coordLost b (s.fnat .ferryTag b)).stick .coordLostHist b
    .next (if s.fnat .role b = 2 then s2.applyWaiting b true else s2)
  else .next s

end Sys2Proof.Machine
end

