-- ==== Sys2Proof/Machine/Join.lean ====
section
/-! DEFINITION. Joining a domain, both sides (R159 to R162, R458). -/

namespace Sys2Proof.Machine
open Sys2Proof

/-! ## Numbers and contexts (R162) -/

/-- Station numbers of a berth in use, by contexts or by joins under way. -/
def State.numbersUsed (s : State) (b : Berth) : List Nat :=
  ((s.ctxs.filter fun c => c.berth == b).map (·.station) ++ (s.line[b].joins.filter fun (j : Join) => j.reject.isNone).map fun (j : Join) => j.number).eraseDups

/-- The lowest station number neither in use nor in quarantine. -/
def State.freeNumber (s : State) (b : Berth) : Option Nat :=
  let used := s.numbersUsed b
  ((List.range 4095).map (· + 1)).find? fun n => !used.contains n && !s.line[b].quarantine.any fun q => q.1 == n

/-- Stations of all domains together. -/
def State.stationCount (s : State) : Nat := (allBerths.map fun b => (s.numbersUsed b).length).foldl (· + ·) 0

/-- Context ids taken, ascending: contexts that are not FREE, and those promised to joins. -/
def State.idsTaken (s : State) : List Nat :=
  sortBy (fun x y => decide (x < y)) (s.ctxs.map (·.id) ++ allBerths.flatMap fun b =>
    (s.line[b].joins.filter fun (j : Join) => j.reject.isNone && !j.challenged).flatMap fun (j : Join) => (List.range j.nCtx).map fun i => j.ctx + i)

/-- Runs of free ids below 262,144: first id and length. -/
def freeRuns : Nat → List Nat → List (Nat × Nat)
  | lo, [] => if lo < 262144 then [(lo, 262144 - lo)] else []
  | lo, x :: r => if lo < x then (lo, x - lo) :: freeRuns (x + 1) r else freeRuns (max lo (x + 1)) r

/-- The lowest run of the length asked for, or the longest shorter one (R162). -/
def grantRun (runs : List (Nat × Nat)) (want : Nat) : Option (Nat × Nat) :=
  match runs.find? fun r => decide (want ≤ r.2) with
  | some r => some (r.1, want)
  | none => runs.foldl (fun (a : Option (Nat × Nat)) r => match a with
      | none => some r
      | some q => if q.2 < r.2 then some r else some q) none

/-! ## Failures and lockouts (R161) -/

/-- The identity is refused now. -/
def State.lockedOut (s : State) (b : Berth) (eui : BitVec 64) : Bool :=
  match s.line[b].joinFails.find? fun (f : JoinFail) => f.eui == eui with
  | some f => (f.until_.map fun u => decide (s.now < u)).getD false
  | none => false

/-- A failed proof: counted; from the fifth on a refusal of 1 min that doubles up to 1 hour. -/
def State.joinFailed (s : State) (b : Berth) (eui : BitVec 64) : State :=
  let l := s.line[b]
  let f := (l.joinFails.find? fun (x : JoinFail) => x.eui == eui).getD ⟨eui, 0, none, 0⟩
  let n := f.fails + 1
  let mins := if n < 5 then 0 else if f.lastMin = 0 then 1 else min 60 (2 * f.lastMin)
  let g : JoinFail := { f with fails := n, lastMin := if n < 5 then f.lastMin else mins, until_ := if n < 5 then f.until_ else some (s.now + seconds (60 * mins)) }
  let s1 := (s.modLine b fun y => { y with joinFails := g :: y.joinFails.filter fun (x : JoinFail) => x.eui != eui }).bump .joinFail b
  if n < 5 then s1 else (s1.bump .joinLockout b).raise .joinLockout b (60 * mins)

/-- The contexts of a join in JOINING return to FREE. -/
def State.freeJoining (s : State) (b : Berth) (eui : BitVec 64) : State :=
  s.forAll (s.ctxs.filter fun c => c.berth == b && c.eui == eui && c.st == .joining) fun a c => a.freeCtx c

/-- A join ends. -/
def State.endJoin (s : State) (b : Berth) (eui : BitVec 64) : State :=
  (s.freeJoining b eui).modLine b fun l => { l with joins := l.joins.filter fun (j : Join) => j.eui != eui }

def State.addJoin (s : State) (b : Berth) (j : Join) : State := s.modLine b fun l => { l with joins := l.joins ++ [j] }

/-! ## The coordinator -/

/-- JOIN_REQ (R160 to R162): a challenge is prepared, or a rejection. Served while the berth's domain accepts joins and HR_MGMT is not drained. -/
def execJoinReq (t : Nat) (b : Berth) (msg : Bytes) (s0 : State) : Host.Outcome State Fault Refusal :=
  let s := s0.at t
  if msg.length ≠ 30 ∨ msg.headD 0 ≠ 0x01 ∨ clearCrcOk msg = false then .next s
  else if s.drained .mgmt || s.silent b || !s.coordinates b || !s.fbool .joinOpen b || s.line[b].kDom.isNone then .next s
  else
    let eui := BitVec.ofNat 64 (bitsAt msg 8 64)
    let s1 := s.endJoin b eui
    let j0 : Join := { eui := eui, stNonce := (msg.drop 9).take 16, fdCapable := bitsAt msg 200 1 == 1, wanted := bitsAt msg 201 2 + 1, causeBpc := s.line[b].bpc }
    if s1.lockedOut b eui then .next (s1.addJoin b { j0 with reject := some 2 })
    else if s1.fnat .maxStations b ≤ (s1.numbersUsed b).length then .next ((s1.addJoin b { j0 with reject := some 3 }).raise .stationLimit b 0)
    else if 131040 ≤ s1.stationCount then .next ((s1.addJoin b { j0 with reject := some 3 }).raise .stationLimit b 1)
    else match s1.freeNumber b with
      | none => .next ((s1.addJoin b { j0 with reject := some 3 }).raise .stationLimit b 0)
      | some n =>
        match grantRun (freeRuns 0 s1.idsTaken) j0.wanted with
        | none => .next (s1.addJoin b { j0 with reject := some 4 })
        | some (id, k) =>
          let d := s1.nonce16
          if s1.sec.rngFailed = true then .next s1
          else .next (d.2.addJoin b { j0 with devNonce := d.1, number := n, ctx := id, nCtx := k })

/-- The contexts of a join enter JOINING as its JOIN_CHAL is sent (R173). -/
def State.makeJoining (s : State) (b : Berth) (j : Join) : State :=
  s.forAll (List.range j.nCtx) fun a i =>
    (a.setCtx { id := j.ctx + i, st := .joining, ctxSel := i, berth := b, station := j.number, fdCapable := j.fdCapable, tclass := 0,
                domainTag := a.fnat .domainTag b, eui := j.eui, owner := a.fab.addr, keyCur := a.line[b].keyGen, keyNext := a.line[b].keyGen,
                since := a.line[b].bpc, dirty := true }).objTouch .context (j.ctx + i)

/-- A broadcast join message in clear (R160, R458). -/
def State.sendClear (s : State) (b : Berth) (p : Bytes) : State :=
  let l := s.line[b]
  let fc : FrameCtl := { nonceFc 3 0 0 l.keyGen l.bpc.toNat 0 (s.fnat .domainTag b) with bcast := true, gi := s.fnat .giDefault b }
  s.sendShort b fc (p ++ crc32cBytes p)

/-- One message of the join broadcast allocation. -/
def State.sendJoinMsg (s : State) (b : Berth) (j : Join) : State :=
  match j.reject with
  | some r =>
    (s.sendClear b (List.flatten [[0x05], leBytes 8 j.eui.toNat, [BitVec.ofNat 8 r]])).modLine b fun l =>
      { l with joins := l.joins.filter fun (x : Join) => x.eui != j.eui }
  | none =>
    let dl := s.line[b].bpc + 8
    let p := List.flatten [[0x02], leBytes 8 j.eui.toNat, j.devNonce, leBytes 2 j.number, leBytes 4 dl.toNat, leBytes 8 Config.serial.toNat]
    ((s.sendClear b p).makeJoining b j).modLine b fun l =>
      { l with joins := l.joins.map fun (x : Join) => if x.eui = j.eui then ({ x with challenged := true, deadline := dl } : Join) else x }

/-- JOIN_CHAL (R458): the join broadcast allocation of the period, at most 16 messages in the order of their causes. -/
def execJoinChal (t : Nat) (b : Berth) (s0 : State) : Host.Outcome State Fault Refusal :=
  let s := s0.at t
  if !s.mayDrive b || s.drained .mgmt then .next s
  else .next (s.forAll (joinsOwed s.line[b]) fun a j => a.sendJoinMsg b j)

/-- The install roots acceptable for joins (R387, R389). -/
def State.roots (s : State) : List Bytes :=
  s.sec.root.toList ++ (match s.sec.rootPrev with | some (k, e) => if s.now < e + s.fnat .rootPrevDays 0 * seconds 86400 then [k] else [] | none => [])

/-- Queued frames of an identity's old contexts move to the new ones of the same ctx_sel (R162). -/
def State.moveFrames (s : State) (old : List Ctx) (j : Join) (b : Berth) : State :=
  s.forAll old fun a c =>
    if c.ctxSel < j.nCtx then
      a.forAll (a.hold.frames.filter fun (f : Frame) => f.ctx == c.id && f.dstKind == 0) fun d f =>
        d.reHead { f with ctx := j.ctx + c.ctxSel, dstIdx := b.val, line := none, meshHdr := [], sent := false, attempts := 0 }
    else a

/-- A verified proof (R162, R175): keys for the new contexts, the old contexts close, the system is asked for other owners. A join of the identity that has been
proven on another berth and not yet accepted gives way (Coincidences of 07). -/
def State.proofGood (s0 : State) (b : Berth) (j : Join) (root : Bytes) : State :=
  let others := allBerths.filter fun k => k != b && s0.line[k].joins.any fun (x : Join) => x.eui == j.eui && x.proven
  let s := s0.forAll others fun a k => a.endJoin k j.eui
  let old := s.ctxs.filter fun c => c.eui == j.eui && c.st != .joining && c.st != .remote && c.st != .closing
  let ks := sessionKeyOf (installKey root j.eui) j.devNonce j.stNonce
  let s1 : State := { s with ctxs := s.ctxs.map fun c =>
    if c.berth = b ∧ c.eui = j.eui ∧ c.st = .joining then
      { c with kSess := ks, keyCur := s.line[b].keyGen, keyNext := s.line[b].keyGen, kFrame := frameKeyOf ks s.line[b].keyGen c.ctxSel c.domainTag, dirty := true }
    else c }
  let s2 := (s1.moveFrames old j b).forAll old fun a c => a.ctxTo c.id .closing
  let s3 := s2.modLine b fun l =>
    { l with joins := l.joins.map (fun (x : Join) => if x.eui = j.eui then (
        { x with proven := true, causeBpc := l.bpc } : Join) else x),
                 joinFails := l.joinFails.filter fun (f : JoinFail) => f.eui != j.eui }
  (if others ≠ [] then s3.raise .ctxConflict j.ctx s3.fab.addr.toNat else s3).askOwners j.eui b

/-- JOIN_PROOF (R159 to R161): verified against the install roots in force; a failure frees the contexts and owes a JOIN_REJECT; a proof with no
challenge in time counts as a failure and gets none. -/
def execJoinProof (t : Nat) (b : Berth) (msg : Bytes) (s0 : State) : Host.Outcome State Fault Refusal :=
  let s := s0.at t
  if msg.length ≠ 45 ∨ msg.headD 0 ≠ 0x03 ∨ clearCrcOk msg = false then .next s
  else if s.drained .mgmt || s.silent b || !s.coordinates b then .next s
  else
    let eui := BitVec.ofNat 64 (bitsAt msg 8 64)
    if s.lockedOut b eui then .next s
    else match s.line[b].joins.find? fun (j : Join) => j.eui == eui && j.challenged && !j.proven && j.reject.isNone with
      | none => .next (s.joinFailed b eui)
      | some j =>
        if newer 32 s.line[b].bpc.toNat j.deadline.toNat then .next ((s.endJoin b eui).joinFailed b eui)
        else
          let proof := (msg.drop 9).take 32
          match s.roots.find? fun r => joinProof (installKey r eui) j.devNonce j.stNonce j.number eui Config.serial == proof with
          | some r => .next (s.proofGood b j r)
          | none => .next (((s.endJoin b eui).joinFailed b eui).addJoin b { j with reject := some 1, causeBpc := s.line[b].bpc })

/-- JOIN_PROOF_DEADLINE (R160, R161): the deadline period is over and no proof has verified. -/
def execJoinProofDeadline (t : Nat) (b : Berth) (eui : BitVec 64) (s0 : State) : Host.Outcome State Fault Refusal :=
  let s := s0.at t
  match s.line[b].joins.find? fun (j : Join) => j.eui == eui && j.challenged && !j.proven && j.reject.isNone with
  | some j => if newer 32 s.line[b].bpc.toNat j.deadline.toNat then .next (s.endJoin b eui) else .next s
  | none => .next s

/-- JOIN_LOCKOUT_END (R161). -/
def execJoinLockoutEnd (t : Nat) (b : Berth) (eui : BitVec 64) (s0 : State) : Host.Outcome State Fault Refusal :=
  let s := s0.at t
  .next (s.modLine b fun l =>
    { l with joinFails := l.joinFails.map fun (f : JoinFail) => if f.eui = eui ∧ (f.until_.map fun u => decide (u ≤ s.now)).getD false = true then ({ f with until_ := none } : JoinFail) else f })

/-- The plaintext of JOIN_ACCEPT (R160): contexts granted, key_gen_cur, K_dom, tt_interval. -/
def State.acceptPlain (s : State) (b : Berth) (j : Join) (k : Bytes) : Bytes :=
  List.flatten [[0x04, BitVec.ofNat 8 j.nCtx, BitVec.ofNat 8 s.line[b].keyGen], k, leBytes 2 (s.fnat .ttInterval b)]

/-- JOIN_ACCEPT (R160, R173, R195): sent in a downlink within 2 periods of the proof; the contexts become ACTIVE, the route entry is made. -/
def execJoinAccept (t : Nat) (b : Berth) (eui : BitVec 64) (s0 : State) : Host.Outcome State Fault Refusal :=
  let s := s0.at t
  match s.line[b].joins.find? fun (j : Join) => j.eui == eui && j.proven, s.line[b].kDom with
  | some j, some k =>
    if 2 < (s.line[b].bpc - j.causeBpc).toNat then .next (s.endJoin b eui)
    else if !s.mayDrive b || s.drained .mgmt then .next s
    else match s.msgFc b j.ctx 3 with
      | none => .next s
      | some (fc, key, s1) =>
        let l := s.line[b]
        let s2 := s1.sendSealed b fc key (s1.acceptPlain b j k)
        let ids := (List.range j.nCtx).map fun i => j.ctx + i
        let s3 := s2.forAll ids fun a i => (a.ctxTo i .active).modCtx i fun (c : Ctx) => ({ c with joinBpc := l.bpc, lastRx := l.bpc } : Ctx)
        let s4 := s3.routeJoin { eui := eui, kind := 0, pinned := false, fabAddr := s3.fab.addr, berth := b, station := j.number, ctx := j.ctx, nCtxM1 := j.nCtx - 1,
                                 hops := 1 }
        let s5 := (s4.modLine b fun y => { y with joins := y.joins.filter fun (x : Join) => x.eui != eui }).bump .joinOk b
        match s5.ctx? j.ctx with
        | some c => .next (if l.rolling then s5.queueRekey b c else s5)
        | none => .next s5
  | _, _ => .next s

/-! ## The station side -/

/-- STATION_JOIN_MSG_RX (R159, R160): JOIN_CHAL and JOIN_REJECT in clear, JOIN_ACCEPT as decrypted under context 0. -/
def execStationJoinMsgRx (t : Nat) (b : Berth) (msg : Bytes) (s0 : State) : Host.Outcome State Fault Refusal :=
  let s := s0.at t
  let x := s.line[b].st
  let eui := s.fnat .stEui b
  let mod := fun (f : StationSide → StationSide) => s.modLine b fun l => { l with st := f l.st }
  if x.joined || s.coordinates b && s.fnat .role b == 0 then .next s
  else if msg.headD 0 = 0x02 then
    if msg.length = 43 ∧ clearCrcOk msg = true ∧ bitsAt msg 8 64 = eui ∧ x.stNonce ≠ [] then
      match s.sec.root with
      | some root =>
        let dev := (msg.drop 9).take 16
        let n := bitsAt msg 200 16
        .next (mod fun y =>
            { y with devNonce := dev, number := n, challenge := some (n, BitVec.ofNat 32 (bitsAt msg 216 32)), devSerial := BitVec.ofNat 64 (bitsAt msg 248 64),
                     kSess := sessionKeyOf (installKey root (BitVec.ofNat 64 eui)) dev y.stNonce })
      | none => .next s
    else .next s
  else if msg.headD 0 = 0x04 then
    if msg.length = 37 ∧ x.challenge.isSome = true then
      .next (mod fun y =>
          { y with joined := true, challenge := none, reqBpc := none, nCtx := (msg.getD 1 0).toNat, keyGen := (msg.getD 2 0).toNat,
                   kDom := (msg.drop 3).take 32, ttInterval := bitsAt msg 280 16, missed := 0, seqs := [], wins := [] })
    else .next s
  else if msg.headD 0 = 0x05 then
    if msg.length = 14 ∧ clearCrcOk msg = true ∧ bitsAt msg 8 64 = eui then
      .next (mod fun y => { y with stNonce := [], challenge := none, reqBpc := none })
    else .next s
  else .next s

end Sys2Proof.Machine
end

