-- ==== Sys2Proof/Machine/Live.lean ====
section
/-! DEFINITION. Live insertion, removal, the slipway and microcode swaps (chapter 18). -/

namespace Sys2Proof.Machine
open Sys2Proof

/-! ## Insertion and removal (R410 to R414) -/

/-- INSERT_N_ASSERTED (R410): low for 10 ms. -/
def execInsertNAsserted (t : Nat) (s0 : State) : Host.Outcome State Fault Refusal :=
  let s := s0.at t
  if s.live.inserted then .next s else .next { s with live := { s.live with inserted := true, insertAt := s.now } }

/-- The newest configuration record. -/
def newestRec (l : List CfgRec) : Option CfgRec :=
  l.foldl (fun (a : Option CfgRec) (r : CfgRec) =>
    match a with | none => some r | some x => if newer 32 r.gen.toNat x.gen.toNat then some r else a) none

/-- Start a domain, or what it carries when it is ON already. -/
def State.bringUp (s : State) (k : DomId) : State := if s.domOn k then s.domReady k else s.ownBringUp k

/-- The join that the configuration record calls for (R411 step 2). -/
def State.recordedJoin (s : State) : State :=
  match newestRec s.boot.cfg with
  | some r => if r.joined && s.fab.joining.isNone then s.startJoin r.fabAddr r.dims else s
  | none => s

/-- The device brings itself into service (R411). Berths with no valid microcode stay OFF (R397). -/
def State.serviceUp (s : State) : State :=
  let s1 := ((([pdEth, pdFab, pdSense] : List DomId).foldl State.bringUp s).recordedJoin)
  let s2 := if s1.servingUc.isSome then s1.forAll allBerths fun a b => a.bringUp (berthDom b) else s1
  { s2 with live := { s2.live with insertedDue := true } }

/-- SERVICE_BRING_UP (R411): config_auth is 1 and INSERT_N asserted. -/
def execServiceBringUp (t : Nat) (s0 : State) : Host.Outcome State Fault Refusal :=
  let s := s0.at t
  .next (if s.boot.configAuth && s.live.inserted && !s.live.quiet then s.serviceUp else s)

/-- A berth configured in service has sent its first beacon or joined (R411). -/
def State.berthServes (s : State) (b : Berth) : Bool :=
  if s.fnat .role b = 3 || !s.fbool .txEnable b || s.servingUc.isNone then true
  else if s.fnat .role b = 2 then s.line[b].st.joined
  else s.domOn (berthDom b) && s.line[b].grid == .on && s.line[b].relisten.isNone

/-- EV_INSERTED (R411). -/
def execEvInserted (t : Nat) (s0 : State) : Host.Outcome State Fault Refusal :=
  let s := s0.at t
  if s.live.insertedDue && allBerths.all s.berthServes then
    .next (({ s with live := { s.live with insertedDue := false } } : State).raise .inserted 44 0)
  else .next s

/-- The PCIe link goes down for the device's own reason (R413, R419). -/
def State.dropPcie (s : State) (cause : Nat) : State :=
  let s1 := (s.loseHost cause).resetPcie false
  { s1 with host := { s1.host with training := false } }

/-- REMOVAL_QUIET (R413): INSERT_N is judged deasserted. -/
def execRemovalQuiet (t : Nat) (s0 : State) : Host.Outcome State Fault Refusal :=
  let s := s0.at t
  if s.live.quiet then .next { s with live := { s.live with inserted := false } }
  else
    let s1 := (({ s with live := { s.live with inserted := false, quiet := true } } : State).stick .removeHist).alarmOn
    let s2 := s1.forAll allBerths fun a b => (((a.modBerth b fun x => { x with rx := none, tx := none }).holdCtxs b).silence b).leaveGrid b
    let s3 := (s2.stepLoops).holdOutputs
    let s4 := if s3.fab.joined then s3.broadcast 8 2 (s3.memberMsg 2) else s3
    .next (((s4.forAll allLinks State.linkDown).forAll allEth State.portDown).dropPcie 1)

/-- REMOVAL_QUIET_END (R414): INSERT_N asserted again for a further 1 s. -/
def execRemovalQuietEnd (t : Nat) (s0 : State) : Host.Outcome State Fault Refusal :=
  let s := s0.at t
  if s.live.quiet && s.live.inserted && decide (s.live.insertAt + seconds 1 ≤ s.now) then
    let s1 := ({ s with live := { s.live with quiet := false } } : State).alarmUpdate
    .next (if s1.boot.configAuth then s1.serviceUp else s1)
  else .next s

/-! ## Microcode swaps (R415 to R417) -/

/-- The first own boundary of a berth at or after an instant, counted from its present one. -/
def State.boundaryAfter (s : State) (b : Berth) (at_ : Nat) : Nat := ceilDiv (at_ - s.line[b].periodAt) (s.periodNs b)

/-- A berth swaps at a boundary of its grid; otherwise it is armed for its next start of service (R417). -/
def State.swapsLive (s : State) (b : Berth) : Bool := !s.silent b && s.coordinates b && s.line[b].grid == .on

/-- swap_bpc of a named berth (R415). -/
def State.swapBpc (s : State) (b : Berth) (at_ : Nat) : BitVec 32 :=
  if s.swapsLive b then s.line[b].bpc + BitVec.ofNat 32 (s.boundaryAfter b at_) else 0

/-- Request body fields of a length, all present. -/
def berthSwapEff (r : Req) (bankFail : BitVec 32) (s : State) : Eff :=
  let mask := bitsAt r.body 0 32
  let atBpc := bitsAt r.body 32 32
  let named := allBerths.filter fun (b : Berth) => mask.testBit b
  let fails := named.filter fun (b : Berth) => bankFail.getLsbD b
  if r.body.length ≠ 8 then .done (.err .invalid) s
  else match s.boot.eligible with
    | none => .done (.err .notReady) s
    | some slot =>
      if named.any fun b => s.berth[b].swap.isSome then .done (.err .busy) s
      else match named.head? with
        | none => .done (.err .range (some 0)) s
        | some low =>
          let ahead := (BitVec.ofNat 32 atBpc - s.line[low].bpc).toNat
          if atBpc ≠ 0 ∧ (ahead < 2 ∨ 4096 < ahead) then .done (.err .range (some 4)) s
          else if !fails.isEmpty then .done (.err .fault) (s.forAll fails fun a b => a.bump .swapFail b)
          else
            let instant := if atBpc = 0 then s.now + millis 20 else s.line[low].periodAt + ahead * s.periodNs low
            let arm := fun (a : State) (b : Berth) => a.emit (.bankLoad b) |>.modBerth b fun x => { x with swap := some (slot, s.swapBpc b instant) }
            .done { body := (named.map fun b => BitVec.ofNat 8 b.val :: leBytes 4 (s.swapBpc b instant).toNat).flatten } (s.forAll named arm)

/-- BERTH_SWAP (R415): its locks are the berths of the mask; `bankFail` names the banks whose check against body_hash fails. -/
def execBerthSwap (t : Nat) (r : Req) (bankFail : BitVec 32) (s : State) : Host.Outcome State Fault Refusal :=
  .next ((s.at t).runLocked 0xA r ((allBerths.filter fun (b : Berth) => (bitsAt r.body 0 32).testBit b).map fun b => (Cls.berth, b.val))
    (berthSwapEff r bankFail))

/-! ## Management restart (R420, R397, R426) -/

/-- The directory that a write to a flash without a valid copy starts from. -/
def blankDir : BootDir := ⟨0, false, false, 0, (false, false), (false, false), false⟩

/-- Write the boot directory (R392): dir_gen rises by 1. -/
def State.writeDir (s : State) (f : BootDir → BootDir) : State :=
  let d := s.boot.dir.getD blankDir
  ({ s with boot := { s.boot with dir := some { f d with gen := d.gen + 1 } } } : State).emit (.flash 1)

/-- A slot's bit of a pair of valid bits, and the pair with that bit set to a value (R392). -/
def slotBit (p : Bool × Bool) (a : Bool) : Bool := if a then p.2 else p.1
def setSlot (p : Bool × Bool) (a v : Bool) : Bool × Bool := if a then (p.1, v) else (v, p.2)

/-- The slot in hand yields no image (R397): a trial is disarmed, and the next slot is tried. -/
def State.nextTry (s : State) : State :=
  let s1 := if s.boot.trial then s.writeDir fun x => { x with trialArmed := false } else s
  { s1 with boot := { s1.boot with trySlot := s1.boot.nextSlot, nextSlot := none, trial := false } }

/-- A slot without its valid bit holds no verified image and is passed over. -/
def State.skipInvalid (s : State) : State :=
  match s.boot.trySlot, s.boot.dir with
  | some a, some d => if slotBit d.fwValid a then s else s.nextTry
  | _, _ => s

/-- The slot that a boot of the firmware tries first (R397), with the directory written; slots without a verified image are passed over. -/
def State.chooseSlot (s : State) : State :=
  match s.boot.dir with
  | none => s
  | some d =>
    let s1 : State :=
      if d.trialArmed && decide (d.trialCount < 3) then
        let a := s.writeDir fun x => { x with trialCount := x.trialCount + 1 }
        { a with boot := { a.boot with trySlot := some !d.active, nextSlot := some d.active, trial := true } }
      else
        let a := if d.trialArmed then s.writeDir fun x => { x with trialArmed := false } else s
        { a with boot := { a.boot with trySlot := some d.active, nextSlot := if d.trialArmed then none else some !d.active, trial := false } }
    s1.skipInvalid.skipInvalid

/-- The management firmware restarts (R420, R426): sessions close, the slot is chosen; an image below sys_epoch leaves the fabric first. -/
def State.startRestart (s : State) : State :=
  let s1 := (s.closeWhere fun _ => true).chooseSlot
  let img := match s1.boot.trySlot with | some a => s1.boot.fwImg[slotIdx a] | none => none
  let below := match img with | some i => s1.fab.joined && decide (i.epoch < s1.fab.sysEpoch) | none => false
  let s2 := if below then s1.broadcast 8 2 (s1.memberMsg 2) else s1
  ({ s2 with live := { s2.live with mgmtRestart := true, rejoin := below } } : State).clkSelect

/-! ## Draining (R34, R275, R419) -/

def State.markDrained (s : State) (r : Region) (ms : Nat) (done : Bool) : State :=
  s.setRegion r.idx { drained := true, since := s.now, returnMs := ms, done := done }

/-- A berth region drains (R419): berths on their grid run to the end of their period, the others are silent at once. -/
def State.drainBerths (s : State) (r : Region) (ms : Nat) : State × Bool :=
  let live := (regionBerths r).filter s.swapsLive
  let s1 := (s.forAll live fun a b => a.modLine b fun l => { l with draining := true }).markDrained r ms live.isEmpty
  let rest := (regionBerths r).filter fun b => !live.contains b
  (s1.forAll rest fun a b => (a.holdCtxs b).silence b, live.isEmpty)

/-- HR_LINK drains (R419): ports and links DOWN without a leave message, the host lost with cause 4. -/
def State.drainLinks (s : State) (ms : Nat) : State :=
  (((s.markDrained .link ms true).forAll allEth State.portDown).forAll allLinks State.linkDown).dropPcie 4

/-- REGION_DRAIN's effect (R34, R275). -/
def regionDrainEff (r : Req) (s : State) : Eff :=
  let ms := bitsAt r.body 16 16
  if r.body.length ≠ 4 then .done (.err .invalid) s
  else if bitsAt r.body 8 8 ≠ 0 then .done (.err .invalid (some 1)) s
  else match Region.ofCode (bitsAt r.body 0 8) with
    | none => .done (.err .range (some 0)) s
    | some .store | some .sec => .done (.err .denied) s
    | some g =>
      if s.drained g then .done (.err .busy) s
      else if 60000 < ms ∨ (g = .mgmt ∧ (ms < 900 ∨ 2000 < ms)) then .done (.err .range (some 2)) s
      else match g with
        | .switch => .run (.drain g) (s.markDrained g ms true)
        | .mgmt => .run (.drain g) ((s.markDrained g ms false).startRestart)
        | .link => .done {} (s.drainLinks ms)
        | _ =>
          let (s1, now_) := s.drainBerths g ms
          if now_ then .done {} s1 else .run (.drain g) s1

/-- The write locks of a drain: each domain of the region (R274). -/
def regionLocks (b : Bytes) : List Lock :=
  match Region.ofCode (bitsAt b 0 8) with | some g => (regionDoms g).map fun k => (Cls.power, k.val) | none => []

/-- REGION_DRAIN (R34, R275, R419). -/
def execRegionDrain (t : Nat) (r : Req) (s : State) : Host.Outcome State Fault Refusal :=
  .next ((s.at t).runLocked 0xB r (regionLocks r.body) (regionDrainEff r))

/-! ## Return (R419, R275, R35, R36, R420, R426) -/

/-- The region is no longer drained; a drain that still runs completes with the given answer. -/
def State.unmark (s : State) (g : Region) (x : Rsp) : State :=
  (s.setRegion g.idx {}).completeRun (fun k => k == .drain g) x

/-- A berth region returns (R419): domains that were turned off ramp up, the others listen and resume their grid. -/
def State.returnBerths (s : State) (g : Region) (x : Rsp) : State :=
  let s1 := (s.forAll (regionBerths g) fun a b => a.modLine b fun l => { l with draining := false }).unmark g x
  s1.forAll (regionBerths g) fun a b =>
    let k := berthDom b
    if a.domOn k then a.berthReturns b
    else if a.domSt k == .off && a.depsOn k && !a.domDieLost k && a.servingUc.isSome then a.startRamp k
    else a

/-- HR_LINK returns (R419): ports negotiate, links train, and after 3 s or more the device joins again. -/
def State.returnLinks (s : State) (x : Rsp) : State :=
  let long := decide (s.region[Region.link.idx].since + seconds 3 ≤ s.now)
  let s1 := (s.unmark .link x).forAll allEth State.startPort
  if s1.fab.joined && long then s1.startJoin s1.fab.addr s1.fab.dims else s1.forAll s1.usedLinks State.raiseLink

/-- HR_MGMT returns (R420, R36): loops at their fault current wait for a valid sample, channels settle, and the fabric is joined again
when R426 asks for it. -/
def State.returnMgmt (s : State) (x : Rsp) : State :=
  let wait := s.live.loopsFault
  let rejoin := s.live.rejoin
  let s0 : State := { s with live := { s.live with mgmtRestart := false, loopsFault := false, rejoin := false } }
  let s1 := if wait then s0.forAll (List.finRange 4) fun a j => a.modLoop j fun y => { y with waitValid := true } else s0
  let s2 := s1.forAll (List.finRange 16) fun a n => a.modSense n fun y =>
    { y with resetDue := true, badFine := y.badFine.map fun _ => s.now, badFast := y.badFast.map fun _ => s.now }
  let s3 := ((s2.unmark .mgmt x).clkSelect).servedOwn
  if rejoin then s3.startJoin s3.fab.addr s3.fab.dims else s3

/-- A region returns with the given answer to its drain. -/
def State.returnRegion (s : State) (g : Region) (x : Rsp) : State :=
  match g with
  | .switch => s.unmark g x
  | .link => s.returnLinks x
  | .mgmt => s.returnMgmt x
  | .store | .sec => s
  | _ => s.returnBerths g x

/-- REGION_RETURN's effect (R274, R419). -/
def regionReturnEff (r : Req) (s : State) : Eff :=
  if r.body.length ≠ 4 then .done (.err .invalid) s
  else if bitsAt r.body 8 24 ≠ 0 then .done (.err .invalid (some 1)) s
  else match Region.ofCode (bitsAt r.body 0 8) with
    | none => .done (.err .range (some 0)) s
    | some .mgmt => .done (.err .denied) s
    | some g =>
      if !s.drained g then .done (.err .stale) s
      else
        let s1 := s.returnRegion g {}
        if berthRegions.contains g && (regionDoms g).any fun k => s1.domSt k == .ramp || s1.dom[k].rampQueued then .run (.ret g) s1
        else .done {} s1

/-- REGION_RETURN (R419). The drain of HR_SWITCH that is still in progress holds that region's locks, so its return takes none. -/
def execRegionReturn (t : Nat) (r : Req) (s : State) : Host.Outcome State Fault Refusal :=
  .next ((s.at t).runLocked 0xC r (if bitsAt r.body 0 8 = 5 then [] else regionLocks r.body) (regionReturnEff r))

/-- REGION_AUTO_RETURN (R275): return_ms has expired; HR_MGMT returns no earlier than its restart ends. -/
def execRegionAutoReturn (t : Nat) (r : Region) (s0 : State) : Host.Outcome State Fault Refusal :=
  let s := s0.at t
  let x := s.region[r.idx]
  if x.drained && x.returnMs != 0 && decide (x.since + millis x.returnMs ≤ s.now) && (r != .mgmt || x.done) then .next (s.returnRegion r {})
  else .next s

/-- The longest drain (R34). -/
def longestDrain : Region → Option Nat | .switch => some (millis 200) | .mgmt => some (seconds 2) | _ => none

/-- SLIPWAY_TIMEOUT (R35, R420): HR_SEC returns the region with its previous configuration; the firmware starts again from the active slot. -/
def execSlipwayTimeout (t : Nat) (r : Region) (s0 : State) : Host.Outcome State Fault Refusal :=
  let s := s0.at t
  match longestDrain r with
  | none => .next s
  | some lim =>
    if s.drained r && decide (s.region[r.idx].since + lim ≤ s.now) then
      let s1 : State := if r = .mgmt then
          let a := match s.boot.dir with | some d => d.active | none => false
          { s with boot := { s.boot with fwSlot := a, trial := false, trySlot := none, nextSlot := none, running := (s.boot.fwImg[slotIdx a]).orElse fun _ => s.boot.running } }
        else s
      .next ((s1.returnRegion r (.err .timeout)).raise .slipwayTimeout 44 r.code)
    else .next s

/-! ## Mixed releases (R425) -/

/-- MIXED_RELEASE_LOG (R425): at 72 hours and every 24 hours after. -/
def execMixedReleaseLog (t : Nat) (s0 : State) : Host.Outcome State Fault Refusal :=
  let s := s0.at t
  match s.live.mixedSince with
  | none => .next s
  | some m =>
    let hours := (s.now - m) / seconds 3600
    if 72 + 24 * s.live.mixedLogs ≤ hours then
      .next ((({ s with live := { s.live with mixedLogs := s.live.mixedLogs + 1 } } : State).emit (.log hours)).raise .mixedRelease 0 hours)
    else .next s

end Sys2Proof.Machine
end

