-- ==== Sys2Proof/Machine/Boot.lean ====
section
/-! DEFINITION. Reset, Starter's boot, signed images, staging and committing, the configuration record (R385, R391 to R402, R434, R446). -/

namespace Sys2Proof.Machine
open Sys2Proof

/-! ## Signed images (R393 to R395) -/

/-- The outcome of a verification: the image's fields, or why it is invalid: below the anti-rollback version alone, or anything else. -/
inductive Verdict where
  | good (i : ImgInfo)
  | low (i : ImgInfo)
  | bad
  deriving DecidableEq, Repr

/-- The most bytes an image may have (R393). -/
def imgMax (uc : Bool) : Nat := if uc then 8 * 2 ^ 20 else 64 * 2 ^ 20

/-- The bytes of a signature at the height of a code (R393): 2,180 + 32 h. -/
def sigLen (code : Nat) : Nat := match code with | 0 => 2500 | 1 => 2692 | _ => 2820

/-- The header fields in use of an image. -/
def imgInfo (img : Bytes) : ImgInfo :=
  { svn := bitsAt (img.take 256) 40 8, release := bitsAt (img.take 256) 48 16, epoch := bitsAt (img.take 256) 64 8,
    fmtMax := bitsAt (img.take 256) 72 4, fmtMin := bitsAt (img.take 256) 76 4, header := img.take 256, bodyHash := (img.drop 16).take 32 }

/-- The steps of R394 up to the sixth, in order, on an image of the given kind. -/
def imageSound (uc : Bool) (img : Bytes) : Bool :=
  let hdr := img.take 256
  let n := bitsAt hdr 96 32
  let trailer := img.drop (256 + ceilDiv n 16 * 16)
  let root := trailer.take 68
  let signer := (trailer.drop 68).take 68
  let cert := (trailer.drop 136).take 4
  let code := bitsAt cert 8 8
  let certLen := trailer.length - 140 - sigLen code
  decide (img.length ≤ imgMax uc ∧ 256 + ceilDiv n 16 * 16 + 140 ≤ img.length ∧ code ≤ 2 ∧ 140 + sigLen code ≤ trailer.length) &&
  decide (certLen = 2500 ∨ certLen = 2692 ∨ certLen = 2820) &&
  decide (Config.shake256 root = Config.fwRootHash) &&
  Config.xmssVerify root ((trailer.drop 68).take 72) ((trailer.drop 140).take certLen) && decide (bitsAt cert 0 8 = 1) &&
  Config.xmssVerify signer hdr (trailer.drop (140 + certLen)) &&
  decide (bitsAt hdr 0 32 = 0x57465650 ∧ bitsAt hdr 32 4 = 1 ∧ bitsAt hdr 36 4 = (if uc then 1 else 0) ∧ bitsAt hdr 80 16 = 0 ∧
    bitsAt hdr 448 1600 = 0 ∧ bitsAt cert 16 16 = 0) &&
  decide (Config.shake256 ((img.drop 256).take n) = (hdr.drop 16).take 32) &&
  decide (bitsAt hdr 384 64 = 0 ∨ bitsAt hdr 384 64 = Config.serial.toNat)

/-- Verification of an image (R394): the seventh step compares svn with the anti-rollback count b. -/
def State.verdict (s : State) (uc : Bool) (img : Bytes) : Verdict :=
  if imageSound uc img then if s.sec.rollback ≤ (imgInfo img).svn then .good (imgInfo img) else .low (imgInfo img) else .bad

/-- A failed verification counts; one refused for its version raises EV_ROLLBACK_REFUSED once per image (R394, R395). -/
def State.imageFails (s : State) (v : Verdict) : State :=
  let s1 := s.bump .imgVerifyFail
  match v with
  | .low i =>
    if s1.boot.refusedImgs.contains i.header then s1
    else ({ s1 with boot := { s1.boot with refusedImgs := i.header :: s1.boot.refusedImgs } } : State).raise .rollbackRefused 0 i.svn
  | _ => s1

/-! ## Reset (R434, R433, R446) -/

/-- What HR_SEC keeps through a reset: its always-on registers and the OTP (R265, R385, R386, R403, R231, R383). -/
def Sec.kept (x : Sec) : Sec := { x with rngFailed := false, sigTimes := [], memberRolls := [] }

/-- What is left of HR_SEC when VDD_AON is lost: the OTP, and what the boot flash holds of the retirement mask (R231, R403, R433). -/
def Sec.otpOnly (x : Sec) (mask : BitVec 16) : Sec :=
  { rollback := x.rollback, attUsed := x.attUsed, attEpochs := x.attEpochs, attSlot := x.attSlot, attExhausted := x.attExhausted,
    retireMask := mask }

/-- The whole block as a reset leaves it (R434), POR_N at a level: the state after reset, but for HR_SEC, device time, the boot flash, what waits,
and the model's own counts. -/
def State.porState (s : State) (low : Bool) : State :=
  { State.reset with
    now := s.now, pending := s.pending, out := s.out, entropyCtr := s.entropyCtr, freeCtr := s.freeCtr, sec := s.sec.kept,
    clk := { State.reset.clk with offset := s.clk.offset },
    live := { State.reset.live with dieTrip := s.live.dieTrip, jtag := s.live.jtag },
    boot := { State.reset.boot with porLow := low, dir := s.boot.dir, cfg := s.boot.cfg, fwImg := s.boot.fwImg } }

/-- Starter begins (R385, R396): OTP copies that disagree stop boot with fault 4, a supply fault with 5; then PD_CLK comes up. -/
def State.starter (s : State) (otpOk supplyOk : Bool) : State :=
  if !otpOk then s.stopBoot 4 else if !supplyOk then s.stopBoot 5 else s.ownBringUp pdClk

/-- POR_N_ASSERT (R434). -/
def execPorNAssert (t : Nat) (s0 : State) : Host.Outcome State Fault Refusal := .next ((s0.at t).porState true)

/-- POR_N_DEASSERT (R396, R442): a pin-controlling instruction gives the pins back; Starter begins unless die H's trip holds the reset. -/
def execPorNDeassert (t : Nat) (otpOk supplyOk : Bool) (s0 : State) : Host.Outcome State Fault Refusal :=
  let s := s0.at t
  if !s.boot.porLow then .next s
  else
    let ir := if takesPins s.live.jtag then JtagInstr.bypass else s.live.jtag
    let s1 : State := { s with boot := { s.boot with porLow := false }, live := { s.live with jtag := ir } }
    .next (if s1.live.dieTrip then s1 else s1.starter otpOk supplyOk)

/-- VDD_AON_LOSS (R433): POR_N with the always-on registers lost; device time starts anew. -/
def execVddAonLoss (t : Nat) (s0 : State) : Host.Outcome State Fault Refusal :=
  let s := s0.at t
  let mask : BitVec 16 := match newestRec s.boot.cfg with | some r => r.mask | none => 0
  let s1 := s.porState true
  .next { s1 with sec := s.sec.otpOnly mask, clk := { s1.clk with offset := -(s.now : Int) } }

/-- The berth domains with a die in their path (R446, R19). -/
def dieDoms (die : Fin 7) : List DomId := (allBerths.filter fun b => (analogDie b).val == die.val || (dspDie b).val == die.val).map berthDom

/-- DIE_THERMAL_TRIP (R446): die 0 to 5 at 115 °C, die 6 (H) at 125 °C. -/
def execDieThermalTrip (t : Nat) (die : Fin 7) (temp : Int) (s0 : State) : Host.Outcome State Fault Refusal :=
  let s := (s0.at t).report .tjC 44 die.val temp
  if die.val = 6 then
    if temp < 125 then .next s
    else
      let s1 := s.porState s.boot.porLow
      .next { s1 with live := { s1.live with dieTrip := true } }
  else if temp < 115 then .next s
  else
    let s1 := (s.bump .thermalTrips 44).stick .thermalTripHist 44
    .next (s1.forAll ((dieDoms die).filter fun k => s1.domSt k != .fault) State.clusterFault)

/-- THERMAL_TRIP_RELEASE (R446): die H reads below 100 °C. -/
def execThermalTripRelease (t : Nat) (otpOk supplyOk : Bool) (s0 : State) : Host.Outcome State Fault Refusal :=
  let s := s0.at t
  if !s.live.dieTrip then .next s
  else
    let s1 : State := { s with live := { s.live with dieTrip := false } }
    .next (if s1.boot.porLow then s1 else s1.starter otpOk supplyOk)

/-! ## Stages 1 to 4 (R16, R231, R397, R398) -/

/-- Starter waits for an image from the host (R398). -/
def State.hostLoads (s : State) : State :=
  ({ s with boot := { s.boot with stage := 2, fault := if s.boot.refused then 3 else 2, hostLoad := true, trySlot := none, nextSlot := none,
                                  trial := false } } : State).ownBringUp pdSwitch

/-- Starter goes on to the slot in hand, or loads from the host when none is left (R397). -/
def State.trySettle (s : State) : State := if s.boot.trySlot.isNone then s.hostLoads else s

/-- The channels of a mask. -/
def maskChans (m : BitVec 16) : List Chan := (List.finRange 16).filter fun (c : Chan) => m.getLsbD c.val

/-- The newest of the directory copies that are valid (R392). -/
def newestDir (l : List (Option BootDir)) : Option BootDir :=
  l.foldl (fun (a : Option BootDir) (x : Option BootDir) =>
    match a, x with
    | none, x => x
    | some d, some e => if newer 32 e.gen.toNat d.gen.toNat then some e else some d
    | some d, none => some d) none

/-- STORE_TRAINING_DONE (R231, R16, R392): channels that failed are recorded in the mask; on an unsupported fit-out or with more than four channels
out boot stops; else the directory is read and a slot chosen. `dirs` are the two copies of the directory, none for one whose tag fails. -/
def execStoreTrainingDone (t : Nat) (fit : StoreFit) (failed : BitVec 16) (dirs : List (Option BootDir)) (s0 : State) :
    Host.Outcome State Fault Refusal :=
  let s := s0.at t
  if s.boot.stage ≠ 1 then .next s
  else
    let lost := (List.finRange 16).filter fun (m : Chan) => failed.getLsbD m.val || !s.domOn (chanDom m)
    let s1 := s.forAll lost fun a m => a.maskChan m
    if fit.uniform = false ∨ (fit.gib ≠ 8 ∧ fit.gib ≠ 4) ∨ 2 < fit.rate ∨ 4 < (maskChans s1.sec.retireMask).length then .next (s1.stopBoot 1)
    else
      let s2 := s1.forAll (List.finRange 16) fun a m =>
        a.modChan m fun c => { c with st := if a.sec.retireMask.getLsbD m.val then .retired else .active }
      let bad := (dirs.filter fun x => x.isNone).length
      let s3 : State := { s2 with boot := { s2.boot with stage := 2, gib128 := fit.gib == 8, holdRate := fit.rate, dir := newestDir dirs } }
      let s4 := if bad = 0 then s3 else s3.bump .cfgInvalid 0 0 bad
      .next (s4.chooseSlot.trySettle)

/-- The firmware of a verified image starts (R396 stage 4): PD_SWITCH and then PD_HOST come up. -/
def State.firmwareStarts (s : State) (slot : Bool) (i : ImgInfo) : State :=
  (({ s with boot := { s.boot with running := some i, fwSlot := slot, fwImg := s.boot.fwImg.set (slotIdx slot) (some i), trySlot := none,
                                   nextSlot := none, stage := 4, fault := 0, hostLoad := false } } : State).epochUpdate).ownBringUp pdSwitch

/-- A firmware slot fails verification (R397): its valid bit is cleared, and the next slot or the host load follows. -/
def State.slotFails (s : State) (slot : Bool) (v : Verdict) : State :=
  let low := match v with | .low _ => true | _ => false
  let s1 := (s.imageFails v).writeDir fun d => { d with fwValid := setSlot d.fwValid slot false }
  (({ s1 with boot := { s1.boot with refused := s1.boot.refused || low } } : State).nextTry.skipInvalid).trySettle

/-- IMAGE_VERIFY (R394, R397): `kind` false is firmware of the slot in hand, true the berth microcode of a slot. -/
def execImageVerify (t : Nat) (kind slot : Bool) (img : Bytes) (s0 : State) : Host.Outcome State Fault Refusal :=
  let s := s0.at t
  if kind = false then
    if s.boot.stage ≠ 2 ∨ s.boot.hostLoad = true ∨ s.boot.trySlot ≠ some slot then .next s
    else match s.verdict false img with
      | .good i => .next (s.firmwareStarts slot i)
      | v => .next (s.slotFails slot v)
  else if s.boot.stage < 2 ∨ 5 < s.boot.stage ∨ slotBit (s.boot.dir.getD blankDir).ucValid slot = false then .next s
  else match s.verdict true img with
    | .good i => .next { s with boot := { s.boot with ucImg := s.boot.ucImg.set (slotIdx slot) (some i) } }
    | v =>
      let s1 := (s.imageFails v).writeDir fun d => { d with ucValid := setSlot d.ucValid slot false }
      .next { s1 with boot := { s1.boot with ucImg := s1.boot.ucImg.set (slotIdx slot) none } }

/-! ## Staging and committing (R399, R400, R418, R424) -/

/-- The slot that staging fills: other than the running firmware, or the microcode slot not in service (R399). -/
def State.stageSlot (s : State) (uc : Bool) : Bool :=
  if uc then !(match s.boot.dir with | some d => d.ucActive | none => true) else !s.boot.fwSlot

/-- A verified image is to be written to its flash slot: the slot's valid bit is cleared first (R399). -/
def State.startFlash (s : State) (uc slot : Bool) : State :=
  let s1 := s.writeDir fun d =>
    if uc then { d with ucValid := setSlot d.ucValid slot false } else { d with fwValid := setSlot d.fwValid slot false }
  ({ s1 with boot := { s1.boot with writing := some (uc, slot), stagedFw := if uc then s1.boot.stagedFw else none,
                                    stagedUc := if uc then none else s1.boot.stagedUc } } : State).emit (.flash 0)

/-- The last chunk: the image is verified (R399); from the host at boot it waits for FW_COMMIT (R398). -/
def State.stageEnds (s : State) (uc : Bool) (img : Bytes) : Eff :=
  let s1 : State := { s with boot := { s.boot with staging := none } }
  match s.verdict uc img with
  | .good i =>
    let rsp : Rsp := { body := List.flatten [leBytes 2 i.release, [0, 0], leBytes 4 img.length] }
    if s.boot.hostLoad then .done rsp { s1 with boot := { s1.boot with hostImg := some i } }
    else
      let slot := s.stageSlot uc
      let s2 : State := if uc then { s1 with boot := { s1.boot with ucImg := s1.boot.ucImg.set (slotIdx slot) (some i) } }
        else { s1 with boot := { s1.boot with fwImg := s1.boot.fwImg.set (slotIdx slot) (some i) } }
      .done rsp (s2.startFlash uc slot)
  | .low i => .done (.err .denied) (s1.imageFails (.low i))
  | .bad => .done (.err .fault) (s1.imageFails .bad)

/-- FW_STAGE's effect (R399). -/
def fwStageEff (r : Req) (s : State) : Eff :=
  let kind := bitsAt r.body 0 8; let flags := bitsAt r.body 8 8
  let off := bitsAt r.body 32 32; let total := bitsAt r.body 64 32
  let data := r.body.drop 12
  let uc := decide (kind = 1)
  if r.body.length < 12 then .done (.err .invalid) s
  else if 1 < kind then .done (.err .range (some 0)) s
  else if 3 < flags then .done (.err .invalid (some 1)) s
  else if bitsAt r.body 16 16 ≠ 0 then .done (.err .invalid (some 2)) s
  else if imgMax uc < total then .done (.err .range (some 8)) s
  else
    let other := match s.boot.staging with | some g => decide (g.owner ≠ r.session) | none => false
    let cur : Option Staging :=
      if flags.testBit 0 then some { owner := r.session, uc := uc, total := total, data := [], lastAt := s.now }
      else match s.boot.staging with
        | some g => if g.owner = r.session ∧ g.uc = uc ∧ g.total = total then some g else none
        | none => none
    if flags.testBit 0 && (other || s.boot.writing.isSome) then .done (.err .busy) s
    else match cur with
      | none => .done (.err .invalid (some 4)) s
      | some g =>
        if off ≠ g.data.length then .done (.err .invalid (some 4)) s
        else if total < off + data.length then .done (.err .range (some 8)) s
        else if flags.testBit 1 then s.stageEnds uc (g.data ++ data)
        else .done {} { s with boot := { s.boot with staging := some { g with data := g.data ++ data, lastAt := s.now } } }

/-- FW_STAGE (R399). -/
def execFwStage (t : Nat) (r : Req) (s : State) : Host.Outcome State Fault Refusal :=
  .next ((s.at t).runLocked 8 r [(.security, 0)] (fwStageEff r))

/-- FW_STAGE_TIMEOUT (R399): no chunk for 60 s. -/
def execFwStageTimeout (t : Nat) (s0 : State) : Host.Outcome State Fault Refusal :=
  let s := s0.at t
  match s.boot.staging with
  | some g => if g.lastAt + seconds 60 ≤ s.now then .next { s with boot := { s.boot with staging := none } } else .next s
  | none => .next s

/-- FW_FLASH_WRITE_DONE (R399, R398): the readback passes and the valid bit is set; an image loaded from the host becomes active. -/
def execFwFlashWriteDone (t : Nat) (readbackOk : Bool) (s0 : State) : Host.Outcome State Fault Refusal :=
  let s := s0.at t
  match s.boot.writing with
  | none => .next s
  | some (uc, slot) =>
    let host := !uc && s.boot.hostImg.isSome
    let s1 : State := { s with boot := { s.boot with writing := none, hostImg := if host then none else s.boot.hostImg } }
    if !readbackOk then .next s1
    else
      let s2 := s1.writeDir fun d =>
        if uc then { d with ucValid := setSlot d.ucValid slot true }
        else { d with fwValid := setSlot d.fwValid slot true, active := if host then slot else d.active }
      let s3 : State := { s2 with boot := { s2.boot with stagedUc := if uc then some slot else s2.boot.stagedUc,
                                                         stagedFw := if uc || host then s2.boot.stagedFw else some slot } }
      let rel := match (if uc then s3.boot.ucImg[slotIdx slot] else s3.boot.fwImg[slotIdx slot]) with | some i => i.release | none => 0
      .next (s3.raise .fwStaged 0 rel)

/-- A release differs by more than 1 from that of a member known, while joined (R424). -/
def State.releaseFar (s : State) (rel : Nat) : Bool :=
  s.fab.joined && s.fab.members.any fun (m : Member) => decide (m.release + 1 < rel ∨ rel + 1 < m.release)

/-- FW_COMMIT of action 0 while Starter loads from the host (R398): Starter goes on with the image staged, and the flash slot that holds no valid
image is written. -/
def State.commitHost (s : State) : Eff :=
  match s.boot.hostImg with
  | none => .done (.err .notReady) s
  | some i =>
    let slot := match s.boot.dir with | some d => d.fwValid.1 && !d.fwValid.2 | none => false
    .done {} ((s.firmwareStarts slot i).startFlash false slot)

/-- FW_COMMIT of kind 0 (R400, R424). `other` is svn and release of the image in the slot that is not running, as its header in flash reads. -/
def commitFw (action : Nat) (fuses : Bool) (other : Option (Nat × Nat)) (s : State) : Eff :=
  let d := s.boot.dir.getD blankDir
  let staging := match s.boot.staging with | some g => !g.uc | none => false
  let arm := fun (a : State) => a.writeDir fun x => { x with trialArmed := true, trialCount := 0 }
  match action with
  | 0 =>
    match s.boot.stagedFw with
    | none => .done (.err .notReady) s
    | some slot =>
      if staging || slot == d.active || !slotBit d.fwValid slot then .done (.err .notReady) s
      else if s.releaseFar (match s.boot.fwImg[slotIdx slot] with | some i => i.release | none => 0) then .done (.err .denied) s
      else .done {} (arm s)
  | 1 =>
    if s.boot.stage ≠ 5 ∨ s.boot.trial = false then .done (.err .notReady) s
    else
      let s1 := s.writeDir fun x => { x with active := s.boot.fwSlot, trialArmed := false }
      let s2 : State := { s1 with boot := { s1.boot with trial := false } }
      let b := max s.sec.rollback (match s.boot.running with | some i => i.svn | none => 0)
      .done {} (if fuses && decide (s.sec.rollback < b) then
        ({ s2 with sec := { s2.sec with rollback := min b 128 } } : State).emit (.fuses (min b 128)) else s2)
  | _ =>
    match other with
    | none => .done (.err .notReady) s
    | some (svn, rel) =>
      if s.boot.trial then
        if s.releaseFar rel then .done (.err .denied) s else .done {} (s.writeDir fun x => { x with trialArmed := false })
      else if d.active ≠ s.boot.fwSlot ∨ slotBit d.fwValid (!s.boot.fwSlot) = false ∨ svn < s.sec.rollback then .done (.err .notReady) s
      else if s.releaseFar rel then .done (.err .denied) s
      else .done {} (arm s)

/-- The one microcode slot that every berth whose domain is ON runs, with no swap armed (R418). -/
def State.oneUc (s : State) : Option Bool :=
  let runs := (allBerths.filter fun b => s.domOn (berthDom b)).map fun b => s.berth[b].ucSlot
  if allBerths.any fun b => s.berth[b].swap.isSome then none
  else match runs with
    | some a :: rest => if rest.all fun x => x == some a then some a else none
    | _ => none

/-- FW_COMMIT of kind 1 (R400, R418). -/
def commitUc (action : Nat) (s : State) : Eff :=
  let d := s.boot.dir.getD blankDir
  let staging := match s.boot.staging with | some g => g.uc | none => false
  match action with
  | 0 =>
    match s.boot.stagedUc with
    | some slot =>
      if staging || !slotBit d.ucValid slot then .done (.err .notReady) s
      else .done {} { s with boot := { s.boot with eligible := some slot } }
    | none => .done (.err .notReady) s
  | 1 =>
    match s.oneUc with
    | some a => .done {} (s.writeDir fun x => { x with ucActive := a })
    | none => .done (.err .notReady) s
  | _ =>
    if slotBit d.ucValid (!d.ucActive) && (s.boot.ucImg[slotIdx !d.ucActive]).isSome then
      let s1 := s.writeDir fun x => { x with ucActive := !x.ucActive }
      .done {} { s1 with boot := { s1.boot with eligible := some !d.ucActive } }
    else .done (.err .notReady) s

/-- FW_COMMIT's effect (R400, R398). -/
def fwCommitEff (r : Req) (other : Option (Nat × Nat)) (s : State) : Eff :=
  let kind := bitsAt r.body 0 8; let action := bitsAt r.body 8 8; let fuses := bitsAt r.body 16 8
  if r.body.length ≠ 4 then .done (.err .invalid) s
  else if 1 < kind then .done (.err .range (some 0)) s
  else if 2 < action then .done (.err .range (some 1)) s
  else if 1 < fuses then .done (.err .range (some 2)) s
  else if bitsAt r.body 24 8 ≠ 0 then .done (.err .invalid (some 3)) s
  else if fuses = 1 ∧ action ≠ 1 then .done (.err .invalid (some 2)) s
  else if s.boot.hostLoad then (if kind = 0 then s.commitHost else .done (.err .notReady) s)
  else if kind = 0 then commitFw action (fuses == 1) other s
  else commitUc action s

/-- FW_COMMIT (R400). -/
def execFwCommit (t : Nat) (r : Req) (other : Option (Nat × Nat)) (s : State) : Host.Outcome State Fault Refusal :=
  .next ((s.at t).runLocked 9 r [(.security, 0)] (fwCommitEff r other))

/-- FW_HOLD_RELOAD (R401): the Hold image of the running firmware is invalid and is reloaded from its flash slot; when that fails as well the slot
loses its valid bit. -/
def execFwHoldReload (t : Nat) (img : Bytes) (s0 : State) : Host.Outcome State Fault Refusal :=
  let s := s0.at t
  let slot := s.boot.fwSlot
  if s.boot.running.isNone || (s.boot.fwImg[slotIdx slot]).isSome then .next s
  else match s.verdict false img with
    | .good i => .next { s with boot := { s.boot with fwImg := s.boot.fwImg.set (slotIdx slot) (some i) } }
    | v => .next (((s.imageFails v).writeDir fun d => { d with fwValid := setSlot d.fwValid slot false }).raise .clusterFault pdMgmt pdMgmt)

/-- Firmware of a slot runs from its Hold image (R397, R398). -/
def State.runFw (s : State) (slot : Bool) (i : ImgInfo) : State :=
  ({ s with boot := { s.boot with running := some i, fwSlot := slot, fwImg := s.boot.fwImg.set (slotIdx slot) (some i), trySlot := none,
                                  nextSlot := none } } : State).epochUpdate

/-- The slot in hand fails: its valid bit and a trial of it are cleared, and the active slot is next (R397, R400). -/
def State.fwSlotFails (s : State) (slot act : Bool) (v : Verdict) : State :=
  let a := (s.imageFails v).writeDir fun d => { d with fwValid := setSlot d.fwValid slot false, trialArmed := d.trialArmed && !s.boot.trial }
  { a with boot := { a.boot with trial := false, trySlot := some act, nextSlot := none } }

/-- The image of the slot in hand is verified, and when it fails that of the active slot (R397); the flag says whether firmware runs. -/
def State.pickFw (s : State) (img alt : Bytes) : Bool × State :=
  let act := (s.boot.dir.getD blankDir).active
  let slot := s.boot.trySlot.getD act
  match s.verdict false img with
  | .good i => (true, s.runFw slot i)
  | v =>
    let b := s.fwSlotFails slot act v
    match b.verdict false alt with
    | .good i => (true, b.runFw act i)
    | w => (false, b.imageFails w)

/-- MGMT_RESTART_DONE (R420, R397, R275): the Hold image of the slot in hand is verified, and when it fails that of the active slot; the restart is
complete and the region returns at the later of now and return_ms. -/
def execMgmtRestartDone (t : Nat) (img alt : Bytes) (s0 : State) : Host.Outcome State Fault Refusal :=
  let s := s0.at t
  if !s.live.mgmtRestart || s.region[Region.mgmt.idx].done then .next s
  else match s.pickFw img alt with
    | (false, a) => .next a
    | (true, a) =>
      let x := a.region[Region.mgmt.idx]
      let b := a.setRegion Region.mgmt.idx { x with done := true }
      .next (if x.since + millis x.returnMs ≤ b.now then b.returnRegion .mgmt {} else b)

/-! ## The configuration record (R402) -/

/-- A field that the configuration record holds: every one that OBJ_SET writes and OBJ_GET reads back, but for the requested power state. -/
def Fld.persists (f : Fld) : Bool := (f.desc.acc == .rw || f.desc.acc == .officer) && f != .powerState

/-- The persistent settings as last written, where they differ from their defaults. -/
def State.persisted (s : State) : List ((Fld × Nat) × List Int) :=
  let held := s.fields.filter fun e => Fld.persists e.1.1 && !s.pend.any fun p => decide (p.1 = e.1)
  let waiting := (s.pend.map (·.1)).eraseDups.filterMap fun k =>
    if Fld.persists k.1 && decide (s.fwritten k.1 k.2 ≠ Fld.dflt k.1 k.2) then some (k, s.fwritten k.1 k.2) else none
  held ++ waiting

/-- The installed keys by kind (R387): install root, roles 0 to 2, fabric key. -/
def Sec.keys (x : Sec) : List (Option Bytes) := [x.root, x.roleKey[0], x.roleKey[1], x.roleKey[2], x.fab]

/-- The record as it would be written now. -/
def State.recordNow (s : State) : CfgRec where
  gen := match newestRec s.boot.cfg with | some r => r.gen + 1 | none => 1
  fields := s.persisted
  cal := s.sense.toList.map fun (x : SenseSt) => (x.calOff, x.calGain)
  dcb := s.sense.toList.map fun (x : SenseSt) => (x.dcb, x.mu)
  mask := s.sec.retireMask
  keys := s.sec.keys
  fabAddr := s.fab.addr
  dims := s.fab.dims
  joined := s.fab.joined || s.fab.joining.isSome

/-- The older copy is rewritten (R402). -/
def State.writeRecord (s : State) : State :=
  let r := s.recordNow
  ({ s with boot := { s.boot with cfg := r :: (newestRec s.boot.cfg).toList, dirtySince := none, cfgWriteAt := some s.now } } : State).emit (.flash 2)

/-- CONFIG_RECORD_WRITE (R402): after a persistent change, at most once per 10 s. -/
def execConfigRecordWrite (t : Nat) (s0 : State) : Host.Outcome State Fault Refusal :=
  let s := s0.at t
  let soon := match s.boot.cfgWriteAt with | some a => decide (s.now < a + seconds 10) | none => false
  if !s.boot.configAuth || s.boot.dirtySince.isNone || soon then .next s else .next s.writeRecord

/-- config_auth becomes 1 and boot reaches stage 5 (R396, R402); output GPIO pins drive (R443). -/
def State.authDone (s : State) : State :=
  let s1 : State := { s with boot := { s.boot with configAuth := true, stage := if s.boot.stage = 4 then 5 else s.boot.stage } }
  s1.emit (.gpio (s1.fnat .gpioDir 44 &&& s1.fnat .gpioOut 44))

/-- A key from the record where HR_SEC holds none. -/
def orKey (x : Option Bytes) (l : List (Option Bytes)) (i : Nat) : Option Bytes :=
  match x with | some k => some k | none => (l.getD i none)

/-- The record in force is applied (R402, R411): settings, calibrations, keys lost with VDD_AON, the fabric's address and dimensions. -/
def State.applyRecord (s : State) (r : CfgRec) : State :=
  let k := s.sec
  let sec : Sec := { k with root := orKey k.root r.keys 0, fab := orKey k.fab r.keys 4,
                            roleKey := #v[orKey k.roleKey[0] r.keys 1, orKey k.roleKey[1] r.keys 2, orKey k.roleKey[2] r.keys 3],
                            officerSet := k.officerSet || (r.keys.getD 3 none).isSome }
  let s1 : State := { s with sec := sec, fab := { s.fab with addr := r.fabAddr, dims := r.dims } }
  let s2 := s1.forAll r.fields fun a e => if Fld.persists e.1.1 && e.1.1 != .uartMode then a.fset e.1.1 e.1.2 e.2 else a
  let s3 := s2.forAll (List.finRange 16) fun a n =>
    let c := r.cal.getD n.val (0, 0)
    let d := r.dcb.getD n.val (false, none)
    a.modSense n fun x => { x with calOff := c.1, calGain := c.2, dcb := d.1, mu := d.2 }
  let s4 := s3.forAll (r.fields.filter fun e => e.1.1 == .uartMode) fun a e =>
    if h : e.1.2 < 2 then a.uartModeSet ⟨e.1.2, h⟩ (e.2.headD 0) else a
  { s4 with hold := { s4.hold with smallPct := s4.fnat .smallBufPct 0 } }

/-- CONFIG_AUTH (R402): the copies as read. The newest valid copy is taken; with none the device runs on defaults with config_auth 0. -/
def execConfigAuth (t : Nat) (copies : List CfgRead) (s0 : State) : Host.Outcome State Fault Refusal :=
  let s := s0.at t
  if s.boot.stage ≠ 4 ∨ s.boot.configAuth = true ∨ s.domOn pdMgmt = false then .next s
  else
    let ok := (copies.filter fun c => c.tagOk && c.serialOk).map (·.record)
    let bad := copies.length - ok.length
    let s1 := if bad = 0 then s else s.bump .cfgInvalid 0 0 bad
    let s2 : State := { s1 with boot := { s1.boot with cfg := ok } }
    match newestRec ok with
    | some r => .next ((s2.applyRecord r).authDone)
    | none => .next s2

end Sys2Proof.Machine
end

