-- ==== Sys2Proof/Machine/Cancel.lean ====
section
/-! DEFINITION. The canceller's commands (chapter 06): training, adaptation, divergence and recovery, neighbour residual, noise floor. -/

namespace Sys2Proof.Machine
open Sys2Proof

/-- A worst group: the group of greatest excess (R129, EV_CANCEL_TRAIN_FAIL's detail). -/
def worstGroup (l : List (Nat × Int)) : Nat × Int := l.foldl (fun a x => if a.2 < x.2 then x else a) (l.headD (0, 0))

/-- Training succeeds (R129): every group at or below resume_thresh_db_x10 and at most 25 % of the burst's 65,536 body samples blanked. -/
def trainOk (resume : Int) (r : TrainResult) : Bool := r.excess.all (fun x => x.2 ≤ resume) && decide (r.blanked * 4 ≤ 65536)

/-- Enter FALLBACK from DIVERGED (R134). -/
def State.fallback (s : State) (b : Berth) : State :=
  (((s.modBerth b fun x => { x with cancel := .fallback, trainDue := true }).bump .fallbacks b).stick .fallbackHist b).raise .cancelFallback b 0

/-- CANCEL_TRAINING_DONE (R129, R72, R76, R134): the burst's outcome. The transhybrid loss is measured at every training. -/
def execCancelTrainingDone (t : Nat) (b : Berth) (res : TrainResult) (s0 : State) : Host.Outcome State Fault Refusal :=
  let s := s0.at t
  if s.berth[b].cancel ≠ .training then .next s
  else
    let s1 := ((s.report .hybridLoss b 0 res.hybrid).report .hybridLossGroup b 0 res.hybridGroup).report .cancelTotal b 0 res.cancel
    let s2 := if res.hybrid < 250 then (s1.stick .couplerWarnHist b).raise .couplerWarn b res.hybrid else s1
    if trainOk (s.fval .resumeThresh b) res then
      .next (s2.modBerth b fun x =>
        { x with cancel := .tracking, taps := x.taps.set 0 res.own, analog := res.analog, cdac := res.cdac,
                 delays := x.delays.set 0 (res.delays.headD 0), exps := x.exps.set 0 (res.exps.headD 0), trainFails := [], slowRetry := false,
                 fdFrom := some (s.now + micros 100) })
    else
      let fails := (s.berth[b].trainFails.filter fun x => s.now < x + seconds 10) ++ [s.now]
      let slow := s.berth[b].slowRetry || decide (3 ≤ fails.length)
      let s3 := (s2.bump .trainFail b).raise .cancelTrainFail b (worstGroup res.excess).1
      .next (s3.modBerth b fun x => { x with cancel := .fallback, trainFails := fails, slowRetry := slow, trainDue := !slow })

/-- Divergence is declared in TRACKING (R133): when a reception is under way or due, the abort symbol replaces the next transmit symbol, or
the one after when that boundary is less than 1.0 µs away, and the berth is silent to the allocation's end. -/
def State.diverge (s : State) (b : Berth) (excess : Int) (rxDue : Bool) (toBoundary : Nat) : State :=
  if s.berth[b].cancel ≠ .tracking then s
  else
    let s1 := s.modBerth b fun x =>
      { x with cancel := .diverged, fdFrom := none, silentAlloc := x.silentAlloc || rxDue,
               tx := if rxDue then x.tx.map fun (f : TxFrame) => ({ f with abort := true, skip := decide (toBoundary < 1000) } : TxFrame) else x.tx }
    ((s1.bump .divEvents b).stick .divHist b).raise .cancelDiverged b (excess % 2 ^ 25).toNat

/-- A 24-bit accumulator (R125). -/
def clamp24 (x : Int) : Int := max (-8388608) (min 8388607 x)

/-- One reference's accumulators after a block (R130): an empty list is all 0. -/
def adaptTaps (acc sums : List Int) (div : Int) (shift : Nat) : List Int :=
  sums.zipIdx.map fun x => clamp24 (acc.getD x.2 0 + Config.tapStep x.1 div shift)

/-- CANCEL_ADAPT_BLOCK (R130, R133): every strong reference adapts, the own taps not in DIVERGED; none in TRAINING. -/
def execCancelAdaptBlock (t : Nat) (b : Berth) (blk : AdaptBlock) (s0 : State) : Host.Outcome State Fault Refusal :=
  let s := (s0.at t).releaseAt .adapt b
  let x := s.berth[b]
  if x.cancel = .training then .next s
  else
    let shift := s.fnat .trackShift b + (if x.rx.isSome then 2 else 0)
    let taps := (List.finRange 4).foldl (fun (v : Vector (List Int) 4) (k : Fin 4) =>
      if blk.strong.getD k.val false && !(k == 0 && x.cancel == .diverged) then
        v.set k (adaptTaps v[k] (blk.sums.getD k.val []) (blk.divisor.getD k.val 1) shift)
      else v) x.taps
    let s1 := s.setBerth b { x with taps := taps }
    .next (if blk.jump then s1.diverge b (s.stat .excess b) (x.rx.isSome || blk.rxDue) blk.toBoundary else s1)

/-- CANCEL_TAP_TRANSFER (R131): in TRACKING part of the own taps moves into the analog replica; the composite replica does not change. How much
of each tap the analog path represents is measured, so both results come with the command. -/
def execCancelTapTransfer (t : Nat) (b : Berth) (analog own : List Int) (s0 : State) : Host.Outcome State Fault Refusal :=
  let s := s0.at t
  if s.berth[b].cancel = .tracking then .next (s.modBerth b fun x => { x with analog := analog, taps := x.taps.set 0 own })
  else .next s

/-- RESIDUAL_EVAL (R132, R133): E(s) is reported for a symbol with at most 256 blanked samples; a cause in one neighbour reference refits that
reference; otherwise divergence, but not for the symbol in which an overcurrent trip stopped the driver. -/
def execResidualEval (t : Nat) (b : Berth) (m : Residual) (s0 : State) : Host.Outcome State Fault Refusal :=
  let s := s0.at t
  let judged := decide (m.blanked ≤ 256)
  let s1 := if judged then s.report .excess b 0 m.excess else s
  if (judged && decide (s.fval .divThresh b < m.excess)) || m.clipMany then
    match m.neighbour with
    | some k => .next (s1.modBerth b fun x => { x with nbrRefit := some k })
    | none => .next (if s.berth[b].ocStop then s1 else s1.diverge b m.excess m.rxDue m.toBoundary)
  else .next s1

/-- FAST_RECOVERY_DONE (R134, R133): a neighbour refit takes its taps; in DIVERGED the held-out check returns to TRACKING or enters FALLBACK. -/
def execFastRecoveryDone (t : Nat) (b : Berth) (m : Recovery) (s0 : State) : Host.Outcome State Fault Refusal :=
  let s := s0.at t
  let x := s.berth[b]
  let good := decide (m.worst ≤ s.fval .resumeThresh b ∧ 4096 ≤ m.usable ∧ m.clipped * 100 ≤ m.stored)
  match x.nbrRefit with
  | some k =>
    .next (s.setBerth b { x with nbrRefit := none, taps := if good then x.taps.set (k.val + 1) m.taps (by omega) else x.taps })
  | none =>
    if x.cancel ≠ .diverged then .next s
    else if good then
      .next ((s.setBerth b { x with cancel := .tracking, taps := x.taps.set 0 m.taps, fdFrom := some (s.now + micros 100) }).bump
        .fastRecoveries b)
    else .next (s.fallback b)

/-- FALLBACK_RETRY (R134): after three failures within 10 s a berth in FALLBACK tries again every 60 s. -/
def execFallbackRetry (t : Nat) (b : Berth) (s0 : State) : Host.Outcome State Fault Refusal :=
  let s := s0.at t
  if s.berth[b].cancel = .fallback then .next (s.modBerth b fun x => { x with trainDue := true }) else .next s

/-- NBR_CONFLICT (R136): the residual of neighbour reference j in 0.1 dB against the floor; above 0.0 dB for 1 s it sets nbr_conflict, below
−3.0 dB for 10 s it clears it. -/
def execNbrConflict (t : Nat) (b : Berth) (j : Fin 3) (resid : Int) (s0 : State) : Host.Outcome State Fault Refusal :=
  let s := (s0.at t).report .nbrResid b j resid
  let x := s.berth[b]
  let above := if 0 < resid then some (x.nbrAbove[j].getD s.now) else none
  let below := if resid < -30 then some (x.nbrBelow[j].getD s.now) else none
  let s1 := s.setBerth b { x with nbrAbove := x.nbrAbove.set j above, nbrBelow := x.nbrBelow.set j below }
  let held := fun (o : Option Nat) (n : Nat) => match o with | some a => decide (a + seconds n ≤ s.now) | none => false
  if s.stat .nbrConflict b j = 0 then
    if held above 1 then
      .next (((s1.statSet .nbrConflict b j 1).stick .nbrConflictHist b).raise .nbrConflict b ((s.fget .nbrRef b).getD j 255).toNat)
    else .next s1
  else if held below 10 then .next (s1.statSet .nbrConflict b j 0) else .next s1

/-- FLOOR_STALE (R122): no quiet block for 10 s keeps the last floor and sets floor_stale; a quiet block gives the new mean floor in 0.1 dBm/Hz
and clears it. -/
def execFloorStale (t : Nat) (b : Berth) (quiet : Option Int) (s0 : State) : Host.Outcome State Fault Refusal :=
  let s := s0.at t
  match quiet with
  | some f => .next (((s.report .noiseFloor b 0 f).statSet .floorStale b 0 0).modBerth b fun x => { x with quietAt := s.now })
  | none => .next (if s.berth[b].quietAt + seconds 10 ≤ s.now then s.statSet .floorStale b 0 1 else s)

end Sys2Proof.Machine
end

