-- ==== Sys2Proof/Machine/Sessions.lean ====
section
/-! DEFINITION. Management sessions, their ends, the order of write locks and the acknowledgement of events (chapter 11). -/

namespace Sys2Proof.Machine
open Sys2Proof

/-! ## Opening (R262, R263, R265, R386) -/

/-- Open sessions and live pending ones over a transport (R263). -/
def State.sessionsOn (s : State) (tr : Transport) : Nat :=
  (s.mgmt.sessions.filter fun x => x.tr == tr).length + (s.mgmt.pendSess.filter fun x => x.tr == tr).length

def isFabric : Transport → Bool | .fabric _ => true | _ => false

/-- The limits of R263 leave no room for one more session. -/
def State.sessionsFull (s : State) (tr : Transport) : Bool :=
  match tr with
  | .qp0 => decide (16 ≤ s.sessionsOn .qp0)
  | .uart0 => decide (1 ≤ s.sessionsOn .uart0)
  | .fabric _ =>
    decide (4 ≤ s.sessionsOn tr) ||
    decide (32 ≤ (s.mgmt.sessions.filter fun x => isFabric x.tr).length + (s.mgmt.pendSess.filter fun x => isFabric x.tr).length)

/-- An id that may be issued (R266): not open, not pending, not closed within the last 32,768 openings. -/
def State.idFree (s : State) (id : BitVec 16) : Bool :=
  id != 0 && !(s.mgmt.sessions.any fun x => x.id == id) && !(s.mgmt.pendSess.any fun x => x.id == id) &&
    !s.mgmt.closedIds.any fun x => x.1 == id && decide (s.mgmt.opened < x.2 + 32768)

/-- The first id from here that may be issued. -/
def State.freshId (s : State) : Nat → BitVec 16 → BitVec 16
  | 0, id => id
  | n + 1, id => if s.idFree id then id else s.freshId n (id + 1)

/-- K_role of a role (R386): the initial officer key serves until an officer key is installed; none for roles without a key. -/
def State.roleKeyOf (s : State) (r : Role) : Option Bytes :=
  match r with
  | .observer => s.sec.roleKey[0]
  | .operator => s.sec.roleKey[1]
  | .officer => if s.sec.roleKey[2].isNone && s.sec.officerSet then none else some s.officerKey

/-- The lockout record of a role on a transport (R265). -/
def State.lockoutOf (s : State) (r : Role) (tr : Transport) : Lockout :=
  (s.sec.lockouts.find? fun x => x.role == r && x.tr == tr).getD { role := r, tr := tr }

def State.putLockout (s : State) (x : Lockout) : State :=
  { s with sec := { s.sec with lockouts := x :: s.sec.lockouts.filter fun y => !(y.role == x.role && y.tr == x.tr) } }

def Lockout.locked (x : Lockout) (now : Nat) : Bool := match x.lockedUntil with | some u => decide (now < u) | none => false

/-- The transport in an event's detail (R277): 0 QP0, 1 UART0, 2 fabric with its address. -/
def lockoutDetail (r : Role) (tr : Transport) (secs : Nat) : Nat :=
  r.code + (match tr with | .qp0 => 0 | .uart0 => 4 | .fabric a => 8 + 16 * a.toNat) + secs * 2 ^ 13

/-- A proof fails (R265): the fifth in a row locks the role out for 60 s; each one after a lockout doubles it, to 3,600 s. -/
def State.proofFails (s : State) (r : Role) (tr : Transport) : State :=
  let x := s.lockoutOf r tr
  let n := x.fails + 1
  let secs := if x.lastS ≠ 0 then min 3600 (2 * x.lastS) else if 5 ≤ n then 60 else 0
  let s1 := s.bump .sessionFail
  if secs = 0 then s1.putLockout { x with fails := n }
  else
    ((s1.putLockout { x with fails := n, lastS := secs, lockedUntil := some (s.now + seconds secs) }).bump .sessionLockout).raise .sessionLockout 0
      (lockoutDetail r tr secs)

/-- Phase 0 (R262): a fresh nonce and a pending id. -/
def State.openPhase0 (s : State) (r : Req) : Rsp × State :=
  if s.sessionsFull r.src.transport then (.err .busy, s)
  else if s.sec.rngFailed then (.err .fault, s)
  else
    let d := s.draw
    let id := s.freshId 65536 s.mgmt.nextId
    let p : PendSess := { id := id, tr := r.src.transport, nonce := d.1.take 16, since := s.now }
    ({ body := List.flatten [d.1.take 16, leBytes 2 id.toNat, leBytes 2 10000] },
     { d.2 with mgmt := { d.2.mgmt with pendSess := d.2.mgmt.pendSess ++ [p] } })

/-- Phase 1 (R262, R265, R386): the proof under K_role of the role named opens the session. -/
def State.openPhase1 (s : State) (r : Req) (role : Role) : Rsp × State × Bytes :=
  let tr := r.src.transport
  match s.mgmt.pendSess.find? fun x => x.id == r.session && x.tr == tr with
  | none => (.err .stale, s, [])
  | some p =>
    let s1 : State := { s with mgmt := { s.mgmt with pendSess := s.mgmt.pendSess.filter fun x => x.id != p.id } }
    let reqNonce := (r.body.drop 4).take 16
    if p.since + seconds 10 ≤ s.now then (.err .stale, s1, [])
    else if (s.lockoutOf role tr).locked s.now then (.err .denied, s1, [])
    else match s.roleKeyOf role with
      | none => (.err .denied, s1, [])
      | some k =>
        if sessionProof k p.nonce reqNonce role.code Config.serial ≠ r.body.drop 20 then (.err .denied, s1.proofFails role tr, [])
        else
          let idle := s.fnat .sessionIdle 0
          let key := if tr = .qp0 then [] else mgmtKey k p.nonce reqNonce
          let x : Session := { id := p.id, role := role, tr := tr, idleS := idle, activeAt := s.now, subscribe := bitsAt r.body 16 8 == 1, key := key,
                               devNonce := p.nonce, reqNonce := reqNonce }
          let s2 := s1.putLockout { role := role, tr := tr }
          let m := { s2.mgmt with sessions := s2.mgmt.sessions ++ [x], opened := s2.mgmt.opened + 1,
                                  nextId := if newer 16 (p.id.toNat + 1) s2.mgmt.nextId.toNat then p.id + 1 else s2.mgmt.nextId }
          ({ body := List.flatten [[BitVec.ofNat 8 role.code, 0, 0, 0], leBytes 4 idle] }, { s2 with mgmt := m }, key)

/-- SESSION_OPEN's checks and phases (R262, R274, R258, R398). -/
def State.openSession (s : State) (r : Req) : Rsp × State × Bytes :=
  let phase := bitsAt r.body 8 8
  if r.rsv ≠ 0 ∨ r.cls ≠ 0 ∨ r.cmdSeq ≠ 0 ∨ r.body.length < 4 then (.err .invalid, s, [])
  else if 1 < phase then (.err .range (some 1), s, [])
  else if r.body.length ≠ (if phase = 0 then 4 else 52) ∨ (phase = 0 ∧ r.session ≠ 0) then (.err .invalid, s, [])
  else if bitsAt r.body 24 8 ≠ 0 then (.err .invalid (some 3), s, [])
  else if phase = 0 ∧ bitsAt r.body 16 8 ≠ 0 then (.err .invalid (some 2), s, [])
  else if 1 < bitsAt r.body 16 8 then (.err .range (some 2), s, [])
  else match Role.ofCode (bitsAt r.body 0 8) with
    | none => (.err .range (some 0), s, [])
    | some role =>
      if s.boot.hostLoad && role != .officer then (.err .notReady, s, [])
      else if phase = 0 then let (x, a) := s.openPhase0 r; (x, a, [])
      else s.openPhase1 r role

/-- SESSION_OPEN (R262): it needs no session and takes no lock. -/
def execSessionOpen (t : Nat) (r : Req) (s0 : State) : Host.Outcome State Fault Refusal :=
  let s := s0.at t
  if !s.mgmtServes || !s.presented 1 r then .next s
  else
    let s1 := s.unbox 1 r
    let (x, s2, key) := s1.openSession r
    .next (if x.st = .ok ∧ !x.fits r then s1.answerShort 1 r [] x.body.length else s2.answer 1 r key x)

/-! ## Ends of sessions (R262, R265, R266) -/

/-- The session is closing for this very request. -/
def Session.closesBy (x : Session) (r : Req) : Bool := match x.closing with | some q => decide (q = r) | none => false

/-- SESSION_CLOSE (R266): at once when the session has no other command in progress, else after them. -/
def execSessionClose (t : Nat) (r : Req) (s0 : State) : Host.Outcome State Fault Refusal :=
  let s := s0.at t
  let mine := match s.session r.session with | some x => x.closesBy r | none => false
  if !s.mgmtServes || !s.presented 2 r || mine then .next s
  else match (s.unbox 2 r).accept 2 r with
    | (s1, some x, none) =>
      if r.body ≠ [] then .next (s1.complete 2 r x.key (.err .invalid) s1)
      else if x.busy = 0 then .next ((s1.answer 2 r x.key {}).closeSession x.id)
      else .next (s1.modSession x.id fun y => { y with closing := some r })
    | (s1, ox, some st) => .next (s1.answer 2 r (sessionKey ox) (.err st))
    | (s1, none, none) => .next s1

/-- SESSION_NONCE_EXPIRY (R262): a pending session lives 10,000 ms. -/
def execSessionNonceExpiry (t : Nat) (id : BitVec 16) (s0 : State) : Host.Outcome State Fault Refusal :=
  let s := s0.at t
  .next { s with mgmt := { s.mgmt with pendSess := s.mgmt.pendSess.filter fun x => !(x.id == id && decide (x.since + seconds 10 ≤ s.now)) } }

/-- SESSION_IDLE_TIMEOUT (R266): counted only while none of its commands is in progress. -/
def execSessionIdleTimeout (t : Nat) (id : BitVec 16) (s0 : State) : Host.Outcome State Fault Refusal :=
  let s := s0.at t
  match s.session id with
  | some x => if x.busy = 0 ∧ x.activeAt + seconds x.idleS ≤ s.now then .next (s.closeSession id) else .next s
  | none => .next s

/-- SESSION_LOCKOUT_END (R265): the counts stay until a verified proof. -/
def execSessionLockoutEnd (t : Nat) (role : Role) (tr : Transport) (s0 : State) : Host.Outcome State Fault Refusal :=
  let s := s0.at t
  let x := s.lockoutOf role tr
  match x.lockedUntil with
  | some u => if u ≤ s.now then .next (s.putLockout { x with lockedUntil := none }) else .next s
  | none => .next s

/-- FABRIC_SESSION_UNREACHABLE (R266): no path to the originating address for 1 s. -/
def execFabricSessionUnreachable (t : Nat) (id : BitVec 16) (s0 : State) : Host.Outcome State Fault Refusal :=
  let s := s0.at t
  match s.session id with
  | some x =>
    match x.tr with
    | .fabric a => if (s.nextHop a.toNat).isNone then .next (s.closeSession id) else .next s
    | _ => .next s
  | none => .next s

/-! ## Management periods and locks (R62, R269) -/

/-- MGMT_PERIOD_END (R62): the requests that arrived in the period join the order, QP0 first, then fabric, then UART0; those whose locks are free are
granted. Member sessions that do not answer end (R390). -/
def execMgmtPeriodEnd (t : Nat) (s0 : State) : Host.Outcome State Fault Refusal :=
  let s := s0.at t
  if !s.mgmtServes then .next s
  else
    let s1 : State := { s with mgmt := { s.mgmt with arrivals := [], waiting := s.mgmt.waiting ++ byPrecedence s.mgmt.arrivals } }
    .next ((s1.grant).rollTimeouts.servedOwn)

/-- LOCK_WAIT_TIMEOUT (R269): the request named by its ticket has waited lock_wait_ms. -/
def execLockWaitTimeout (t : Nat) (k : Nat) (s0 : State) : Host.Outcome State Fault Refusal :=
  let s := s0.at t
  match (s.mgmt.waiting ++ s.mgmt.arrivals).find? fun q => q.ticket == k && decide (q.at_ + millis q.waitMs ≤ s.now) with
  | none => .next s
  | some q =>
    let m := { s.mgmt with waiting := s.mgmt.waiting.filter fun x => x.ticket != k, arrivals := s.mgmt.arrivals.filter fun x => x.ticket != k }
    let s1 := ({ s with mgmt := m } : State).bump .lockTimeouts
    .next ((s1.complete q.code q.req q.key (.err .timeout) s1 q.lost).grant)

/-! ## Events (R278) -/

/-- EVENT_ACK's effect: every event not newer than the named one is acknowledged. -/
def eventAckEff (r : Req) (s : State) : Rsp × State :=
  let n := bitsAt r.body 0 16
  if r.body.length ≠ 4 then (.err .invalid, s)
  else if bitsAt r.body 16 16 ≠ 0 then (.err .invalid (some 2), s)
  else if newer 16 n s.host.evSeq.toNat then (.err .stale, s)
  else ({}, ({ s with host := { s.host with alarms := s.host.alarms.filter fun a => newer 16 a.toNat n } } : State).alarmUpdate)

/-- EVENT_ACK (R278). -/
def execEventAck (t : Nat) (r : Req) (s : State) : Host.Outcome State Fault Refusal :=
  .next ((s.at t).runFree 0x16 r fun a _ => eventAckEff r a)

end Sys2Proof.Machine
end

