-- ==== Sys2Proof/Machine/Keys.lean ====
section
/-! DEFINITION. Keys, the entropy source and attestation (R383 to R390, R403 to R408). -/

namespace Sys2Proof.Machine
open Sys2Proof

/-! ## The entropy source (R383) -/

/-- RNG_HEALTH_FAIL (R383): requests that need fresh randomness complete with FAULT until the source passes again. -/
def execRngHealthFail (t : Nat) (s0 : State) : Host.Outcome State Fault Refusal :=
  let s := (s0.at t).bump .rngFail
  .next { s with sec := { s.sec with rngFailed := true } }

/-- ENTROPY_SOURCE_RETRY (R383): 1 s after a failure; a failure of the retry counts as well. -/
def execEntropySourceRetry (t : Nat) (pass : Bool) (s0 : State) : Host.Outcome State Fault Refusal :=
  let s := s0.at t
  if !s.sec.rngFailed then .next s
  else if pass then .next { s with sec := { s.sec with rngFailed := false } }
  else .next (s.bump .rngFail)

/-! ## Installing keys (R387, R389) -/

/-- The check value of a key (R387). -/
def checkValue (key : Bytes) : Bytes := Config.kmac256 key (ascii "PV3264 check") 8

/-- The effect of an installed key by kind (R387): a replaced root or fabric key stays as the previous one. -/
def Sec.install (x : Sec) (kind now : Nat) (key : Bytes) : Sec :=
  match kind with
  | 0 => { x with rootPrev := x.root.map fun k => (k, now), root := some key }
  | 1 => { x with roleKey := x.roleKey.set 0 (some key) }
  | 2 => { x with roleKey := x.roleKey.set 1 (some key) }
  | 3 => { x with roleKey := x.roleKey.set 2 (some key), officerSet := true }
  | _ => { x with fabPrev := x.fab.map fun k => (k, now), fab := some key }

/-- Sessions of a role close, but for one, once their commands in progress are answered (R266). -/
def State.closeRole (s : State) (role : Role) (but : BitVec 16) : State :=
  let s1 := s.closeWhere fun x => x.role == role && x.id != but && x.busy == 0
  { s1 with mgmt := { s1.mgmt with sessions := s1.mgmt.sessions.map fun x => if x.role = role ∧ x.id ≠ but then { x with dying := true } else x } }

/-- KEY_INSTALL's effect (R387). -/
def keyInstallEff (r : Req) (s : State) : Eff :=
  let kind := bitsAt r.body 0 8
  if r.body.length ≠ 44 then .done (.err .range) s
  else if 4 < kind then .done (.err .range (some 0)) s
  else if bitsAt r.body 8 24 ≠ 0 then .done (.err .invalid (some 1)) s
  else match s.session r.session with
    | none => .done (.err .fault) s
    | some x =>
      let kek := Config.kmac256 s.officerKey (List.flatten [ascii "PV3264 kek", x.devNonce, x.reqNonce]) 32
      match Config.kwUnwrap kek (r.body.drop 4) with
      | none => .done (.err .fault) s
      | some key =>
        let s1 := ({ s with sec := s.sec.install kind s.now key } : State).dirty
        let s2 := match kind with
          | 1 => s1.closeRole .observer x.id
          | 2 => s1.closeRole .operator x.id
          | 3 => s1.closeRole .officer x.id
          | _ => s1
        .done { body := checkValue key } s2

/-- KEY_INSTALL (R387). -/
def execKeyInstall (t : Nat) (r : Req) (s : State) : Host.Outcome State Fault Refusal :=
  .next ((s.at t).runLocked 0x13 r [(.security, 0)] (keyInstallEff r))

/-- PREVIOUS_KEY_RETENTION_END (R389): `fab` true is the fabric key, false the install root. -/
def execPreviousKeyRetentionEnd (t : Nat) (fab : Bool) (s0 : State) : Host.Outcome State Fault Refusal :=
  let s := s0.at t
  if fab then
    match s.sec.fabPrev with
    | some (_, a) => if a + s.fnat .fabPrevDays 0 * seconds 86400 ≤ s.now then .next { s with sec := { s.sec with fabPrev := none } } else .next s
    | none => .next s
  else match s.sec.rootPrev with
    | some (_, a) => if a + s.fnat .rootPrevDays 0 * seconds 86400 ≤ s.now then .next { s with sec := { s.sec with rootPrev := none } } else .next s
    | none => .next s

/-! ## Rolling the domain keys (R390, R167) -/

/-- The coordinating berths that a KEY_ROLL selects. -/
def State.rollBerths (s : State) (scope mask : Nat) : List Berth :=
  allBerths.filter fun b => s.coordinates b && (scope != 0 || mask.testBit b)

/-- KEY_ROLL's effect (R390). -/
def keyRollEff (r : Req) (s : State) : Eff :=
  let scope := bitsAt r.body 0 8
  let sel := s.rollBerths scope (bitsAt r.body 32 32)
  if r.body.length ≠ 8 then .done (.err .invalid) s
  else if 2 < scope then .done (.err .range (some 0)) s
  else if bitsAt r.body 8 24 ≠ 0 then .done (.err .invalid (some 1)) s
  else match sel.head? with
    | none => .done (.err .range (some 4)) s
    | some low =>
      if sel.any fun b => s.line[b].rolling then .done (.err .busy) s
      else if s.sec.rngFailed then .done (.err .fault) s
      else
        let s1 := s.forAll sel State.startRoll
        .done { body := leBytes 4 s1.line[low].keySwitch.toNat } (if scope = 2 then s1.rollMembers else s1)

/-- KEY_ROLL (R390). -/
def execKeyRoll (t : Nat) (r : Req) (s : State) : Host.Outcome State Fault Refusal :=
  .next ((s.at t).runLocked 0x14 r [(.security, 0)] (keyRollEff r))

/-! ## Attestation (R403 to R407) -/

/-- The next index may be taken: one is held, or an epoch of the slot is left (R403, R404). -/
def Sec.attLeft (x : Sec) (slot : Fin 3) : Bool := x.attIndex.isSome || decide (x.attEpochs[slot] < 256)

/-- The slot in service. -/
def Sec.attSlotIdx (x : Sec) : Fin 3 := Fin.ofNat 3 x.attSlot

/-- Spend an index (R403): the held one, or the first of a new epoch, whose fuse burns first. -/
def State.spendIndex (s : State) : Nat × State :=
  let slot := s.sec.attSlotIdx
  let (i, s1) : Nat × State :=
    match s.sec.attIndex with
    | some i => (i, s)
    | none =>
      let e := s.sec.attEpochs[slot]
      (4096 * e, (({ s with sec := { s.sec with attEpochs := s.sec.attEpochs.set slot (e + 1) } } : State).emit (.fuses (e + 1))).raise .attestEpoch 0 e)
  (i, { s1 with sec := { s1.sec with attIndex := if (i + 1) % 4096 = 0 then none else some (i + 1), sigTimes := s.now :: s1.sec.sigTimes } })

/-- The signatures of the last 86,400 s. -/
def State.recentSigs (s : State) : List Nat := s.sec.sigTimes.filter fun a => s.now < a + seconds 86400

/-- ATTEST comes too soon, or the day's limit is reached (R407). -/
def State.attestBusy (s : State) : Bool :=
  (match s.sec.sigTimes.head? with | some a => decide (s.now < a + seconds (s.fnat .attMinInterval 0)) | none => false) ||
  decide (s.fnat .attDailyMax 0 ≤ s.recentSigs.length)

/-- A bit as a number. -/
def bit (b : Bool) : Nat := if b then 1 else 0

/-- The channels out of service, as at BAR0 + 0x1004 (R238). -/
def State.storeRetired (s : State) : Nat :=
  (List.finRange 16).foldl (fun n (m : Chan) => n + (if s.chanOut m then 2 ^ m.val else 0)) 0

/-- The hash of a berth's microcode header; 32 zero bytes for a berth with none (R406). -/
def State.ucHash (s : State) (b : Berth) : Bytes :=
  match s.berth[b].ucSlot with
  | some a => match s.boot.ucImg[slotIdx a] with | some i => Config.shake256 i.header | none => List.replicate 32 0
  | none => List.replicate 32 0

/-- The attestation report (R406). -/
def State.attReport (s : State) (slot : Fin 3) (index : Nat) (challenge : Bytes) : Bytes :=
  let i := s.ownInfo
  let keys := s.sec.keys.map fun k => match k with | some k => checkValue k | none => List.replicate 8 0
  List.flatten
    [leBytes 8 (1 + slot.val * 2 ^ 8 + index % 2 ^ 20 * 2 ^ 24 + i.release % 2 ^ 16 * 2 ^ 48),
     leBytes 8 (i.svn % 2 ^ 8 + s.sec.rollback % 2 ^ 8 * 2 ^ 8 + bit s.boot.fwSlot * 2 ^ 16 + bit s.boot.trial * 2 ^ 17 + bit s.boot.configAuth * 2 ^ 18 +
       i.epoch % 2 ^ 8 * 2 ^ 32 + s.fab.sysEpoch % 2 ^ 8 * 2 ^ 40 + s.fab.addr.toNat * 2 ^ 48 + bit s.fab.joined * 2 ^ 57),
     leBytes 8 Config.serial.toNat, leBytes 6 s.devSec, leBytes 4 s.devNs, leBytes 2 s.storeRetired, leBytes 4 0,
     challenge, Config.shake256 i.header, Config.shake256 (allBerths.map s.ucHash).flatten,
     Config.shake256 (Config.recordBytes (newestRec s.boot.cfg)), Config.shake256 keys.flatten, Config.shake256 (Config.attPublicKey slot),
     List.replicate 24 0]

/-- ATTEST's effect (R404 to R407). -/
def attestEff (r : Req) (s : State) : Rsp × State :=
  let slot := s.sec.attSlotIdx
  if r.body.length ≠ 32 then (.err .invalid, s)
  else if s.sec.enrolling.isSome then (.err .notReady, s)
  else if !s.sec.attLeft slot then
    (.err .denied (some 1),
      if s.sec.attExhausted then s else ({ s with sec := { s.sec with attExhausted := true } } : State).raise .attestExhausted 0 0)
  else if s.attestBusy then (.err .busy, s)
  else
    let (i, s1) := s.spendIndex
    let rep := s1.attReport slot i r.body
    ({ body := List.flatten [rep, Config.xmssSign slot i rep, Config.attPublicKey slot] }, s1)

/-- ATTEST (R406): it takes no lock. -/
def execAttest (t : Nat) (r : Req) (s : State) : Host.Outcome State Fault Refusal :=
  .next ((s.at t).runFree 0x15 r fun a _ => attestEff r a)

/-- A write of att_enroll (R405): the lowest unused slot's seeds and its used fuse burn, and its key is generated. -/
def State.startEnroll (s : State) : Status × State :=
  match (List.finRange 3).find? fun (k : Fin 3) => !s.sec.attUsed[k] with
  | none => (.range, s)
  | some k =>
    if s.sec.enrolling.isSome then (.busy, s)
    else if s.sec.rngFailed then (.fault, s)
    else
      let d := s.draw
      (.ok, ({ d.2 with sec := { d.2.sec with attUsed := d.2.sec.attUsed.set k true, enrolling := some k.val } } : State).emit (.fuses k.val))

/-- ATT_ENROLL_DONE (R405): while the old slot's epochs remain, its key signs the enrolment record; then the new slot serves. -/
def execAttEnrollDone (t : Nat) (s0 : State) : Host.Outcome State Fault Refusal :=
  let s := s0.at t
  match s.sec.enrolling with
  | none => .next s
  | some k =>
    let s1 := if s.sec.attLeft s.sec.attSlotIdx then (s.spendIndex).2 else s
    .next { s1 with sec := { s1.sec with attSlot := k, attIndex := none, attExhausted := false, enrolling := none } }

/-- att_epochs_left and att_low of the slot in service (R404, R408). -/
def Sec.epochsLeft (x : Sec) : Nat := 256 - x.attEpochs[x.attSlotIdx]
def Sec.attLow (x : Sec) : Bool := decide (x.epochsLeft ≤ 16)

end Sys2Proof.Machine
end

