-- ==== Sys2Proof/Machine/Operands.lean ====
section
/-! DEFINITION. Operand forms of the management commands: field lists and the values they carry (R271), the images of contexts, route entries and
output records (R172, R194, R360). -/

namespace Sys2Proof.Machine
open Sys2Proof

/-! ## Field lists (R271) -/

/-- An entry of a field list. -/
structure FldEntry where
  name : Bytes
  index : Nat
  value : Bytes
  deriving DecidableEq, Repr

/-- The index that selects a whole field. -/
def whole : Nat := 0xFFFF

/-- The entries of a field list of n entries; none when it is malformed: a name_len outside 1 to 32, an entry beyond the end, or bytes after
the last (R260, R271). -/
def parseEntries : Nat → Bytes → Option (List FldEntry)
  | 0, [] => some []
  | 0, _ :: _ => none
  | _ + 1, [] => none
  | n + 1, k :: rest =>
    let nl := k.toNat
    let r1 := rest.drop nl
    let vl := leNat ((r1.drop 2).take 2)
    let r2 := r1.drop 4
    if nl < 1 ∨ 32 < nl ∨ r1.length < 4 ∨ r2.length < vl then none
    else (parseEntries n (r2.drop vl)).map fun l => ⟨rest.take nl, leNat (r1.take 2), r2.take vl⟩ :: l

/-- The bytes of an entry. -/
def entryBytes (name : Bytes) (index : Nat) (value : Bytes) : Bytes :=
  List.flatten [[BitVec.ofNat 8 name.length], name, leBytes 2 index, leBytes 2 value.length, value]

/-- The body of an OBJ_GET or STATS_READ response (R274): obj_gen, count, reserved, field list. -/
def listBody (gen : Nat) (entries : List Bytes) : Bytes :=
  List.flatten [leBytes 4 gen, leBytes 2 entries.length, [0, 0], entries.flatten]

/-- The bytes cut into pieces of w. -/
def pieces (w : Nat) : Nat → Bytes → List Bytes
  | 0, _ => []
  | n + 1, b => b.take w :: pieces w n (b.drop w)

/-- The number that a value of a field carries: two's complement when the field is signed. -/
def fldNumber (d : FldDesc) (b : Bytes) : Int := if d.lo < 0 then intOfLe d.width b else (leNat b : Int)

/-- The numbers of a value of several elements. -/
def fldNumbers (d : FldDesc) (b : Bytes) : List Int := (pieces d.width (b.length / d.width) b).map (fldNumber d)

/-- The bytes of elements of a field. -/
def fldBytes (d : FldDesc) (l : List Int) : Bytes := l.flatMap fun v => leInt d.width v

/-- The index of an entry suits the shape of its field: INVALID on a scalar, RANGE beyond the last element; a list is taken only whole. -/
def indexErr : Shape → Nat → Option Status
  | .scalar, i => if i = whole then none else some .invalid
  | .array n, i => if i = whole ∨ i < n then none else some .range
  | .pairs _, i => if i = whole then none else some .range

/-- Notches: the start below the stop (R82). -/
def pairsRise : List Int → Bool
  | a :: b :: r => decide (a < b) && pairsRise r
  | [] => true
  | [_] => false

/-- The elements of the whole field that an entry of OBJ_SET asks for over the elements `cur` last written, or its status. -/
def askedFor (f : Fld) (cur : List Int) (e : FldEntry) : Status ⊕ List Int :=
  let d := f.desc
  match indexErr d.shape e.index with
  | some st => .inl st
  | none =>
    let l := fldNumbers d e.value
    if e.value.length ≠ l.length * d.width then .inl .range
    else
      let fits : Bool := match d.shape with
        | .scalar => decide (l.length = 1)
        | .array n => decide (l.length = if e.index = whole then n else 1)
        | .pairs n => decide (l.length % 2 = 0 ∧ l.length ≤ 2 * n) && pairsRise l
      if !fits || !l.all f.elemOk then .inl .range
      else if e.index = whole then .inr l
      else .inr (cur.set e.index (l.headD 0))

/-! ## Images -/

/-- A soft-slot descriptor (R218). -/
def SoftDesc.image (d : SoftDesc) : Nat :=
  (if d.valid then 1 else 0) + (if d.short then 2 else 0) + d.rate % 4 * 2 ^ 2 + d.cw % 8 * 2 ^ 4 + d.seq % 2 ^ 16 * 2 ^ 7 + d.len % 2 ^ 13 * 2 ^ 23 +
    d.keyGen % 2 ^ 8 * 2 ^ 36 + d.bpcFirst.toNat % 2 ^ 20 * 2 ^ 44

/-- The codes of the context states (R173). -/
def CtxSt.code : CtxSt → Nat
  | .free => 0 | .joining => 1 | .active => 2 | .dormant => 3 | .closing => 4 | .remote => 5 | .held => 6

/-- The 512 bytes of a context as OBJ_GET returns it (R172), with the ids of the tone maps in use: the wrapped key fields read as 0, route_ref as the free
value of the station's identity. -/
def Ctx.image (c : Ctx) (tmRx tmTx : Nat) : Bytes :=
  let i32 := fun (x : Int) => (x % 2 ^ 32).toNat
  let low := c.id % 2 ^ 18 + c.st.code * 2 ^ 18 + c.ctxSel % 4 * 2 ^ 22 + c.berth.val * 2 ^ 24 + c.station % 2 ^ 12 * 2 ^ 32 +
    (if c.fdCapable then 2 ^ 44 else 0) + c.tclass % 4 * 2 ^ 45 + c.domainTag % 2 ^ 16 * 2 ^ 48
  let soft := (List.range 8).map fun k => ((c.soft.find? fun d => d.slot == k).map SoftDesc.image).getD 0
  List.flatten
    [leBytes 8 low, leBytes 8 c.eui.toNat, leBytes 4 c.ownEpoch.toNat, leBytes 2 c.owner.toNat, leBytes 2 c.txSeq.toNat, leBytes 2 c.rxSeqHi.toNat,
     leBytes 1 c.keyCur, leBytes 1 c.keyNext, leBytes 4 c.keySwitch.toNat, leBytes 4 c.joinBpc.toNat, leBytes 4 c.lastRx.toNat,
     List.replicate 96 0, leBytes 128 c.replay.toNat, soft.flatMap (leBytes 8), leBytes 4 (tmRx % 16 + tmTx % 16 * 16),
     leBytes 4 (satTo 32 c.txFrames), leBytes 4 (satTo 32 c.rxFrames), leBytes 4 (satTo 32 c.rxReplay), leBytes 4 (satTo 32 c.rxAuthFail),
     leBytes 4 (satTo 32 c.retx), leBytes 4 (i32 c.ttOffset), leBytes 4 (i32 c.ttDelay), leBytes 4 (Config.routeRef c.eui).toNat, List.replicate 148 0]

/-- The 32 bytes of a route entry (R194). -/
def Route.image (r : Route) : Bytes :=
  leBytes 32 (r.eui.toNat + r.kind % 4 * 2 ^ 64 + (if r.pinned then 2 ^ 66 else 0) + r.fabAddr.toNat * 2 ^ 68 + r.berth.val * 2 ^ 77 +
    r.station % 2 ^ 12 * 2 ^ 82 + r.ctx % 2 ^ 18 * 2 ^ 96 + r.nCtxM1 % 4 * 2 ^ 114 + r.hops % 16 * 2 ^ 116 + r.cost % 2 ^ 16 * 2 ^ 120 +
    r.ver.toNat * 2 ^ 136 + r.updated.toNat * 2 ^ 152)

/-- The entry that a written image asks for (R194, R273): its read-only fields are the device's own. -/
def parseRoute (b : Bytes) : Route where
  eui := BitVec.ofNat 64 (bitsAt b 0 64)
  kind := bitsAt b 64 2
  pinned := bitsAt b 66 1 == 1
  fabAddr := BitVec.ofNat 9 (bitsAt b 68 9)
  berth := Fin.ofNat 32 (bitsAt b 77 5)
  station := bitsAt b 82 12

/-- The number of an output record, 128 bits (R360). -/
def SenseRec.image (x : SenseRec) (fast : Bool) : Nat :=
  let bit := fun (b : Bool) (k : Nat) => if b then 2 ^ k else 0
  (x.value % 2 ^ 32).toNat + x.tsNs % 2 ^ 32 * 2 ^ 32 + x.tsSec % 2 ^ 16 * 2 ^ 64 + bit x.valid 80 + bit x.settling 81 + bit x.blanked 82 +
    bit x.curveRange 83 + bit x.cjFallback 84 + bit x.cal 85 + bit x.dcBlocked 86 + bit fast 87 + bit x.delayed 88 + x.seq.toNat * 2 ^ 96

end Sys2Proof.Machine
end

