-- ==== Sys2Proof/Machine/Flags.lean ====
section
/-! DEFINITION. The status images: what each register window of BAR0 reads (R236 to R240, R253, R49, R324, R373, R381, R412), and the statistics that
follow from other state (R23, R49, R141, R178, R234, R306, R326, R352, R365, R408, R427). -/

namespace Sys2Proof.Machine
open Sys2Proof

/-- A bit at its place in an image. -/
def at_ (b : Bool) (k : Nat) : Nat := if b then 2 ^ k else 0

/-! ## Register images -/

/-- The identity window (R237): 32-bit words. -/
def State.identityWord (s : State) (off : Nat) : Nat :=
  match off with
  | 0x00 => Config.vendorId.toNat + 0x3264 * 2 ^ 16
  | 0x04 => 1
  | 0x08 => Config.serial.toNat % 2 ^ 32
  | 0x0C => Config.serial.toNat / 2 ^ 32
  | 0x10 => s.ownInfo.release % 2 ^ 16 + s.ownInfo.epoch % 2 ^ 8 * 2 ^ 16 + at_ s.boot.fwSlot 24
  | 0x14 => (if s.fab.joined then s.fab.sysEpoch else s.ownInfo.epoch) % 2 ^ 8
  | 0x18 => 2 ^ 8 + 0x100 * 2 ^ 16
  | 0x1C => s.fab.addr.toNat + at_ s.fab.joined 9
  | 0x20 => at_ s.boot.gib128 0 + s.boot.holdRate % 4 * 2
  | _ => 0

/-- Whole hours in the current mixed state (R412, R425). -/
def State.mixedHours (s : State) : Nat := match s.live.mixedSince with | some m => satTo 16 ((s.now - m) / seconds 3600) | none => 0

/-- LIVE_STATUS (R412). -/
def State.liveStatus (s : State) : Nat :=
  at_ s.live.inserted 0 + at_ s.live.quiet 1 + at_ s.live.mgmtRestart 2 + at_ s.live.mixedSince.isSome 3 + at_ (s.hist .removeHist) 4 +
    at_ (allBerths.any fun b => s.berth[b].swap.isSome) 5 + s.mixedHours * 2 ^ 16

/-- The boot and health window (R238, R412). -/
def State.healthWord (s : State) (off : Nat) : Nat :=
  let ctr := fun (x : Stat) => (s.stat x).toNat
  match off with
  | 0x00 => s.boot.stage % 16 + s.boot.fault % 16 * 16 + at_ s.boot.configAuth 8 + at_ s.boot.hostReady 9
  | 0x04 => at_ s.host.alarm 0 + at_ (s.hist .alarmHist) 1 + at_ (s.hist .hostLossHist) 2 + at_ (s.hist .qpErrorHist) 3 +
      at_ (s.hist .evOverflowHist) 4 + at_ (s.hist .dieLostHist) 5 + s.storeRetired * 2 ^ 6
  | 0x08 => s.host.wdogMs % 2 ^ 16
  | 0x0C => s.host.heartbeat.toNat
  | 0x10 => s.host.epoch.toNat + s.host.lossCause % 8 * 2 ^ 16
  | 0x14 => s.mgmt.devHeartbeat.toNat
  | 0x18 => s.liveStatus
  | 0x20 => ctr .dbInvalid
  | 0x24 => ctr .dbDropped
  | 0x28 => ctr .fetchErr
  | 0x2C => ctr .txDiscarded
  | 0x30 => ctr .evOverflow
  | 0x34 => ctr .rxUnsteered
  | _ => 0

/-- qp_state codes (R240). -/
def QpSt.code : QpSt → Nat
  | .disabled => 0 | .active => 1 | .error => 2 | .lost => 3

/-- QP_STATUS (R240). -/
def Qp.status (x : Qp) : Nat :=
  x.st.code + x.errCode % 16 * 2 ^ 2 + at_ x.errHist 6 + at_ x.rxDropHist 7 + x.sqHead % 2 ^ 16 * 2 ^ 16

/-- A queue pair's set-up block (R240). -/
def Qp.word (x : Qp) (off : Nat) : Nat :=
  match off with
  | 0x00 => x.sqBase.toNat % 2 ^ 32
  | 0x04 => x.sqBase.toNat / 2 ^ 32
  | 0x08 => x.cqBase.toNat % 2 ^ 32
  | 0x0C => x.cqBase.toNat / 2 ^ 32
  | 0x10 => at_ x.enable 0 + x.ringLog2.toNat * 2 + x.vector.toNat * 2 ^ 8 + at_ x.irqEnable 17 + x.rxSelect.toNat * 2 ^ 18 + x.rxIndex.toNat * 2 ^ 21
  | 0x14 => x.holdoff.toNat + x.irqCount.toNat * 2 ^ 16
  | 0x18 => x.status
  | _ => x.cqTail % 2 ^ 16 + at_ x.cqPhase 16

/-- The interrupt window (R253). -/
def State.intWord (s : State) (off : Nat) : Nat :=
  if off = 0 then s.host.intCause.toNat
  else if off = 4 then s.host.intEnable.toNat
  else if 0x10 ≤ off ∧ off < 0x30 then s.host.causeVec[(Fin.ofNat 8 ((off - 0x10) / 4) : Fin 8)].toNat
  else 0

/-- PD_STATUS of a domain (R49). -/
def State.pdStatus (s : State) (k : DomId) : Nat :=
  let d := s.dom[k]
  d.st.code + d.slackPct % 256 * 2 ^ 4 + at_ d.slackLow 12 + at_ (s.hist .slackLowHist k) 13 + at_ (s.hist .dropHist k) 14 +
    at_ (s.hist .faultHist k) 15 + (s.stat .dropCount k).toNat * 2 ^ 16

/-- A UART window (R381). -/
def State.uartWord (s : State) (p : UartId) (off : Nat) : Nat :=
  match off with
  | 0 => if s.uartHost p then (s.uart[p].rx.headD 0).toNat else 0
  | 4 => s.uartStatus p
  | _ => 0

/-- CHK_STATUS (R373). -/
def State.chkStatus (s : State) (u : ChkId) : Nat :=
  at_ (s.fbool .chkEnable u) 0 + at_ s.chk[u].busy 1 + at_ s.chk[u].mismatch 2 + at_ (s.hist .chkMismatchHist u) 3 + at_ (s.hist .chkSkipHist u) 4

/-- A check unit's window (R373): the high halves read what a read of the low half latched. -/
def State.chkWord (s : State) (u : ChkId) (off : Nat) : Nat :=
  let x := s.chk[u]
  match off with
  | 0x00 => x.result % 2 ^ 32
  | 0x04 => x.hiResult
  | 0x08 => s.chkStatus u
  | 0x0C => (s.stat .chkItems u).toNat
  | 0x10 => (s.stat .chkMismatches u).toNat
  | 0x14 => (s.stat .chkSkipped u).toNat
  | 0x18 => x.lastBad % 2 ^ 32
  | _ => x.hiBad

/-- clock_state codes (R318). -/
def ClkSt.code : ClkSt → Nat
  | .locked => 0 | .holdover => 1 | .freeRun => 2 | .acquiring => 3

/-- A selected input, 0x1F for none (R324). -/
def inputCode (i : Option (Fin 16)) : Nat := match i with | some k => k.val | none => 0x1F

/-- The lowest reason code set, 0 for none (R324). -/
def ClkIn.reason (x : ClkIn) : Nat := ((List.range 8).find? fun c => decide (1 ≤ c) && x.has c).getD 0

/-- A signed number held to w bits. -/
def clampBits (w : Nat) (v : Int) : Int := max (-(2 ^ (w - 1) : Nat)) (min v ((2 ^ (w - 1) : Nat) - 1))

/-- freq_dev in 0.1 ppb and time_dev_ns of an input (R312, R324). -/
def ClkIn.freqDev (x : ClkIn) : Int := clampBits 16 (Config.roundDiv x.d 200)
def State.timeDev (s : State) (i : InputId) : Int := if timeCapable i then clampBits 32 (Config.roundDiv s.clk.inp[i].e 2) else 0

/-- holdover_s: 0 in LOCKED (R324). -/
def ClockSt.hoSeconds (c : ClockSt) : Nat := if c.st = .locked then 0 else satTo 32 c.hoS

/-- CLK_HIST (R324). -/
def State.clkHistWord (s : State) : Nat := (clkW1c.map fun p => at_ (s.hist p.2) p.1).foldl (· + ·) 0

/-- CLK_IN_STATUS_i (R324). -/
def State.inStatus (s : State) (i : InputId) : Nat :=
  let x := s.clk.inp[i]
  at_ x.fQual 0 + at_ (s.tQual i) 1 + at_ (!x.has 1) 2 + at_ x.wtrEnd.isSome 3 + x.reason * 2 ^ 4 + x.rank % 16 * 2 ^ 7 +
    (x.freqDev % 2 ^ 16).toNat * 2 ^ 16

/-- The clock mirror (R324). -/
def State.clkWord (s : State) (off : Nat) : Nat :=
  let c := s.clk
  if 0x40 ≤ off ∧ off < 0x80 then s.inStatus (Fin.ofNat 16 ((off - 0x40) / 4))
  else if 0x80 ≤ off ∧ off < 0xC0 then (s.timeDev (Fin.ofNat 16 ((off - 0x80) / 4)) % 2 ^ 32).toNat
  else match off with
    | 0x00 => c.st.code + inputCode c.fIn * 2 ^ 4 + inputCode c.tIn * 2 ^ 9 + at_ c.force.isSome 14 + s.qlOut % 16 * 2 ^ 15
    | 0x04 => s.clkHistWord
    | 0x08 => c.hoSeconds
    | 0x0C => satTo 32 c.timeErr
    | 0x10 => (c.corr % 2 ^ 32).toNat
    | 0x18 => s.devNs
    | 0x1C => c.todLatch % 2 ^ 32
    | 0x20 => c.todLatch / 2 ^ 32 % 2 ^ 16
    | _ => 0

/-- What an aligned 32-bit read of BAR0 returns (R10, R236). A read that has an effect of its own (R324, R373, R378) is a command of its own. -/
def State.readBar0 (s : State) (off : Nat) : Nat :=
  if off % 4 ≠ 0 then 0xFFFFFFFF
  else if off < 0x1000 then s.identityWord off
  else if off < 0x2000 then s.healthWord (off - 0x1000)
  else if off < 0x4000 then (s.qp[(Fin.ofNat 256 ((off - 0x2000) / 32) : QpId)]).word (off % 32)
  else if off < 0x5000 then s.intWord (off - 0x4000)
  else if off < 0x6000 then if h : (off - 0x5000) / 4 < 44 then s.pdStatus ⟨(off - 0x5000) / 4, h⟩ else 0
  else if off < 0x6080 then s.uartWord (Fin.ofNat 2 ((off - 0x6000) / 64)) (off % 64)
  else if 0x7000 ≤ off ∧ off < 0x7100 then s.chkWord (Fin.ofNat 8 ((off - 0x7000) / 32)) (off % 32)
  else if 0x8000 ≤ off ∧ off < 0x9000 then s.clkWord (off - 0x8000)
  else 0

/-! ## Statistics as STATS_READ returns them -/

/-- A statistic of a response: its name, the bytes of one element, its elements. -/
structure StatOut where
  name : String
  width : Nat
  vals : List Int
  deriving DecidableEq, Repr

/-- A statistic that follows from other state, by its width in bits. -/
def statOf (name : String) (bits : Nat) (v : Int) : StatOut := ⟨name, bytesOfWidth bits, [v]⟩
def statsOf (name : String) (bits : Nat) (l : List Int) : StatOut := ⟨name, bytesOfWidth bits, l⟩
def statBit (name : String) (b : Bool) : StatOut := ⟨name, 1, [if b then 1 else 0]⟩

/-- A stored statistic of an instance. -/
def State.storedStat (s : State) (i : Nat) (x : Stat) : StatOut :=
  let d := x.desc
  ⟨d.name, bytesOfWidth d.bits, if d.elems = 0 then [s.stat x i] else (List.range d.elems).map fun e => s.stat x i e⟩

/-- The home of the statistics of an instance of a class. -/
def homeOf (c : Cls) (i : Nat) : StatHome :=
  match c with
  | .berth => .berth | .domain => .domain | .relay => .relay | .store => .store | .eth => .eth | .fabric => .fabric | .clock => .clock
  | .sense => .sense | .filter => .filter | .loop => .loop | .check => .check | .uart => .uart | .security => .security
  | .power => if i = 44 then .power44 else .power
  | .context | .route => .device

/-- Canceller state codes (R135), channel states (R226), port states (R281). -/
def CancelSt.code : CancelSt → Nat
  | .untrained => 0 | .training => 1 | .tracking => 2 | .diverged => 3 | .fallback => 4
def ChanSt.code : ChanSt → Nat
  | .untrained => 0 | .active => 1 | .draining => 2 | .fenced => 3 | .retired => 4
def PortSt.code : PortSt → Nat
  | .down => 0 | .negotiating => 1 | .training => 2 | .up => 3

/-- loop_state (R345, R352). -/
def loopStateOf (row : Nat) : Nat := match row with | 2 => 1 | 3 => 2 | 5 => 3 | 6 => 4 | 7 => 2 | 8 => 5 | _ => 0

/-- Free buffers of a size over the channels in service (R234). -/
def State.bufsFree (s : State) (large : Bool) : Nat :=
  s.liveChans.length * (if large then s.largeBufs else s.smallBufs) - s.hold.frames.countP fun f => f.large == large && !s.chanOut f.chan

/-- Releases of the members known, the device's own among them (R427). -/
def State.releases (s : State) : List Nat := s.ownInfo.release :: if s.fab.joined then s.fab.members.map (·.release) else []

/-- Statistics computed from a link's record (R306). -/
def State.linkCalc (s : State) (i : Nat) : List StatOut :=
  let l : LinkId := Fin.ofNat 6 (i - 1)
  [statOf "link_state" 4 s.fab.link[l].st.code, statOf "refuse_reason" 3 s.fab.link[l].refuse]

/-- The mirror fields of class CLOCK (R324, R326): device time at the instant of the read. -/
def State.clkCalc (s : State) : List StatOut :=
  let c := s.clk
  let each := fun (f : InputId → Int) => (List.finRange 16).map f
  let bitOf := fun (b : Bool) => (if b then 1 else 0 : Int)
  [statOf "clock_state" 4 c.st.code, statOf "freq_input" 5 (inputCode c.fIn), statOf "time_input" 5 (inputCode c.tIn), statBit "forced" c.force.isSome,
   statOf "ql_out" 4 s.qlOut, statOf "holdover_s" 32 c.hoSeconds, statOf "time_err_ns" 32 (satTo 32 c.timeErr), statOf "freq_corr" 32 c.corr,
   statOf "tod_ns" 32 s.devNs, statOf "tod_sec_lo" 32 (s.devSec % 2 ^ 32 : Nat), statOf "tod_sec_hi" 16 (s.devSec / 2 ^ 32 % 2 ^ 16 : Nat),
   statsOf "f_qual" 1 (each fun i => bitOf c.inp[i].fQual), statsOf "t_qual" 1 (each fun i => bitOf (s.tQual i)),
   statsOf "active" 1 (each fun i => bitOf (!c.inp[i].has 1)), statsOf "wtr_pending" 1 (each fun i => bitOf c.inp[i].wtrEnd.isSome),
   statsOf "reason" 3 (each fun i => c.inp[i].reason), statsOf "ql_rank" 4 (each fun i => c.inp[i].rank),
   statsOf "freq_dev" 16 (each fun i => c.inp[i].freqDev), statsOf "time_dev_ns" 32 (each fun i => s.timeDev i)]

/-- Statistics computed from a sensor channel (R352). -/
def SenseSt.chanCalc (x : SenseSt) : List StatOut :=
  [statOf "value" 32 x.fine.value, statBit "valid" x.fine.valid, statBit "settling" x.fine.settling, statBit "blanked" x.fine.blanked,
   statBit "curve_range" x.fine.curveRange, statBit "cj_fallback" x.fine.cjFallback, statBit "cal" x.fine.cal,
   statOf "ch_state" 2 (if x.broken then 1 else if x.cal.isSome then 2 else 0 : Nat), statOf "break_cause" 3 x.cause, statOf "gain_used" 3 x.gain]

/-- Statistics computed from a channel's filter (R365). -/
def SenseSt.filterCalc (x : SenseSt) : List StatOut :=
  [⟨"last_fine", 16, [x.fine.image false]⟩, ⟨"last_fast", 16, [x.fast.image true]⟩, statOf "det_max" 32 x.det.max_, statOf "det_min" 32 x.det.min_,
   statOf "det_rms" 32 x.det.rms, statOf "det_env" 32 x.det.env, statBit "det_valid" x.det.ok, statBit "dcb_engaged" x.dcb,
   statOf "dcb_mean" 32 (x.mu.getD 0)]

/-- Statistics computed for class SECURITY (R279, R408). -/
def State.openSessions (s : State) : List Int :=
  [(s.mgmt.sessions.countP fun x => x.tr == .qp0), (s.mgmt.sessions.countP fun x => x.tr == .uart0),
   (s.mgmt.sessions.countP fun x => x.tr != .qp0 && x.tr != .uart0)].map fun (n : Nat) => (n : Int)

/-- att_index in service: the held one, or the first of the epoch to come (R403, R408). -/
def State.attIndexNow (s : State) : Nat := s.sec.attIndex.getD (4096 * s.sec.attEpochs[s.sec.attSlotIdx])

/-- The attestation key's figures (R403, R408): key_slot is the attestation slot in service. -/
def State.secCalc (s : State) : List StatOut :=
  [statOf "rollback_b" 8 s.sec.rollback, statOf "key_slot" 2 s.sec.attSlot, statOf "att_index" 20 s.attIndexNow,
   statOf "att_epochs_left" 9 s.sec.epochsLeft, statBit "att_low" s.sec.attLow]

/-- What is computed for an instance, each group before a stored statistic; `none` first of all. -/
def State.calcFields (s : State) (c : Cls) (i : Nat) : List (Option Stat × List StatOut) :=
  match c with
  | .berth =>
    let x := s.berth[(Fin.ofNat 32 i : Berth)]
    [(some .cancelTotal, [statOf "cancel_state" 3 x.cancel.code]),
     (some .ucRelease, [statOf "uc_slot" 1 (match x.ucSlot with | some true => 1 | _ => 0)])]
  | .domain =>
    [(some .joinOk, [statOf "stations_active" 12
      ((s.ctxs.filter fun x => x.berth.val == i && x.st == .active).map (·.station)).eraseDups.length])]
  | .store =>
    [(some .eccCe, [statsOf "chan_state" 3 ((List.finRange 16).map fun (m : Chan) => (s.hold.chan[m].st.code : Int))]),
     (some .softEvict, [statOf "bufs_free_small" 32 (s.bufsFree false), statOf "bufs_free_large" 32 (s.bufsFree true)])]
  | .eth => [(none, [statOf "port_state" 2 s.eth[(Fin.ofNat 4 i : EthId)].st.code])]
  | .fabric => if i = 0 then [] else [(none, s.linkCalc i)]
  | .clock => [(some .clkStateHist, s.clkCalc)]
  | .sense => [(none, s.sense[(Fin.ofNat 16 i : SensId)].chanCalc)]
  | .filter =>
    let x := s.sense[(Fin.ofNat 16 i : SensId)]
    [(none, x.filterCalc), (some .dcbHist, [statOf "settle_until_ms" 32 (satTo 32 (ceilDiv (max x.settleFine x.settleFast - s.now) 10000))])]
  | .loop =>
    let x := s.loop[(Fin.ofNat 4 i : LoopId)]
    [(none, [statOf "loop_state" 3 (loopStateOf x.row)]), (some .faultEntries, [statBit "loop_open" x.openSet])]
  | .power =>
    if h : i < 44 then
      let d := s.dom[(⟨i, h⟩ : DomId)]
      [(none, [statOf "state" 3 d.st.code, statOf "slack_pct" 8 d.slackPct, statBit "slack_low" d.slackLow])]
    else []
  | .security => [(none, [statsOf "sessions_open" 8 s.openSessions]), (some .fabPrevUsed, s.secCalc)]
  | .relay | .check | .uart | .context | .route => []

/-- The fields of STATS_READ on an instance, in the order of its tables: those of FABRIC 0 are all computed. -/
def State.statFields (s : State) (c : Cls) (i : Nat) : List StatOut :=
  if c = .fabric ∧ i = 0 then
    let r := s.releases
    [statOf "members" 10 ((if s.fab.joined then s.fab.members.length + 1 else 0 : Nat) : Int),
     statOf "sys_epoch" 8 (if s.fab.joined then s.fab.sysEpoch else s.ownInfo.epoch : Nat), statOf "mixed_hours" 16 s.mixedHours,
     statOf "rel_low" 16 (r.foldl min s.ownInfo.release : Nat), statOf "rel_high" 16 (r.foldl max 0 : Nat)]
  else
    let home := homeOf c i
    let extra := s.calcFields c i
    let here := fun (x : Option Stat) => (extra.filter fun e => e.1 == x).flatMap (·.2)
    here none ++ (Stat.all.filter fun x => x.desc.home == home).flatMap fun x => here (some x) ++ [s.storedStat i x]

/-- The bytes of a statistic in a field list. -/
def StatOut.entry (x : StatOut) : Bytes := entryBytes (ascii x.name) whole (x.vals.flatMap fun v => leInt x.width v)

/-- The history bits of an instance clear (R8, R274). -/
def State.clearHist (s : State) (c : Cls) (i : Nat) : State :=
  s.forAll (Stat.all.filter fun x => x.desc.home == homeOf c i && x.desc.hist) fun a x => a.statSet x i 0 0

end Sys2Proof.Machine
end

