-- ==== Sys2Proof/Machine/Manage.lean ====
section
/-! DEFINITION. The commands over objects: OBJ_GET, STATS_READ and OBJ_SET, and the writes that the table lists by themselves (R269 to R274). -/

namespace Sys2Proof.Machine
open Sys2Proof

/-! ## OBJ_GET (R7, R271, R273) -/

/-- The elements that a read of a field returns: 0 for a field that is only written (R7), the present state of a power domain (R454), else the
value last written. -/
def State.readFld (s : State) (f : Fld) (i : Nat) : List Int :=
  if f.desc.acc = .wo ∨ f.desc.acc = .woOfficer then [0]
  else if f = .powerState then (if h : i < 44 then [(s.dom[(⟨i, h⟩ : DomId)].st.code : Int)] else [0])
  else s.fwritten f i

/-- An entry of a field list that asks for a value, the k-th of its list. -/
def State.getEntry (s : State) (c : Cls) (i k : Nat) (e : FldEntry) : Rsp ⊕ Bytes :=
  match Fld.ofName c i e.name with
  | none => .inl (.err .invalid (some k))
  | some f =>
    match indexErr f.desc.shape e.index with
    | some st => .inl (.err st (some k))
    | none =>
      if e.value ≠ [] then .inl (.err .range (some k))
      else
        let l := s.readFld f i
        .inr (entryBytes e.name e.index (fldBytes f.desc (if e.index = whole then l else [l.getD e.index 0])))

/-- The entries asked for, or the answer to the first that fails. -/
def State.getEntries (s : State) (c : Cls) (i : Nat) : Nat → List FldEntry → Rsp ⊕ List Bytes
  | _, [] => .inr []
  | k, e :: r =>
    match s.getEntry c i k e with
    | .inl x => .inl x
    | .inr b =>
      match s.getEntries c i (k + 1) r with
      | .inl x => .inl x
      | .inr l => .inr (b :: l)

/-- Every field of an instance with its value, in the order of the class tables. -/
def State.allEntries (s : State) (c : Cls) (i : Nat) : List Bytes :=
  (Fld.all.filter fun f => f.desc.cls == c && f.onInst i).map fun f => entryBytes (ascii f.desc.name) whole (fldBytes f.desc (s.readFld f i))

/-- An object read as an image follows obj_gen and four reserved bytes (R273). -/
def imageBody (gen : Nat) (image : Bytes) : Bytes := List.flatten [leBytes 4 gen, [0, 0, 0, 0], image]

/-- A request that reads an image names no field. -/
def noFields (body : Bytes) : Bool := body.isEmpty || body == [0, 0, 0, 0]

/-- The ids of the tone maps of a context's link (R172, R117): the newest map issued whose valid_from has been reached, and the map its frames are sent
with; 0 for none. -/
def State.ctxMaps (s : State) (c : Ctx) : Nat × Nat :=
  let x := s.berth[c.berth]
  let bpc := s.line[c.berth].bpc
  let rx := (x.maps.find? fun (m : LinkMaps) => m.station == c.station).bind fun m => m.issued.find? fun y => reached bpc y.validFrom
  ((rx.map fun (m : ToneMap) => m.id).getD 0, ((x.txMap c.station bpc).map fun (m : ToneMap) => m.id).getD 0)

/-- OBJ_GET's effect (R271, R273, R274). -/
def objGetEff (r : Req) (s : State) : Rsp × State :=
  let c := Cls.ofCode r.cls.toNat
  let i := r.inst.toNat
  let gen := s.objGen (c, i)
  match c with
  | .context =>
    if !noFields r.body then (.err .invalid, s)
    else let k := (s.ctx? i).getD { id := i }; ({ body := imageBody gen (k.image (s.ctxMaps k).1 (s.ctxMaps k).2) }, s)
  | .route =>
    if !noFields r.body then (.err .invalid, s)
    else match s.route? r.inst with
      | some e => ({ body := imageBody gen e.image }, s)
      | none => (.err .range, s)
  | _ =>
    let n := bitsAt r.body 0 16
    if r.body.length < 4 then (.err .invalid, s)
    else if bitsAt r.body 16 16 ≠ 0 then (.err .invalid (some 2), s)
    else match parseEntries n (r.body.drop 4) with
      | none => (.err .invalid, s)
      | some es =>
        if n = 0 then ({ body := listBody gen (s.allEntries c i) }, s)
        else match s.getEntries c i 0 es with
          | .inl x => (x, s)
          | .inr l => ({ body := listBody gen l }, s)

/-- OBJ_GET (R271): it takes no lock. -/
def execObjGet (t : Nat) (r : Req) (s : State) : Host.Outcome State Fault Refusal :=
  .next ((s.at t).runFree 3 r fun a _ => objGetEff r a)

/-! ## STATS_READ (R49, R274) -/

/-- slack_min_pct of a power domain restarts at each read (R49). -/
def State.restartSlackMin (s : State) (c : Cls) (i : Nat) : State := if c = .power ∧ i < 44 then s.statSet .slackMin i 0 255 else s

/-- STATS_READ's effect (R8, R49, R274). -/
def statsReadEff (r : Req) (x : Session) (s : State) : Rsp × State :=
  let c := Cls.ofCode r.cls.toNat
  let i := r.inst.toNat
  let clear := bitsAt r.body 0 1 == 1
  if c = .context ∨ c = .route ∨ r.body.length ≠ 4 then (.err .invalid, s)
  else if bitsAt r.body 1 7 ≠ 0 then (.err .invalid (some 0), s)
  else if bitsAt r.body 8 24 ≠ 0 then (.err .invalid (some 1), s)
  else if clear && x.role == .observer then (.err .denied (some 0), s)
  else
    let rsp : Rsp := { body := listBody (s.objGen (c, i)) ((s.statFields c i).map StatOut.entry) }
    let s1 := s.restartSlackMin c i
    (rsp, if clear then s1.clearHist c i else s1)

/-- STATS_READ (R274): it takes no lock. -/
def execStatsRead (t : Nat) (r : Req) (s : State) : Host.Outcome State Fault Refusal :=
  .next ((s.at t).runFree 5 r fun a x => statsReadEff r x a)

/-! ## OBJ_SET: the checks (R272) -/

/-- A write that an entry of a list asks for: the field and the elements of the whole of it. -/
structure Write where
  fld : Fld
  vals : List Int
  deriving DecidableEq, Repr

/-- A write that the state of its object refuses now (R25, R77, R84, R142, R305): a field that changes only while the berth is silent, on a berth in
service; one that changes only while HR_LINK is drained. -/
def State.refusesNow (s : State) (f : Fld) (i : Nat) (vals : List Int) : Bool :=
  match f.desc.app with
  | .silent => if h : i < 32 then !s.silent ⟨i, h⟩ && decide (vals ≠ s.fwritten f i) else false
  | .drained => !s.drained .link
  | _ => false

/-- An entry is checked alone: its name, its index and value, its role, its BUSY rules (R271, R272, R261, R380). `cur` is what the whole field
holds before it. -/
def State.checkEntry (s : State) (c : Cls) (i : Nat) (role : Role) (src : Src) (cur : Fld → List Int) (e : FldEntry) : Status ⊕ Write :=
  match Fld.ofName c i e.name with
  | none => .inl .invalid
  | some f =>
    match askedFor f (cur f) e with
    | .inl st => .inl st
    | .inr v =>
      if (f.desc.acc = .officer ∨ f.desc.acc = .woOfficer) ∧ role ≠ .officer then .inl .denied
      else if s.refusesNow f i v then .inl .busy
      else if f = .uartMode ∧ i = 0 ∧ src = .uart0 ∧ v ≠ s.fwritten f i then .inl .denied
      else .inr ⟨f, v⟩

/-- The elements that a field holds after the writes of a list. -/
def State.afterWrites (s : State) (i : Nat) (ws : List Write) (f : Fld) : List Int :=
  match ws.reverse.find? fun w => w.fld == f with
  | some w => w.vals
  | none => s.fwritten f i

/-- The writes of a list, or the status and the place of the first entry that fails. -/
def State.checkEntries (s : State) (c : Cls) (i : Nat) (role : Role) (src : Src) : List Write → List FldEntry → (Status × Nat) ⊕ List Write
  | done, [] => .inr done
  | done, e :: r =>
    match s.checkEntry c i role src (s.afterWrites i done) e with
    | .inl st => .inl (st, done.length)
    | .inr w => s.checkEntries c i role src (done ++ [w]) r

/-- A condition over several fields of an object, and the fields whose write it can fail. -/
structure Joint where
  flds : List Fld
  holds : State → Nat → Bool

/-- The sizes that a source of a check unit gives src_index and direction (R367). -/
def chkSourceOk (src idx dir : Nat) : Bool :=
  match src with
  | 1 => decide (idx ≤ 3) | 2 => decide (idx ≤ 5) | 3 => decide (idx ≤ 1)
  | 5 => decide (idx ≤ 31 ∧ dir = 0)
  | _ => true

/-- The wiring that a curve allows (R334). -/
def curveOk (curve wiring : Nat) : Bool :=
  if curve = 0 then true
  else if 10 ≤ curve ∧ curve ≤ 17 ∨ curve = 30 then decide (wiring = 3)
  else decide (wiring ≤ 2)

/-- Three reference berths on the die of the berth: none of them itself, none twice (R127). -/
def nbrRefOk (b : Nat) (l : List Int) : Bool :=
  let named := l.filter fun x => x != 255
  decide named.Nodup && named.all fun x => decide (x / 8 = (b / 8 : Nat) ∧ x ≠ (b : Int) ∧ x < 32)

/-- The beacon lasts at most 1,024 µs at 64 allocations (R146). -/
def State.beaconFits (s : State) (b : Berth) : Bool :=
  let d := (s.emission b).dataCarriers.length
  hardtackB 1 d != 0 && decide (beaconNs (s.fnat .giDefault b) d ((s.fget .notches b).length / 2) 64 ≤ 1024000)

/-- The conditions over several fields of a class: ranges that another field bounds and the pairings the rules exclude. -/
def joints : Cls → List Joint
  | .berth =>
    [⟨[.divThresh, .resumeThresh], fun s i => decide (s.fval .resumeThresh i + 10 ≤ s.fval .divThresh i)⟩,
     ⟨[.nbrRef], fun s i => nbrRefOk i (s.fget .nbrRef i)⟩,
     ⟨[.psdMask, .emissionCeiling, .notches], fun s i => (s.emission (Fin.ofNat 32 i)).fcOk⟩,
     ⟨[.psdMask, .emissionCeiling, .notches, .bandEdge, .giDefault], fun s i => s.beaconFits (Fin.ofNat 32 i)⟩]
  | .domain => [⟨[.nPeriod, .beaconOffset], fun s i => decide (s.fval .beaconOffset i < s.fval .nPeriod i * 1024)⟩]
  | .store =>
    [⟨[.berthQPct, .hostQPct, .ethQPct, .fabQPct],
      fun s i => decide (s.fval .berthQPct i + s.fval .hostQPct i + s.fval .ethQPct i + s.fval .fabQPct i ≤ 100)⟩]
  | .power =>
    [⟨[.slackRaise, .slackLower], fun s i => i != 44 || decide (s.fval .slackRaise i + 10 ≤ s.fval .slackLower i)⟩,
     ⟨[.vMin, .vMax], fun s i => i != 44 || decide (s.fval .vMin i ≤ s.fval .vMax i)⟩]
  | .clock => [⟨[.driftOff, .driftOn], fun s i => decide (2 * s.fval .driftOn i ≤ s.fval .driftOff i)⟩]
  | .sense =>
    [⟨[.wiring, .curve], fun s i => curveOk (s.fnat .curve i) (s.fnat .wiring i)⟩,
     ⟨[.cjSrc], fun s i => !s.fbool .cjSrc i || [1, 2, 3, 4, 20].contains (s.fnat .curve 15)⟩]
  | .filter => [⟨[.acInput], fun s i => !s.fbool .acInput i || decide (s.fnat .wiring i = 3 ∧ s.fnat .curve i = 0)⟩]
  | .loop => [⟨[.loValue, .hiValue], fun s i => decide (s.fval .loValue i ≠ s.fval .hiValue i)⟩]
  | .check =>
    [⟨[.chkWidth, .chkPoly, .chkInit, .chkXorout, .chkExpect],
      fun s i => [Fld.chkPoly, .chkInit, .chkXorout, .chkExpect].all fun f => decide (s.fnat f i < 2 ^ s.fnat .chkWidth i)⟩,
     ⟨[.chkMode, .chkWidth, .chkScope],
      fun s i => s.fnat .chkMode i != 2 || decide (s.fnat .chkWidth i % 8 = 0 ∧ s.fnat .chkWidth i ≤ 32 ∧ s.fnat .chkScope i = 0)⟩,
     ⟨[.foldMode, .chkScope, .chkSource], fun s i => s.fnat .foldMode i != 2 || decide (s.fnat .chkScope i = 0 ∧ s.fnat .chkSource i ≠ 3)⟩,
     ⟨[.chkSource, .chkSrcIndex, .chkDirection], fun s i => chkSourceOk (s.fnat .chkSource i) (s.fnat .chkSrcIndex i) (s.fnat .chkDirection i)⟩,
     ⟨[.chkFramed, .chkSource, .chkScope], fun s i => s.fbool .chkFramed i || decide (s.fnat .chkSource i = 3 ∧ s.fnat .chkScope i = 1)⟩,
     ⟨[.winLo, .winHi], fun s i => decide (s.fnat .winLo i < s.fnat .winHi i ∧ s.fnat .winLo i % 8 = 0 ∧ s.fnat .winHi i % 8 = 0)⟩]
  | .uart => [⟨[.dataBits, .uartMode], fun s i => s.fbool .uartMode i || decide (s.fnat .dataBits i = 8)⟩]
  | _ => []

/-- The state as it would be with every waiting setting and the writes in effect. -/
def State.wouldBe (s : State) (i : Nat) (ws : List Write) : State :=
  (s.release fun _ _ _ => true).forAll ws fun a w => a.fset w.fld i w.vals

/-- The place of the first entry whose field has a part in a condition that would fail. -/
def State.jointFail (s : State) (c : Cls) (i : Nat) (ws : List Write) : Option Nat :=
  let h := s.wouldBe i ws
  let bad := (joints c).filter fun j => (ws.any fun w => j.flds.contains w.fld) && !j.holds h i
  ws.findIdx? fun w => bad.any fun j => j.flds.contains w.fld

/-- The place of the last of an enrolment, and what refuses it (R405). -/
def State.enrolFail (s : State) (ws : List Write) : Option Rsp :=
  match ws.findIdx? fun w => w.fld == .attEnroll with
  | some k =>
    match (s.startEnroll).1 with
    | .ok => none
    | .range => some (.err .range (some k))
    | st => some (.err st)
  | none => none

/-! ## OBJ_SET: the effects -/

/-- The counter value from which a change made now applies on a berth (R83, R457), and whether the berth is on a grid; none: at once. -/
def State.settle (s : State) (b : Berth) : Option (BitVec 32 × Bool) :=
  let l := s.line[b]
  let ready := s.now + 2048000
  if s.coordinates b then
    match l.grid with
    | .on => some (l.bpc + BitVec.ofNat 32 (max 1 (ceilDiv (ready - l.periodAt) (s.periodNs b))), true)
    | _ => some (if l.counted then l.bpc + 1 else l.bpc, false)
  else if s.fnat .role b = 2 ∧ l.st.joined = true then
    some (l.st.bpcNow + BitVec.ofNat 32 (max 1 (ceilDiv (ready - l.st.periodAt) (l.st.nPeriod * 1024000))), true)
  else none

/-- A change for a beacon boundary (R83). -/
def State.writeBeacon (s : State) (f : Fld) (b : Berth) (v : List Int) : State :=
  match s.settle b with
  | some (k, true) => s.pendSet f b v (some k)
  | some (_, false) => s.pendSet f b v none
  | none => (s.pendSet f b v none).applyWaiting b true

/-- retire_clear takes a channel out of the retirement mask (R231). -/
def State.clearRetired (s : State) (m : Nat) : State :=
  ({ s with sec := { s.sec with retireMask := s.sec.retireMask &&& ~~~((1 : BitVec 16) <<< m) } } : State).dirty

/-- link_enable 0 sends a link DOWN; 1 lets it rise (R291, R305). -/
def State.linkSwitched (s : State) (l : LinkId) : State := if s.fbool .linkEnable (l.val + 1) then s.raiseLink l else s.linkDown l

/-- retrain = 1 retrains a link that carries packets (R294). -/
def State.retrainNow (s : State) (l : LinkId) : State :=
  if s.fab.link[l].st = .up ∨ s.fab.link[l].st = .degraded then s.retrainLink l else s

/-- One write takes its place, at the time that its table states; what acts on the whole list follows in `finishSet`. -/
def State.applyWrite (s : State) (i : Nat) (w : Write) : State :=
  match w.fld with
  | .trainRequest => s.modBerth (Fin.ofNat 32 i) fun x => { x with trainDue := true }
  | .retrain => s.retrainNow (Fin.ofNat 6 (i - 1))
  | .linkEnable => (s.fset .linkEnable i w.vals).linkSwitched (Fin.ofNat 6 (i - 1))
  | .uartMode => s.uartModeSet (Fin.ofNat 2 i) (w.vals.headD 0)
  | .retireClear => s.clearRetired (w.vals.headD 0).toNat
  | .rootRetire => { s with sec := { s.sec with rootPrev := none } }
  | .fabKeyRetire => { s with sec := { s.sec with fabPrev := none } }
  | .attEnroll => (s.startEnroll).2
  | .powerState | .configCommit | .chkRestart => s
  | f =>
    match f.desc.app with
    | .now | .silent | .drained => s.fset f i w.vals
    | .beacon => s.writeBeacon f (Fin.ofNat 32 i) w.vals
    | _ => s.pendSet f i w.vals none

/-- A field in effect differs from before. -/
def State.changed (s before : State) (f : Fld) (i : Nat) : Bool := before.fget f i != s.fget f i

/-- coupling, ratio or band edge changed (R131, R80): the canceller trains anew. -/
def State.couplingChanged (s before : State) (b : Berth) : State :=
  if s.changed before .coupling b || s.changed before .xfmrRatio b || s.changed before .bandEdge b then
    (s.modBerth b fun x => { x with trainDue := true, cancel := .untrained }).updateBackoff b
  else s

/-- Role, grid or station identity of a silent berth changed (R142, R144, R177): it leaves its grid, its station side starts afresh, and with no
boundary to wait for what waits takes effect (R83). -/
def State.domainChanged (s before : State) (b : Berth) : State :=
  let ch := fun f => s.changed before f b
  let grid := ch .role || ch .nPeriod || ch .beaconOffset
  let station := ch .role || ch .ferryTag || ch .stEui
  let s1 := if grid then s.leaveGrid b else s
  let s2 := if station then s1.modLine b fun l => { l with st := {} } else s1
  let s3 := if station && decide (2 ≤ s2.fnat .role b) then s2.applyWaiting b true else s2
  if grid || station then s3.berthReturns b else s3

/-- Output pins follow gpio_dir and gpio_out (R443). -/
def State.driveGpio (s : State) : State :=
  if s.boot.configAuth && !s.live.quiet then s.emit (.gpio (s.fnat .gpioDir 44 &&& s.fnat .gpioOut 44)) else s

/-- What follows from the writes of a list once they stand. -/
def State.finishSet (s before : State) (c : Cls) (i : Nat) (ws : List Write) : State :=
  let has := fun f => ws.any fun w => w.fld == f
  match c with
  | .berth =>
    let s1 := if has .emissionCeiling then s.emit (.log 0) else s
    s1.couplingChanged before (Fin.ofNat 32 i)
  | .eth =>
    let p : EthId := Fin.ofNat 4 i
    if (has .portEnable || has .anEnable || has .ethMaxFrame) && s.eth[p].st == .down then s.startPort p else s
  | .check =>
    let u : ChkId := Fin.ofNat 8 i
    let s1 := if s.fbool .chkEnable u then s else s.chkBoundary u
    if has .chkRestart then s1.chkRestartNow u else s1
  | .uart => s.uartIdle (Fin.ofNat 2 i)
  | .power =>
    let s1 := if has .slackRaise then s.forAll allDoms State.slackJudge else s
    let s2 : State := if s1.fbool .avsEnable 44 then s1 else { s1 with avs := { s1.avs with lower := 0 } }
    if has .gpioDir || has .gpioOut then s2.driveGpio else s2
  | .security => if has .configCommit then s.writeRecord.authDone else s
  | _ => s

/-- Every write of a list (R272): settings of a silent berth first, then those that wait for its boundaries. -/
def State.applyWrites (s : State) (c : Cls) (i : Nat) (ws : List Write) : State :=
  let waits := fun (w : Write) => w.fld.desc.app == .beacon
  let s1 := s.forAll (ws.filter fun w => !waits w) fun a w => a.applyWrite i w
  let s2 := if c = .domain then s1.domainChanged s (Fin.ofNat 32 i) else s1
  let s3 := s2.forAll (ws.filter waits) fun a w => a.applyWrite i w
  let s4 := if ws.any fun w => Fld.persists w.fld then s3.dirty else s3
  let s5 := if ws.isEmpty then s4 else s4.objTouch c i
  s5.finishSet s c i ws

/-- aux of an OBJ_SET: the period from which a change applies when any field waits for a boundary, else 0 (R83, R272). -/
def State.setAux (s : State) (i : Nat) (ws : List Write) : Nat :=
  if ws.any fun w => w.fld.desc.app == .beacon then ((s.settle (Fin.ofNat 32 i)).map fun x => x.1.toNat).getD 0 else 0

/-- expect_gen names another generation of the object (R272). -/
def State.genDiffers (s : State) (c : Cls) (i gen : Nat) : Bool := gen != 0 && gen != s.objGen (c, i)

/-! ## OBJ_SET on class ROUTE (R194, R195, R205, R273) -/

/-- Pinned entries of the package, those kept aside among them. -/
def State.pinnedCount (s : State) : Nat := (s.hold.routes.countP fun x => x.pinned) + s.hold.aside.length

/-- An entry of an identity as the host pins it: its read-only fields are the device's own. -/
def State.pinnedOf (s : State) (p : Route) : Route :=
  let mine := (s.ctxs.filter fun c => c.eui == p.eui && c.st != .free).map (·.id)
  if p.kind = 0 then { p with ctx := mine.foldl min (mine.headD 0), nCtxM1 := mine.length - 1 } else p

/-- A pinned entry is written; while the identity's contexts stand it is kept aside (R195). -/
def State.pinRoute (s : State) (p : Route) : State :=
  let own := match s.route? p.eui with | some e => decide (e.kind = 0) && !e.pinned | none => false
  if own then
    ({ s with hold := { s.hold with aside := s.pinnedOf p :: s.hold.aside.filter fun x => x.eui != p.eui } } : State).objTouch .route p.eui.toNat
  else s.putRoute (s.pinnedOf p)

/-- The pinned entry of an identity goes; none where it has none. -/
def State.unpinRoute (s : State) (eui : BitVec 64) : Option State :=
  match s.route? eui with
  | some e =>
    if e.pinned then some (s.dropRoute eui)
    else if s.hold.aside.any fun x => x.eui == eui then
      some (({ s with hold := { s.hold with aside := s.hold.aside.filter fun x => x.eui != eui } } : State).objTouch .route eui.toNat)
    else none
  | none => none

/-- OBJ_SET on class ROUTE (R273). -/
def routeSetEff (r : Req) (s : State) : Eff :=
  let img := r.body.drop 8
  let p := parseRoute img
  let held := (match s.route? r.inst with | some e => e.pinned | none => false) || s.hold.aside.any fun x => x.eui == r.inst
  if r.body.length ≠ 8 ∧ r.body.length ≠ 40 then .done (.err .invalid) s
  else if bitsAt r.body 48 16 ≠ 0 then .done (.err .invalid (some 6)) s
  else if r.body.length = 8 then
    match s.unpinRoute r.inst with
    | none => .done (.err .denied) s
    | some s1 => if s.genDiffers .route r.inst.toNat (bitsAt r.body 0 32) then .done (.err .stale (some 0)) s else .done {} s1
  else if bitsAt img 67 1 ≠ 0 ∨ bitsAt img 94 2 ≠ 0 ∨ bitsAt img 184 72 ≠ 0 then .done (.err .invalid) s
  else if p.eui ≠ r.inst then .done (.err .range (some 8)) s
  else if p.pinned = false then .done (.err .range (some 16)) s
  else if s.genDiffers .route r.inst.toNat (bitsAt r.body 0 32) then .done (.err .stale (some 0)) s
  else if held = false ∧ 131072 ≤ s.pinnedCount then .done (.err .range) (s.bump .routeFull)
  else .done {} (s.pinRoute p)

/-! ## OBJ_SET (R272) -/

/-- OBJ_SET on a class of fields: every check first, then the whole list (R272). A request for a power state goes the way of R454. -/
def fieldSetEff (r : Req) (role : Role) (s : State) : Eff :=
  let c := Cls.ofCode r.cls.toNat
  let i := r.inst.toNat
  if r.body.length < 8 then .done (.err .invalid) s
  else if bitsAt r.body 48 16 ≠ 0 then .done (.err .invalid (some 6)) s
  else match parseEntries (bitsAt r.body 32 16) (r.body.drop 8) with
    | none => .done (.err .invalid) s
    | some es =>
      match s.checkEntries c i role r.src [] es with
      | .inl (st, k) => .done (.err st (some k)) s
      | .inr ws =>
        match s.jointFail c i ws with
        | some k => .done (.err .range (some k)) s
        | none =>
          match s.enrolFail ws with
          | some x => .done x s
          | none =>
            if s.genDiffers c i (bitsAt r.body 0 32) then .done (.err .stale (some 0)) s
            else match ws.reverse.find? fun w => w.fld == .powerState with
              | some w => powerEff (Fin.ofNat 44 i) (w.vals != [0]) s
              | none =>
                let s1 := s.applyWrites c i ws
                .done { aux := some (s1.setAux i ws) } s1

/-- OBJ_SET's effect by class (R272, R273). -/
def objSetEff (r : Req) (s : State) : Eff :=
  match Cls.ofCode r.cls.toNat with
  | .context => .done (.err .denied) s
  | .route => routeSetEff r s
  | _ => fieldSetEff r (((s.session r.session).map fun (x : Session) => x.role).getD .operator) s

/-- An OBJ_SET holds the lock of its object (R269, R274). -/
def State.objSet (s : State) (r : Req) : State := s.runLocked 4 r [(Cls.ofCode r.cls.toNat, r.inst.toNat)] (objSetEff r)

/-- OBJ_SET (R272). -/
def execObjSet (t : Nat) (r : Req) (s : State) : Host.Outcome State Fault Refusal := .next ((s.at t).objSet r)

/-- POWER_STATE_REQUEST (R454): an OBJ_SET of state on class POWER. -/
def execPowerStateRequest (t : Nat) (r : Req) (s : State) : Host.Outcome State Fault Refusal := .next ((s.at t).objSet r)

/-- TRAIN_REQUEST (R131): an OBJ_SET of train_request on class BERTH. -/
def execTrainRequest (t : Nat) (r : Req) (s : State) : Host.Outcome State Fault Refusal := .next ((s.at t).objSet r)

/-- FABRIC_RETRAIN_REQUEST (R294): an OBJ_SET of retrain on class FABRIC. -/
def execFabricRetrainRequest (t : Nat) (r : Req) (s : State) : Host.Outcome State Fault Refusal := .next ((s.at t).objSet r)

/-- CHECK_RESTART (R370): an OBJ_SET of restart on class CHECK. -/
def execCheckRestart (t : Nat) (r : Req) (s : State) : Host.Outcome State Fault Refusal := .next ((s.at t).objSet r)

/-- CONFIG_COMMIT (R402): an OBJ_SET of config_commit on class SECURITY. -/
def execConfigCommit (t : Nat) (r : Req) (s : State) : Host.Outcome State Fault Refusal := .next ((s.at t).objSet r)

/-- ATT_ENROLL (R405): an OBJ_SET of att_enroll on class SECURITY. -/
def execAttEnroll (t : Nat) (r : Req) (s : State) : Host.Outcome State Fault Refusal := .next ((s.at t).objSet r)

/-- KEY_RETIRE (R389): an OBJ_SET of root_retire or fab_key_retire on class SECURITY. -/
def execKeyRetire (t : Nat) (r : Req) (s : State) : Host.Outcome State Fault Refusal := .next ((s.at t).objSet r)

/-- RETIRE_CLEAR (R231): an OBJ_SET of retire_clear on class STORE. -/
def execRetireClear (t : Nat) (r : Req) (s : State) : Host.Outcome State Fault Refusal := .next ((s.at t).objSet r)

end Sys2Proof.Machine
end

