-- ==== Sys2Proof/Machine/Dispatch.lean ====
section
/-! DEFINITION. The dispatch of commands: one arm per constructor, each one direct call of its meaning. -/

namespace Sys2Proof.Machine
open Sys2Proof

/-- The effect of a command on everything but the queue. -/
def exec (i : Instr) (s : State) : Host.Outcome State Fault Refusal :=
  match i with
  | .sessionOpen t r => Sys2Proof.Machine.execSessionOpen t r s
  | .sessionClose t r => Sys2Proof.Machine.execSessionClose t r s
  | .objGet t r => Sys2Proof.Machine.execObjGet t r s
  | .objSet t r => Sys2Proof.Machine.execObjSet t r s
  | .statsRead t r => Sys2Proof.Machine.execStatsRead t r s
  | .captureArm t r => Sys2Proof.Machine.execCaptureArm t r s
  | .captureRead t r => Sys2Proof.Machine.execCaptureRead t r s
  | .fwStage t r => Sys2Proof.Machine.execFwStage t r s
  | .fwCommit t r other => Sys2Proof.Machine.execFwCommit t r other s
  | .berthSwap t r bankFail => Sys2Proof.Machine.execBerthSwap t r bankFail s
  | .regionDrain t r => Sys2Proof.Machine.execRegionDrain t r s
  | .regionReturn t r => Sys2Proof.Machine.execRegionReturn t r s
  | .storeRetire t r => Sys2Proof.Machine.execStoreRetire t r s
  | .fabricJoin t r => Sys2Proof.Machine.execFabricJoin t r s
  | .fabricLeave t r => Sys2Proof.Machine.execFabricLeave t r s
  | .clockForce t r => Sys2Proof.Machine.execClockForce t r s
  | .sensorCal t r => Sys2Proof.Machine.execSensorCal t r s
  | .loopForce t r => Sys2Proof.Machine.execLoopForce t r s
  | .keyInstall t r => Sys2Proof.Machine.execKeyInstall t r s
  | .keyRoll t r => Sys2Proof.Machine.execKeyRoll t r s
  | .attest t r => Sys2Proof.Machine.execAttest t r s
  | .eventAck t r => Sys2Proof.Machine.execEventAck t r s
  | .powerStateRequest t r => Sys2Proof.Machine.execPowerStateRequest t r s
  | .trainRequest t r => Sys2Proof.Machine.execTrainRequest t r s
  | .fabricRetrainRequest t r => Sys2Proof.Machine.execFabricRetrainRequest t r s
  | .checkRestart t r => Sys2Proof.Machine.execCheckRestart t r s
  | .configCommit t r => Sys2Proof.Machine.execConfigCommit t r s
  | .attEnroll t r => Sys2Proof.Machine.execAttEnroll t r s
  | .keyRetire t r => Sys2Proof.Machine.execKeyRetire t r s
  | .retireClear t r => Sys2Proof.Machine.execRetireClear t r s
  | .mgmtPeriodEnd t => Sys2Proof.Machine.execMgmtPeriodEnd t s
  | .lockWaitTimeout t k => Sys2Proof.Machine.execLockWaitTimeout t k s
  | .sessionNonceExpiry t id => Sys2Proof.Machine.execSessionNonceExpiry t id s
  | .sessionIdleTimeout t id => Sys2Proof.Machine.execSessionIdleTimeout t id s
  | .sessionLockoutEnd t role tr => Sys2Proof.Machine.execSessionLockoutEnd t role tr s
  | .fabricSessionUnreachable t id => Sys2Proof.Machine.execFabricSessionUnreachable t id s
  | .qpEnable t q val => Sys2Proof.Machine.execQpEnable t q val s
  | .qpDisable t q val => Sys2Proof.Machine.execQpDisable t q val s
  | .sqTailDoorbell t q val => Sys2Proof.Machine.execSqTailDoorbell t q val s
  | .cqHeadDoorbell t q val => Sys2Proof.Machine.execCqHeadDoorbell t q val s
  | .hostHeartbeat t val => Sys2Proof.Machine.execHostHeartbeat t val s
  | .intEnableWrite t val => Sys2Proof.Machine.execIntEnableWrite t val s
  | .msixUnmask t v => Sys2Proof.Machine.execMsixUnmask t v s
  | .registerWrite t bar off width val => Sys2Proof.Machine.execRegisterWrite t bar off width val s
  | .clkTodLatch t => Sys2Proof.Machine.execClkTodLatch t s
  | .chkResultLatch t u which => Sys2Proof.Machine.execChkResultLatch t u which s
  | .uartStatusArm t p => Sys2Proof.Machine.execUartStatusArm t p s
  | .uartDataRead t p => Sys2Proof.Machine.execUartDataRead t p s
  | .uartTxWrite t p val => Sys2Proof.Machine.execUartTxWrite t p val s
  | .txFrame t q dma => Sys2Proof.Machine.execTxFrame t q dma s
  | .rxBuf t q => Sys2Proof.Machine.execRxBuf t q s
  | .nop t q => Sys2Proof.Machine.execNop t q s
  | .submissionFetchError t q => Sys2Proof.Machine.execSubmissionFetchError t q s
  | .cqWriteRefused t q => Sys2Proof.Machine.execCqWriteRefused t q s
  | .rxFrameDeliver t q => Sys2Proof.Machine.execRxFrameDeliver t q s
  | .irqModerationExpiry t q => Sys2Proof.Machine.execIrqModerationExpiry t q s
  | .hostLinkRound t entries => Sys2Proof.Machine.execHostLinkRound t entries s
  | .pcieLinkDown t => Sys2Proof.Machine.execPcieLinkDown t s
  | .perstNAssert t => Sys2Proof.Machine.execPerstNAssert t s
  | .functionLevelReset t => Sys2Proof.Machine.execFunctionLevelReset t s
  | .hostWatchdogExpiry t => Sys2Proof.Machine.execHostWatchdogExpiry t s
  | .dmaCompletionTimeout t q => Sys2Proof.Machine.execDmaCompletionTimeout t q s
  | .d3hotEntry t => Sys2Proof.Machine.execD3hotEntry t s
  | .pcieLinkTrainingStart t => Sys2Proof.Machine.execPcieLinkTrainingStart t s
  | .porNAssert t => Sys2Proof.Machine.execPorNAssert t s
  | .porNDeassert t otpOk supplyOk => Sys2Proof.Machine.execPorNDeassert t otpOk supplyOk s
  | .storeTrainingDone t fit failed dirs => Sys2Proof.Machine.execStoreTrainingDone t fit failed dirs s
  | .imageVerify t kind slot img => Sys2Proof.Machine.execImageVerify t kind slot img s
  | .configAuth t copies => Sys2Proof.Machine.execConfigAuth t copies s
  | .domainRampDone t k => Sys2Proof.Machine.execDomainRampDone t k s
  | .domainInitDone t k ok => Sys2Proof.Machine.execDomainInitDone t k ok s
  | .domainDrainDone t k => Sys2Proof.Machine.execDomainDrainDone t k s
  | .insertNAsserted t => Sys2Proof.Machine.execInsertNAsserted t s
  | .serviceBringUp t => Sys2Proof.Machine.execServiceBringUp t s
  | .evInserted t => Sys2Proof.Machine.execEvInserted t s
  | .removalQuiet t => Sys2Proof.Machine.execRemovalQuiet t s
  | .removalQuietEnd t => Sys2Proof.Machine.execRemovalQuietEnd t s
  | .unitWatchdogExpiry t k item => Sys2Proof.Machine.execUnitWatchdogExpiry t k item s
  | .clusterPeriodDeadline t k done marginPct => Sys2Proof.Machine.execClusterPeriodDeadline t k done marginPct s
  | .slackWindowEnd t => Sys2Proof.Machine.execSlackWindowEnd t s
  | .avsReadback t mv => Sys2Proof.Machine.execAvsReadback t mv s
  | .pmbAlert t words => Sys2Proof.Machine.execPmbAlert t words s
  | .d2dFlitError t l => Sys2Proof.Machine.execD2dFlitError t l s
  | .d2dRetrainDone t l ok => Sys2Proof.Machine.execD2dRetrainDone t l ok s
  | .dieRetrainRetry t l ok => Sys2Proof.Machine.execDieRetrainRetry t l ok s
  | .dieReturn t l => Sys2Proof.Machine.execDieReturn t l s
  | .dieThermalTrip t die temp => Sys2Proof.Machine.execDieThermalTrip t die temp s
  | .railOutOfRange t rail => Sys2Proof.Machine.execRailOutOfRange t rail s
  | .vddDrvUndervoltage t mv => Sys2Proof.Machine.execVddDrvUndervoltage t mv s
  | .vddDrvRecovery t => Sys2Proof.Machine.execVddDrvRecovery t s
  | .vddDrvOvervoltage t => Sys2Proof.Machine.execVddDrvOvervoltage t s
  | .vddSenseLow t => Sys2Proof.Machine.execVddSenseLow t s
  | .vddAonLoss t => Sys2Proof.Machine.execVddAonLoss t s
  | .xoInLoss t => Sys2Proof.Machine.execXoInLoss t s
  | .driverOvercurrent t b => Sys2Proof.Machine.execDriverOvercurrent t b s
  | .driverHot t b temp => Sys2Proof.Machine.execDriverHot t b temp s
  | .driverCool t b => Sys2Proof.Machine.execDriverCool t b s
  | .beaconBoundary t b plan => Sys2Proof.Machine.execBeaconBoundary t b plan s
  | .domainListenEnd t b heard => Sys2Proof.Machine.execDomainListenEnd t b heard s
  | .domainClashWaitEnd t b => Sys2Proof.Machine.execDomainClashWaitEnd t b s
  | .allocationStart t b idx => Sys2Proof.Machine.execAllocationStart t b idx s
  | .ackTailStart t b idx => Sys2Proof.Machine.execAckTailStart t b idx s
  | .contentionSlot t b busy => Sys2Proof.Machine.execContentionSlot t b busy s
  | .berthDeadlineMiss t b work => Sys2Proof.Machine.execBerthDeadlineMiss t b work s
  | .rxFifoOverflow t b syms => Sys2Proof.Machine.execRxFifoOverflow t b syms s
  | .p1Detect t b p2 level => Sys2Proof.Machine.execP1Detect t b p2 level s
  | .frameControlRx t b fc => Sys2Proof.Machine.execFrameControlRx t b fc s
  | .payloadSymbolRx t b w => Sys2Proof.Machine.execPayloadSymbolRx t b w s
  | .abortSymbolRx t b llrs => Sys2Proof.Machine.execAbortSymbolRx t b llrs s
  | .codewordDecode t b cw e => Sys2Proof.Machine.execCodewordDecode t b cw e s
  | .beaconRx t b bytes => Sys2Proof.Machine.execBeaconRx t b bytes s
  | .coordLost t b => Sys2Proof.Machine.execCoordLost t b s
  | .joinReq t b msg => Sys2Proof.Machine.execJoinReq t b msg s
  | .joinChal t b => Sys2Proof.Machine.execJoinChal t b s
  | .joinProof t b msg => Sys2Proof.Machine.execJoinProof t b msg s
  | .joinProofDeadline t b eui => Sys2Proof.Machine.execJoinProofDeadline t b eui s
  | .joinLockoutEnd t b eui => Sys2Proof.Machine.execJoinLockoutEnd t b eui s
  | .joinAccept t b eui => Sys2Proof.Machine.execJoinAccept t b eui s
  | .stationJoinMsgRx t b msg => Sys2Proof.Machine.execStationJoinMsgRx t b msg s
  | .ackRx t b ctx bytes => Sys2Proof.Machine.execAckRx t b ctx bytes s
  | .ttReq t b ctx t2 => Sys2Proof.Machine.execTtReq t b ctx t2 s
  | .ttResp t b payload t4 => Sys2Proof.Machine.execTtResp t b payload t4 s
  | .toneMap t b link bytes => Sys2Proof.Machine.execToneMap t b link bytes s
  | .toneMapIssue t b link snr => Sys2Proof.Machine.execToneMapIssue t b link snr s
  | .rekey t b ctx bytes => Sys2Proof.Machine.execRekey t b ctx bytes s
  | .rekeyAck t b ctx bytes => Sys2Proof.Machine.execRekeyAck t b ctx bytes s
  | .keyAgeRoll t b => Sys2Proof.Machine.execKeyAgeRoll t b s
  | .leave t b ctx => Sys2Proof.Machine.execLeave t b ctx s
  | .hearReport t b ctx bytes => Sys2Proof.Machine.execHearReport t b ctx bytes s
  | .linkReport t b ctx bytes => Sys2Proof.Machine.execLinkReport t b ctx bytes s
  | .routeSet t b bytes => Sys2Proof.Machine.execRouteSet t b bytes s
  | .relayMap t b bytes => Sys2Proof.Machine.execRelayMap t b bytes s
  | .meshHopRx t b fc frame => Sys2Proof.Machine.execMeshHopRx t b fc frame s
  | .parentLinkFail t b cost => Sys2Proof.Machine.execParentLinkFail t b cost s
  | .relayLateDrop t b => Sys2Proof.Machine.execRelayLateDrop t b s
  | .contextStationTimeout t id => Sys2Proof.Machine.execContextStationTimeout t id s
  | .contextDormantTimeout t id => Sys2Proof.Machine.execContextDormantTimeout t id s
  | .contextClosingEnd t id => Sys2Proof.Machine.execContextClosingEnd t id s
  | .contextRemoteEnd t id => Sys2Proof.Machine.execContextRemoteEnd t id s
  | .numberQuarantineEnd t b num => Sys2Proof.Machine.execNumberQuarantineEnd t b num s
  | .ownQuery t l pkt => Sys2Proof.Machine.execOwnQuery t l pkt s
  | .ownAnswer t l pkt => Sys2Proof.Machine.execOwnAnswer t l pkt s
  | .ownClaimWindowEnd t eui => Sys2Proof.Machine.execOwnClaimWindowEnd t eui s
  | .ownClaim t l pkt => Sys2Proof.Machine.execOwnClaim t l pkt s
  | .ownAdvert t l pkt => Sys2Proof.Machine.execOwnAdvert t l pkt s
  | .ownAdvertRefresh t => Sys2Proof.Machine.execOwnAdvertRefresh t s
  | .routeEntryExpiry t eui => Sys2Proof.Machine.execRouteEntryExpiry t eui s
  | .cancelTrainingDone t b res => Sys2Proof.Machine.execCancelTrainingDone t b res s
  | .cancelAdaptBlock t b blk => Sys2Proof.Machine.execCancelAdaptBlock t b blk s
  | .cancelTapTransfer t b analog own => Sys2Proof.Machine.execCancelTapTransfer t b analog own s
  | .residualEval t b m => Sys2Proof.Machine.execResidualEval t b m s
  | .fastRecoveryDone t b m => Sys2Proof.Machine.execFastRecoveryDone t b m s
  | .fallbackRetry t b => Sys2Proof.Machine.execFallbackRetry t b s
  | .nbrConflict t b j resid => Sys2Proof.Machine.execNbrConflict t b j resid s
  | .floorStale t b quiet => Sys2Proof.Machine.execFloorStale t b quiet s
  | .storeRound t caps reads => Sys2Proof.Machine.execStoreRound t caps reads s
  | .switchRound t eths links => Sys2Proof.Machine.execSwitchRound t eths links s
  | .ctxCacheFill t id => Sys2Proof.Machine.execCtxCacheFill t id s
  | .ctxWriteback t id => Sys2Proof.Machine.execCtxWriteback t id s
  | .storeTimingUpdate t m ok => Sys2Proof.Machine.execStoreTimingUpdate t m ok s
  | .storeTempRead t m temp => Sys2Proof.Machine.execStoreTempRead t m temp s
  | .scrubPass t m ce ue => Sys2Proof.Machine.execScrubPass t m ce ue s
  | .storeAutoRetire t m => Sys2Proof.Machine.execStoreAutoRetire t m s
  | .storeDrainFence t m => Sys2Proof.Machine.execStoreDrainFence t m s
  | .rebuildDone t m => Sys2Proof.Machine.execRebuildDone t m s
  | .captureTrigger t => Sys2Proof.Machine.execCaptureTrigger t s
  | .captureDone t rec => Sys2Proof.Machine.execCaptureDone t rec s
  | .slipwayTimeout t r => Sys2Proof.Machine.execSlipwayTimeout t r s
  | .regionAutoReturn t r => Sys2Proof.Machine.execRegionAutoReturn t r s
  | .mgmtDrainLoopFault t => Sys2Proof.Machine.execMgmtDrainLoopFault t s
  | .mgmtRestartDone t img alt => Sys2Proof.Machine.execMgmtRestartDone t img alt s
  | .ethLinkFault t p => Sys2Proof.Machine.execEthLinkFault t p s
  | .ethLinkUp t p => Sys2Proof.Machine.execEthLinkUp t p s
  | .ethFrameRx t p bytes fcsOk fecC fecU => Sys2Proof.Machine.execEthFrameRx t p bytes fcsOk fecC fecU s
  | .ptpMessageRx t p bytes => Sys2Proof.Machine.execPtpMessageRx t p bytes s
  | .ptpSyncTimeout t p => Sys2Proof.Machine.execPtpSyncTimeout t p s
  | .ptpInterval t p => Sys2Proof.Machine.execPtpInterval t p s
  | .esmcPduRx t p bytes => Sys2Proof.Machine.execEsmcPduRx t p bytes s
  | .esmcInfoTx t p => Sys2Proof.Machine.execEsmcInfoTx t p s
  | .esmcTimeout t p => Sys2Proof.Machine.execEsmcTimeout t p s
  | .fabricCwRx t l cw decodable corrected => Sys2Proof.Machine.execFabricCwRx t l cw decodable corrected s
  | .fabricNak t l ack => Sys2Proof.Machine.execFabricNak t l ack s
  | .fabricReplayTimeout t l => Sys2Proof.Machine.execFabricReplayTimeout t l s
  | .fabricControlRx t l cw => Sys2Proof.Machine.execFabricControlRx t l cw s
  | .fabricControlMiss t l => Sys2Proof.Machine.execFabricControlMiss t l s
  | .fabricLaneLoss t l lanes => Sys2Proof.Machine.execFabricLaneLoss t l lanes s
  | .fabricDecodeLoss t l => Sys2Proof.Machine.execFabricDecodeLoss t l s
  | .fabricTrainingDone t l lanes => Sys2Proof.Machine.execFabricTrainingDone t l lanes s
  | .fabricAuthTimeout t l => Sys2Proof.Machine.execFabricAuthTimeout t l s
  | .fabricRetryTimer t l => Sys2Proof.Machine.execFabricRetryTimer t l s
  | .fabricLaneRestore t l => Sys2Proof.Machine.execFabricLaneRestore t l s
  | .fabricPeriodicRetrain t l => Sys2Proof.Machine.execFabricPeriodicRetrain t l s
  | .frame t l pkt => Sys2Proof.Machine.execFrame t l pkt s
  | .mgmt t l pkt => Sys2Proof.Machine.execMgmt t l pkt s
  | .linkstate t l pkt => Sys2Proof.Machine.execLinkstate t l pkt s
  | .linkstatePeriodic t => Sys2Proof.Machine.execLinkstatePeriodic t s
  | .membership t l pkt => Sys2Proof.Machine.execMembership t l pkt s
  | .membershipHeartbeat t => Sys2Proof.Machine.execMembershipHeartbeat t s
  | .memberTimeout t addr => Sys2Proof.Machine.execMemberTimeout t addr s
  | .fabricJoinTimeout t => Sys2Proof.Machine.execFabricJoinTimeout t s
  | .fabricLeaveDown t => Sys2Proof.Machine.execFabricLeaveDown t s
  | .mixedReleaseLog t => Sys2Proof.Machine.execMixedReleaseLog t s
  | .clockMeasure t meas corr fLocked => Sys2Proof.Machine.execClockMeasure t meas corr fLocked s
  | .refActivityLoss t inp => Sys2Proof.Machine.execRefActivityLoss t inp s
  | .refWtrExpiry t inp => Sys2Proof.Machine.execRefWtrExpiry t inp s
  | .refPpsEdge t r cycles => Sys2Proof.Machine.execRefPpsEdge t r cycles s
  | .todMessage t bytes => Sys2Proof.Machine.execTodMessage t bytes s
  | .holdoverLimit t => Sys2Proof.Machine.execHoldoverLimit t s
  | .wireBreak t n cause => Sys2Proof.Machine.execWireBreak t n cause s
  | .breakProbe t n uv => Sys2Proof.Machine.execBreakProbe t n uv s
  | .wireBreakRetest t n pass => Sys2Proof.Machine.execWireBreakRetest t n pass s
  | .senseBlankChange t level => Sys2Proof.Machine.execSenseBlankChange t level s
  | .filterOutput t n f => Sys2Proof.Machine.execFilterOutput t n f s
  | .fastOutput t n f => Sys2Proof.Machine.execFastOutput t n f s
  | .loopPeriod t j => Sys2Proof.Machine.execLoopPeriod t j s
  | .loopOpen t j ua gateMax => Sys2Proof.Machine.execLoopOpen t j ua gateMax s
  | .loopForceExpiry t j => Sys2Proof.Machine.execLoopForceExpiry t j s
  | .sensorCalDone t n raw => Sys2Proof.Machine.execSensorCalDone t n raw s
  | .checkItemStart t u fits => Sys2Proof.Machine.execCheckItemStart t u fits s
  | .checkItemEnd t u tag bytes whole => Sys2Proof.Machine.execCheckItemEnd t u tag bytes whole s
  | .uartCharRx t p ch => Sys2Proof.Machine.execUartCharRx t p ch s
  | .uartCmdFrame t bytes => Sys2Proof.Machine.execUartCmdFrame t bytes s
  | .uartFrameTimeout t => Sys2Proof.Machine.execUartFrameTimeout t s
  | .uartLineDead t p => Sys2Proof.Machine.execUartLineDead t p s
  | .uartLineResume t p => Sys2Proof.Machine.execUartLineResume t p s
  | .gpioInputChange t level => Sys2Proof.Machine.execGpioInputChange t level s
  | .jtagInstruction t instr => Sys2Proof.Machine.execJtagInstruction t instr s
  | .rngHealthFail t => Sys2Proof.Machine.execRngHealthFail t s
  | .fwStageTimeout t => Sys2Proof.Machine.execFwStageTimeout t s
  | .fwFlashWriteDone t readbackOk => Sys2Proof.Machine.execFwFlashWriteDone t readbackOk s
  | .fwHoldReload t img => Sys2Proof.Machine.execFwHoldReload t img s
  | .configRecordWrite t => Sys2Proof.Machine.execConfigRecordWrite t s
  | .attEnrollDone t => Sys2Proof.Machine.execAttEnrollDone t s
  | .symbolBoundary t b level => Sys2Proof.Machine.execSymbolBoundary t b level s
  | .pcieLinkUp t => Sys2Proof.Machine.execPcieLinkUp t s
  | .wholeSecondOfDeviceTime t => Sys2Proof.Machine.execWholeSecondOfDeviceTime t s
  | .refFrequencyRange t inp ppb => Sys2Proof.Machine.execRefFrequencyRange t inp ppb s
  | .uartCharTx t p => Sys2Proof.Machine.execUartCharTx t p s
  | .storeTimingRetry t m ok => Sys2Proof.Machine.execStoreTimingRetry t m ok s
  | .entropySourceRetry t pass => Sys2Proof.Machine.execEntropySourceRetry t pass s
  | .previousKeyRetentionEnd t fab => Sys2Proof.Machine.execPreviousKeyRetentionEnd t fab s
  | .featureEpochStart t e => Sys2Proof.Machine.execFeatureEpochStart t e s
  | .thermalTripRelease t otpOk supplyOk => Sys2Proof.Machine.execThermalTripRelease t otpOk supplyOk s

end Sys2Proof.Machine
end

