-- ==== Sys2Proof/Safety.lean ====
section
/-! DEFINITION. The terms in which statements speak of a step: the parts of the state, what a change leaves alone, and what always holds. -/

namespace Sys2Proof.Machine
open Sys2Proof

/-- The parts of the state, one for each field of `State`. -/
inductive Part where
  | now | pending | fields | pend | stats | evTimes | out | entropyCtr | freeCtr | dom | die | avs | host | qp | mgmt | sec | boot | region | live
  | berth | line | ctxs | owns | mesh | hold | eth | fab | clk | sense | senseBlank | loop | chk | uart
  deriving DecidableEq, Repr

/-- Two states agree on a part. -/
def State.agree (s s' : State) : Part → Prop
  | .now => s'.now = s.now
  | .pending => s'.pending = s.pending
  | .fields => s'.fields = s.fields
  | .pend => s'.pend = s.pend
  | .stats => s'.stats = s.stats
  | .evTimes => s'.evTimes = s.evTimes
  | .out => s'.out = s.out
  | .entropyCtr => s'.entropyCtr = s.entropyCtr
  | .freeCtr => s'.freeCtr = s.freeCtr
  | .dom => s'.dom = s.dom
  | .die => s'.die = s.die
  | .avs => s'.avs = s.avs
  | .host => s'.host = s.host
  | .qp => s'.qp = s.qp
  | .mgmt => s'.mgmt = s.mgmt
  | .sec => s'.sec = s.sec
  | .boot => s'.boot = s.boot
  | .region => s'.region = s.region
  | .live => s'.live = s.live
  | .berth => s'.berth = s.berth
  | .line => s'.line = s.line
  | .ctxs => s'.ctxs = s.ctxs
  | .owns => s'.owns = s.owns
  | .mesh => s'.mesh = s.mesh
  | .hold => s'.hold = s.hold
  | .eth => s'.eth = s.eth
  | .fab => s'.fab = s.fab
  | .clk => s'.clk = s.clk
  | .sense => s'.sense = s.sense
  | .senseBlank => s'.senseBlank = s.senseBlank
  | .loop => s'.loop = s.loop
  | .chk => s'.chk = s.chk
  | .uart => s'.uart = s.uart

/-- A change from `s` to `s'` reaches only the parts of the list: every other part is as it was. -/
def Only (l : List Part) (s s' : State) : Prop := ∀ p, l.contains p = false → s.agree s' p

/-- Every part. -/
def Part.all : List Part :=
  [.now, .pending, .fields, .pend, .stats, .evTimes, .out, .entropyCtr, .freeCtr, .dom, .die, .avs, .host, .qp, .mgmt, .sec, .boot, .region, .live,
   .berth, .line, .ctxs, .owns, .mesh, .hold, .eth, .fab, .clk, .sense, .senseBlank, .loop, .chk, .uart]

/-- The families of commands, by what they act on: the host's windows, queues, serial ports and check units; power, boot, reset and live insertion; the
lines of the berths; the Ethernet ports, the fabric, the clock and the Hold; management, sensors and keys. -/
inductive Family where
  | host | power | line | net | mgmt
  deriving DecidableEq, Repr


/-- The family of a command. -/
def familyOf (c : Instr) : Family :=
  match c with
  | .sessionOpen _ _
  | .sessionClose _ _
  | .objGet _ _
  | .objSet _ _
  | .statsRead _ _
  | .sensorCal _ _
  | .loopForce _ _
  | .keyInstall _ _
  | .keyRoll _ _
  | .attest _ _
  | .eventAck _ _
  | .powerStateRequest _ _
  | .trainRequest _ _
  | .fabricRetrainRequest _ _
  | .checkRestart _ _
  | .configCommit _ _
  | .attEnroll _ _
  | .keyRetire _ _
  | .retireClear _ _
  | .mgmtPeriodEnd _
  | .lockWaitTimeout _ _
  | .sessionNonceExpiry _ _
  | .sessionIdleTimeout _ _
  | .sessionLockoutEnd _ _ _
  | .fabricSessionUnreachable _ _
  | .mgmtDrainLoopFault _
  | .wireBreak _ _ _
  | .breakProbe _ _ _
  | .wireBreakRetest _ _ _
  | .senseBlankChange _ _
  | .filterOutput _ _ _
  | .fastOutput _ _ _
  | .loopPeriod _ _
  | .loopOpen _ _ _ _
  | .loopForceExpiry _ _
  | .sensorCalDone _ _ _
  | .rngHealthFail _
  | .attEnrollDone _
  | .entropySourceRetry _ _
  | .previousKeyRetentionEnd _ _ => .mgmt
  | .captureArm _ _
  | .captureRead _ _
  | .storeRetire _ _
  | .fabricJoin _ _
  | .fabricLeave _ _
  | .clockForce _ _
  | .clkTodLatch _
  | .storeRound _ _ _
  | .switchRound _ _ _
  | .ctxCacheFill _ _
  | .ctxWriteback _ _
  | .storeTimingUpdate _ _ _
  | .storeTempRead _ _ _
  | .scrubPass _ _ _ _
  | .storeAutoRetire _ _
  | .storeDrainFence _ _
  | .rebuildDone _ _
  | .captureTrigger _
  | .captureDone _ _
  | .ethLinkFault _ _
  | .ethLinkUp _ _
  | .ethFrameRx _ _ _ _ _ _
  | .ptpMessageRx _ _ _
  | .ptpSyncTimeout _ _
  | .ptpInterval _ _
  | .esmcPduRx _ _ _
  | .esmcInfoTx _ _
  | .esmcTimeout _ _
  | .fabricCwRx _ _ _ _ _
  | .fabricNak _ _ _
  | .fabricReplayTimeout _ _
  | .fabricControlRx _ _ _
  | .fabricControlMiss _ _
  | .fabricLaneLoss _ _ _
  | .fabricDecodeLoss _ _
  | .fabricTrainingDone _ _ _
  | .fabricAuthTimeout _ _
  | .fabricRetryTimer _ _
  | .fabricLaneRestore _ _
  | .fabricPeriodicRetrain _ _
  | .frame _ _ _
  | .mgmt _ _ _
  | .linkstate _ _ _
  | .linkstatePeriodic _
  | .membership _ _ _
  | .membershipHeartbeat _
  | .memberTimeout _ _
  | .fabricJoinTimeout _
  | .fabricLeaveDown _
  | .clockMeasure _ _ _ _
  | .refActivityLoss _ _
  | .refWtrExpiry _ _
  | .refPpsEdge _ _ _
  | .todMessage _ _
  | .holdoverLimit _
  | .wholeSecondOfDeviceTime _
  | .refFrequencyRange _ _ _
  | .storeTimingRetry _ _ _
  | .featureEpochStart _ _ => .net
  | .fwStage _ _
  | .fwCommit _ _ _
  | .berthSwap _ _ _
  | .regionDrain _ _
  | .regionReturn _ _
  | .porNAssert _
  | .porNDeassert _ _ _
  | .storeTrainingDone _ _ _ _
  | .imageVerify _ _ _ _
  | .configAuth _ _
  | .domainRampDone _ _
  | .domainInitDone _ _ _
  | .domainDrainDone _ _
  | .insertNAsserted _
  | .serviceBringUp _
  | .evInserted _
  | .removalQuiet _
  | .removalQuietEnd _
  | .unitWatchdogExpiry _ _ _
  | .clusterPeriodDeadline _ _ _ _
  | .slackWindowEnd _
  | .avsReadback _ _
  | .pmbAlert _ _
  | .d2dFlitError _ _
  | .d2dRetrainDone _ _ _
  | .dieRetrainRetry _ _ _
  | .dieReturn _ _
  | .dieThermalTrip _ _ _
  | .railOutOfRange _ _
  | .vddDrvUndervoltage _ _
  | .vddDrvRecovery _
  | .vddDrvOvervoltage _
  | .vddSenseLow _
  | .vddAonLoss _
  | .xoInLoss _
  | .driverOvercurrent _ _
  | .driverHot _ _ _
  | .driverCool _ _
  | .slipwayTimeout _ _
  | .regionAutoReturn _ _
  | .mgmtRestartDone _ _ _
  | .mixedReleaseLog _
  | .gpioInputChange _ _
  | .jtagInstruction _ _
  | .fwStageTimeout _
  | .fwFlashWriteDone _ _
  | .fwHoldReload _ _
  | .configRecordWrite _
  | .thermalTripRelease _ _ _ => .power
  | .qpEnable _ _ _
  | .qpDisable _ _ _
  | .sqTailDoorbell _ _ _
  | .cqHeadDoorbell _ _ _
  | .hostHeartbeat _ _
  | .intEnableWrite _ _
  | .msixUnmask _ _
  | .registerWrite _ _ _ _ _
  | .chkResultLatch _ _ _
  | .uartStatusArm _ _
  | .uartDataRead _ _
  | .uartTxWrite _ _ _
  | .txFrame _ _ _
  | .rxBuf _ _
  | .nop _ _
  | .submissionFetchError _ _
  | .cqWriteRefused _ _
  | .rxFrameDeliver _ _
  | .irqModerationExpiry _ _
  | .hostLinkRound _ _
  | .pcieLinkDown _
  | .perstNAssert _
  | .functionLevelReset _
  | .hostWatchdogExpiry _
  | .dmaCompletionTimeout _ _
  | .d3hotEntry _
  | .pcieLinkTrainingStart _
  | .checkItemStart _ _ _
  | .checkItemEnd _ _ _ _ _
  | .uartCharRx _ _ _
  | .uartCmdFrame _ _
  | .uartFrameTimeout _
  | .uartLineDead _ _
  | .uartLineResume _ _
  | .pcieLinkUp _
  | .uartCharTx _ _ => .host
  | .beaconBoundary _ _ _
  | .domainListenEnd _ _ _
  | .domainClashWaitEnd _ _
  | .allocationStart _ _ _
  | .ackTailStart _ _ _
  | .contentionSlot _ _ _
  | .berthDeadlineMiss _ _ _
  | .rxFifoOverflow _ _ _
  | .p1Detect _ _ _ _
  | .frameControlRx _ _ _
  | .payloadSymbolRx _ _ _
  | .abortSymbolRx _ _ _
  | .codewordDecode _ _ _ _
  | .beaconRx _ _ _
  | .coordLost _ _
  | .joinReq _ _ _
  | .joinChal _ _
  | .joinProof _ _ _
  | .joinProofDeadline _ _ _
  | .joinLockoutEnd _ _ _
  | .joinAccept _ _ _
  | .stationJoinMsgRx _ _ _
  | .ackRx _ _ _ _
  | .ttReq _ _ _ _
  | .ttResp _ _ _ _
  | .toneMap _ _ _ _
  | .toneMapIssue _ _ _ _
  | .rekey _ _ _ _
  | .rekeyAck _ _ _ _
  | .keyAgeRoll _ _
  | .leave _ _ _
  | .hearReport _ _ _ _
  | .linkReport _ _ _ _
  | .routeSet _ _ _
  | .relayMap _ _ _
  | .meshHopRx _ _ _ _
  | .parentLinkFail _ _ _
  | .relayLateDrop _ _
  | .contextStationTimeout _ _
  | .contextDormantTimeout _ _
  | .contextClosingEnd _ _
  | .contextRemoteEnd _ _
  | .numberQuarantineEnd _ _ _
  | .ownQuery _ _ _
  | .ownAnswer _ _ _
  | .ownClaimWindowEnd _ _
  | .ownClaim _ _ _
  | .ownAdvert _ _ _
  | .ownAdvertRefresh _
  | .routeEntryExpiry _ _
  | .cancelTrainingDone _ _ _
  | .cancelAdaptBlock _ _ _
  | .cancelTapTransfer _ _ _ _
  | .residualEval _ _ _
  | .fastRecoveryDone _ _ _
  | .fallbackRetry _ _
  | .nbrConflict _ _ _ _
  | .floorStale _ _ _
  | .symbolBoundary _ _ _ => .line

/-- The parts of the state that a command may change, by the rules that state its effect: every other part it leaves alone. -/
def partsOf (c : Instr) : List Part :=
  match c with
  | .sessionOpen _ _ =>
    [.now, .stats, .out, .entropyCtr, .host, .qp, .mgmt, .sec, .fab]
  | .sessionClose _ _
  | .objGet _ _
  | .statsRead _ _
  | .captureRead _ _
  | .fwStage _ _
  | .fabricLeave _ _
  | .eventAck _ _
  | .lockWaitTimeout _ _
  | .pcieLinkDown _
  | .perstNAssert _
  | .functionLevelReset _
  | .hostWatchdogExpiry _
  | .dmaCompletionTimeout _ _
  | .d3hotEntry _ =>
    [.now, .stats, .out, .host, .qp, .mgmt, .boot, .fab]
  | .objSet _ _
  | .powerStateRequest _ _
  | .trainRequest _ _
  | .fabricRetrainRequest _ _
  | .checkRestart _ _
  | .configCommit _ _
  | .attEnroll _ _
  | .keyRetire _ _
  | .retireClear _ _ =>
    [.now, .fields, .pend, .stats, .out, .entropyCtr, .dom, .avs, .host, .qp, .mgmt, .sec, .boot, .berth, .line, .ctxs, .hold, .eth, .fab, .clk, .chk, .uart]
  | .captureArm _ _
  | .storeRetire _ _ =>
    [.now, .stats, .out, .host, .qp, .mgmt, .boot, .hold, .fab]
  | .fwCommit _ _ _ =>
    [.now, .stats, .out, .dom, .host, .qp, .mgmt, .sec, .boot, .live, .berth, .fab]
  | .berthSwap _ _ _ =>
    [.now, .stats, .out, .host, .qp, .mgmt, .boot, .berth, .fab]
  | .regionDrain _ _ =>
    [.now, .stats, .out, .host, .qp, .mgmt, .boot, .region, .live, .berth, .line, .ctxs, .eth, .fab, .clk]
  | .regionReturn _ _
  | .slipwayTimeout _ _
  | .regionAutoReturn _ _
  | .mgmtRestartDone _ _ _ =>
    [.now, .fields, .pend, .stats, .out, .entropyCtr, .dom, .host, .qp, .mgmt, .boot, .region, .live, .berth, .line, .ctxs, .eth, .fab, .clk, .sense, .loop]
  | .fabricJoin _ _ =>
    [.now, .stats, .out, .entropyCtr, .host, .qp, .mgmt, .boot, .fab]
  | .clockForce _ _ =>
    [.now, .stats, .out, .host, .qp, .mgmt, .boot, .live, .eth, .fab, .clk]
  | .sensorCal _ _
  | .wireBreak _ _ _
  | .sensorCalDone _ _ _ =>
    [.now, .stats, .out, .host, .qp, .mgmt, .boot, .fab, .sense]
  | .loopForce _ _ =>
    [.now, .stats, .out, .host, .qp, .mgmt, .boot, .fab, .loop]
  | .keyInstall _ _
  | .attest _ _ =>
    [.now, .stats, .out, .host, .qp, .mgmt, .sec, .boot, .fab]
  | .keyRoll _ _ =>
    [.now, .stats, .out, .entropyCtr, .host, .qp, .mgmt, .sec, .boot, .line, .ctxs, .fab]
  | .mgmtPeriodEnd _ =>
    [.now, .stats, .out, .dom, .host, .mgmt, .sec, .berth]
  | .sessionNonceExpiry _ _ =>
    [.now, .mgmt]
  | .sessionIdleTimeout _ _
  | .fabricSessionUnreachable _ _ =>
    [.now, .mgmt, .boot]
  | .sessionLockoutEnd _ _ _
  | .previousKeyRetentionEnd _ _ =>
    [.now, .sec]
  | .qpEnable _ _ _
  | .qpDisable _ _ _ =>
    [.now, .stats, .out, .host, .qp, .hold, .fab]
  | .sqTailDoorbell _ _ _
  | .cqHeadDoorbell _ _ _
  | .submissionFetchError _ _
  | .cqWriteRefused _ _ =>
    [.now, .stats, .out, .host, .qp]
  | .hostHeartbeat _ _
  | .pcieLinkTrainingStart _
  | .pcieLinkUp _ =>
    [.now, .host]
  | .intEnableWrite _ _
  | .msixUnmask _ _ =>
    [.now, .out, .host]
  | .registerWrite _ _ _ _ _ =>
    [.now, .stats, .out, .host, .qp, .mgmt, .boot, .hold, .fab, .uart]
  | .clkTodLatch _ =>
    [.now, .out, .clk]
  | .chkResultLatch _ _ _ =>
    [.now, .out, .chk]
  | .uartStatusArm _ _
  | .uartDataRead _ _ =>
    [.now, .out, .uart]
  | .uartTxWrite _ _ _ =>
    [.now, .stats, .uart]
  | .txFrame _ _ _ =>
    [.now, .stats, .evTimes, .out, .host, .qp, .mgmt, .boot, .hold, .fab]
  | .rxBuf _ _
  | .nop _ _
  | .irqModerationExpiry _ _ =>
    [.now, .out, .host, .qp]
  | .rxFrameDeliver _ _
  | .ethFrameRx _ _ _ _ _ _
  | .frame _ _ _ =>
    [.now, .stats, .evTimes, .out, .host, .qp, .hold, .fab]
  | .hostLinkRound _ _ =>
    [.now, .out, .freeCtr, .host, .qp]
  | .porNAssert _
  | .vddAonLoss _ =>
    [.now, .fields, .pend, .stats, .evTimes, .dom, .die, .avs, .host, .qp, .mgmt, .sec, .boot, .region, .live, .berth, .line, .ctxs, .owns, .mesh, .hold, .eth, .fab, .clk, .sense, .senseBlank, .loop, .chk, .uart]
  | .porNDeassert _ _ _
  | .thermalTripRelease _ _ _ =>
    [.now, .stats, .out, .dom, .host, .mgmt, .boot, .live, .berth]
  | .storeTrainingDone _ _ _ _ =>
    [.now, .stats, .out, .dom, .host, .mgmt, .sec, .boot, .berth, .hold]
  | .imageVerify _ _ _ _ =>
    [.now, .stats, .out, .dom, .host, .mgmt, .boot, .live, .berth, .fab]
  | .configAuth _ _ =>
    [.now, .fields, .stats, .out, .mgmt, .sec, .boot, .hold, .fab, .clk, .sense, .uart]
  | .domainRampDone _ _ =>
    [.now, .stats, .out, .dom, .host, .mgmt, .berth]
  | .domainInitDone _ _ _ =>
    [.now, .fields, .pend, .stats, .out, .entropyCtr, .dom, .host, .qp, .mgmt, .boot, .live, .berth, .line, .ctxs, .hold, .eth, .fab, .sense]
  | .domainDrainDone _ _ =>
    [.now, .stats, .out, .dom, .host, .qp, .mgmt, .boot, .berth, .line, .ctxs, .eth, .fab]
  | .insertNAsserted _
  | .vddDrvRecovery _ =>
    [.now, .live]
  | .serviceBringUp _
  | .removalQuietEnd _ =>
    [.now, .fields, .pend, .stats, .out, .entropyCtr, .dom, .host, .mgmt, .live, .berth, .line, .ctxs, .hold, .eth, .fab, .sense]
  | .evInserted _
  | .mixedReleaseLog _ =>
    [.now, .stats, .out, .host, .live, .fab]
  | .removalQuiet _ =>
    [.now, .fields, .pend, .stats, .out, .host, .qp, .mgmt, .boot, .live, .berth, .line, .ctxs, .eth, .fab, .loop]
  | .unitWatchdogExpiry _ _ _ =>
    [.now, .stats, .out, .dom, .host, .qp, .mgmt, .boot, .berth, .line, .ctxs, .mesh, .hold, .fab]
  | .clusterPeriodDeadline _ _ _ _ =>
    [.now, .stats, .out, .dom, .avs, .host, .qp, .mgmt, .boot, .berth, .line, .ctxs, .hold, .fab]
  | .slackWindowEnd _ =>
    [.now, .stats, .evTimes, .out, .dom, .avs, .host, .mgmt, .fab]
  | .avsReadback _ _ =>
    [.now, .stats, .out, .avs, .host, .fab]
  | .pmbAlert _ _ =>
    [.now, .stats, .out]
  | .d2dFlitError _ _
  | .dieRetrainRetry _ _ _ =>
    [.now, .out, .die]
  | .d2dRetrainDone _ _ _ =>
    [.now, .stats, .out, .dom, .die, .host, .qp, .mgmt, .boot, .berth, .line, .ctxs, .fab]
  | .dieReturn _ _ =>
    [.now, .stats, .out, .dom, .die, .host, .mgmt, .berth]
  | .dieThermalTrip _ _ _ =>
    [.now, .fields, .pend, .stats, .evTimes, .out, .dom, .die, .avs, .host, .qp, .mgmt, .sec, .boot, .region, .live, .berth, .line, .ctxs, .owns, .mesh, .hold, .eth, .fab, .clk, .sense, .senseBlank, .loop, .chk, .uart]
  | .railOutOfRange _ _
  | .vddSenseLow _ =>
    [.now, .fields, .pend, .stats, .out, .dom, .host, .qp, .mgmt, .boot, .live, .berth, .line, .ctxs, .hold, .fab, .loop]
  | .vddDrvUndervoltage _ _ =>
    [.now, .stats, .out, .host, .live, .berth, .fab]
  | .vddDrvOvervoltage _ =>
    [.now, .live, .berth]
  | .xoInLoss _ =>
    [.now, .stats, .out, .dom, .host, .qp, .mgmt, .boot, .berth, .line, .ctxs, .hold, .fab]
  | .driverOvercurrent _ _ =>
    [.now, .fields, .stats, .out, .host, .mgmt, .boot, .berth, .line, .ctxs, .fab]
  | .driverHot _ _ _
  | .cancelTrainingDone _ _ _
  | .residualEval _ _ _
  | .fastRecoveryDone _ _ _
  | .nbrConflict _ _ _ _ =>
    [.now, .stats, .out, .host, .berth, .fab]
  | .driverCool _ _
  | .p1Detect _ _ _ _
  | .toneMap _ _ _ _
  | .floorStale _ _ _ =>
    [.now, .stats, .berth]
  | .beaconBoundary _ _ _ =>
    [.now, .fields, .pend, .stats, .out, .host, .qp, .mgmt, .boot, .region, .berth, .line, .ctxs, .mesh, .hold, .fab]
  | .domainListenEnd _ _ _ =>
    [.now, .stats, .evTimes, .out, .entropyCtr, .host, .mgmt, .line, .ctxs, .fab]
  | .domainClashWaitEnd _ _
  | .joinLockoutEnd _ _ _
  | .stationJoinMsgRx _ _ _
  | .ttResp _ _ _ _
  | .hearReport _ _ _ _
  | .numberQuarantineEnd _ _ _ =>
    [.now, .line]
  | .allocationStart _ _ _
  | .symbolBoundary _ _ _ =>
    [.now, .fields, .pend, .stats, .evTimes, .out, .freeCtr, .host, .berth, .line, .ctxs, .mesh, .hold, .fab]
  | .ackTailStart _ _ _ =>
    [.now, .out, .berth, .line, .ctxs]
  | .contentionSlot _ _ _ =>
    [.now, .stats, .evTimes, .out, .entropyCtr, .freeCtr, .host, .berth, .line, .ctxs, .mesh, .hold, .fab]
  | .berthDeadlineMiss _ _ _
  | .codewordDecode _ _ _ _ =>
    [.now, .stats, .out, .dom, .avs, .qp, .mgmt, .berth, .line, .ctxs, .mesh, .hold]
  | .rxFifoOverflow _ _ _
  | .abortSymbolRx _ _ _ =>
    [.now, .stats, .out, .qp, .mgmt, .berth, .line, .ctxs, .mesh, .hold]
  | .frameControlRx _ _ _ =>
    [.now, .stats, .berth, .line, .ctxs, .hold]
  | .payloadSymbolRx _ _ _ =>
    [.now, .stats, .out, .host, .qp, .mgmt, .berth, .line, .ctxs, .mesh, .hold, .fab]
  | .beaconRx _ _ _ =>
    [.now, .fields, .pend, .stats, .out, .host, .qp, .mgmt, .boot, .region, .berth, .line, .ctxs, .mesh, .fab]
  | .coordLost _ _ =>
    [.now, .fields, .pend, .stats, .out, .host, .mgmt, .berth, .line, .ctxs, .mesh, .fab]
  | .joinReq _ _ _ =>
    [.now, .stats, .out, .entropyCtr, .host, .mgmt, .line, .ctxs, .hold, .fab]
  | .joinChal _ _ =>
    [.now, .out, .mgmt, .berth, .line, .ctxs]
  | .joinProof _ _ _ =>
    [.now, .stats, .out, .freeCtr, .host, .mgmt, .line, .ctxs, .owns, .hold, .fab]
  | .joinProofDeadline _ _ _
  | .contextClosingEnd _ _
  | .contextRemoteEnd _ _ =>
    [.now, .mgmt, .line, .ctxs, .hold]
  | .joinAccept _ _ _ =>
    [.now, .stats, .out, .entropyCtr, .mgmt, .berth, .line, .ctxs, .hold]
  | .ackRx _ _ _ _ =>
    [.now, .line, .ctxs, .mesh, .hold]
  | .ttReq _ _ _ _ =>
    [.now, .out, .freeCtr, .berth, .line, .ctxs]
  | .toneMapIssue _ _ _ _ =>
    [.now, .fields, .pend, .stats, .freeCtr, .berth, .line, .mesh]
  | .rekey _ _ _ _ =>
    [.now, .entropyCtr, .line, .ctxs]
  | .rekeyAck _ _ _ _
  | .ctxWriteback _ _ =>
    [.now, .ctxs]
  | .keyAgeRoll _ _ =>
    [.now, .stats, .out, .entropyCtr, .host, .line, .ctxs, .fab]
  | .leave _ _ _
  | .contextStationTimeout _ _
  | .contextDormantTimeout _ _ =>
    [.now, .mgmt, .ctxs]
  | .linkReport _ _ _ _
  | .routeSet _ _ _
  | .relayMap _ _ _
  | .relayLateDrop _ _ =>
    [.now, .stats, .mesh]
  | .meshHopRx _ _ _ _ =>
    [.now, .stats, .qp, .line, .mesh, .hold]
  | .parentLinkFail _ _ _ =>
    [.now, .mesh]
  | .ownQuery _ _ _
  | .linkstate _ _ _ =>
    [.now, .stats, .out, .qp, .hold, .fab]
  | .ownAnswer _ _ _ =>
    [.now, .stats, .out, .qp, .owns, .hold, .fab]
  | .ownClaimWindowEnd _ _ =>
    [.now, .stats, .out, .ctxs, .owns, .fab]
  | .ownClaim _ _ _
  | .ownAdvert _ _ _ =>
    [.now, .stats, .evTimes, .out, .host, .qp, .mgmt, .line, .ctxs, .owns, .hold, .fab]
  | .ownAdvertRefresh _ =>
    [.now, .fields, .pend, .stats, .out, .fab]
  | .routeEntryExpiry _ _ =>
    [.now, .mgmt, .hold]
  | .cancelAdaptBlock _ _ _ =>
    [.now, .fields, .pend, .stats, .out, .host, .berth, .fab]
  | .cancelTapTransfer _ _ _ _
  | .fallbackRetry _ _ =>
    [.now, .berth]
  | .storeRound _ _ _ =>
    [.now, .stats, .evTimes, .out, .host, .mgmt, .boot, .line, .ctxs, .hold, .fab]
  | .switchRound _ _ _
  | .storeTempRead _ _ _ =>
    [.now, .stats, .evTimes, .out, .host, .hold, .fab]
  | .ctxCacheFill _ _
  | .storeTimingUpdate _ _ _
  | .captureTrigger _
  | .storeTimingRetry _ _ _ =>
    [.now, .hold]
  | .scrubPass _ _ _ _ =>
    [.now, .fields, .pend, .stats, .evTimes, .out, .host, .hold, .fab]
  | .storeAutoRetire _ _
  | .storeDrainFence _ _ =>
    [.now, .stats, .out, .host, .qp, .mgmt, .sec, .boot, .ctxs, .hold, .fab]
  | .rebuildDone _ _ =>
    [.now, .stats, .out, .host, .qp, .mgmt, .sec, .boot, .hold, .fab]
  | .captureDone _ _
  | .fabricControlMiss _ _
  | .fabricLaneLoss _ _ _
  | .fabricTrainingDone _ _ _ =>
    [.now, .stats, .out, .host, .hold, .fab]
  | .mgmtDrainLoopFault _ =>
    [.now, .fields, .pend, .stats, .out, .live, .loop]
  | .ethLinkFault _ _ =>
    [.now, .fields, .pend, .stats, .out, .host, .eth, .fab]
  | .ethLinkUp _ _ =>
    [.now, .stats, .out, .host, .eth, .fab]
  | .ptpMessageRx _ _ _ =>
    [.now, .stats, .out, .eth, .clk]
  | .ptpSyncTimeout _ _
  | .refActivityLoss _ _
  | .refWtrExpiry _ _
  | .refPpsEdge _ _ _
  | .todMessage _ _
  | .refFrequencyRange _ _ _ =>
    [.now, .stats, .out, .host, .live, .eth, .fab, .clk]
  | .ptpInterval _ _ =>
    [.now, .out]
  | .esmcPduRx _ _ _
  | .esmcTimeout _ _ =>
    [.now, .stats, .eth, .clk]
  | .esmcInfoTx _ _ =>
    [.now, .out, .eth]
  | .fabricCwRx _ _ _ _ _
  | .linkstatePeriodic _
  | .membershipHeartbeat _ =>
    [.now, .stats, .out, .fab]
  | .fabricNak _ _ _
  | .fabricReplayTimeout _ _
  | .fabricDecodeLoss _ _
  | .fabricRetryTimer _ _
  | .fabricLaneRestore _ _
  | .fabricPeriodicRetrain _ _ =>
    [.now, .stats, .out, .entropyCtr, .host, .fab]
  | .fabricControlRx _ _ _ =>
    [.now, .stats, .out, .host, .hold, .fab, .clk]
  | .fabricAuthTimeout _ _ =>
    [.now, .stats, .out, .host, .fab]
  | .mgmt _ _ _ =>
    [.now, .stats, .out, .host, .qp, .mgmt, .sec, .hold, .fab]
  | .membership _ _ _ =>
    [.now, .stats, .out, .host, .qp, .mgmt, .boot, .live, .hold, .fab]
  | .memberTimeout _ _ =>
    [.now, .stats, .live, .hold, .fab]
  | .fabricJoinTimeout _
  | .fabricLeaveDown _ =>
    [.now, .stats, .out, .host, .qp, .mgmt, .boot, .live, .fab]
  | .clockMeasure _ _ _ _ =>
    [.now, .fields, .pend, .stats, .out, .host, .live, .eth, .fab, .clk]
  | .holdoverLimit _ =>
    [.now, .stats, .out, .host, .live, .fab, .clk]
  | .breakProbe _ _ _ =>
    [.now, .fields, .pend, .stats, .out, .host, .qp, .mgmt, .boot, .fab, .sense]
  | .wireBreakRetest _ _ _ =>
    [.now, .out, .sense, .loop]
  | .senseBlankChange _ _ =>
    [.now, .senseBlank]
  | .filterOutput _ _ _ =>
    [.now, .fields, .pend, .stats, .evTimes, .out, .freeCtr, .host, .qp, .mgmt, .boot, .fab, .sense, .loop]
  | .fastOutput _ _ _ =>
    [.now, .stats, .sense, .loop]
  | .loopPeriod _ _ =>
    [.now, .fields, .pend, .stats, .out, .loop]
  | .loopOpen _ _ _ _ =>
    [.now, .stats, .out, .host, .fab, .loop]
  | .loopForceExpiry _ _ =>
    [.now, .loop]
  | .checkItemStart _ _ _ =>
    [.now, .fields, .pend, .stats, .chk]
  | .checkItemEnd _ _ _ _ _ =>
    [.now, .fields, .pend, .stats, .evTimes, .out, .host, .fab, .chk]
  | .uartCharRx _ _ _ =>
    [.now, .fields, .pend, .stats, .out, .host, .mgmt, .uart]
  | .uartCmdFrame _ _ =>
    [.now, .stats, .out, .host, .qp, .mgmt, .fab]
  | .uartFrameTimeout _ =>
    [.now, .stats, .mgmt]
  | .uartLineDead _ _ =>
    [.now, .stats, .out, .host, .fab, .uart]
  | .uartLineResume _ _ =>
    [.now, .uart]
  | .gpioInputChange _ _ =>
    [.now, .stats]
  | .jtagInstruction _ _ =>
    [.now, .stats, .out, .live]
  | .rngHealthFail _
  | .entropySourceRetry _ _ =>
    [.now, .stats, .sec]
  | .fwStageTimeout _ =>
    [.now, .boot]
  | .fwFlashWriteDone _ _
  | .fwHoldReload _ _ =>
    [.now, .stats, .out, .host, .boot, .fab]
  | .configRecordWrite _ =>
    [.now, .out, .boot]
  | .attEnrollDone _ =>
    [.now, .stats, .out, .host, .sec, .fab]
  | .wholeSecondOfDeviceTime _ =>
    [.now, .out, .live]
  | .uartCharTx _ _ =>
    [.now, .fields, .pend, .stats, .out, .uart]
  | .featureEpochStart _ _ =>
    [.now, .fab]

/-- What a command answers, when it answers a next state, holds of it. -/
def Answers (o : Host.Outcome State Fault Refusal) (P : State → Prop) : Prop := ∃ s', o = .next s' ∧ P s'

/-- A saturating counter has counted one more, up to its largest value. -/
def Counted (s s' : State) (x : Stat) (i : Nat := 0) (e : Nat := 0) : Prop :=
  s'.stat x i e = min (s.stat x i e + 1) ((2 ^ x.desc.bits : Nat) - 1)

/-- A request that takes write locks has been accepted and its locks are granted, so that the command presented again takes effect (R62, R269). -/
structure Granted (s : State) (cmd : Nat) (r : Req) (q : LockReq) : Prop where
  serves : s.mgmtServes = true
  granted : (s.mgmt.granted.find? fun y => y.code == cmd && decide (y.req = r)) = some q

/-- A request that takes no lock is presented and accepted in an open session (R249, R263, R267, R268). -/
structure Accepted (s : State) (cmd : Nat) (r : Req) (x : Session) : Prop where
  serves : s.mgmtServes = true
  there : s.presented cmd r = true
  accepted : ((s.unbox cmd r).accept cmd r).2 = (some x, none)

/-- The list of an OBJ_SET passes every check of R272 and asks for these writes. -/
structure SetOk (s : State) (r : Req) (ws : List Write) : Prop where
  len : 8 ≤ r.body.length
  reserved : bitsAt r.body 48 16 = 0
  entries : ∃ es, parseEntries (bitsAt r.body 32 16) (r.body.drop 8) = some es ∧
    s.checkEntries (Cls.ofCode r.cls.toNat) r.inst.toNat (((s.session r.session).map fun (x : Session) => x.role).getD .operator) r.src [] es = .inr ws
  joint : s.jointFail (Cls.ofCode r.cls.toNat) r.inst.toNat ws = none
  enrol : s.enrolFail ws = none
  gen : s.genDiffers (Cls.ofCode r.cls.toNat) r.inst.toNat (bitsAt r.body 0 32) = false
  room : 16 ≤ respSpace r.src

/-- A packet of a type arrives over a link for this package: in order, and with its header as R295 and R296 give it. Whether its tag verifies is the
cipher's to say (`State.openPkt`). -/
structure Arrives (s : State) (l : LinkId) (ptype : Nat) (b : Bytes) : Prop where
  carries : s.fab.link[l].carries = true
  on : s.domOn pdFab = true
  serves : s.drained .link = false
  inOrder : bitsAt b 64 48 = s.fab.link[l].pktRx
  head : s.headOk l b = true
  kind : bitsAt b 4 4 = ptype
  here : bitsAt b 18 9 = s.fab.addr.toNat

/-- The host has been lost for a cause (R255, R256): the cause and a new epoch are kept, every queue pair that was ACTIVE or in ERROR is LOST with its
entries forgotten, the sessions of QP0 are closed, and one event is raised. -/
structure HostLost (s s' : State) (cause : Nat) : Prop where
  lost : s'.host.lost = true
  lossCause : s'.host.lossCause = cause
  epoch : s'.host.epoch = s.host.epoch + 1
  event : s'.host.evSeq = s.host.evSeq + 1
  qps : ∀ q : QpId, s'.qp[q] = s.qp[q].lose
  sessions : ∀ x, x ∈ s'.mgmt.sessions → x.tr ≠ .qp0
  history : s'.stat .hostLossHist = 1

/-- PD_SEC is ON (R31), the memory of the Hold has its one canonical form, and at most 4,096 events wait for QP1 (R252). -/
structure Inv (s : State) : Prop where
  secOn : s.domSt pdSec = .on
  memOk : s.hold.mem.wf
  heldLe : s.host.held.length ≤ 4096

end Sys2Proof.Machine
end

