-- ==== Sys2Proof/Certificates/Slice0/Obligations.lean ====
section
/-! DEFINITION. The statements for the provers. -/

open Sys2Proof Sys2Proof.Machine

/-- One step takes the command at the front of the queue and runs it on the state with the rest of the queue. -/
def Obligations.StepRunsTheFrontCommand : Prop :=
  ∀ (c : Instr) (rest : List Instr) (s : State), step { s with pending := c :: rest } = exec c { s with pending := rest }

/-- With no command waiting, the block idles: a step changes nothing (the model's choice, notes/assumptions/2.md). -/
def Obligations.StepIdlesOnAnEmptyQueue : Prop :=
  ∀ s : State, s.pending = [] → step s = .next s

/-- R8, R29, R31, R226, R240, R253, R269, R281, R291: what the block holds after POR_N, by the reset values that the rules and tables give. Where the
spec leaves a point open the model's choice holds: notes/assumptions 21. -/
def Obligations.ResetHoldsTheStatedValues : Prop :=
  (∀ k : DomId, State.reset.domSt k = if k = pdSec then .on else .off) ∧
  (∀ q : QpId, State.reset.qp[q].st = .disabled ∧ State.reset.qp[q].enable = false ∧ State.reset.qp[q].ringLog2 = 6 ∧ State.reset.qp[q].irqCount = 1 ∧
    State.reset.qp[q].sqBase = 0 ∧ State.reset.qp[q].cqBase = 0 ∧ State.reset.qp[q].errHist = false) ∧
  State.reset.host.intCause = 0 ∧ State.reset.host.intEnable = 0 ∧ State.reset.host.wdogMs = 0 ∧ State.reset.host.alarm = false ∧
  (∀ l : LinkId, State.reset.fab.link[l].st = .down) ∧ (∀ p : EthId, State.reset.eth[p].st = .down) ∧
  (∀ m : Chan, State.reset.hold.chan[m].st = .untrained) ∧ (∀ b : Berth, State.reset.berth[b].cancel = .untrained) ∧
  (∀ (x : Stat) i e, State.reset.stat x i e = x.desc.reset) ∧ (∀ (f : Fld) i, State.reset.fget f i = f.dflt i) ∧
  (∀ c i, State.reset.objGen (c, i) = 1) ∧ State.reset.mgmt.sessions = [] ∧ State.reset.ctxs = []

/-- The state after reset meets the invariant. -/
def Obligations.ResetMeetsTheInvariant : Prop :=
  Inv State.reset

/-- Every step keeps the invariant: PD_SEC stays ON (R31), the memory of the Hold keeps its one canonical form, and at most 4,096 events wait for QP1
(R252). -/
def Obligations.EveryStepKeepsTheInvariant : Prop :=
  ∀ s s' : State, Inv s → step s = .next s' → Inv s'

/-- R31: no command moves PD_SEC out of ON. -/
def Obligations.NoCommandMovesTheSecurityDomain : Prop :=
  ∀ (c : Instr) (s s' : State), exec c s = .next s' → s.domSt pdSec = .on → s'.domSt pdSec = .on

/-- R6: serial-number comparison over half the range of a counter of n bits. -/
def Obligations.CountersCompareOverHalfTheirRange : Prop :=
  ∀ (n : Nat) (a b : BitVec (n + 1)),
    (newer (n + 1) a.toNat b.toNat = true ↔ 1 ≤ (a - b).toNat ∧ (a - b).toNat ≤ 2 ^ n - 1) ∧
    ((a - b).toNat = 2 ^ n → newer (n + 1) a.toNat b.toNat = false ∧ newer (n + 1) b.toNat a.toNat = false)

/-- R11: a 64-bit register written as two halves takes its value at the write to the upper half; the lower half alone changes no active value. -/
def Obligations.HalvesTakeEffectAtTheUpperOne : Prop :=
  ∀ (s : State) (t u : Nat) (q : QpId) (off : Nat) (lo hi : BitVec 64), s.hostAccess = true → s.qp[q].enable = false → off = 0 ∨ off = 8 →
    Answers (exec (.registerWrite t 0 (0x2000 + 32 * q.val + off) 4 lo) s) fun s1 =>
      s1.qp[q].sqBase = s.qp[q].sqBase ∧ s1.qp[q].cqBase = s.qp[q].cqBase ∧
      Answers (exec (.registerWrite u 0 (0x2004 + 32 * q.val + off) 4 hi) s1) fun s2 =>
        (off = 0 → s2.qp[q].sqBase = hi.setWidth 32 ++ lo.setWidth 32 ∧ s2.qp[q].cqBase = s.qp[q].cqBase) ∧
        (off = 8 → s2.qp[q].cqBase = hi.setWidth 32 ++ lo.setWidth 32 ∧ s2.qp[q].sqBase = s.qp[q].sqBase)

/-- R56: a berth that erases the frame-control symbol of a frame discards the frame's payload symbols and sends no acknowledgement for it. -/
def Obligations.ErasedFrameControlDiscardsItsFrame : Prop :=
  ∀ (s : State) (t u : Nat) (b : Berth) (w : SymbolQuality), Answers (exec (.berthDeadlineMiss t b (.rxSymbol 0)) s) fun s1 =>
    s1.berth[b].rx = none ∧ s1.line[b].acks = s.line[b].acks ∧ s1.line[b].st.acks = s.line[b].st.acks ∧ s1.hold = s.hold ∧
    Answers (exec (.payloadSymbolRx u b w) s1) fun s2 =>
      s2.berth[b].rx = none ∧ s2.line[b].acks = s.line[b].acks ∧ s2.line[b].st.acks = s.line[b].st.acks ∧ s2.hold = s.hold

/-- R208: CRC-32C by its parameters, its value over the nine ASCII bytes of the digits 1 to 9, and its place in memory. -/
def Obligations.Crc32cHasItsParametersAndCheckValue : Prop :=
  (∀ l : Bytes, crc32c l = crcOut 32 true 0xFFFFFFFF (crcFeed 32 0x1EDC6F41 true 0xFFFFFFFF l) ∧ crc32cBytes l = leBytes 4 (crc32c l)) ∧
  crc32c [0x31, 0x32, 0x33, 0x34, 0x35, 0x36, 0x37, 0x38, 0x39] = 0xE3069283

/-- R253: a cause bit sets on its event and sends one message on its vector when it is enabled; none follows until the bit is cleared and the event sets
it again, and setting the enable bit of a cause already set sends the message. -/
def Obligations.DeviceCausesSendOneMessage : Prop :=
  (∀ (s : State) (k : Fin 8), (s.cause k).host.intCause.getLsbD k = true ∧ (∀ j : Fin 8, j ≠ k →
      (s.cause k).host.intCause.getLsbD j = s.host.intCause.getLsbD j)) ∧
  (∀ (s : State) (k : Fin 8), s.host.intCause.getLsbD k = true → s.cause k = s) ∧
  (∀ (s : State) (k : Fin 8), s.host.intCause.getLsbD k = false → s.host.intEnable.getLsbD k = false → (s.cause k).out = s.out) ∧
  (∀ (s : State) (k : Fin 8), s.host.linkUp = true → s.host.d3 = false → s.host.msixEnable = true → s.host.busMaster = true → s.host.lost = false →
    s.host.funcMask = false → s.host.sent.1 ≠ s.now → s.host.msix[s.host.causeVec[k].toFin].mask = false → s.host.intEnable.getLsbD k = true →
    s.host.intCause.getLsbD k = false → (s.cause k).out = .msix s.host.causeVec[k].toNat :: s.out) ∧
  (∀ (s : State) (t : Nat) (k : Fin 8) (val : BitVec 32), s.hostAccess = true → s.host.msixEnable = true → s.host.busMaster = true → s.host.lost = false →
    s.host.funcMask = false → s.host.sent.1 ≠ max s.now t → s.host.msix[s.host.causeVec[k].toFin].mask = false → val.getLsbD k = true →
    s.host.intEnable.getLsbD k = false → s.host.intCause.getLsbD k = true →
    Answers (exec (.intEnableWrite t val) s) fun s' => .msix s.host.causeVec[k].toNat ∈ s'.out)

/-- R95, R96: the 30 bytes of a frame-control block read back as the fields they were made from, and their check holds, whatever the fields. -/
def Obligations.FrameControlReadsBack : Prop :=
  ∀ f : FrameCtl, f.version < 16 → f.ftype < 16 → f.src < 4096 → f.dst < 4096 → f.ctxSel < 4 → f.gi < 4 → f.mode < 8 → f.tmId < 16 → f.rate < 4 →
    f.len < 8192 → f.attempt < 8 → f.tag < 65536 → f.keyGen < 256 → f.bpcFirst < 2 ^ 32 → f.seq < 65536 →
    parseFc (fcBytes f) = f ∧ fcCrcOk (fcBytes f) = true ∧ (fcBytes f).length = 30

/-- R267: the escaping of a frame body holds no flag and undoes itself, and a body with its CRC comes back from its frame. -/
def Obligations.CommandFramesReadBack : Prop :=
  (∀ l : Bytes, (0x7E : Byte) ∉ escape l) ∧ (∀ l : Bytes, unescape (escape l) = l) ∧ (∀ l : Bytes, frameBody (escape (l ++ crc32cBytes l)) = some l)

/-- R209, R211, R212: a frame that is admitted lies in its buffer with its payload and a CRC that holds, every byte of memory outside the bytes stored is
as it was, and a frame that is not admitted stores nothing. -/
def Obligations.AdmissionStoresTheFrameAndNothingElse : Prop :=
  ∀ (s s' : State) (f : Frame) (p : Bytes) (r : Admit), s.hold.mem.wf = true → s.takeIn f p = (s', r) →
    (r = .ok → ∃ g, s'.hold.frames.getLast? = some g ∧ g.len = p.length ∧ g.dstKind = f.dstKind ∧ g.dstIdx = f.dstIdx ∧ g.srcKind = f.srcKind ∧
      s'.framePayload g = p ∧ s'.frameCrcOk g = true ∧
      ∀ a, a < s'.frameAddr g ∨ s'.frameAddr g + 36 + padTo4 p.length ≤ a → s'.hold.mem.get a = s.hold.mem.get a) ∧
    (r ≠ .ok → s'.hold = s.hold)

/-- R407: ATTEST is BUSY, and spends no index, within att_min_interval_s of the signature before it and once att_daily_max signatures fall in the last
86,400 s; two in turn have indices of their own. -/
def Obligations.AttestationIsLimited : Prop :=
  (∀ (s : State) (r : Req) (a : Nat) (l : List Nat), r.body.length = 32 → s.sec.enrolling = none → s.sec.attLeft s.sec.attSlotIdx = true →
    s.sec.sigTimes = a :: l → s.now < a + seconds (s.fnat .attMinInterval 0) → attestEff r s = (.err .busy, s)) ∧
  (∀ (s : State) (r : Req), r.body.length = 32 → s.sec.enrolling = none → s.sec.attLeft s.sec.attSlotIdx = true →
    s.fnat .attDailyMax 0 ≤ (s.sec.sigTimes.filter fun a => s.now < a + seconds 86400).length → attestEff r s = (.err .busy, s)) ∧
  (∀ s : State, s.spendIndex.1 ≠ s.spendIndex.2.spendIndex.1)

/-- R404: an attestation slot whose 256 epochs are burnt and whose last one is spent is exhausted: ATTEST is DENIED with aux 1, the event comes once, and
att_low reads 1 at 16 or fewer epochs left. -/
def Obligations.AttestationSlotsExhaust : Prop :=
  (∀ (x : Sec) (k : Fin 3), x.attLeft k = false ↔ x.attIndex = none ∧ 256 ≤ x.attEpochs[k]) ∧
  (∀ (s : State) (r : Req), r.body.length = 32 → s.sec.enrolling = none → s.sec.attLeft s.sec.attSlotIdx = false →
    (attestEff r s).1 = .err .denied (some 1) ∧ (attestEff r s).2.sec.attExhausted = true ∧
    (s.sec.attExhausted = true → (attestEff r s).2 = s) ∧ (s.sec.attExhausted = false → (attestEff r s).2.host.evSeq = s.host.evSeq + 1)) ∧
  (∀ x : Sec, x.attLow = true ↔ 256 - x.attEpochs[x.attSlotIdx] ≤ 16)

/-- The frame of the commands of single berths: every other berth keeps its analog, line and mesh state. -/
def Obligations.BerthCommandsLeaveOtherBerths : Prop :=
  ∀ (s s' : State) (b k : Berth) (t n : Nat) (h : Int) (c : Bool) (m : Bytes), k ≠ b →
    (exec (.driverHot t b h) s = .next s' ∨ exec (.driverCool t b) s = .next s' ∨ exec (.p1Detect t b c h) s = .next s' ∨
      exec (.toneMap t b n m) s = .next s' ∨ exec (.domainClashWaitEnd t b) s = .next s' ∨ exec (.hearReport t b n m) s = .next s' ∨
      exec (.linkReport t b n m) s = .next s' ∨ exec (.routeSet t b m) s = .next s' ∨ exec (.relayMap t b m) s = .next s' ∨
      exec (.parentLinkFail t b n) s = .next s' ∨ exec (.relayLateDrop t b) s = .next s') →
    s'.berth[k] = s.berth[k] ∧ s'.line[k] = s.line[k] ∧ s'.mesh[k] = s.mesh[k] ∧ s'.hold = s.hold

/-- The frame of the commands of single queue pairs: every other queue pair, the memory of the Hold and the settings are as they were. -/
def Obligations.QueuePairCommandsLeaveOtherQueuePairs : Prop :=
  ∀ (s s' : State) (q k : QpId) (t : Nat) (v : BitVec 32), k ≠ q →
    (exec (.sqTailDoorbell t q v) s = .next s' ∨ exec (.cqHeadDoorbell t q v) s = .next s' ∨ exec (.rxBuf t q) s = .next s' ∨
      exec (.nop t q) s = .next s' ∨ exec (.submissionFetchError t q) s = .next s' ∨ exec (.cqWriteRefused t q) s = .next s' ∨
      exec (.irqModerationExpiry t q) s = .next s') →
    s'.qp[k] = s.qp[k] ∧ s'.hold = s.hold ∧ s'.fields = s.fields ∧ s'.mgmt = s.mgmt

/-- The frame of the commands of the host's windows, queues, serial ports and check units: each leaves alone every part of the state but those that
`partsOf` names. -/
def Obligations.HostCommandsKeepToTheirParts : Prop :=
  ∀ (c : Instr) (s s' : State), familyOf c = .host → exec c s = .next s' → Only (partsOf c) s s'

/-- The frame of the commands of power, boot, reset and live insertion: each leaves alone every part of the state but those that `partsOf` names. -/
def Obligations.PowerCommandsKeepToTheirParts : Prop :=
  ∀ (c : Instr) (s s' : State), familyOf c = .power → exec c s = .next s' → Only (partsOf c) s s'

/-- The frame of the commands of the lines of the berths: each leaves alone every part of the state but those that `partsOf` names. -/
def Obligations.LineCommandsKeepToTheirParts : Prop :=
  ∀ (c : Instr) (s s' : State), familyOf c = .line → exec c s = .next s' → Only (partsOf c) s s'

/-- The frame of the commands of the Ethernet ports, the fabric, the clock and the Hold: each leaves alone every part of the state but those that
`partsOf` names. -/
def Obligations.NetworkCommandsKeepToTheirParts : Prop :=
  ∀ (c : Instr) (s s' : State), familyOf c = .net → exec c s = .next s' → Only (partsOf c) s s'

/-- The frame of the commands of management, sensors and keys: each leaves alone every part of the state but those that `partsOf` names. -/
def Obligations.ManagementCommandsKeepToTheirParts : Prop :=
  ∀ (c : Instr) (s s' : State), familyOf c = .mgmt → exec c s = .next s' → Only (partsOf c) s s'

/-- From R65 to R68, R433: a driver trip stops the berth's driver and is counted, and the eighth within 1 s holds it off; heat at 130 °C or more takes
the driver to high impedance, at 120 °C the reduction falls due, and the cooling ends both; supply trouble takes every driver to high impedance. Each
clause says that exec answers a next state, and what that state holds. Where the spec leaves a point open the model's choice holds: notes/assumptions
1, 24, 57. -/
def Obligations.DriverProtectionActs : Prop :=
  (∀ s t b, Answers (exec (.driverOvercurrent t b) s) fun s' =>
    s'.berth[b].tx = none ∧ s'.berth[b].ocStop = true ∧ s'.stat .drvOcTrips b = min (s.stat .drvOcTrips b + 1) (2 ^ Stat.drvOcTrips.desc.bits - 1) ∧
    (7 ≤ (s.berth[b].ocTimes.filter fun x => max s.now t < x + seconds 1).length → s'.berth[b].heldOff = true ∧ s'.stat .drvFaultHist b = 1) ∧
    (∀ (c : Berth), c ≠ b → s'.berth[c] = s.berth[c])) ∧
  (∀ s t b temp, Answers (exec (.driverHot t b temp) s) fun s' =>
    (130 ≤ temp → s'.berth[b].tx = none ∧ s'.berth[b].hot = true) ∧
    (120 ≤ temp → s.berth[b].thermal = false → s.berth[b].thermalDue = false → s'.berth[b].thermalDue = true ∧ s'.stat .drvThermalHist b = 1) ∧
    (∀ (c : Berth), c ≠ b → s'.berth[c] = s.berth[c])) ∧
  (∀ s t b, Answers (exec (.driverCool t b) s) fun s' =>
    s'.berth[b].thermal = false ∧ s'.berth[b].thermalDue = false ∧ s'.berth[b].hot = false ∧ (∀ (c : Berth), c ≠ b → s'.berth[c] = s.berth[c])) ∧
  (∀ s t mv, s.live.drvLow = false → Answers (exec (.vddDrvUndervoltage t mv) s) fun s' =>
    s'.live.drvLow = true ∧ ∀ (b : Berth), s'.berth[b].tx = none ∧ s'.berth[b].supplyStop = true) ∧
  (∀ s t, Answers (exec (.vddDrvOvervoltage t) s) fun s' =>
    s'.live.drvHigh = true ∧ ∀ (b : Berth), s'.berth[b].tx = none ∧ s'.berth[b].supplyStop = true) ∧
  (∀ s t, Answers (exec (.vddDrvRecovery t) s) fun s' => s'.live.drvLow = false ∧ s'.live.drvHigh = false ∧ ∀ (b : Berth), s'.berth[b] = s.berth[b])

/-- From R22, R27, R37, R38, R48 to R53, R422: what the period deadlines, the unit watchdogs, the slack windows, the voltage readback and the die-to-die
links do to the domain, the voltage loop and the link. Each clause says that exec answers a next state, and what that state holds. Where the spec
leaves a point open the model's choice holds: notes/assumptions 1, 25, 32, 34, 35. -/
def Obligations.SlackVoltageAndDieLinksFollow : Prop :=
  (∀ s t, Answers (exec (.slackWindowEnd t) s) fun s' => ∀ (k : DomId),
    s'.dom[k].slackPct = s.dom[k].windowMin.getD 255 ∧ s'.dom[k].windowMin = none ∧ s'.dom[k].onWhole = (s.dom[k].st == .on) ∧
    s'.dom[k].st = s.dom[k].st) ∧
  (∀ s t mv v retried, s.avs.request = some (v, retried) → Answers (exec (.avsReadback t mv) s) fun s' =>
    ((∃ m, mv = some m ∧ m ≤ v + 10 ∧ v ≤ m + 10) → s'.avs.present = v ∧ s'.avs.request = none) ∧
    ((∀ m, mv = some m → v + 10 < m ∨ m + 10 < v) → s'.avs.present = s.avs.present ∧
      (retried = false → s'.avs.request = some (v, true)) ∧
      (retried = true → s'.avs.request = none ∧ s'.stat .avsFaultHist 44 = 1))) ∧
  (∀ s t (l : D2dId), s.die[l].lost = false → s.die[l].retraining = false → Answers (exec (.d2dFlitError t l) s) fun s' =>
    (s.die[l].replays < 4 → s'.die[l] = { s.die[l] with replays := s.die[l].replays + 1 }) ∧
    (4 ≤ s.die[l].replays → s'.die[l] = { s.die[l] with retraining := true })) ∧
  (∀ s t (l : D2dId) ok, s.die[l].retraining = true → Answers (exec (.d2dRetrainDone t l ok) s) fun s' =>
    (ok = true → s'.die[l] = { s.die[l] with retraining := false, replays := 0, fails := 0 }) ∧
    (ok = false → s.die[l].fails = 0 → s'.die[l] = { s.die[l] with fails := 1 }) ∧
    (ok = false → s.die[l].fails ≠ 0 → s'.die[l].lost = true ∧ s'.die[l].retraining = false)) ∧
  (∀ s t (l : D2dId) ok, s.die[l].lost = true → Answers (exec (.dieRetrainRetry t l ok) s) fun s' =>
    (ok = true → s'.die[l].cleanSince = some (s.die[l].cleanSince.getD (max s.now t))) ∧ (ok = false → s'.die[l].cleanSince = none)) ∧
  (∀ s t (l : D2dId) c, s.die[l].lost = true → s.die[l].cleanSince = some c → c + seconds 1 ≤ max s.now t →
    Answers (exec (.dieReturn t l) s) fun s' => s'.die[l] = { s.die[l] with lost := false, fails := 0, replays := 0, cleanSince := none }) ∧
  (∀ s t (k : DomId) done pct, s.dom[k].st = .on → Answers (exec (.clusterPeriodDeadline t k done pct) s) fun s' =>
    (done = true → s'.dom[k] = { s.dom[k] with wdPeriod := 0, dropRow := 0, windowMin := some (min (s.dom[k].windowMin.getD 100) (min pct 100)) }) ∧
    (done = false → s.dom[k].dropRow < 7 → s'.dom[k] = { s.dom[k] with wdPeriod := 0, dropRow := s.dom[k].dropRow + 1, windowMin := some 0 } ∧
      s'.stat .dropHist k = 1)) ∧
  (∀ s t (k : DomId) item, s.dom[k].st = .on ∨ s.dom[k].st = .draining → s.dom[k].wdPeriod < 2 → Answers (exec (.unitWatchdogExpiry t k item) s) fun s' =>
    s'.dom[k] = { s.dom[k] with wdPeriod := s.dom[k].wdPeriod + 1 } ∧ s'.fields = s.fields ∧ s'.eth = s.eth)

/-- From R30, R32, R431, R433, R442, R443, R455: ramp, initialisation and drain take a power domain from state to state; a rail, VDD_SENSE or XO_IN out
of range leaves what it feeds in FAULT; and the small pins act. Each clause says that exec answers a next state, and what that state holds. Where the
spec leaves a point open the model's choice holds: notes/assumptions 1, 25, 26, 27, 33. -/
def Obligations.PowerDomainsComeUpDrainAndFault : Prop :=
  (∀ s t (k : DomId), k ≠ pdSec → s.domSt k = .ramp → Answers (exec (.domainRampDone t k) s) fun s' =>
    s'.domSt k = .init ∧ ∀ j, j ≠ k → s'.dom[j] = s.dom[j]) ∧
  (∀ s t (k : DomId) ok, k ≠ pdSec → s.domSt k = .init → s.dom[k].rampQueued = false → s.dom[k].offAfterInit = false →
    Answers (exec (.domainInitDone t k ok) s) fun s' => s'.domSt k = if ok then .on else .fault) ∧
  (∀ s t (k : DomId), k ≠ pdSec → s.domSt k = .draining → s.dom[k].rampQueued = false → s.dom[k].wantOn = false →
    Answers (exec (.domainDrainDone t k) s) fun s' => s'.domSt k = .off) ∧
  (∀ s t rail, rail ≠ .drv → rail ≠ .sense → Answers (exec (.railOutOfRange t rail) s) fun s' =>
    s'.live.badRails.contains rail = true ∧ ∀ k, k ∈ railDoms rail → s.domSt k = .on → s'.domSt k = .fault) ∧
  (∀ s t, Answers (exec (.vddSenseLow t) s) fun s' => s'.live.senseLow = true ∧ (s.domSt pdSense = .on → s'.domSt pdSense = .fault)) ∧
  (∀ s t, Answers (exec (.xoInLoss t) s) fun s' => (s.domSt pdClk = .on → s'.domSt pdClk = .fault)) ∧
  (∀ s t words, s.domOn pdMgmt = true → (∀ w, w ∈ words → w ≠ none) → Answers (exec (.pmbAlert t words) s) fun s' =>
    s'.stat .pmbAlerts 44 = min (s.stat .pmbAlerts 44 + 1) ((2 ^ Stat.pmbAlerts.desc.bits : Nat) - 1)) ∧
  (∀ s t level, Answers (exec (.gpioInputChange t level) s) fun s' =>
    s'.stat .gpioIn 44 = ((level &&& ~~~(BitVec.ofInt 16 (s.fval .gpioDir 44)) |||
      BitVec.ofInt 16 (s.stat .gpioIn 44) &&& BitVec.ofInt 16 (s.fval .gpioDir 44)).toNat : Int) ∧
    ∀ x i e, x ≠ .gpioIn → s'.stat x i e = s.stat x i e) ∧
  (∀ s t i, Answers (exec (.jtagInstruction t i) s) fun s' =>
    s'.live.jtag = (if takesPins i = true ∧ s.boot.porLow = false then .bypass else i) ∧ ∀ (b : Berth), s'.berth[b] = s.berth[b])

/-- From R433, R434, R446: a reset leaves the block as State.reset has it but for what HR_SEC, device time and the boot flash keep; the loss of VDD_AON
starts device time anew; a hot die faults its berth domains, and die H holds the whole block in reset until it has cooled; and Starter begins when
POR_N rises. Each clause says that exec answers a next state, and what that state holds. Where the spec leaves a point open the model's choice holds:
notes/assumptions 1, 19, 38, 39, 40. -/
def Obligations.ResetsStartAnew : Prop :=
  (∀ s t, Answers (exec (.porNAssert t) s) fun s' =>
    s'.boot.porLow = true ∧ s'.boot.stage = 0 ∧ s'.fields = [] ∧ s'.pend = [] ∧ s'.stats = [] ∧ s'.qp = State.reset.qp ∧ s'.berth = State.reset.berth ∧
    s'.ctxs = [] ∧ s'.mgmt = State.reset.mgmt ∧ s'.hold = State.reset.hold ∧ s'.clk.offset = s.clk.offset ∧ s'.sec.rollback = s.sec.rollback ∧
    s'.sec.root = s.sec.root ∧ s'.pending = s.pending) ∧
  (∀ s t otpOk supplyOk, s.boot.porLow = true → s.live.dieTrip = false → Answers (exec (.porNDeassert t otpOk supplyOk) s) fun s' =>
    s'.boot.porLow = false ∧
    (otpOk = false → s'.boot.stage = 15 ∧ s'.boot.fault = 4) ∧
    (otpOk = true → supplyOk = false → s'.boot.stage = 15 ∧ s'.boot.fault = 5) ∧
    (otpOk = true → supplyOk = true → s.domSt pdClk = .off → s.domOn pdSec = true → s.powerFree pdClk = true → s'.domSt pdClk = .ramp)) ∧
  (∀ s t, Answers (exec (.vddAonLoss t) s) fun s' =>
    s'.boot.porLow = true ∧ s'.devTime = 0 ∧ s'.sec.root = none ∧ s'.sec.rollback = s.sec.rollback ∧ s'.fields = [] ∧ s'.pending = s.pending) ∧
  (∀ s t (die : Fin 7) temp, (if die.val = 6 then 125 else 115) ≤ temp → Answers (exec (.dieThermalTrip t die temp) s) fun s' =>
    (die.val = 6 → s'.live.dieTrip = true ∧ s'.qp = State.reset.qp ∧ s'.boot.porLow = s.boot.porLow) ∧
    (die.val ≠ 6 → ∀ k, k ∈ dieDoms die → s'.domSt k = .fault)) ∧
  (∀ s t otpOk supplyOk, s.live.dieTrip = true → Answers (exec (.thermalTripRelease t otpOk supplyOk) s) fun s' =>
    s'.live.dieTrip = false ∧ s'.boot.porLow = s.boot.porLow ∧ (s.boot.porLow = false → otpOk = false → s'.boot.fault = 4))

/-- From R231, R239, R392, R394, R396 to R402, R420: the steps of boot, of staging and of the configuration record do as their rules say. Each clause
says that exec answers a next state, and what that state holds. Where the spec leaves a point open the model's choice holds: notes/assumptions 1, 20,
24, 153, 154, 157, 158. -/
def Obligations.BootAndImagesFollow : Prop :=
  (∀ s t fit failed dirs, s.boot.stage = 1 → Answers (exec (.storeTrainingDone t fit failed dirs) s) fun s' =>
    (fit.uniform = false → s'.boot.stage = 15 ∧ s'.boot.fault = 1) ∧
    (fit.uniform = true → fit.gib = 4 ∨ fit.gib = 8 → fit.rate ≤ 2 → failed = 0 → s.sec.retireMask = 0 → (∀ m : Chan, s.domOn (chanDom m) = true) →
      s'.boot.gib128 = (fit.gib == 8) ∧ s'.boot.holdRate = fit.rate ∧ ∀ m : Chan, s'.hold.chan[m].st = .active)) ∧
  (∀ s t slot img, s.boot.stage = 2 → s.boot.hostLoad = false → s.boot.trySlot = some slot →
    Answers (exec (.imageVerify t false slot img) s) fun s' => match s.verdict false img with
    | .good i => s'.boot.stage = 4 ∧ s'.boot.running = some i ∧ s'.boot.fwSlot = slot ∧ s'.boot.fault = 0
    | _ => s'.boot.stage = 2 ∧ s'.boot.running = s.boot.running ∧ Counted s s' .imgVerifyFail) ∧
  (∀ s t slot img, 2 ≤ s.boot.stage → s.boot.stage ≤ 5 → slotBit (s.boot.dir.getD blankDir).ucValid slot = true →
    Answers (exec (.imageVerify t true slot img) s) fun s' => s'.boot.stage = s.boot.stage ∧ match s.verdict true img with
    | .good i => s'.boot.ucImg[slotIdx slot] = some i
    | _ => s'.boot.ucImg[slotIdx slot] = none ∧ Counted s s' .imgVerifyFail) ∧
  (∀ s t g, s.boot.staging = some g → g.lastAt + seconds 60 ≤ max s.now t → Answers (exec (.fwStageTimeout t) s) fun s' =>
    s'.boot = { s.boot with staging := none }) ∧
  (∀ s t uc slot, s.boot.writing = some (uc, slot) → Answers (exec (.fwFlashWriteDone t true) s) fun s' =>
    s'.boot.writing = none ∧ (uc = true → s'.boot.stagedUc = some slot) ∧ (uc = false → s.boot.hostImg = none → s'.boot.stagedFw = some slot) ∧
    ∃ d, s'.boot.dir = some d ∧ slotBit (if uc then d.ucValid else d.fwValid) slot = true) ∧
  (∀ s t img r, s.boot.running = some r → s.boot.fwImg[slotIdx s.boot.fwSlot] = none →
    Answers (exec (.fwHoldReload t img) s) fun s' => s'.boot.running = s.boot.running ∧ match s.verdict false img with
    | .good i => s'.boot.fwImg[slotIdx s.boot.fwSlot] = some i
    | _ => s'.boot.fwImg = s.boot.fwImg ∧ Counted s s' .imgVerifyFail) ∧
  (∀ s t img alt, s.live.mgmtRestart = true → s.region[Region.mgmt.idx].done = false →
    max s.now t < s.region[Region.mgmt.idx].since + millis s.region[Region.mgmt.idx].returnMs →
    Answers (exec (.mgmtRestartDone t img alt) s) fun s' => match s.verdict false img with
    | .good i => s'.boot.running = some i ∧ s'.boot.fwSlot = s.boot.trySlot.getD (s.boot.dir.getD blankDir).active ∧
      s'.region[Region.mgmt.idx].done = true
    | _ => match s.verdict false alt with
      | .good i => s'.boot.running = some i ∧ s'.boot.fwSlot = (s.boot.dir.getD blankDir).active ∧ s'.region[Region.mgmt.idx].done = true
      | _ => s'.boot.running = s.boot.running ∧ s'.region[Region.mgmt.idx].done = false) ∧
  (∀ s t, s.boot.configAuth = true → s.boot.dirtySince ≠ none → (∀ a, s.boot.cfgWriteAt = some a → a + seconds 10 ≤ max s.now t) →
    Answers (exec (.configRecordWrite t) s) fun s' => s'.boot.dirtySince = none ∧ s'.boot.cfgWriteAt = some (max s.now t) ∧ s'.fields = s.fields) ∧
  (∀ s t copies, s.boot.stage = 4 → s.boot.configAuth = false → s.domOn pdMgmt = true → Answers (exec (.configAuth t copies) s) fun s' =>
    s'.boot.cfg = (copies.filter fun c => c.tagOk && c.serialOk).map (·.record) ∧
    (newestRec s'.boot.cfg ≠ none → s'.boot.configAuth = true ∧ s'.boot.stage = 5) ∧
    (newestRec s'.boot.cfg = none → s'.boot.configAuth = false ∧ s'.fields = s.fields))

/-- From R267, R376 to R382: what a character, a read of UART_STATUS or UART_DATA, a write of UART_TX, a dead line and a command frame do to a serial
port. Each clause says that exec answers a next state, and what that state holds. Where the spec leaves a point open the model's choice holds:
notes/assumptions 1, 152. -/
def Obligations.SerialPortsFollow : Prop :=
  (∀ s t (p : UartId) ch, s.uart[p].dead = false → s.domOn pdMgmt = true → Answers (exec (.uartCharRx t p ch) s) fun s' =>
    (ch.start.countP (· == false) < 2 → Counted s s' .startGlitch p ∧ s'.uart = s.uart) ∧
    (2 ≤ ch.start.countP (· == false) → s.fbool .uartMode p = true → s.uart[p].rx.length < 64 →
      s'.uart[p].rx = s.uart[p].rx ++ [BitVec.ofNat 8 (natOfBits ((ch.bits.map majority).take (s.fnat .dataBits p)))] ∧
      s'.uart[p].fe = (s.uart[p].fe || !ch.stop) ∧ s'.uart[p].tx = s.uart[p].tx) ∧
    (2 ≤ ch.start.countP (· == false) → 64 ≤ s.uart[p].rx.length → s'.uart[p].rx = s.uart[p].rx ∧ s'.uart[p].oe = true)) ∧
  (∀ s t (p : UartId), Answers (exec (.uartStatusArm t p) s) fun s' =>
    (∃ w, s'.out = .readData w :: s.out) ∧
    (s.fbool .uartMode p = true → s'.uart[p] = { s.uart[p] with armed := some (s.uart[p].fe, s.uart[p].pe, s.uart[p].oe) }) ∧
    (s.fbool .uartMode p = false → s'.uart = s.uart)) ∧
  (∀ s t (p : UartId), Answers (exec (.uartDataRead t p) s) fun s' =>
    (s.fbool .uartMode p = true → s'.out = .readData ((s.uart[p].rx.headD 0).setWidth 64) :: s.out ∧ s'.uart[p].rx = s.uart[p].rx.drop 1 ∧
      s'.uart[p].tx = s.uart[p].tx ∧ ∀ a b c, s.uart[p].armed = some (a, b, c) →
        s'.uart[p].fe = (s.uart[p].fe && !a) ∧ s'.uart[p].pe = (s.uart[p].pe && !b) ∧ s'.uart[p].oe = (s.uart[p].oe && !c) ∧
        s'.uart[p].armed = none) ∧
    (s.fbool .uartMode p = false → s'.out = .readData 0 :: s.out ∧ s'.uart = s.uart)) ∧
  (∀ s t (p : UartId) val, Answers (exec (.uartTxWrite t p val) s) fun s' =>
    (s.fbool .uartMode p = false → s'.uart = s.uart) ∧
    (s.fbool .uartMode p = true → s.uart[p].tx.length < 64 → s'.uart[p] = { s.uart[p] with tx := s.uart[p].tx ++ [val.setWidth 8] }) ∧
    (s.fbool .uartMode p = true → 64 ≤ s.uart[p].tx.length → s'.uart = s.uart ∧ Counted s s' .txOverflow p)) ∧
  (∀ s t (p : UartId) c r, s.uart[p].tx = c :: r → Answers (exec (.uartCharTx t p) s) fun s' =>
    s'.uart[p] = { s.uart[p] with tx := r } ∧ s'.out = .uartTx p c :: s.out ∧ Counted s s' .txChars p) ∧
  (∀ s t (p : UartId), s.uart[p].dead = false → Answers (exec (.uartLineDead t p) s) fun s' =>
    s'.uart[p] = { s.uart[p] with dead := true } ∧ Counted s s' .lineDeadEvents p ∧ s'.stat .lineDeadHist p = 1 ∧ s'.host.evSeq = s.host.evSeq + 1) ∧
  (∀ s t (p : UartId), Answers (exec (.uartLineResume t p) s) fun s' => s'.uart[p] = { s.uart[p] with dead := false } ∧ s'.stats = s.stats) ∧
  (∀ s t bytes, s.fbool .uartMode 0 = false → s.domOn pdMgmt = true → s.drained .mgmt = false → Answers (exec (.uartCmdFrame t bytes) s) fun s' =>
    (4116 < (unescape bytes).length → Counted s s' .uartCmdLong ∧ s'.mgmt = { s.mgmt with frameOpen := none }) ∧
    ((unescape bytes).length ≤ 4116 → frameBody bytes = none → Counted s s' .uartCmdCrc ∧ s'.mgmt = { s.mgmt with frameOpen := none }) ∧
    ((unescape bytes).length ≤ 4116 → ∀ b, frameBody bytes = some b → 16 ≤ b.length → bitsAt b 0 16 = 1 →
      s'.mgmt = { s.mgmt with frameOpen := none, inbox := s.mgmt.inbox ++ [parseReq .uart0 b] })) ∧
  (∀ s t o, s.mgmt.frameOpen = some o → o + seconds 1 ≤ max s.now t → Answers (exec (.uartFrameTimeout t) s) fun s' =>
    s'.mgmt = { s.mgmt with frameOpen := none } ∧ Counted s s' .uartCmdTimeout)

/-- From R328, R337 to R341, R349, R356 to R361: what breaks, probes, retests, outputs, blanking and calibrations do to a sensor channel. Each clause
says that exec answers a next state, and what that state holds. Where the spec leaves a point open the model's choice holds: notes/assumptions 1, 144,
145, 146, 147. -/
def Obligations.SensorChannelsFollow : Prop :=
  (∀ s t (n : SensId), Answers (exec (.sensorCalDone t n none) s) fun s' =>
    s'.sense[n].cal = none ∧ s'.sense[n].calOff = s.sense[n].calOff ∧ s'.sense[n].calGain = s.sense[n].calGain) ∧
  (∀ s t (n : SensId) v, s.sense[n].cal = some 0 → Answers (exec (.sensorCalDone t n (some v)) s) fun s' =>
    s'.sense[n].cal = none ∧ s'.sense[n].resetDue = true ∧ s'.sense[n].calGain = s.sense[n].calGain ∧
    s'.sense[n].calOff = if s.rawOf100Uv n < v.natAbs then s.sense[n].calOff else v) ∧
  (∀ s t (n : SensId) cause, s.excFlows n = true → Answers (exec (.wireBreak t n cause) s) fun s' =>
    s'.sense[n].broken = true ∧ s'.sense[n].cause = cause ∧ s'.sense[n].fine.valid = false ∧ s'.sense[n].fast.valid = false ∧ s'.excFlows n = false ∧
    s'.sense[n].cal = none ∧ s'.loop = s.loop) ∧
  (∀ s t (n : SensId) uv u, (s.at t).releaseAt .probe n = u → u.fbool .probeEnable n = true → u.fnat .wiring n ≠ 0 → u.sense[n].broken = false →
    u.domOn pdSense = true → u.blanking n = false → Answers (exec (.breakProbe t n uv) s) fun s' =>
    (5 * (if u.fnat .wiring n = 3 then 10000000 else u.sense[n].lastRes.getD 10000000) + 400000000 < (uv : Int) * 10000 →
      s'.sense[n].broken = true ∧ s'.sense[n].cause = 3 ∧ s'.sense[n].probeOff = false) ∧
    ((uv : Int) * 10000 ≤ 5 * (if u.fnat .wiring n = 3 then 10000000 else u.sense[n].lastRes.getD 10000000) + 400000000 →
      s'.sense[n] = { s.sense[n] with probeOff := false })) ∧
  (∀ s t (n : SensId) pass, s.sense[n].broken = true → Answers (exec (.wireBreakRetest t n pass) s) fun s' =>
    (pass = false → s'.sense[n] = { s.sense[n] with passes := 0 }) ∧
    (pass = true → s.sense[n].passes < 2 → s'.sense[n] = { s.sense[n] with passes := s.sense[n].passes + 1 }) ∧
    (pass = true → 2 ≤ s.sense[n].passes → s'.sense[n] = { s.sense[n] with broken := false, passes := 0, resetDue := true } ∧
      ∀ (j : LoopId), s.fnat .srcChannel j = n.val → s'.loop[j] = { s.loop[j] with waitValid := true })) ∧
  (∀ s t level, Answers (exec (.senseBlankChange t level) s) fun s' => s'.senseBlank = level ∧ s'.sense = s.sense) ∧
  (∀ s t (n : SensId) f u, s.pend = [] → s.engineRuns = true → ((s.at t).outputSettings n).filterReset n = u →
    Answers (exec (.filterOutput t n f) s) fun s' =>
    s'.sense[n].fine.seq = u.sense[n].fine.seq + 1 ∧
    (f.erased = true ∨ f.late = true ∨ f.gap = true ∨ max s.now t < u.sense[n].settleFine ∨ u.sense[n].broken = true →
      s'.sense[n].fine.valid = false ∧ s'.sense[n].fine.blanked = f.erased) ∧
    (f.erased = false → f.late = false → f.gap = false → u.sense[n].settleFine ≤ max s.now t → u.sense[n].broken = false → u.sense[n].cal = none →
      u.fnat .curve n ≠ 30 → s'.sense[n].fine.valid = true ∧ s'.sense[n].badFine = none ∧
      (u.sense[n].dcb = false → s'.sense[n].fine.value = (u.engValue n f.raw f.cj).1))) ∧
  (∀ s t (n : SensId) f, s.engineRuns = true → Answers (exec (.fastOutput t n f) s) fun s' =>
    s'.sense[n].fast.value = (s.engValue n f.raw f.cj).1 ∧ s'.sense[n].fast.seq = s.sense[n].fast.seq + 1 ∧ s'.sense[n].fine = s.sense[n].fine ∧
    s'.sense[n].fast.valid = (decide (s.sense[n].settleFast ≤ max s.now t) && !f.erased && !s.sense[n].cal.isSome && !s.sense[n].broken && !f.late && !f.gap))

/-- From R275, R344 to R348: what a period, a drain of HR_MGMT, a readback and the end of a force do to a current loop. Each clause says that exec
answers a next state, and what that state holds. Where the spec leaves a point open the model's choice holds: notes/assumptions 1, 148, 149. -/
def Obligations.CurrentLoopsFollow : Prop :=
  (∀ s t (j : LoopId) u, (if s.drained .mgmt then s.at t else (s.at t).releaseAt .loopPeriod j) = u → Answers (exec (.loopPeriod t j) s) fun s' =>
    s'.loop[j].row = (u.loopRow j).1 ∧ s'.loop[j].cmd = (u.loopRow j).2 ∧ ∀ (k : LoopId), k ≠ j → s'.loop[k] = s.loop[k]) ∧
  (∀ s t, s.drained .mgmt = true → s.region[Region.mgmt.idx].since + seconds 1 ≤ max s.now t → Answers (exec (.mgmtDrainLoopFault t) s) fun s' =>
    s'.live.loopsFault = true ∧ ∀ (j : LoopId), s'.loop[j].row ≤ 2 ∧
      (s'.loop[j].row = 2 → s'.loop[j].cmd = some (if s.boot.configAuth then s.faultUa j else 3500))) ∧
  (∀ s t (j : LoopId) ua gateMax c, s.loop[j].cmd = some c → Answers (exec (.loopOpen t j ua gateMax) s) fun s' =>
    (c + 500 < ua → (∀ a, s.loop[j].offSince = some a → max s.now t < a + millis 10) → s'.loop[j].openSet = s.loop[j].openSet ∧
      s'.loop[j].offSince = some (s.loop[j].offSince.getD (max s.now t))) ∧
    (∀ a, c + 500 < ua → s.loop[j].offSince = some a → a + millis 10 ≤ max s.now t → s'.loop[j].openSet = true) ∧
    (∀ a, ua ≤ c + 50 → c ≤ ua + 50 → s.loop[j].trackSince = some a → a + seconds 1 ≤ max s.now t → s'.loop[j].openSet = false) ∧
    s'.loop[j].cmd = s.loop[j].cmd) ∧
  (∀ s t (j : LoopId) ua e, s.loop[j].force = some (ua, some e) → Answers (exec (.loopForceExpiry t j) s) fun s' =>
    s'.loop[j] = { s.loop[j] with force := if e ≤ max s.now t then none else some (ua, some e) })

/-- From R308 to R319, R322, R324: what the measurement of a second, the events of the reference inputs, the limit of holdover and the whole second of
device time do to the inputs, the clock's state and its outputs. Each clause says that exec answers a next state, and what that state holds. Where the
spec leaves a point open the model's choice holds: notes/assumptions 1, 138, 139, 140, 141, 142, 143. -/
def Obligations.ClockFollows : Prop :=
  (∀ s t corr fl i, s.domOn pdClk = true → s.domOn pdMgmt = true → s.drained .mgmt = false → s.clk.force = some (3, i) → s.clk.fIn = none →
    Answers (exec (.clockMeasure t [] corr fl) s) fun s' =>
    s'.clk.st = .freeRun ∧ s'.clk.fIn = none ∧ s'.clk.tIn = none ∧
    s'.clk.corr = if s.clk.corr < 0 then min 0 (s.clk.corr + 50000) else max 0 (s.clk.corr - 50000)) ∧
  (∀ s t meas corr fl, s.domOn pdClk = true → s.drained .mgmt = true → Answers (exec (.clockMeasure t meas corr fl) s) fun s' =>
    s'.clk.fIn = none ∧ s'.clk.tIn = none ∧ s'.clk.corr = s.clk.corr ∧ s'.clk.inp = s.clk.inp) ∧
  (∀ s t (i : InputId), Answers (exec (.refActivityLoss t i) s) fun s' =>
    s'.clk.inp[i].has 1 = true ∧ (s.domOn pdClk = true → s'.clk.fIn ≠ some i ∧ s'.clk.tIn ≠ some i) ∧
    (s.clk.inp[i].has 1 = false → s'.clk.inp[i].rank = 9) ∧ ∀ (j : InputId), j ≠ i → s'.clk.inp[j] = s.clk.inp[j]) ∧
  (∀ s t (i : InputId) e, s.clk.inp[i].wtrEnd = some e → e ≤ max s.now t → Answers (exec (.refWtrExpiry t i) s) fun s' =>
    s'.clk.inp[i] = { s.clk.inp[i] with wtrEnd := none }) ∧
  (∀ s t (i : InputId) ppb, Answers (exec (.refFrequencyRange t i ppb) s) fun s' =>
    s'.clk.inp[i].has 2 = decide (12000 < ppb.natAbs) ∧ ∀ (j : InputId), j ≠ i → s'.clk.inp[j] = s.clk.inp[j]) ∧
  (∀ s t (r : Fin 2) cycles, Answers (exec (.refPpsEdge t r cycles) s) fun s' =>
    s'.clk.ref[r].edgeAt = some (max s.now t) ∧ s'.clk.ref[r].got = false ∧
    (9999990 ≤ cycles → cycles ≤ 10000010 → s'.clk.ref[r].missEdges = 0) ∧
    (cycles < 9999990 ∨ 10000010 < cycles → s'.clk.ref[r].missEdges = s.clk.ref[r].missEdges + 1 ∧
      (1 ≤ s.clk.ref[r].missEdges → s'.clk.inp[refInput r].has 1 = true))) ∧
  (∀ s t bytes, s.fbool .uartMode 1 = false → s.domOn pdMgmt = true → s.drained .mgmt = false → Answers (exec (.todMessage t bytes) s) fun s' =>
    (frameBody bytes = none → Counted s s' .todInvalid ∧ s'.clk = s.clk) ∧
    (∀ b, frameBody bytes = some b → todFieldsOk b = false → Counted s s' .todInvalid ∧ s'.clk = s.clk) ∧
    (∀ b (r : Fin 2), frameBody bytes = some b → todFieldsOk b = true → r = (if bitsAt b 8 1 = 0 then 0 else 1) → (s.at t).todTimely r = true →
      s'.clk.ref[r].tod = some (bitsAt b 16 48) ∧ s'.clk.ref[r].got = true ∧ s'.clk.ref[r].missing = 0 ∧ s'.clk.ref[r].srcErr = bitsAt b 96 32 ∧
      s'.clk.ref[r].leap = bitsAt b 9 2)) ∧
  (∀ s t, s.clk.st = .holdover → s.holdOk = false → Answers (exec (.holdoverLimit t) s) fun s' =>
    s'.clk.st = .freeRun ∧ s'.clk.corr = s.clk.corr ∧ s'.stat .clkLimitHist = 1 ∧ s'.host.evSeq = s.host.evSeq + 2) ∧
  (∀ s t, s.boot.configAuth = true → s.domOn pdClk = true → s.live.badRails = [] → s.live.quiet = false → Answers (exec (.wholeSecondOfDeviceTime t) s) fun s' =>
    s'.live.outHeld = s.squelched ∧ (s.squelched = false → s'.out = .pps true :: s.out)) ∧
  (∀ s t, Answers (exec (.clkTodLatch t) s) fun s' =>
    s'.clk = { s.clk with todLatch := (s.at t).devSec % 2 ^ 48 } ∧ s'.out = .readData (BitVec.ofNat 64 (s.at t).devNs) :: s.out)

/-- From R281 to R283, R15, R26: faults and bring-up of an Ethernet port, the rows of the ingress table and the rounds of the switch. Each clause says
that exec answers a next state, and what that state holds. Where the spec leaves a point open the model's choice holds: notes/assumptions 1, 121, 136. -/
def Obligations.EthernetPortsFollow : Prop :=
  (∀ s t (p : EthId), s.eth[p].st = .up → Answers (exec (.ethLinkFault t p) s) fun s' =>
    s'.eth[p].st = (if s'.portMayRun p then (if s'.fbool .anEnable p then .negotiating else .training) else .down) ∧ s'.eth[p].qlSent = none ∧
    s'.stat .linkDownHist p = 1 ∧ s'.host.evSeq = s.host.evSeq + 1) ∧
  (∀ s t (p : EthId), s.eth[p].st = .negotiating ∨ s.eth[p].st = .training → s.portMayRun p = true → Answers (exec (.ethLinkUp t p) s) fun s' =>
    s'.eth[p] = { s.eth[p] with st := .up } ∧ s'.host.evSeq = s.host.evSeq + 1) ∧
  (∀ s t (p : EthId) bytes ok c u a, s.eth[p].st = .up → s.portMayRun p = true → a = ((s.at t).bump .fecCorrected p 0 c).bump .fecUncorrectable p 0 u →
    Answers (exec (.ethFrameRx t p bytes ok c u) s) fun s' =>
    (ok = false → s' = a.bump .rxFcsErr p) ∧
    (ok = true → bytes.length < 64 → s' = a.bump .rxRunt p) ∧
    (ok = true → 64 ≤ bytes.length → s.fnat .ethMaxFrame p < bytes.length → s' = a.bump .rxOversize p) ∧
    (∀ b, b = bytes.take (bytes.length - 4) → ok = true → 64 ≤ bytes.length → bytes.length ≤ s.fnat .ethMaxFrame p → s.switching = true →
      (macOf b 0 ≠ s.fnat .macAddr p → macOf b 0 ∉ [0xFFFFFFFFFFFF, 0x011B19000000, 0x0180C200000E, 0x0180C2000002] → s' = a.bump .rxUnmatched p) ∧
      (macOf b 0 = s.fnat .macAddr p → (ethView b).etype = 0x8808 → s' = a.bump .rxPause p) ∧
      (macOf b 0 = s.fnat .macAddr p → (ethView b).etype = s.fnat .ethType p → (ethView b).etype ∉ [0x8808, 0x8809, 0x88F7, 0x0800, 0x86DD] →
        (ethView b).vid = (if s.fnat .vlanId p = 0 then none else some (s.fnat .vlanId p)) →
        s' = if bhValid (ethView b).body fun k => decide (s.fnat .role k ≤ 1) then a.backhaul p (ethView b).body else a.bump .rxBhInvalid p) ∧
      (macOf b 0 = s.fnat .macAddr p → (ethView b).etype ≠ s.fnat .ethType p → (ethView b).etype ∉ [0x8808, 0x8809, 0x88F7, 0x0800, 0x86DD] →
        (ethView b).vid = (if s.fnat .vlanId p = 0 then none else some (s.fnat .vlanId p)) →
        s' = if s.fbool .hostDefault p then (a.toHost 1 p.val 0 noCtx b).1 else a.bump .rxUnmatched p))) ∧
  (∀ s t (p : EthId) f a d, s.switching = true → s.eth[p].st = .up → s.portMayRun p = true →
    (s.hold.frames.find? fun (g : Frame) => g.dstKind == 1 && g.dstIdx == p.val) = some f → (s.at t).readFrame f = (a, some d) →
    (s.ethOut p f d).length + 4 ≤ s.fnat .ethMaxFrame p → Answers (exec (.switchRound t [p] []) s) fun s' =>
    s'.out.head? = some (.ethTx p (s.ethOut p f d)) ∧ ∀ g, g ∈ s'.hold.frames → g.no ≠ f.no)

/-- From R285, R286: PTP and ESMC messages, their intervals and their timeouts on an Ethernet port. Each clause says that exec answers a next state, and
what that state holds. Where the spec leaves a point open the model's choice holds: notes/assumptions 1, 135. -/
def Obligations.PtpAndEsmcFollow : Prop :=
  (∀ s t (p : EthId) bytes, s.eth[p].st = .up → s.fnat .ptpRole p ≠ 0 → Answers (exec (.ptpMessageRx t p bytes) s) fun s' =>
    (beAt bytes 4 1 ≠ s.fnat .ptpDomain p → Counted s s' .ptpForeign p ∧ s'.eth = s.eth) ∧
    (beAt bytes 4 1 = s.fnat .ptpDomain p → s.fnat .ptpRole p = 1 → beAt bytes 0 1 % 16 = 0 →
      s'.eth[p] = { s.eth[p] with syncAt := some (max s.now t), ptpLost := false }) ∧
    (beAt bytes 4 1 = s.fnat .ptpDomain p → s.fnat .ptpRole p = 1 → beAt bytes 0 1 % 16 = 0xB →
      s'.eth[p] = { s.eth[p] with annClass := some (beAt bytes 48 1) } ∧ s'.clk.inp[ptpInput p].rank = classRank (beAt bytes 48 1)) ∧
    (beAt bytes 4 1 = s.fnat .ptpDomain p → s.fnat .ptpRole p ≠ 1 → beAt bytes 0 1 % 16 = 1 → s'.out = .ptpTx p 9 0 :: s.out)) ∧
  (∀ s t (p : EthId), s.fnat .ptpRole p = 1 → Answers (exec (.ptpSyncTimeout t p) s) fun s' =>
    s'.eth[p].ptpLost = true ∧ s'.eth[p].st = s.eth[p].st ∧ s'.clk.inp[ptpInput p].has 1 = true) ∧
  (∀ s t (p : EthId), s.eth[p].st = .up → Answers (exec (.ptpInterval t p) s) fun s' =>
    (s.fnat .ptpRole p = 1 → s'.out = .ptpTx p 1 0 :: s.out) ∧
    (s.fnat .ptpRole p = 2 → s.fnat .ptpMode p = 1 → s'.out = .ptpTx p 8 0 :: .ptpTx p 0 0 :: s.out) ∧
    (s.fnat .ptpRole p = 2 → s.fnat .ptpMode p ≠ 1 → s'.out = .ptpTx p 0 0 :: s.out)) ∧
  (∀ s t (p : EthId) bytes, s.eth[p].st = .up → s.fbool .esmcEnable p = true → Answers (exec (.esmcPduRx t p bytes) s) fun s' =>
    (esmcCodes bytes (s.fbool .esmcEnhanced p) = none → Counted s s' .esmcInvalid p ∧ s'.eth = s.eth ∧ s'.clk = s.clk) ∧
    (∀ ssm enh, esmcCodes bytes (s.fbool .esmcEnhanced p) = some (ssm, enh) →
      s'.eth[p] = { s.eth[p] with esmcAt := some (max s.now t), ssm := ssm, enh := enh, qlFailed := false } ∧
      s'.clk.inp[syncEInput p].rank = (qlRank ssm enh).getD 8)) ∧
  (∀ s t (p : EthId), s.eth[p].st = .up → s.fbool .esmcEnable p = true → Answers (exec (.esmcInfoTx t p) s) fun s' =>
    s'.eth[p] = { s.eth[p] with qlSent := some (s.qlPort p) } ∧ s'.out = .esmcTx p false (s.qlPort p) :: s.out) ∧
  (∀ s t (p : EthId), (∀ a, s.eth[p].esmcAt = some a → a + seconds 5 ≤ max s.now t) → Answers (exec (.esmcTimeout t p) s) fun s' =>
    s'.eth[p] = { s.eth[p] with qlFailed := true } ∧ s'.clk.inp[syncEInput p].rank = 9)

/-- From R288 to R293: codewords, acknowledgements, replays and control codewords of a fabric link. Each clause says that exec answers a next state, and
what that state holds. Where the spec leaves a point open the model's choice holds: notes/assumptions 1, 129, 132. -/
def Obligations.FabricCodewordsFollow : Prop :=
  (∀ s t (l : LinkId) cw dec cor, s.fab.link[l].carries = true → Answers (exec (.fabricCwRx t l cw dec cor) s) fun s' =>
    s'.fab.link[l].st = s.fab.link[l].st ∧
    (dec = false → s'.fab.link[l] = { s.fab.link[l] with nak := true } ∧ Counted s s' .cwUncorrectable (l.val + 1)) ∧
    (dec = true → bitsAt cw 0 2 = 0 → BitVec.ofNat 8 (bitsAt cw 2 8) = s.fab.link[l].ackSeq + 1 →
      s'.fab.link[l].ackSeq = s.fab.link[l].ackSeq + 1 ∧ s'.fab.link[l].nak = false) ∧
    (dec = true → bitsAt cw 0 2 = 0 → BitVec.ofNat 8 (bitsAt cw 2 8) ≠ s.fab.link[l].ackSeq + 1 →
      s'.fab.link[l].ackSeq = s.fab.link[l].ackSeq ∧ s'.fab.link[l].nak = true)) ∧
  (∀ s t (l : LinkId) ack, s.fab.link[l].carries = true → Answers (exec (.fabricNak t l ack) s) fun s' =>
    (∀ v, s.fab.link[l].nakAt = some (BitVec.ofNat 8 ack, v) → max s.now t < v + micros 2 → s'.fab = s.fab ∧ s'.out = s.out) ∧
    (∀ u, s.fab.link[l].nakAt = none → u = (s.at t).takeAck l (BitVec.ofNat 8 ack) s.fab.link[l].xoffIn → u.fab.link[l].replay ≠ [] →
      u.fab.link[l].tries < 4 → s'.out = .fabReplay l (BitVec.ofNat 8 ack + 1).toNat :: u.out ∧
      s'.fab.link[l].nakAt = some (BitVec.ofNat 8 ack, max s.now t) ∧ Counted s s' .replays (l.val + 1))) ∧
  (∀ s t (l : LinkId) q n r, s.fab.link[l].carries = true → s.fab.link[l].replay = (q, n) :: r → s.fab.link[l].ackAt + micros 5 ≤ max s.now t →
    Answers (exec (.fabricReplayTimeout t l) s) fun s' =>
    (s.fab.link[l].tries < 4 → s'.out = .fabReplay l q.toNat :: s.out ∧ Counted s s' .replays (l.val + 1) ∧
      s'.fab.link[l] = { s.fab.link[l] with ackAt := max s.now t, tries := s.fab.link[l].tries + 1 }) ∧
    (4 ≤ s.fab.link[l].tries → s'.fab.link[l].st = (if s.sec.rngFailed then .failed else .training) ∧ s'.fab.link[l].retraining = true)) ∧
  (∀ s t (l : LinkId) cw, bitsAt cw 20 64 = 0xC3A55A3C0FF096E1 → bitsAt cw 0 2 = 2 → Answers (exec (.fabricControlRx t l cw) s) fun s' =>
    (∀ why, s.fab.link[l].st = .hello → s.helloRefusal l (parsePeer cw) = some why → s'.fab.link[l].st = .refused ∧ s'.fab.link[l].refuse = why) ∧
    (s.fab.link[l].st = .hello → s.helloRefusal l (parsePeer cw) = none → (parsePeer cw).state < 3 → (parsePeer cw).proof = leBytes 32 0 →
      s'.fab.link[l].st = .auth ∧ s'.fab.link[l].peer = parsePeer cw) ∧
    (s.fab.link[l].carries = true → if leBytes 16 (bitsAt cw 800 128) = ctlTag s.fab.link[l].kLink cw then
      s'.fab.link[l].peer = parsePeer cw ∧ s'.fab.link[l].ctlOk = true else
      s'.fab.link[l].peer = s.fab.link[l].peer ∧ s'.fab.link[l].ctlOk = false)) ∧
  (∀ s t (l : LinkId), s.fab.link[l].st = .hello ∨ s.fab.link[l].st = .auth ∨ s.fab.link[l].carries = true →
    Answers (exec (.fabricControlMiss t l) s) fun s' =>
    s'.fab.link[l].st = .failed ∧ s'.fab.link[l].since = max s.now t ∧ s'.stat .linkFailHist (l.val + 1) = 1)

/-- From R288, R291, R292, R294: losses of lanes and of decoding, training, authentication, retries and retraining move a fabric link between its states.
Each clause says that exec answers a next state, and what that state holds. Where the spec leaves a point open the model's choice holds:
notes/assumptions 1, 128, 129, 130. -/
def Obligations.FabricLinkLossesAndTimersFollow : Prop :=
  (∀ s t (l : LinkId) lanes, s.fab.link[l].st = .up → Answers (exec (.fabricLaneLoss t l lanes) s) fun s' =>
    (lanes = 0 → s'.fab.link[l].st = .failed) ∧ (lanes = 3 → s'.fab = s.fab) ∧
    (lanes ≠ 0 → lanes ≠ 3 → s'.fab.link[l].st = .degraded ∧ s'.fab.link[l].lanes = lanes ∧ Counted s s' .laneFailovers (l.val + 1) ∧
      s'.host.evSeq = s.host.evSeq + 2)) ∧
  (∀ s t (l : LinkId), s.fab.link[l].carries = true → Answers (exec (.fabricDecodeLoss t l) s) fun s' =>
    s'.fab.link[l].st = (if s.sec.rngFailed then .failed else .training) ∧ s'.fab.link[l].retraining = true ∧ Counted s s' .retrains (l.val + 1)) ∧
  (∀ s t (l : LinkId) lanes, s.fab.link[l].st = .training → Answers (exec (.fabricTrainingDone t l lanes) s) fun s' =>
    (lanes = 3 → s'.fab.link[l] = { s.fab.link[l] with st := .hello, since := max s.now t, lanes := 3 }) ∧
    (lanes ≠ 3 → s'.fab.link[l].st = .failed)) ∧
  (∀ s t (l : LinkId), s.fab.link[l].st = .auth → Answers (exec (.fabricAuthTimeout t l) s) fun s' =>
    s'.fab.link[l] = { s.fab.link[l] with st := .refused, since := max s.now t, refuse := 5 }) ∧
  (∀ s t (l : LinkId), s.fab.link[l].st = .refused ∨ s.fab.link[l].st = .failed → s.fab.link[l].since + s.fab.link[l].retryGap ≤ max s.now t →
    s.linkMayRun l = true → s.sec.rngFailed = false → Answers (exec (.fabricRetryTimer t l) s) fun s' =>
    s'.fab.link[l].st = .training ∧ s'.fab.link[l].nonce = (Config.entropy s.entropyCtr).take 16 ∧ s'.fab.link[l].trainedAt = max s.now t) ∧
  (∀ s t (l : LinkId), s.fab.link[l].st = .degraded → Answers (exec (.fabricLaneRestore t l) s) fun s' =>
    s'.fab.link[l].st = (if s.sec.rngFailed then .failed else .training) ∧ s'.fab.link[l].retraining = true ∧ Counted s s' .retrains (l.val + 1)) ∧
  (∀ s t (l : LinkId), s.fab.link[l].carries = true → s.fab.link[l].trainedAt + seconds 86400 ≤ max s.now t ∨ pktLate ≤ s.fab.link[l].pktTx →
    Answers (exec (.fabricPeriodicRetrain t l) s) fun s' =>
    s'.fab.link[l].st = (if s.sec.rngFailed then .failed else .training) ∧ s'.fab.link[l].retraining = true ∧ Counted s s' .retrains (l.val + 1))

/-- From R268, R295, R296, R298, R300, R302: packets that arrive for this package, link states and membership. Each clause says that exec answers a next
state, and what that state holds. Where the spec leaves a point open the model's choice holds: notes/assumptions 1, 127, 131, 132, 133. -/
def Obligations.FabricPacketsFollow : Prop :=
  (∀ s t l b, Arrives s l 1 b → bitsAt b 11 1 = 0 → Answers (exec (.frame t l b) s) fun s' =>
    s'.fab.link[l].pktRx = s.fab.link[l].pktRx + 1 ∧ match s.openPkt l b with
    | none => Counted s s' .pktAuthFail (l.val + 1) ∧ s'.hold = s.hold
    | some p => (p.payload.length ≤ 16 → Counted s s' .pktInvalid (l.val + 1) ∧ s'.hold = s.hold) ∧
    (∀ a, a = (s.at t).modLink l (fun x => { x with pktRx := x.pktRx + 1 }) → 16 < p.payload.length → bitsAt (p.payload.take 16) 7 1 = 0 →
      bitsAt (p.payload.take 16) 10 22 = 0 → bitsAt (p.payload.take 16) 50 14 = 0 → s.switching = true → bitsAt (p.payload.take 16) 0 3 = 2 →
      s' = (a.toHost 3 l.val (if bitsAt (p.payload.take 16) 3 2 = 3 then 0 else bitsAt (p.payload.take 16) 3 2) noCtx (p.payload.drop 16)).1)) ∧
  (∀ s t l b, s.fab.link[l].carries = true → s.domOn pdFab = true → s.drained .link = false → Answers (exec (.frame t l b) s) fun s' =>
    (bitsAt b 64 48 ≠ s.fab.link[l].pktRx → Counted s s' .pktInvalid (l.val + 1) ∧ s'.fab = s.fab) ∧
    (bitsAt b 64 48 = s.fab.link[l].pktRx → s'.fab.link[l].pktRx = s.fab.link[l].pktRx + 1)) ∧
  (∀ s t l b, Arrives s l 2 b → s.drained .mgmt = false → (∀ x, x ∈ s.sec.memberRolls → x.addr ≠ BitVec.ofNat 9 (bitsAt b 27 9)) →
    Answers (exec (.mgmt t l b) s) fun s' => match s.openPkt l b with
    | none => Counted s s' .pktAuthFail (l.val + 1) ∧ s'.mgmt = s.mgmt
    | some p => 16 ≤ p.payload.length → bitsAt p.payload 0 16 = 1 →
      s'.mgmt.inbox = s.mgmt.inbox ++ [parseReq (.fabric (BitVec.ofNat 9 (bitsAt b 27 9))) p.payload]) ∧
  (∀ s t l b, Arrives s l 7 b → bitsAt b 27 9 ≠ s.fab.addr.toNat → (∀ x, x ∈ s.fab.views → x.addr ≠ BitVec.ofNat 9 (bitsAt b 27 9)) →
    Answers (exec (.linkstate t l b) s) fun s' => match s.openPkt l b with
    | none => Counted s s' .pktAuthFail (l.val + 1) ∧ s'.fab.views = s.fab.views
    | some p => (p.payload.length ≠ 8 → Counted s s' .pktInvalid (l.val + 1)) ∧ (p.payload.length = 8 →
      ∃ v, v ∈ s'.fab.views ∧ v.addr = BitVec.ofNat 9 (bitsAt b 27 9) ∧ v.ver = BitVec.ofNat 16 (bitsAt p.payload 0 16))) ∧
  (∀ s t l b, Arrives s l 8 b → s.drained .mgmt = false → bitsAt b 27 9 ≠ s.fab.addr.toNat →
    Answers (exec (.membership t l b) s) fun s' => match s.openPkt l b with
    | none => Counted s s' .pktAuthFail (l.val + 1) ∧ s'.fab.members = s.fab.members
    | some p => (p.payload.length = 20 → bitsAt p.payload 0 8 = 1 → ∃ m, m ∈ s'.fab.members ∧ m.addr = BitVec.ofNat 9 (bitsAt b 27 9) ∧
        m.heard = max s.now t ∧ m.epoch = bitsAt p.payload 32 8 ∧ m.release = bitsAt p.payload 48 16) ∧
      (p.payload.length = 20 → bitsAt p.payload 0 8 = 2 → ∀ m, m ∈ s'.fab.members → m.addr ≠ BitVec.ofNat 9 (bitsAt b 27 9)))

/-- From R300 to R302, R304, R425: the periods of link states, heartbeats and members, features, and the ends of joining and leaving. Each clause says
that exec answers a next state, and what that state holds. Where the spec leaves a point open the model's choice holds: notes/assumptions 1, 131. -/
def Obligations.FabricMembershipTimersFollow : Prop :=
  (∀ s t, s.domOn pdFab = true → s.drained .link = false → s.fab.joined = true ∨ s.fab.joining ≠ none → Answers (exec (.linkstatePeriodic t) s) fun s' =>
    s'.fab.ver = s.fab.ver + 1 ∧ s'.fab.members = s.fab.members) ∧
  (∀ s t, s.fab.joined = true → s.domOn pdFab = true → s.drained .link = false → s.drained .mgmt = false →
    Answers (exec (.membershipHeartbeat t) s) fun s' => s' = (s.at t).broadcast 8 2 (s.memberMsg 1)) ∧
  (∀ s t addr m, m ∈ s.fab.members → m.addr = addr → m.heard + seconds 3 ≤ max s.now t → Answers (exec (.memberTimeout t addr) s) fun s' =>
    (∀ x, x ∈ s'.fab.members → x.addr ≠ addr) ∧ ∀ x, x ∈ s.fab.members → x.addr ≠ addr → x ∈ s'.fab.members) ∧
  (∀ s t e x, e ≤ s.fab.sysEpoch → e ∉ s.fab.features → (e, x) ∈ s.fab.reached → x + seconds 2 ≤ max s.now t →
    Answers (exec (.featureEpochStart t e) s) fun s' => s'.fab = { s.fab with features := e :: s.fab.features }) ∧
  (∀ s t u, Answers (exec (.fabricJoinTimeout t) s) fun s' =>
    (s.fab.joining = some (u, true) → s.fab.members.length < 512 → s'.fab.joined = true ∧ s'.fab.joining = none) ∧
    (s.fab.joining = some (u, false) → (∃ l, l ∈ s.usedLinks ∧ s.fab.link[l].st = .refused ∧ (s.fab.link[l].refuse = 2 ∨ s.fab.link[l].refuse = 6)) →
      s'.fab.joined = false ∧ s'.fab.joining = none ∧ s'.fab.members = [])) ∧
  (∀ s t u, s.fab.leaving = some u → u + millis 10 ≤ max s.now t → Answers (exec (.fabricLeaveDown t) s) fun s' =>
    s'.fab.joined = false ∧ s'.fab.leaving = none ∧ s'.fab.members = [] ∧ ∀ l : LinkId, s'.fab.link[l].st = .down) ∧
  (∀ s t m, s.live.mixedSince = some m → 72 + 24 * s.live.mixedLogs ≤ (max s.now t - m) / seconds 3600 → Answers (exec (.mixedReleaseLog t) s) fun s' =>
    s'.live.mixedLogs = s.live.mixedLogs + 1 ∧ s'.host.evSeq = s.host.evSeq + 1)

/-- From R62, R249, R262 to R269, R278: opening, closing and the ends of management sessions, the order of write locks, their timeout and the
acknowledgement of events. Each clause says that exec answers a next state, and what that state holds. Where the spec leaves a point open the model's
choice holds: notes/assumptions 1, 113, 114, 123, 124. -/
def Obligations.SessionsAndLocksFollow : Prop :=
  (∀ s t r role, s.mgmtServes = true → s.presented 1 r = true → r.rsv = 0 → r.cls = 0 → r.cmdSeq = 0 → r.session = 0 → r.body.length = 4 →
    bitsAt r.body 8 24 = 0 → Role.ofCode (bitsAt r.body 0 8) = some role → s.boot.hostLoad = false → s.sessionsFull r.src.transport = false →
    s.sec.rngFailed = false → 36 ≤ respSpace r.src → Answers (exec (.sessionOpen t r) s) fun s' =>
    s'.mgmt.pendSess = s.mgmt.pendSess ++ [⟨s.freshId 65536 s.mgmt.nextId, r.src.transport, (Config.entropy s.entropyCtr).take 16, max s.now t⟩] ∧
    s'.entropyCtr = s.entropyCtr + 1) ∧
  (∀ s t r role p k, s.mgmtServes = true → s.presented 1 r = true → r.rsv = 0 → r.cls = 0 → r.cmdSeq = 0 → r.body.length = 52 →
    bitsAt r.body 8 8 = 1 → bitsAt r.body 16 8 ≤ 1 → bitsAt r.body 24 8 = 0 → Role.ofCode (bitsAt r.body 0 8) = some role → s.boot.hostLoad = false →
    (s.mgmt.pendSess.find? fun x => x.id == r.session && x.tr == r.src.transport) = some p → max s.now t < p.since + seconds 10 →
    (s.lockoutOf role r.src.transport).locked (max s.now t) = false → s.roleKeyOf role = some k → 24 ≤ respSpace r.src →
    Answers (exec (.sessionOpen t r) s) fun s' =>
    if sessionProof k p.nonce ((r.body.drop 4).take 16) role.code Config.serial = r.body.drop 20 then
      (∃ x, s'.mgmt.sessions = s.mgmt.sessions ++ [x] ∧ x.id = p.id ∧ x.role = role ∧ x.tr = r.src.transport ∧ x.busy = 0)
    else (s'.mgmt.sessions = s.mgmt.sessions ∧ ∀ y, y ∈ s'.mgmt.pendSess → y.id ≠ p.id)) ∧
  (∀ s t r x, Accepted s 2 r x → r.body = [] → Answers (exec (.sessionClose t r) s) fun s' =>
    (x.busy = 0 → ∀ y, y ∈ s'.mgmt.sessions → y.id ≠ x.id) ∧
    (x.busy ≠ 0 → ∃ y, s'.session x.id = some y ∧ y.closing = some r)) ∧
  (∀ s t id, Answers (exec (.sessionNonceExpiry t id) s) fun s' =>
    ∀ p, p ∈ s'.mgmt.pendSess ↔ p ∈ s.mgmt.pendSess ∧ ¬ (p.id = id ∧ p.since + seconds 10 ≤ max s.now t)) ∧
  (∀ s t id x, s.session id = some x → Answers (exec (.sessionIdleTimeout t id) s) fun s' =>
    (x.busy = 0 → x.activeAt + seconds x.idleS ≤ max s.now t → s'.session id = none) ∧ (x.busy ≠ 0 → s'.mgmt = s.mgmt)) ∧
  (∀ s t role tr u, (s.lockoutOf role tr).lockedUntil = some u → u ≤ max s.now t → Answers (exec (.sessionLockoutEnd t role tr) s) fun s' =>
    s'.lockoutOf role tr = { s.lockoutOf role tr with lockedUntil := none }) ∧
  (∀ s t id x a, s.session id = some x → x.tr = .fabric a → s.nextHop a.toNat = none → Answers (exec (.fabricSessionUnreachable t id) s) fun s' =>
    s'.session id = none) ∧
  (∀ s t, s.mgmtServes = true → Answers (exec (.mgmtPeriodEnd t) s) fun s' =>
    s'.mgmt.arrivals = [] ∧ ∀ q, s.mgmt.arrivals = [q] → s.mgmt.waiting = [] → s.heldLocks = [] → q ∈ s'.mgmt.granted ∧ s'.mgmt.waiting = []) ∧
  (∀ s t k q, ((s.mgmt.waiting ++ s.mgmt.arrivals).find? fun y => y.ticket == k && decide (y.at_ + millis y.waitMs ≤ max s.now t)) = some q →
    Answers (exec (.lockWaitTimeout t k) s) fun s' =>
    (∀ y, y ∈ s'.mgmt.waiting ++ s'.mgmt.arrivals → y.ticket ≠ k) ∧ Counted s s' .lockTimeouts) ∧
  (∀ s t r x, Accepted s 0x16 r x → r.body.length = 4 → bitsAt r.body 16 16 = 0 → newer 16 (bitsAt r.body 0 16) s.host.evSeq.toNat = false →
    16 ≤ respSpace r.src → Answers (exec (.eventAck t r) s) fun s' =>
    s'.host.alarms = s.host.alarms.filter fun a => newer 16 a.toNat (bitsAt r.body 0 16))

/-- From R131, R231, R272, R294, R370, R389, R402, R405, R454: what an accepted and granted OBJ_SET does, and the commands that the table lists by
themselves as an OBJ_SET of one field. Each clause says that exec answers a next state, and what that state holds. Where the spec leaves a point open
the model's choice holds: notes/assumptions 1, 42, 43, 113, 117, 119, 120. -/
def Obligations.ObjectWritesTakeEffect : Prop :=
  (∀ s t r q f v, Granted s 4 r q → SetOk s r [⟨f, v⟩] → f.desc.app = .now → Cls.ofCode r.cls.toNat ∉ [.context, .route, .domain] →
    f ∉ [.trainRequest, .retrain, .linkEnable, .uartMode, .retireClear, .rootRetire, .fabKeyRetire, .attEnroll, .powerState, .configCommit, .chkRestart] →
    Answers (exec (.objSet t r) s) fun s' => s'.fget f r.inst.toNat = v) ∧
  (∀ s t r q v (k : DomId), Granted s 4 r q → SetOk s r [⟨.powerState, v⟩] → Cls.ofCode r.cls.toNat = .power → r.inst.toNat = k.val → k ≠ pdSec →
    Answers (exec (.powerStateRequest t r) s) fun s' =>
    (v ≠ [0] → s.domSt k = .on → s'.dom = s.dom) ∧
    (v ≠ [0] → s.domSt k = .ramp ∨ s.domSt k = .init → s.domDieLost k = false → s.dieHot k = false → s.depsOn k = true →
      s'.dom = s.dom ∧ ∃ y, y ∈ s'.mgmt.running ∧ y.q = q ∧ y.kind = .powerOn k) ∧
    (v = [0] → s.domSt k = .on → (∀ d, d ∈ s.dependants k → s.domSt d = .off ∨ s.domSt d = .fault) → s'.domSt k = .draining ∧
      ∃ y, y ∈ s'.mgmt.running ∧ y.q = q ∧ y.kind = .powerOff k)) ∧
  (∀ s t r q v (b : Berth), Granted s 4 r q → SetOk s r [⟨.trainRequest, v⟩] → Cls.ofCode r.cls.toNat = .berth → r.inst.toNat = b.val →
    Answers (exec (.trainRequest t r) s) fun s' => s'.berth[b].trainDue = true) ∧
  (∀ s t r q v (l : LinkId), Granted s 4 r q → SetOk s r [⟨.retrain, v⟩] → Cls.ofCode r.cls.toNat = .fabric → r.inst.toNat = l.val + 1 →
    s.fab.link[l].carries = true → s.sec.rngFailed = false → Answers (exec (.fabricRetrainRequest t r) s) fun s' =>
    s'.fab.link[l].st = .training ∧ s'.fab.link[l].retraining = true) ∧
  (∀ s t r q v (u : ChkId), Granted s 4 r q → SetOk s r [⟨.chkRestart, v⟩] → Cls.ofCode r.cls.toNat = .check → r.inst.toNat = u.val →
    Answers (exec (.checkRestart t r) s) fun s' => s'.chk[u].number = 0 ∧ s'.chk[u].busy = false ∧ s'.stat .chkItems u = 0) ∧
  (∀ s t r q v, Granted s 4 r q → SetOk s r [⟨.configCommit, v⟩] → Cls.ofCode r.cls.toNat = .security → r.inst = 0 →
    Answers (exec (.configCommit t r) s) fun s' =>
    s'.boot.configAuth = true ∧ s'.boot.cfgWriteAt = some (max s.now t) ∧ s'.boot.dirtySince = none ∧ s'.boot.cfg.length ≤ 2) ∧
  (∀ s t r q v, Granted s 4 r q → SetOk s r [⟨.attEnroll, v⟩] → Cls.ofCode r.cls.toNat = .security → r.inst = 0 →
    Answers (exec (.attEnroll t r) s) fun s' => ∃ k : Fin 3, s'.sec.enrolling = some k.val ∧ s.sec.attUsed[k] = false ∧ s'.sec.attUsed[k] = true) ∧
  (∀ s t r q v, Granted s 4 r q → Cls.ofCode r.cls.toNat = .security → r.inst = 0 → Answers (exec (.keyRetire t r) s) fun s' =>
    (SetOk s r [⟨.rootRetire, v⟩] → s'.sec = { s.sec with rootPrev := none }) ∧
    (SetOk s r [⟨.fabKeyRetire, v⟩] → s'.sec = { s.sec with fabPrev := none })) ∧
  (∀ s t r q (m : Chan), Granted s 4 r q → SetOk s r [⟨.retireClear, [(m.val : Int)]⟩] → Cls.ofCode r.cls.toNat = .store → r.inst = 0 →
    Answers (exec (.retireClear t r) s) fun s' =>
    s'.sec.retireMask.getLsbD m = false ∧ ∀ k : Chan, k ≠ m → s'.sec.retireMask.getLsbD k = s.sec.retireMask.getLsbD k)

/-- From R399, R400, R415, R275, R419: what staging, committing, swapping a berth and draining or returning a region do once the locks are granted. Each
clause says that exec answers a next state, and what that state holds. Where the spec leaves a point open the model's choice holds: notes/assumptions
1, 113, 155, 156, 165, 166, 167. -/
def Obligations.ImagesSwapsAndRegionsTakeEffect : Prop :=
  (∀ s t r q, Granted s 8 r q → 16 ≤ respSpace r.src → 12 ≤ r.body.length → bitsAt r.body 0 8 ≤ 1 → bitsAt r.body 8 8 = 1 → bitsAt r.body 16 16 = 0 →
    bitsAt r.body 32 32 = 0 → bitsAt r.body 64 32 ≤ imgMax (decide (bitsAt r.body 0 8 = 1)) → r.body.length - 12 ≤ bitsAt r.body 64 32 →
    s.boot.staging = none → s.boot.writing = none → (∀ x, s.session r.session = some x → x.closing = none ∧ x.dying = false) →
    Answers (exec (.fwStage t r) s) fun s' => s'.boot.staging =
      some ⟨r.session, decide (bitsAt r.body 0 8 = 1), bitsAt r.body 64 32, r.body.drop 12, max s.now t⟩) ∧
  (∀ s t r q other, Granted s 9 r q → 16 ≤ respSpace r.src → r.body.length = 4 → bitsAt r.body 16 16 = 0 → s.boot.hostLoad = false →
    s.boot.staging = none → Answers (exec (.fwCommit t r other) s) fun s' =>
    (∀ slot, bitsAt r.body 0 8 = 0 → bitsAt r.body 8 8 = 0 → s.boot.stagedFw = some slot → slot ≠ (s.boot.dir.getD blankDir).active →
      slotBit (s.boot.dir.getD blankDir).fwValid slot = true → s.fab.joined = false →
      ∃ d, s'.boot.dir = some d ∧ d.trialArmed = true ∧ d.trialCount = 0 ∧ d.active = (s.boot.dir.getD blankDir).active) ∧
    (bitsAt r.body 0 8 = 0 → bitsAt r.body 8 8 = 1 → s.boot.stage = 5 → s.boot.trial = true →
      s'.boot.trial = false ∧ s'.sec.rollback = s.sec.rollback ∧ ∃ d, s'.boot.dir = some d ∧ d.active = s.boot.fwSlot ∧ d.trialArmed = false) ∧
    (∀ slot, bitsAt r.body 0 8 = 1 → bitsAt r.body 8 8 = 0 → s.boot.stagedUc = some slot → slotBit (s.boot.dir.getD blankDir).ucValid slot = true →
      s'.boot.eligible = some slot)) ∧
  (∀ s t r q slot, Granted s 0xA r q → 176 ≤ respSpace r.src → r.body.length = 8 → bitsAt r.body 32 32 = 0 → bitsAt r.body 0 32 ≠ 0 →
    s.boot.eligible = some slot → (∀ b : Berth, s.berth[b].swap = none) → Answers (exec (.berthSwap t r 0) s) fun s' => ∀ b : Berth,
    s'.berth[b].swap = if (bitsAt r.body 0 32).testBit b then some (slot, s.swapBpc b (max s.now t + millis 20)) else none) ∧
  (∀ s t r q g, Granted s 0xB r q → 16 ≤ respSpace r.src → r.body.length = 4 → bitsAt r.body 8 8 = 0 → Region.ofCode (bitsAt r.body 0 8) = some g →
    g ≠ .store → g ≠ .sec → s.drained g = false → bitsAt r.body 16 16 ≤ 60000 → (g = .mgmt → 900 ≤ bitsAt r.body 16 16 ∧ bitsAt r.body 16 16 ≤ 2000) →
    Answers (exec (.regionDrain t r) s) fun s' =>
    s'.drained g = true ∧ s'.region[g.idx].returnMs = bitsAt r.body 16 16 ∧ s'.region[g.idx].since = max s.now t ∧
    (g = .link → ∀ l : LinkId, s'.fab.link[l].st = .down)) ∧
  (∀ s t r q g, Granted s 0xC r q → 16 ≤ respSpace r.src → r.body.length = 4 → bitsAt r.body 8 24 = 0 → Region.ofCode (bitsAt r.body 0 8) = some g →
    g ≠ .store → g ≠ .sec → g ≠ .mgmt → s.drained g = true → Answers (exec (.regionReturn t r) s) fun s' =>
    s'.drained g = false ∧ ∀ h, h ≠ g → s'.drained h = s.drained h)

/-- From R229, R301, R302, R317, R225: what retiring a channel, joining and leaving the fabric, forcing the clock and arming a capture do once the locks
are granted. Each clause says that exec answers a next state, and what that state holds. Where the spec leaves a point open the model's choice holds:
notes/assumptions 1, 96, 113, 121, 131. -/
def Obligations.StoreFabricClockAndCaptureCommandsTakeEffect : Prop :=
  (∀ s t r q (m : Chan), Granted s 0xD r q → r.body.length = 4 → bitsAt r.body 0 32 = m.val → s.hold.retiring = [] → s.retiredCount < 4 →
    s.chanOut m = false → s.hold.chan[m].st ≠ .untrained → Answers (exec (.storeRetire t r) s) fun s' =>
    s'.hold.chan[m].st = .draining ∧ s'.hold.retiring = [m] ∧ s'.hold.chan[m].drainSince = some (max s.now t) ∧
    ∃ y, y ∈ s'.mgmt.running ∧ y.q = q ∧ y.kind = .retire m) ∧
  (∀ s t r q, Granted s 0xE r q → r.body.length = 8 → bitsAt r.body 48 16 = 0 → s.fab.joined = false → s.fab.joining = none → s.sec.fab ≠ none →
    (∀ i, i < 3 → 1 ≤ bitsAt r.body (24 + 8 * i) 8 ∧ bitsAt r.body (24 + 8 * i) 8 ≤ 8 ∧ bitsAt r.body (8 * i) 8 < bitsAt r.body (24 + 8 * i) 8) →
    Answers (exec (.fabricJoin t r) s) fun s' =>
    s'.fab.joining = some (max s.now t, false) ∧ s'.fab.dims = (bitsAt r.body 24 8, bitsAt r.body 32 8, bitsAt r.body 40 8) ∧
    s'.fab.addr = BitVec.ofNat 9 (bitsAt r.body 0 8 + 8 * bitsAt r.body 8 8 + 64 * bitsAt r.body 16 8) ∧ s'.fab.joined = false) ∧
  (∀ s t r q, Granted s 0xF r q → r.body = [] → s.fab.joined = true → Answers (exec (.fabricLeave t r) s) fun s' =>
    s'.fab.leaving = some (max s.now t) ∧ s'.fab.joined = true ∧ ∃ y, y ∈ s'.mgmt.running ∧ y.q = q ∧ y.kind = .leave) ∧
  (∀ s t r q (i : InputId), Granted s 0x10 r q → 16 ≤ respSpace r.src → r.body.length = 4 → bitsAt r.body 8 24 = i.val →
    Answers (exec (.clockForce t r) s) fun s' =>
    (bitsAt r.body 0 8 = 0 → s'.clk.force = none) ∧ (bitsAt r.body 0 8 = 1 → s.clk.inp[i].fQual = true → s'.clk.force = some (1, i)) ∧
    (bitsAt r.body 0 8 = 2 → s.clk.histValid = true → s'.clk.force = some (2, i)) ∧
    (bitsAt r.body 0 8 = 3 → s'.clk.force = some (3, i) ∧ (s.domOn pdClk = true → s'.clk.fIn = none ∧ s'.clk.tIn = none))) ∧
  (∀ s t r q c, Granted s 6 r q → 16 ≤ respSpace r.src → parseArm r.body = .ok c → s.hold.capture.st ≠ .armed → s.hold.capture.st ≠ .running →
    Answers (exec (.captureArm t r) s) fun s' =>
    (c.trigger ≠ 0 → s'.hold.capture = c) ∧ (c.trigger = 0 → s'.hold.capture.st = .running ∧ s'.hold.capture.at_ = max s.now t))

/-- From R348, R349, R387, R390: what calibrating a sensor, forcing a loop, installing a key and rolling keys do once the locks are granted. Each clause
says that exec answers a next state, and what that state holds. Where the spec leaves a point open the model's choice holds: notes/assumptions 1, 113,
148, 161, 162. -/
def Obligations.SensorLoopAndKeyCommandsTakeEffect : Prop :=
  (∀ s t r q, Granted s 0x11 r q → 80 ≤ respSpace r.src → r.body.length = 8 → bitsAt r.body 24 8 = 0 → bitsAt r.body 0 16 ≠ 0 → s.domOn pdSense = true →
    (∀ n : SensId, s.sense[n].broken = false ∧ s.sense[n].cal = none) → Answers (exec (.sensorCal t r) s) fun s' => ∀ n : SensId,
    (bitsAt r.body 16 8 ≤ 1 → s'.sense[n].cal = if (bitsAt r.body 0 16).testBit n then some (bitsAt r.body 16 8) else none) ∧
    (bitsAt r.body 16 8 = 2 → (bitsAt r.body 0 16).testBit n = true →
      s'.sense[n].calOff = (Config.senseCal n).1 ∧ s'.sense[n].calGain = (Config.senseCal n).2)) ∧
  (∀ s t r q (j : LoopId), Granted s 0x12 r q → 16 ≤ respSpace r.src → r.body.length = 6 → bitsAt r.body 0 16 = j.val →
    Answers (exec (.loopForce t r) s) fun s' =>
    (bitsAt r.body 16 16 = 0 → s'.loop[j] = { s.loop[j] with force := none }) ∧
    (3500 ≤ bitsAt r.body 16 16 → bitsAt r.body 16 16 ≤ 23000 → s'.loop[j] = { s.loop[j] with force := some (bitsAt r.body 16 16,
      if bitsAt r.body 32 16 = 0 then none else some (max s.now t + seconds (bitsAt r.body 32 16))) })) ∧
  (∀ s t r q x, Granted s 0x13 r q → r.body.length = 44 → bitsAt r.body 0 32 ≤ 4 → s.session r.session = some x →
    Answers (exec (.keyInstall t r) s) fun s' =>
    match Config.kwUnwrap (Config.kmac256 s.officerKey (List.flatten [ascii "PV3264 kek", x.devNonce, x.reqNonce]) 32) (r.body.drop 4) with
    | some key => 16 + (checkValue key).length ≤ respSpace r.src → s'.sec = s.sec.install (bitsAt r.body 0 8) (max s.now t) key
    | none => s'.sec = s.sec) ∧
  (∀ s t r q, Granted s 0x14 r q → 20 ≤ respSpace r.src → r.body.length = 8 → bitsAt r.body 0 8 ≤ 2 → bitsAt r.body 8 24 = 0 → s.sec.rngFailed = false →
    s.rollBerths (bitsAt r.body 0 8) (bitsAt r.body 32 32) ≠ [] → (∀ b : Berth, s.line[b].rolling = false) →
    Answers (exec (.keyRoll t r) s) fun s' => ∀ b, b ∈ s.rollBerths (bitsAt r.body 0 8) (bitsAt r.body 32 32) →
      s'.line[b].keyNext = (s.line[b].keyGen + 1) % 256 ∧ s'.line[b].keySwitch = s.line[b].bpc + 17)

/-- From R8, R62, R224, R258, R269, R271, R273, R274, R403 to R407: the commands that take no lock answer with what they read, a signature spends an
index, and a command that takes write locks first joins the requests of its period. Each clause says that exec answers a next state, and what that
state holds. Where the spec leaves a point open the model's choice holds: notes/assumptions 1, 114, 118. -/
def Obligations.FreeCommandsAnswer : Prop :=
  (∀ s t r x body, Accepted s 3 r x → r.src = .uart0 → x.key ≠ [] → Cls.ofCode r.cls.toNat ∉ [.context, .route] → r.body = [0, 0, 0, 0] →
    body = listBody (s.objGen (Cls.ofCode r.cls.toNat, r.inst.toNat)) (s.allEntries (Cls.ofCode r.cls.toNat) r.inst.toNat) → 16 + body.length ≤ 4096 →
    Answers (exec (.objGet t r) s) fun s' => s'.fields = s.fields ∧ ∀ msg, msg = respHeader 3 r.cmdSeq .ok body.length 0 ++ body →
      s'.out = .response .uart0 (msg ++ cmdTag x.key 1 msg) :: s.out) ∧
  (∀ s t r x, Accepted s 5 r x → r.src = .uart0 → Cls.ofCode r.cls.toNat ∉ [.context, .route] → r.body.length = 4 → bitsAt r.body 1 31 = 0 →
    16 + (listBody 0 (((s.at t).statFields (Cls.ofCode r.cls.toNat) r.inst.toNat).map StatOut.entry)).length ≤ 4096 →
    Answers (exec (.statsRead t r) s) fun s' => s'.fields = s.fields ∧
    (bitsAt r.body 0 1 = 0 → ∀ y i, (y, i) ≠ (Stat.slackMin, r.inst.toNat) → ∀ e, s'.stat y i e = s.stat y i e) ∧
    (bitsAt r.body 0 1 = 1 → x.role ≠ .observer → ∀ y, y ∈ Stat.all → y.desc.hist = true → y ≠ .slackMin →
      (y.desc.home == homeOf (Cls.ofCode r.cls.toNat) r.inst.toNat) = true → s'.stat y r.inst.toNat = 0)) ∧
  (∀ s t r x, Accepted s 7 r x → r.src = .uart0 → x.key ≠ [] → (captureReadRsp r s).st = .ok → 16 + (captureReadRsp r s).body.length ≤ 4096 →
    (captureReadRsp r s).aux = none → Answers (exec (.captureRead t r) s) fun s' => s'.hold = s.hold ∧ ∀ msg,
      msg = respHeader 7 r.cmdSeq .ok (captureReadRsp r s).body.length 0 ++ (captureReadRsp r s).body →
      s'.out = .response .uart0 (msg ++ cmdTag x.key 1 msg) :: s.out) ∧
  (∀ s t r x i, Accepted s 0x15 r x → r.body.length = 32 → s.sec.enrolling = none → s.sec.attIndex = some i → (s.at t).attestBusy = false →
    Answers (exec (.attest t r) s) fun s' => if (attestEff r (s.at t)).1.fits r = true then
    s'.sec = { s.sec with attIndex := if (i + 1) % 4096 = 0 then none else some (i + 1), sigTimes := max s.now t :: s.sec.sigTimes } else s'.sec = s.sec) ∧
  (∀ s t r x, Accepted s 0xD r x → s.underway 0xD r = false → Answers (exec (.storeRetire t r) s) fun s' => s'.hold = s.hold ∧
    ∃ q, s'.mgmt.arrivals = s.mgmt.arrivals ++ [q] ∧ q.code = 0xD ∧ q.req = r ∧ q.locks = [(.store, 0)] ∧ q.at_ = max s.now t) ∧
  (∀ s t r x, Accepted s 0x13 r x → s.underway 0x13 r = false → Answers (exec (.keyInstall t r) s) fun s' => s'.sec = s.sec ∧
    ∃ q, s'.mgmt.arrivals = s.mgmt.arrivals ++ [q] ∧ q.code = 0x13 ∧ q.req = r ∧ q.locks = [(.security, 0)] ∧ q.at_ = max s.now t) ∧
  (∀ s t r x, Accepted s 4 r x → s.underway 4 r = false → Answers (exec (.objSet t r) s) fun s' => s'.fields = s.fields ∧ s'.pend = s.pend ∧
    ∃ q, s'.mgmt.arrivals = s.mgmt.arrivals ++ [q] ∧ q.code = 4 ∧ q.req = r ∧ q.locks = [(Cls.ofCode r.cls.toNat, r.inst.toNat)])

/-- From R122, R129 to R136: training, adaptation, evaluation, fast recovery, fallback, neighbour conflicts and the quiet floor move a berth's canceller.
Each clause says that exec answers a next state, and what that state holds. Where the spec leaves a point open the model's choice holds:
notes/assumptions 1, 56, 57, 58, 59. -/
def Obligations.CancellersFollow : Prop :=
  (∀ s t (b : Berth) res, s.berth[b].cancel = .training → Answers (exec (.cancelTrainingDone t b res) s) fun s' =>
    (trainOk (s.fval .resumeThresh b) res = true → s'.berth[b].cancel = .tracking ∧ s'.berth[b].taps[(0 : Fin 4)] = res.own ∧
      s'.berth[b].trainFails = [] ∧ s'.berth[b].fdFrom = some (max s.now t + micros 100)) ∧
    (trainOk (s.fval .resumeThresh b) res = false → s'.berth[b].cancel = .fallback ∧ Counted s s' .trainFail b ∧
      s'.berth[b].taps = s.berth[b].taps ∧ (s.berth[b].trainFails = [] → s'.berth[b].trainFails = [max s.now t]))) ∧
  (∀ s t (b : Berth) blk u, (s.at t).releaseAt .adapt b = u → blk.jump = false → Answers (exec (.cancelAdaptBlock t b blk) s) fun s' =>
    (s.berth[b].cancel = .training → s'.berth = s.berth) ∧
    (s.berth[b].cancel ≠ .training → ∀ k : Fin 4, s'.berth[b].taps[k] =
      if (blk.strong.getD k false && !(k == 0 && s.berth[b].cancel == .diverged)) = true then
        adaptTaps s.berth[b].taps[k] (blk.sums.getD k []) (blk.divisor.getD k 1) (u.fnat .trackShift b + if s.berth[b].rx.isSome then 2 else 0)
      else s.berth[b].taps[k])) ∧
  (∀ s t (b : Berth) analog own, s.berth[b].cancel = .tracking → Answers (exec (.cancelTapTransfer t b analog own) s) fun s' =>
    s'.berth[b].analog = analog ∧ s'.berth[b].taps[(0 : Fin 4)] = own ∧ s'.berth[b].cancel = .tracking ∧
    ∀ k : Fin 4, k ≠ 0 → s'.berth[b].taps[k] = s.berth[b].taps[k]) ∧
  (∀ s t (b : Berth) m, m.blanked ≤ 256 → Answers (exec (.residualEval t b m) s) fun s' => s'.stat .excess b = clampStat .excess m.excess ∧
    (m.excess ≤ s.fval .divThresh b → m.clipMany = false → s'.berth = s.berth) ∧
    (∀ k, s.fval .divThresh b < m.excess → m.neighbour = some k → s'.berth[b] = { s.berth[b] with nbrRefit := some k }) ∧
    (s.fval .divThresh b < m.excess → m.neighbour = none → s.berth[b].cancel = .tracking → s.berth[b].ocStop = false →
      s'.berth[b].cancel = .diverged ∧ s'.berth[b].fdFrom = none ∧ Counted s s' .divEvents b ∧ s'.stat .divHist b = 1)) ∧
  (∀ s t (b : Berth) m, Answers (exec (.fastRecoveryDone t b m) s) fun s' =>
    (∀ k, s.berth[b].nbrRefit = some k → s'.berth[b].nbrRefit = none ∧ s'.berth[b].cancel = s.berth[b].cancel) ∧
    (s.berth[b].nbrRefit = none → s.berth[b].cancel = .diverged → m.worst ≤ s.fval .resumeThresh b → 4096 ≤ m.usable → m.clipped * 100 ≤ m.stored →
      s'.berth[b].cancel = .tracking ∧ s'.berth[b].taps[(0 : Fin 4)] = m.taps ∧ Counted s s' .fastRecoveries b) ∧
    (s.berth[b].nbrRefit = none → s.berth[b].cancel = .diverged → s.fval .resumeThresh b < m.worst ∨ m.usable < 4096 ∨ m.stored < m.clipped * 100 →
      s'.berth[b].cancel = .fallback ∧ s'.berth[b].trainDue = true ∧ Counted s s' .fallbacks b)) ∧
  (∀ s t (b : Berth), s.berth[b].cancel = .fallback → Answers (exec (.fallbackRetry t b) s) fun s' =>
    s'.berth[b] = { s.berth[b] with trainDue := true }) ∧
  (∀ s t (b : Berth) (j : Fin 3) resid a, Answers (exec (.nbrConflict t b j resid) s) fun s' => s'.stat .nbrResid b j = clampStat .nbrResid resid ∧
    (s.stat .nbrConflict b j = 0 → 0 < resid → s.berth[b].nbrAbove[j] = some a → a + seconds 1 ≤ max s.now t →
      s'.stat .nbrConflict b j = 1 ∧ s'.stat .nbrConflictHist b = 1) ∧
    (s.stat .nbrConflict b j ≠ 0 → resid < -30 → s.berth[b].nbrBelow[j] = some a → a + seconds 10 ≤ max s.now t → s'.stat .nbrConflict b j = 0) ∧
    (resid < -30 → s.berth[b].nbrBelow[j] = none → s'.berth[b].nbrBelow[j] = some (max s.now t) ∧ s'.berth[b].nbrAbove[j] = none)) ∧
  (∀ s t (b : Berth), Answers (exec (.floorStale t b none) s) fun s' =>
    (s.berth[b].quietAt + seconds 10 ≤ max s.now t → s'.stat .floorStale b = 1) ∧ s'.stat .noiseFloor b = s.stat .noiseFloor b) ∧
  (∀ s t (b : Berth) f, Answers (exec (.floorStale t b (some f)) s) fun s' =>
    s'.stat .floorStale b = 0 ∧ s'.stat .noiseFloor b = clampStat .noiseFloor f ∧ s'.berth[b].quietAt = max s.now t)

/-- From R201, R207, R210, R214, R216, R225 to R232: rounds, upkeep, scrubbing, retirement and rebuild of the Hold's channels, captures, and the context
cache. Each clause says that exec answers a next state, and what that state holds. Where the spec leaves a point open the model's choice holds:
notes/assumptions 1, 92, 93, 94, 96, 97, 98. -/
def Obligations.HoldFollows : Prop :=
  (∀ s t caps, Answers (exec (.storeRound t caps []) s) fun s' =>
    s'.hold.rounds = (if s.hold.rounds + 1 < 1024 then s.hold.rounds + 1 else 0) ∧ ∀ m : Chan, s'.hold.chan[m].pend =
      if s.hold.chan[m].st = .active ∨ s.hold.chan[m].st = .draining then
        vec5 (List.zipWith (· - ·) s.hold.chan[m].pend.toList (roundServe s.boot.holdRate s.hold.chan[m].pend.toList (caps.getD m 0)))
      else s.hold.chan[m].pend) ∧
  (∀ s t (m : Chan) ok, Answers (exec (.storeTimingUpdate t m ok) s) fun s' =>
    s'.hold.chan[m] = { s.hold.chan[m] with retry := !ok && (s.hold.chan[m].st == .active || s.hold.chan[m].st == .draining) }) ∧
  (∀ s t (m : Chan) ok, s.hold.chan[m].retry = true → Answers (exec (.storeTimingRetry t m ok) s) fun s' =>
    s'.hold.chan[m].retry = false ∧ (ok = true → s'.hold.chan[m].trig = s.hold.chan[m].trig) ∧
    (ok = false → s.hold.chan[m].st = .active → s'.hold.chan[m].trig = true)) ∧
  (∀ s t (m : Chan) c ext, Answers (exec (.storeTempRead t m (some (c, ext))) s) fun s' =>
    s'.hold.chan[m] = { s.hold.chan[m] with missed := 0, hot := ext } ∧ s'.stat .dramTemp 0 m = clampStat .dramTemp c) ∧
  (∀ s t (m : Chan), Answers (exec (.storeTempRead t m none) s) fun s' =>
    s'.hold.chan[m].missed = s.hold.chan[m].missed + 1 ∧ (2 ≤ s.hold.chan[m].missed → s'.hold.chan[m].hot = true)) ∧
  (∀ s t (m : Chan) ce ue, s.chanOut m = false → Answers (exec (.scrubPass t m ce ue) s) fun s' =>
    (ce ≠ 0 → s'.stat .eccCe 0 m = min (s.stat .eccCe 0 m + ce) ((2 ^ Stat.eccCe.desc.bits : Nat) - 1)) ∧
    (ue ≠ 0 → s'.stat .eccUe 0 m = min (s.stat .eccUe 0 m + ue) ((2 ^ Stat.eccUe.desc.bits : Nat) - 1) ∧ s'.stat .eccUeHist = 1) ∧
    s'.hold.chan[m].st = s.hold.chan[m].st) ∧
  (∀ s t (m : Chan), s.hold.chan[m].trig = true → s.hold.chan[m].st = .active → Answers (exec (.storeAutoRetire t m) s) fun s' =>
    s'.hold.chan[m].st = .fenced ∧ s'.hold.chan[m].trig = false ∧ m ∈ s'.hold.retiring ∧ ∀ k : Chan, k ≠ m → s'.hold.chan[k] = s.hold.chan[k]) ∧
  (∀ s t (m : Chan) rest, s.hold.retiring = m :: rest → Answers (exec (.rebuildDone t m) s) fun s' =>
    (s.hold.chan[m].st = .fenced → s'.hold.chan[m].st = .retired ∧ s'.sec.retireMask.getLsbD m = true ∧ s'.hold.retiring = rest) ∧
    (s.hold.chan[m].st = .draining → s'.hold.chan[m].rebuilt = true ∧ s'.hold.chan[m].st = .draining ∧ s'.hold.retiring = m :: rest)) ∧
  (∀ s t (m : Chan), s.hold.chan[m].st = .draining → s.hold.chan[m].rebuilt = true →
    (∃ a, s.hold.chan[m].drainSince = some a ∧ a + seconds 2 ≤ max s.now t) ∨ (∀ f, f ∈ s.hold.frames → f.chan ≠ m) →
    Answers (exec (.storeDrainFence t m) s) fun s' =>
    s'.hold.chan[m].st = .retired ∧ s'.sec.retireMask.getLsbD m = true ∧ ∀ f, f ∈ s'.hold.frames → f.chan ≠ m) ∧
  (∀ s t, s.hold.capture.st = .armed → Answers (exec (.captureTrigger t) s) fun s' =>
    s'.hold.capture.st = .running ∧ s'.hold.capture.at_ = max s.now t ∧ s'.hold.capture.granules = s.hold.capture.granules) ∧
  (∀ s t rec, s.hold.capture.st = .running → Answers (exec (.captureDone t rec) s) fun s' =>
    s'.hold.capture.st = .done ∧ s'.host.evSeq = s.host.evSeq + 1) ∧
  (∀ s t id, id ∉ s.hold.cache → Answers (exec (.ctxCacheFill t id) s) fun s' =>
    s'.hold.cache = evict (id :: s.hold.cache) s.hold.pins ∧ s'.ctxs = s.ctxs) ∧
  (∀ s t id, Answers (exec (.ctxWriteback t id) s) fun s' => (∀ c, c ∈ s'.ctxs → c.id = id → c.dirty = false) ∧ s'.hold = s.hold)

/-- From R162, R173, R175, R195, R303: the timers of contexts and numbers, a station that leaves, ownership across the fabric and the route table's
learned entries. Each clause says that exec answers a next state, and what that state holds. Where the spec leaves a point open the model's choice
holds: notes/assumptions 1, 72, 79, 81, 82. -/
def Obligations.ContextsAndOwnersFollow : Prop :=
  (∀ s t id c, s.ctx? id = some c → c.st = .active → s.fnat .stationTimeout c.berth ≤ periodsSince s.line[c.berth] c.lastRx →
    Answers (exec (.contextStationTimeout t id) s) fun s' => ∃ d, s'.ctx? id = some d ∧ d.st = .dormant ∧ d.since = s.line[c.berth].bpc) ∧
  (∀ s t id c, s.ctx? id = some c → c.st = .dormant → s.fnat .dormantTimeout c.berth ≤ periodsSince s.line[c.berth] c.since →
    Answers (exec (.contextDormantTimeout t id) s) fun s' => ∃ d, s'.ctx? id = some d ∧ d.st = .closing) ∧
  (∀ s t id c, s.ctx? id = some c → c.st = .closing → s.ctxEmpty id = true ∨ 256 ≤ periodsSince s.line[c.berth] c.since →
    Answers (exec (.contextClosingEnd t id) s) fun s' => s'.ctx? id = none) ∧
  (∀ s t id c, s.ctx? id = some c → c.st = .remote → 256 ≤ periodsSince s.line[c.berth] c.since →
    (∀ f, f ∈ s.hold.frames → f.ctx = id → f.dstKind ≠ 0) → Answers (exec (.contextRemoteEnd t id) s) fun s' => s'.ctx? id = none) ∧
  (∀ s t (b : Berth) num, Answers (exec (.numberQuarantineEnd t b num) s) fun s' => ∀ q, q ∈ s'.line[b].quarantine ↔
    q ∈ s.line[b].quarantine ∧ ¬ (q.1 = num ∧ 256 ≤ periodsSince s.line[b] q.2)) ∧
  (∀ s t (b : Berth) ctx c, s.ctx? ctx = some c → c.berth = b → c.st = .active ∨ c.st = .dormant → Answers (exec (.leave t b ctx) s) fun s' =>
    ∃ d, s'.ctx? ctx = some d ∧ d.st = .closing) ∧
  (∀ s t l b a, Arrives s l 3 b → bitsAt b 11 1 = 0 → s.drained .mgmt = false → a = (s.at t).modLink l (fun x => { x with pktRx := x.pktRx + 1 }) →
    Answers (exec (.ownQuery t l b) s) fun s' => match s.openPkt l b with
    | none => s' = a.bump .pktAuthFail (l.val + 1)
    | some p => (p.payload.length = 12 → s.ownedCtxs (BitVec.ofNat 64 (bitsAt p.payload 0 64)) = [] → s' = a) ∧
      (∀ c r, p.payload.length = 12 → s.ownedCtxs (BitVec.ofNat 64 (bitsAt p.payload 0 64)) = c :: r →
        s' = a.sendTo { ptype := 4, prio := 2, dst := bitsAt b 27 9, src := s.fab.addr.toNat, payload := p.payload ++ leBytes 4 c.ownEpoch.toNat })) ∧
  (∀ s t l b, Arrives s l 4 b → s.drained .mgmt = false → Answers (exec (.ownAnswer t l b) s) fun s' => match s.openPkt l b with
    | none => Counted s s' .pktAuthFail (l.val + 1) ∧ s'.owns = s.owns
    | some p => p.payload.length = 16 → s'.owns = s.owns.map fun q => if q.eui = BitVec.ofNat 64 (bitsAt p.payload 0 64) ∧ q.id = bitsAt p.payload 64 32 ∧ max s.now t < q.since + millis 2 then
      { q with heard := some (laterEpoch (BitVec.ofNat 32 (bitsAt p.payload 96 32)) q.heard) } else q) ∧
  (∀ s t eui q, (s.owns.find? fun x => x.eui == eui) = some q → q.since + millis 2 ≤ max s.now t → s.drained .mgmt = false →
    Answers (exec (.ownClaimWindowEnd t eui) s) fun s' => (∀ x, x ∈ s'.owns → x.eui ≠ eui) ∧
    ∀ c, c ∈ s'.ctxs → c.eui = eui → c.berth = q.berth → c.st ≠ .closing → c.st ≠ .remote →
      c.ownEpoch = (match q.heard with | some h => h + 1 | none => 1) ∧ c.owner = s.fab.addr) ∧
  (∀ s t l b, Arrives s l 5 b → s.drained .mgmt = false → Answers (exec (.ownClaim t l b) s) fun s' => match s.openPkt l b with
    | none => Counted s s' .pktAuthFail (l.val + 1) ∧ s'.owns = s.owns ∧ s'.ctxs = s.ctxs
    | some p => ∀ c, p.payload.length = 16 → bitsAt p.payload 104 24 = 0 → s.ownClaimOn (BitVec.ofNat 64 (bitsAt p.payload 0 64)) = some c →
      (claimWins (BitVec.ofNat 32 (bitsAt p.payload 64 32)) (bitsAt b 27 9) c.ownEpoch s.fab.addr.toNat = true →
        ∀ q, q ∈ s'.owns → q.eui ≠ BitVec.ofNat 64 (bitsAt p.payload 0 64)) ∧
      (claimWins (BitVec.ofNat 32 (bitsAt p.payload 64 32)) (bitsAt b 27 9) c.ownEpoch s.fab.addr.toNat = false → s'.owns = s.owns ∧ s'.ctxs = s.ctxs)) ∧
  (∀ s t l b, Arrives s l 6 b → s.drained .mgmt = false → bitsAt b 27 9 ≠ s.fab.addr.toNat → s.hold.routes.length + s.hold.aside.length < s.routeRoom →
    Answers (exec (.ownAdvert t l b) s) fun s' => match s.openPkt l b with
    | none => Counted s s' .pktAuthFail (l.val + 1) ∧ s'.hold = s.hold
    | some p => ∀ eui, eui = BitVec.ofNat 64 (bitsAt p.payload 32 64) → bitsAt p.payload 0 16 = 1 → p.payload.length = 16 → s.ownedCtxs eui = [] →
      s.route? eui = none → ∃ r, s'.route? eui = some r ∧ r.kind = 1 ∧ r.pinned = false ∧ r.fabAddr = BitVec.ofNat 9 (bitsAt b 27 9) ∧
      r.heard = max s.now t ∧ r.epoch = BitVec.ofNat 32 (bitsAt p.payload 96 32)) ∧
  (∀ s t, s.drained .mgmt = false → Answers (exec (.ownAdvertRefresh t) s) fun s' =>
    s' = ((s.at t).releaseAt .advert 0).advertise s.ownedIds) ∧
  (∀ s t eui r, s.route? eui = some r → r.kind = 1 → r.pinned = false → r.heard + seconds (3 * s.fnat .advertRefresh 0) ≤ max s.now t →
    Answers (exec (.routeEntryExpiry t eui) s) fun s' => s'.route? eui = none)

/-- From R159 to R162, R173, R195, R458: the steps of a join on the coordinator's side and on the station's. Each clause says that exec answers a next
state, and what that state holds. Where the spec leaves a point open the model's choice holds: notes/assumptions 1, 69, 71, 72, 73, 74. -/
def Obligations.JoinsFollow : Prop :=
  (∀ s t (b : Berth) msg eui a n id k, msg.length = 30 → msg.headD 0 = 0x01 → clearCrcOk msg = true → s.drained .mgmt = false →
    s.silent b = false → s.coordinates b = true → s.fbool .joinOpen b = true → s.line[b].kDom ≠ none → eui = BitVec.ofNat 64 (bitsAt msg 8 64) →
    a = (s.at t).endJoin b eui → a.lockedOut b eui = false → (a.numbersUsed b).length < s.fnat .maxStations b → a.stationCount < 131040 →
    a.freeNumber b = some n → grantRun (freeRuns 0 a.idsTaken) (bitsAt msg 201 2 + 1) = some (id, k) → s.sec.rngFailed = false →
    Answers (exec (.joinReq t b msg) s) fun s' => ∃ j, s'.line[b].joins = a.line[b].joins ++ [j] ∧ j.eui = eui ∧ j.number = n ∧ j.ctx = id ∧ j.nCtx = k ∧
      j.reject = none ∧ j.devNonce = (Config.entropy s.entropyCtr).take 16) ∧
  (∀ s t (b : Berth) j, s.mayDrive b = true → s.drained .mgmt = false → joinsOwed s.line[b] = [j] → Answers (exec (.joinChal t b) s) fun s' =>
    (j.reject = none → ∀ x, x ∈ s'.line[b].joins → x.eui = j.eui → x.challenged = true ∧ x.deadline = s.line[b].bpc + 8) ∧
    (j.reject ≠ none → ∀ x, x ∈ s'.line[b].joins → x.eui ≠ j.eui)) ∧
  (∀ s t (b : Berth) msg eui, msg.length = 45 → msg.headD 0 = 0x03 → clearCrcOk msg = true → s.drained .mgmt = false → s.silent b = false →
    s.coordinates b = true → eui = BitVec.ofNat 64 (bitsAt msg 8 64) → (s.at t).lockedOut b eui = false →
    Answers (exec (.joinProof t b msg) s) fun s' =>
    ((∀ j, j ∈ s.line[b].joins → j.eui ≠ eui) → Counted s s' .joinFail b ∧ s'.ctxs = s.ctxs) ∧
    (∀ j, (s.line[b].joins.find? fun (x : Join) => x.eui == eui && x.challenged && !x.proven && x.reject.isNone) = some j →
      newer 32 s.line[b].bpc.toNat j.deadline.toNat = false →
      match ((s.at t).roots.find? fun r => joinProof (installKey r eui) j.devNonce j.stNonce j.number eui Config.serial == (msg.drop 9).take 32) with
      | some _ => (∀ x, x ∈ s'.line[b].joins → x.eui = eui → x.proven = true) ∧ ∃ q, q ∈ s'.owns ∧ q.eui = eui ∧ q.berth = b ∧ q.since = max s.now t
      | none => Counted s s' .joinFail b ∧ ∀ x, x ∈ s'.line[b].joins → x.eui = eui → x.reject = some 1)) ∧
  (∀ s t (b : Berth) eui j, (s.line[b].joins.find? fun (x : Join) => x.eui == eui && x.challenged && !x.proven && x.reject.isNone) = some j →
    newer 32 s.line[b].bpc.toNat j.deadline.toNat = true → Answers (exec (.joinProofDeadline t b eui) s) fun s' =>
    ∀ x, x ∈ s'.line[b].joins → x.eui ≠ eui) ∧
  (∀ s t (b : Berth) eui, Answers (exec (.joinLockoutEnd t b eui) s) fun s' =>
    (∀ f, f ∈ s'.line[b].joinFails → f.eui = eui → ∀ u, f.until_ = some u → max s.now t < u) ∧
    s'.line[b].joinFails.map (·.fails) = s.line[b].joinFails.map (·.fails)) ∧
  (∀ s t (b : Berth) eui j k, (s.line[b].joins.find? fun (x : Join) => x.eui == eui && x.proven) = some j → s.line[b].kDom = some k →
    Answers (exec (.joinAccept t b eui) s) fun s' =>
    (2 < (s.line[b].bpc - j.causeBpc).toNat → ∀ x, x ∈ s'.line[b].joins → x.eui ≠ eui) ∧
    ((s.line[b].bpc - j.causeBpc).toNat ≤ 2 → s.mayDrive b = true → s.drained .mgmt = false → (s.msgFc b j.ctx 3).isSome = true →
      (∀ x, x ∈ s'.line[b].joins → x.eui ≠ eui) ∧ Counted s s' .joinOk b ∧
      ∃ r, s'.route? eui = some r ∧ r.kind = 0 ∧ r.berth = b ∧ r.station = j.number ∧ r.ctx = j.ctx)) ∧
  (∀ s t (b : Berth) msg, s.line[b].st.joined = false → s.fnat .role b ≠ 0 → Answers (exec (.stationJoinMsgRx t b msg) s) fun s' =>
    (∀ root, msg.headD 0 = 0x02 → msg.length = 43 → clearCrcOk msg = true → bitsAt msg 8 64 = s.fnat .stEui b → s.line[b].st.stNonce ≠ [] →
      s.sec.root = some root → s'.line[b].st.number = bitsAt msg 200 16 ∧ s'.line[b].st.devNonce = (msg.drop 9).take 16 ∧
      s'.line[b].st.challenge = some (bitsAt msg 200 16, BitVec.ofNat 32 (bitsAt msg 216 32))) ∧
    (msg.headD 0 = 0x04 → msg.length = 37 → s.line[b].st.challenge ≠ none → s'.line[b].st.joined = true ∧ s'.line[b].st.challenge = none ∧
      s'.line[b].st.nCtx = (msg.getD 1 0).toNat ∧ s'.line[b].st.keyGen = (msg.getD 2 0).toNat ∧ s'.line[b].st.kDom = (msg.drop 3).take 32) ∧
    (msg.headD 0 = 0x05 → msg.length = 14 → clearCrcOk msg = true → bitsAt msg 8 64 = s.fnat .stEui b →
      s'.line[b].st.stNonce = [] ∧ s'.line[b].st.challenge = none))

/-- From R255 to R257, R410: each cause loses the host, the PCIe resets clear the configuration bits, and the link comes up again. Each clause says that
exec answers a next state, and what that state holds. Where the spec leaves a point open the model's choice holds: notes/assumptions 1, 106, 107, 108,
110, 112. -/
def Obligations.HostLossAndReturnFollow : Prop :=
  (∀ s t, Answers (exec (.pcieLinkDown t) s) fun s' =>
    s'.host.linkUp = false ∧ s'.host.d3 = false ∧ s'.host.msixEnable = false ∧ s'.host.busMaster = false ∧ s'.host.funcMask = false ∧
    s'.host.lost = true ∧ (s.host.lost = false → HostLost s s' 1)) ∧
  (∀ s t, Answers (exec (.perstNAssert t) s) fun s' =>
    s'.host.linkUp = false ∧ s'.host.d3 = false ∧ s'.host.msixEnable = false ∧ s'.host.busMaster = false ∧ s'.host.funcMask = false ∧
    s'.host.lost = true ∧ (s.host.lost = false → HostLost s s' 2)) ∧
  (∀ s t, Answers (exec (.functionLevelReset t) s) fun s' =>
    s'.host.linkUp = s.host.linkUp ∧ s'.host.d3 = false ∧ s'.host.msixEnable = false ∧ s'.host.busMaster = false ∧ s'.host.funcMask = false ∧
    s'.host.lost = true ∧ (s.host.lost = false → HostLost s s' 3)) ∧
  (∀ s t, s.host.wdogMs ≠ 0 → s.host.heartbeatAt + millis s.host.wdogMs ≤ max s.now t → s.host.lost = false →
    Answers (exec (.hostWatchdogExpiry t) s) fun s' => HostLost s s' 5) ∧
  (∀ s t, Answers (exec (.d3hotEntry t) s) fun s' =>
    s'.host.d3 = true ∧ s'.host.lost = true ∧ (s.host.lost = false → HostLost s s' 7)) ∧
  (∀ s t q, s.qp[q].st = .active → (q = 0 → s.unreadCommand = none) → s.host.lost = false → Answers (exec (.dmaCompletionTimeout t q) s) fun s' =>
    Counted s s' .fetchErr ∧
    (s.host.dmaTimeouts < 3 → s'.host.dmaTimeouts = s.host.dmaTimeouts + 1 ∧ s'.host.lost = false ∧ s'.qp[q].st = .error ∧ s'.qp[q].errCode = 4 ∧
      s'.qp[q].errHist = true) ∧
    (3 ≤ s.host.dmaTimeouts → s'.host.lost = true ∧ s'.host.lossCause = 6 ∧ s'.host.dmaTimeouts = 0 ∧ s'.qp[q].st = .lost ∧ s'.qp[q].errCode = 4)) ∧
  (∀ s t e, s.qp[(0 : QpId)].st = .active → s.unreadCommand = some e → s.host.lost = false → s.host.dmaTimeouts < 3 →
    Answers (exec (.dmaCompletionTimeout t 0) s) fun s' =>
    s'.qp[(0 : QpId)].fetched = s.qp[(0 : QpId)].fetched.erase e ∧ s'.host.dmaTimeouts = s.host.dmaTimeouts + 1 ∧ Counted s s' .fetchErr ∧
    .cqe 0 s.qp[(0 : QpId)].cqTail (cplEntry (entryTag e) .fault 2 false 0 false 0 0 s.qp[(0 : QpId)].sqHead s.qp[(0 : QpId)].cqPhase) ∈ s'.out) ∧
  (∀ s t, s.live.inserted = true → s.live.quiet = false → s.domOn pdHost = true → s.drained .link = false →
    s.live.insertAt + millis 1 ≤ max s.now t → Answers (exec (.pcieLinkTrainingStart t) s) fun s' =>
    s'.host = { s.host with training := true }) ∧
  (∀ s t, s.host.training = true → s.domOn pdHost = true → s.drained .link = false → s.live.quiet = false →
    Answers (exec (.pcieLinkUp t) s) fun s' =>
    s'.host = { s.host with linkUp := true, lost := false, d3 := false, heartbeatAt := max s.now t })

/-- From R240 to R242, R255: enabling and disabling a queue pair, its two doorbells and the host heartbeat. Each clause says that exec answers a next
state, and what that state holds. Where the spec leaves a point open the model's choice holds: notes/assumptions 1, 105. -/
def Obligations.QueuePairRegistersFollow : Prop :=
  (∀ s t q val, s.hostAccess = true → s.boot.hostReady = true → s.qp[q].enable = false → Answers (exec (.qpEnable t q val) s) fun s' =>
    s'.qp[q].enable = true ∧ s'.qp[q].vector = val.extractLsb' 8 9 ∧ s'.qp[q].irqEnable = val.getLsbD 17 ∧ s'.qp[q].ringLog2 = val.extractLsb' 1 5 ∧
    ((q ≠ 1 ∧ s.qp[q].sqBase.toNat % 4096 ≠ 0) ∨ s.qp[q].cqBase.toNat % 4096 ≠ 0 → s'.qp[q].st = .error ∧ s'.qp[q].errCode = 1) ∧
    (q = 1 ∨ s.qp[q].sqBase.toNat % 4096 = 0 → s.qp[q].cqBase.toNat % 4096 = 0 → (val.extractLsb' 1 5).toNat < 6 ∨ 16 < (val.extractLsb' 1 5).toNat →
      s'.qp[q].st = .error ∧ s'.qp[q].errCode = 2) ∧
    (q = 1 ∨ s.qp[q].sqBase.toNat % 4096 = 0 → s.qp[q].cqBase.toNat % 4096 = 0 → 6 ≤ (val.extractLsb' 1 5).toNat → (val.extractLsb' 1 5).toNat ≤ 16 →
      s'.qp[q].st = .active ∧ s'.qp[q].sqHead = 0 ∧ s'.qp[q].sqTail = 0 ∧ s'.qp[q].cqTail = 0 ∧ s'.qp[q].cqHead = 0 ∧ s'.qp[q].cqPhase = true ∧
      s'.qp[q].fetched = [] ∧ s'.qp[q].bufs = [] ∧ s'.host.lost = false ∧
      (q = 1 → s.host.returnDue = true → s'.host.returnDue = false ∧ s'.host.lossDropped = 0 ∧ s'.host.returnEv.isSome = true))) ∧
  (∀ s t q val, s.hostAccess = true → s.qp[q].enable = true → Answers (exec (.qpDisable t q val) s) fun s' =>
    s'.qp[q].enable = false ∧ s'.qp[q].bufs = [] ∧ s'.qp[q].rxFetched = [] ∧
    (s.qp[q].st = .active → s.qp[q].fetched = [] → s'.qp[q].st = .disabled) ∧
    (s.qp[q].st = .active → s.qp[q].fetched ≠ [] → s'.qp[q].st = .active ∧ s'.qp[q].fetched = s.qp[q].fetched) ∧
    (s.qp[q].st ≠ .active → s'.qp[q].st = .disabled)) ∧
  (∀ s t q val, s.hostAccess = true → Answers (exec (.sqTailDoorbell t q val) s) fun s' =>
    (s.qp[q].st = .active → s.qp[q].enable = true → q ≠ 1 → val.toNat < s.qp[q].size → val.toNat < 65536 →
      s'.qp[q] = { s.qp[q] with sqTail := val.toNat }) ∧
    (s.qp[q].st = .active → s.qp[q].enable = true → q ≠ 1 → s.qp[q].size ≤ val.toNat → s'.qp[q].st = .error ∧ s'.qp[q].errCode = 3 ∧
      s'.qp[q].sqTail = s.qp[q].sqTail ∧ Counted s s' .dbInvalid) ∧
    (s.qp[q].st ≠ .active ∨ q = 1 → s'.qp = s.qp ∧ Counted s s' .dbDropped)) ∧
  (∀ s t q val, s.hostAccess = true → Answers (exec (.cqHeadDoorbell t q val) s) fun s' =>
    (s.qp[q].st = .active → s.qp[q].enable = true → val.toNat < s.qp[q].size → val.toNat < 65536 → s.qp[q].cqSpan val.toNat ≤ s.qp[q].cqSpan s.qp[q].cqTail →
      s'.qp[q] = { s.qp[q] with cqHead := val.toNat }) ∧
    (s.qp[q].st = .active → s.qp[q].enable = true → s.qp[q].size ≤ val.toNat ∨ s.qp[q].cqSpan s.qp[q].cqTail < s.qp[q].cqSpan val.toNat →
      s'.qp[q].st = .error ∧ s'.qp[q].errCode = 3 ∧ s'.qp[q].cqHead = s.qp[q].cqHead ∧ Counted s s' .dbInvalid) ∧
    (s.qp[q].st ≠ .active → s'.qp = s.qp ∧ Counted s s' .dbDropped)) ∧
  (∀ s t val, s.hostAccess = true → Answers (exec (.hostHeartbeat t val) s) fun s' =>
    s'.host = { s.host with heartbeat := val, heartbeatAt := max s.now t })

/-- From R7 to R11, R238, R253, R254: interrupt enables, unmasking and writes to the host's windows. Each clause says that exec answers a next state, and
what that state holds. Where the spec leaves a point open the model's choice holds: notes/assumptions 1, 22, 110, 111. -/
def Obligations.InterruptAndWindowWritesFollow : Prop :=
  (∀ s t val, s.hostAccess = true → Answers (exec (.intEnableWrite t val) s) fun s' =>
    s'.host.intEnable = val.setWidth 8 ∧ s'.host.intCause = s.host.intCause ∧
    (s.host.msixEnable = true → s.host.busMaster = true → s.host.lost = false → s.host.funcMask = false → s.host.sent.1 ≠ max s.now t → ∀ k : Fin 8,
      val.getLsbD k = true → s.host.intEnable.getLsbD k = false → s.host.intCause.getLsbD k = true → s.host.msix[s.host.causeVec[k].toFin].mask = false →
      .msix s.host.causeVec[k].toNat ∈ s'.out)) ∧
  (∀ s t v, s.hostAccess = true → Answers (exec (.msixUnmask t v) s) fun s' =>
    s'.host.msix[v].mask = false ∧ (s.host.funcMask = true → s'.host.msix[v].pend = s.host.msix[v].pend) ∧
    (s.host.funcMask = false → s'.host.msix[v].pend = false) ∧
    (s.host.funcMask = false → s.host.msix[v].pend = true → s.host.msixEnable = true → s.host.busMaster = true → s.host.lost = false →
      s.host.sent.1 ≠ max s.now t → s'.out = .msix v.val :: s.out)) ∧
  (∀ s t val, s.hostAccess = true → Answers (exec (.registerWrite t 0 0x1008 4 val) s) fun s' =>
    (val.toNat % 65536 = 0 ∨ (10 ≤ val.toNat % 65536 ∧ val.toNat % 65536 ≤ 60000) → s'.host.wdogMs = val.toNat % 65536) ∧
    (0 < val.toNat % 65536 → val.toNat % 65536 < 10 ∨ 60000 < val.toNat % 65536 → s'.host = s.host)) ∧
  (∀ s t val, s.hostAccess = true → Answers (exec (.registerWrite t 0 0x4000 4 val) s) fun s' =>
    s'.host = { s.host with intCause := s.host.intCause &&& ~~~(val.setWidth 8) }) ∧
  (∀ s t (q : QpId) val, s.hostAccess = true → s.qp[q].enable = false → Answers (exec (.registerWrite t 0 (0x2000 + 32 * q.val) 8 val) s) fun s' =>
    s'.qp[q].sqBase = val) ∧
  (∀ s t (q : QpId) val, s.hostAccess = true → s.qp[q].enable = false → Answers (exec (.registerWrite t 0 (0x2008 + 32 * q.val) 8 val) s) fun s' =>
    s'.qp[q].cqBase = val) ∧
  (∀ s t off width val, s.hostAccess = true → width ≠ 0 → off % width ≠ 0 ∨ off < 0x1000 ∨ (width ≠ 4 ∧ width ≠ 8) →
    Answers (exec (.registerWrite t 0 off width val) s) fun s' => s' = s.at t) ∧
  (∀ s t bar off width val, s.hostAccess = false → bar ≠ 6 → Answers (exec (.registerWrite t bar off width val) s) fun s' => s' = s.at t)

/-- From R243 to R252: entries are fetched, completions are written and fetch or completion errors stop a queue pair. Each clause says that exec answers
a next state, and what that state holds. Where the spec leaves a point open the model's choice holds: notes/assumptions 1, 100, 101, 102, 105. -/
def Obligations.HostRoundsFollow : Prop :=
  (∀ s t (q : QpId) e, s.hostAccess = true → s.drained .link = false → s.host.lost = false → q ≠ 1 → (q = 0 → s.drained .mgmt = false) →
    s.qp[q].mayFetch = true → opAccepted (bitsAt e 0 8) q = true → (bitsAt e 0 8 = 0x40 → commandErr e = none) →
    Answers (exec (.hostLinkRound t [(q, e)]) s) fun s' =>
    s'.qp[q].sqHead = (s.qp[q].sqHead + 1) % s.qp[q].size ∧ .fetch q s.qp[q].sqHead ∈ s'.out ∧
    (bitsAt e 0 8 = 2 → s'.qp[q].rxFetched = s.qp[q].rxFetched ++ [e] ∧ s'.qp[q].fetched = s.qp[q].fetched) ∧
    (bitsAt e 0 8 ≠ 2 → s'.qp[q].fetched = s.qp[q].fetched ++ [e] ∧ s'.qp[q].rxFetched = s.qp[q].rxFetched)) ∧
  (∀ s t e, s.hostAccess = true → s.drained .link = false → s.host.lost = false → s.drained .mgmt = false → s.qp[(1 : QpId)].st = .active →
    s.qp[(1 : QpId)].enable = true → s.qp[(1 : QpId)].cqRoom = true → s.host.returnEv = none → s.host.held = [e] →
    Answers (exec (.hostLinkRound t []) s) fun s' =>
    s'.host.held = [] ∧ .cqe 1 s.qp[(1 : QpId)].cqTail (evtEntry e s.qp[(1 : QpId)].sqHead s.qp[(1 : QpId)].cqPhase) ∈ s'.out) ∧
  (∀ s t entries (q : QpId), q ≠ 1 → (∀ e, e ∈ entries → e.1 ≠ q) → Answers (exec (.hostLinkRound t entries) s) fun s' => s'.qp[q] = s.qp[q]) ∧
  (∀ s t q, s.qp[q].st = .active → Answers (exec (.submissionFetchError t q) s) fun s' =>
    s'.qp[q] = { s.qp[q] with st := .error, errCode := 4, errHist := true } ∧ Counted s s' .fetchErr) ∧
  (∀ s t q, s.qp[q].st = .active → Answers (exec (.cqWriteRefused t q) s) fun s' =>
    s'.qp[q] = { s.qp[q] with st := .error, errCode := 5, errHist := true }) ∧
  (∀ s t q e r, s.qp[q].fetched = e :: r → s.qp[q].st = .active → bitsAt e 0 8 = 3 → Answers (exec (.nop t q) s) fun s' =>
    s'.qp[q].fetched = r ∧ ∀ st : Status, (st = .ok ↔ bitsAt e 8 8 = 0 ∧ bitsAt e 32 224 = 0) → (st = .ok ∨ st = .invalid) →
      .cqe q s.qp[q].cqTail (cplEntry (entryTag e) st 4 false 0 false 0 0 s.qp[q].sqHead s.qp[q].cqPhase) ∈ s'.out)

/-- From R244 to R254, R373: frames leave and arrive through a queue pair, buffers are posted, moderated messages are sent and check results latched.
Each clause says that exec answers a next state, and what that state holds. Where the spec leaves a point open the model's choice holds:
notes/assumptions 1, 103, 104, 133. -/
def Obligations.HostFramesAndMessagesFollow : Prop :=
  (∀ s t q dma e, s.qp[q].st = .active → s.switching = true → (s.qp[q].fetched.find? fun e => bitsAt e 0 8 == 1) = some e →
    Answers (exec (.txFrame t q dma) s) fun s' =>
    (∀ st, s.txErr e = some st → s'.qp[q].fetched = s.qp[q].fetched.erase e ∧ s'.hold = s.hold ∧
      .cqe q s.qp[q].cqTail (cplEntry (entryTag e) st 0 false 0 false 0 noCtx s.qp[q].sqHead s.qp[q].cqPhase) ∈ s'.out) ∧
    (s.txErr e = none → dma = .error → s'.qp[q].fetched = s.qp[q].fetched.erase e ∧ s'.hold = s.hold ∧ Counted s s' .fetchErr ∧
      .cqe q s.qp[q].cqTail (cplEntry (entryTag e) .fault 0 false 0 false 0 noCtx s.qp[q].sqHead s.qp[q].cqPhase) ∈ s'.out) ∧
    (s.txErr e = none → dma = .timeout → s'.hold = s.hold ∧ Counted s s' .fetchErr ∧
      .cqe q s.qp[q].cqTail (cplEntry (entryTag e) .fault 0 false 0 false 0 noCtx s.qp[q].sqHead s.qp[q].cqPhase) ∈ s'.out) ∧
    (∀ b u (r : RouteEnd), s.txErr e = none → dma = .data b → (s.at t).dmaEnded.txAdmit e (readBytes (bitsAt e 32 14) b) = (u, r) →
      s'.qp[q].fetched = s.qp[q].fetched.erase e ∧ s'.hold = u.hold ∧
      .cqe q s.qp[q].cqTail (cplEntry (entryTag e) r.tx.1 0 false 0 false 0 r.tx.2 s.qp[q].sqHead s.qp[q].cqPhase) ∈ s'.out)) ∧
  (∀ s t q e r, s.qp[q].rxFetched = e :: r → s.qp[q].st = .active → Answers (exec (.rxBuf t q) s) fun s' =>
    s'.qp[q].rxFetched = r ∧
    (bitsAt e 8 8 ≠ 0 ∨ bitsAt e 47 17 ≠ 0 ∨ bitsAt e 128 128 ≠ 0 ∨ bitsAt e 64 6 ≠ 0 → s'.qp[q].bufs = s.qp[q].bufs ∧
      .cqe q s.qp[q].cqTail (cplEntry (entryTag e) .invalid 1 false 0 false 0 0 s.qp[q].sqHead s.qp[q].cqPhase) ∈ s'.out) ∧
    (bitsAt e 8 8 = 0 → bitsAt e 47 17 = 0 → bitsAt e 128 128 = 0 → bitsAt e 64 6 = 0 → bitsAt e 32 15 < 256 ∨ 16384 < bitsAt e 32 15 ∨
      bitsAt e 32 15 % 256 ≠ 0 → s'.qp[q].bufs = s.qp[q].bufs ∧
      .cqe q s.qp[q].cqTail (cplEntry (entryTag e) .range 1 false 0 false 0 0 s.qp[q].sqHead s.qp[q].cqPhase) ∈ s'.out) ∧
    (bitsAt e 8 8 = 0 → bitsAt e 47 17 = 0 → bitsAt e 128 128 = 0 → bitsAt e 64 6 = 0 → 256 ≤ bitsAt e 32 15 → bitsAt e 32 15 ≤ 16384 →
      bitsAt e 32 15 % 256 = 0 →
      s'.qp[q].bufs = s.qp[q].bufs ++ [⟨BitVec.ofNat 16 (entryTag e), bitsAt e 32 15, BitVec.ofNat 64 (bitsAt e 64 64)⟩])) ∧
  (∀ s t (q : QpId) f b r, s.qp[q].st = .active → s.qp[q].enable = true → s.switching = true → s.drained .link = false →
    (s.hold.frames.find? fun f => f.dstKind == 2 && f.dstIdx == q.val) = some f → s.qp[q].bufs = b :: r → f.len ≤ b.len →
    s.hold.chan[f.chan].st = .active ∨ s.hold.chan[f.chan].st = .draining → s.frameCrcOk f = true → Answers (exec (.rxFrameDeliver t q) s) fun s' =>
    s'.qp[q].bufs = r ∧ s'.hold.frames = (s.hold.frames.filter fun x => x.no != f.no) ∧ .rxData q b ((s.framePayload f).take f.len) ∈ s'.out ∧
    .cqe q s.qp[q].cqTail (cplEntry b.tag.toNat .ok 1 true f.tclass true f.len (rxInfo f (((s.ctx? f.ctx).map (·.ctxSel)).getD 0))
      s.qp[q].sqHead s.qp[q].cqPhase) ∈ s'.out) ∧
  (∀ s t (q : QpId) f, s.qp[q].st = .active → s.qp[q].enable = true → s.switching = true → s.drained .link = false →
    (s.hold.frames.find? fun f => f.dstKind == 2 && f.dstIdx == q.val) = some f → takeBufs s.qp[q].bufs f.len = none →
    Answers (exec (.rxFrameDeliver t q) s) fun s' => s' = s.at t) ∧
  (∀ s t q c, s.qp[q].modSince = some c → s.qp[q].irqEnable = true → c + micros s.qp[q].holdoff.toNat ≤ max s.now t →
    Answers (exec (.irqModerationExpiry t q) s) fun s' =>
    s'.qp[q] = { s.qp[q] with modCount := 0, modSince := none } ∧
    (s.host.linkUp = true → s.host.d3 = false → s.host.msixEnable = true → s.host.busMaster = true → s.host.lost = false → s.host.funcMask = false →
      s.host.msix[s.qp[q].vector.toFin].mask = false → s.host.sent.1 ≠ max s.now t → s'.out = .msix s.qp[q].vector.toNat :: s.out)) ∧
  (∀ s t u, Answers (exec (.chkResultLatch t u false) s) fun s' =>
    s'.out = .readData (BitVec.ofNat 64 (s.chk[u].result % 2 ^ 32)) :: s.out ∧ s'.chk[u] = { s.chk[u] with hiResult := s.chk[u].result / 2 ^ 32 }) ∧
  (∀ s t u, Answers (exec (.chkResultLatch t u true) s) fun s' =>
    s'.out = .readData (BitVec.ofNat 64 (s.chk[u].lastBad % 2 ^ 32)) :: s.out ∧ s'.chk[u] = { s.chk[u] with hiBad := s.chk[u].lastBad / 2 ^ 32 })

/-- From R368 to R372, R383, R389, R404, R405: items of check units, the entropy source, the end of a previous key and an enrolment. Each clause says
that exec answers a next state, and what that state holds. Where the spec leaves a point open the model's choice holds: notes/assumptions 1, 137, 150,
151, 161, 163. -/
def Obligations.ChecksAndKeysFollow : Prop :=
  (∀ s t u fits, s.chk[u].busy = true → Answers (exec (.checkItemStart t u fits) s) fun s' => s' = s.at t) ∧
  (∀ s t u fits v, s.chk[u].busy = false → (s.at t).chkBoundary u = v → v.fbool .chkEnable u = true → v.domOn pdMgmt = true →
    Answers (exec (.checkItemStart t u fits) s) fun s' =>
    (fits = true → s'.chk[u] = { v.chk[u] with busy := true, skip := false } ∧ s'.stats = v.stats) ∧
    (fits = false → s'.chk[u] = { v.chk[u] with skip := true } ∧ Counted v s' .chkSkipped u ∧ s'.stat .chkSkipHist u = 1)) ∧
  (∀ s t u tag bytes reg res want, s.chk[u].busy = true → s.fbool .chkEnable u = true → s.chkItem u tag.toNat bytes = (reg, res, want) →
    Answers (exec (.checkItemEnd t u tag bytes true) s) fun s' =>
    s'.chk[u].result = res ∧ s'.chk[u].number = s.chk[u].number + 1 ∧ s'.chk[u].busy = false ∧ Counted s s' .chkItems u ∧
    s'.chk[u].reg = (if s.fbool .chkScope u then reg else s.chk[u].reg) ∧
    (want = none → s'.chk[u].mismatch = s.chk[u].mismatch ∧ s'.stat .chkMismatches u = s.stat .chkMismatches u) ∧
    (want = some res → s'.chk[u].mismatch = false ∧ s'.stat .chkMismatches u = s.stat .chkMismatches u) ∧
    (∀ e, want = some e → e ≠ res → s'.chk[u].mismatch = true ∧ Counted s s' .chkMismatches u ∧ s'.stat .chkMismatchHist u = 1 ∧
      s'.host.intCause.getLsbD 1 = true)) ∧
  (∀ s t u tag bytes, s.chk[u].busy = true → Answers (exec (.checkItemEnd t u tag bytes false) s) fun s' =>
    s'.chk[u].busy = false ∧ s'.chk[u].result = s.chk[u].result ∧ s'.chk[u].mismatch = s.chk[u].mismatch ∧ Counted s s' .chkAbandoned u) ∧
  (∀ s t, Answers (exec (.rngHealthFail t) s) fun s' => s'.sec = { s.sec with rngFailed := true } ∧ Counted s s' .rngFail) ∧
  (∀ s t pass, s.sec.rngFailed = true → Answers (exec (.entropySourceRetry t pass) s) fun s' =>
    (pass = true → s'.sec = { s.sec with rngFailed := false } ∧ s'.stats = s.stats) ∧ (pass = false → s'.sec = s.sec ∧ Counted s s' .rngFail)) ∧
  (∀ s t k a, s.sec.fabPrev = some (k, a) → Answers (exec (.previousKeyRetentionEnd t true) s) fun s' =>
    (a + s.fnat .fabPrevDays 0 * seconds 86400 ≤ max s.now t → s'.sec = { s.sec with fabPrev := none }) ∧
    (max s.now t < a + s.fnat .fabPrevDays 0 * seconds 86400 → s'.sec = s.sec)) ∧
  (∀ s t k a, s.sec.rootPrev = some (k, a) → Answers (exec (.previousKeyRetentionEnd t false) s) fun s' =>
    (a + s.fnat .rootPrevDays 0 * seconds 86400 ≤ max s.now t → s'.sec = { s.sec with rootPrev := none }) ∧
    (max s.now t < a + s.fnat .rootPrevDays 0 * seconds 86400 → s'.sec = s.sec)) ∧
  (∀ s t k, s.sec.enrolling = some k → Answers (exec (.attEnrollDone t) s) fun s' =>
    s'.sec.attSlot = k ∧ s'.sec.attIndex = none ∧ s'.sec.enrolling = none ∧ s'.sec.attExhausted = false ∧
    (s.sec.attLeft s.sec.attSlotIdx = true → s'.sec.sigTimes = max s.now t :: s.sec.sigTimes) ∧
    (s.sec.attLeft s.sec.attSlotIdx = false → s'.sec.sigTimes = s.sec.sigTimes ∧ s'.out = s.out))

/-- From R410 to R414, R419, R420, R35, R275: insertion, service, removal quiet and the return of regions. Each clause says that exec answers a next
state, and what that state holds. Where the spec leaves a point open the model's choice holds: notes/assumptions 1, 31, 164, 165. -/
def Obligations.InsertionAndReturnsFollow : Prop :=
  (∀ s t, Answers (exec (.insertNAsserted t) s) fun s' =>
    (s.live.inserted = false → s'.live = { s.live with inserted := true, insertAt := max s.now t }) ∧
    (s.live.inserted = true → s'.live = s.live)) ∧
  (∀ s t, s.boot.configAuth = true → s.live.inserted = true → s.live.quiet = false → Answers (exec (.serviceBringUp t) s) fun s' =>
    s'.live.insertedDue = true ∧
    (∀ k, k = pdEth ∨ k = pdFab ∨ k = pdSense → s.domSt k = .off → s.powerFree k = true → s.depsOn k = true → s.domDieLost k = false →
      s'.domSt k = .ramp)) ∧
  (∀ s t, s.live.insertedDue = true → (∀ b, s.berthServes b = true) → Answers (exec (.evInserted t) s) fun s' =>
    s'.live.insertedDue = false ∧ s'.host.evSeq = s.host.evSeq + 1) ∧
  (∀ s t, s.live.quiet = false → Answers (exec (.removalQuiet t) s) fun s' =>
    s'.live.inserted = false ∧ s'.live.quiet = true ∧ s'.host.alarm = true ∧ s'.host.linkUp = false ∧ s'.host.training = false ∧
    s'.host.lost = true ∧ s'.stat .removeHist = 1 ∧ (∀ p : EthId, s'.eth[p].st = .down) ∧ (∀ l : LinkId, s'.fab.link[l].st = .down)) ∧
  (∀ s t, s.live.quiet = true → Answers (exec (.removalQuiet t) s) fun s' => s' = { s.at t with live := { s.live with inserted := false } }) ∧
  (∀ s t, s.live.quiet = true → s.live.inserted = true → s.live.insertAt + seconds 1 ≤ max s.now t → Answers (exec (.removalQuietEnd t) s) fun s' =>
    s'.live.quiet = false ∧ (s.host.alarms = [] → s'.host.alarm = false) ∧ (s.boot.configAuth = true → s'.live.insertedDue = true)) ∧
  (∀ s t, s.drained .switch = true → s.region[Region.switch.idx].since + millis 200 ≤ max s.now t → Answers (exec (.slipwayTimeout t .switch) s) fun s' =>
    s'.drained .switch = false ∧ s'.host.evSeq = s.host.evSeq + 1) ∧
  (∀ s t d, s.drained .mgmt = true → s.region[Region.mgmt.idx].since + seconds 2 ≤ max s.now t → s.boot.dir = some d →
    Answers (exec (.slipwayTimeout t .mgmt) s) fun s' =>
    s'.drained .mgmt = false ∧ s'.live.mgmtRestart = false ∧ s'.boot.fwSlot = d.active ∧ s'.boot.trial = false) ∧
  (∀ s t r, s.drained r = true → s.region[r.idx].returnMs ≠ 0 → s.region[r.idx].since + millis s.region[r.idx].returnMs ≤ max s.now t →
    (r = .mgmt → s.region[r.idx].done = true) → r ≠ .store → r ≠ .sec → Answers (exec (.regionAutoReturn t r) s) fun s' => s'.drained r = false)

/-- From R143 to R152, R169, R457: beacon boundaries, listening, clashes, allocations, acknowledgement tails and contention on a berth. Each clause says
that exec answers a next state, and what that state holds. Where the spec leaves a point open the model's choice holds: notes/assumptions 1, 60, 61,
65, 66, 76. -/
def Obligations.BoundariesAndAllocationsFollow : Prop :=
  (∀ s t (b : Berth) plan, s.coordinates b = true → (s.line[b].grid = .on ∨ ∃ t0, s.line[b].grid = .starting t0 ∧ t0 ≤ max s.now t) →
    Answers (exec (.beaconBoundary t b plan) s) fun s' =>
    s'.line[b].grid = .on ∧ s'.line[b].counted = true ∧ s'.line[b].periodAt = max s.now t ∧
    s'.line[b].bpc = (if s.line[b].counted then s.line[b].bpc + 1 else s.line[b].bpc) ∧
    (∀ u, s.line[b].grid = .on → (s.at t).boundary b = u → u.line[b].relisten = none → u.silent b = false → u.mayDrive b = true → u.line[b].kDom ≠ none →
      Counted u s' .beaconsSent b ∧ ∃ fc pay, .lineFrame b fc pay ∈ s'.out)) ∧
  (∀ s t (b : Berth) heard since, s.stopped b = false → s.coordinates b = true → s.line[b].grid = .listening since →
    since + 2 * s.periodNs b ≤ max s.now t → s.line[b].kDom ≠ none ∨ s.sec.rngFailed = false → Answers (exec (.domainListenEnd t b heard) s) fun s' =>
    (heard.any (fun h => h.own) = true → s'.line[b].grid = .clashWait (max s.now t) ∧ s'.stat .clashHist b = 1 ∧ s'.host.evSeq = s.host.evSeq + 1) ∧
    (heard.any (fun h => h.own) = false → s'.line[b].grid = .starting ((s.at t).newT0 b) ∧ s'.line[b].kDom.isSome = true)) ∧
  (∀ s t (b : Berth) since, s.line[b].grid = .clashWait since → since + 64 * s.periodNs b ≤ max s.now t → s.stopped b = false →
    Answers (exec (.domainClashWaitEnd t b) s) fun s' => s'.line[b].grid = .listening (max s.now t)) ∧
  (∀ s t (b : Berth) idx side a t0, (s.at t).allocAt b idx = some (side, a, t0) → Answers (exec (.allocationStart t b idx) s) fun s' =>
    s'.line[b].alloc = some idx ∧ s'.berth[b].ocStop = false ∧ s'.berth[b].supplyStop = false ∧ s'.berth[b].silentAlloc = false ∧
    s'.berth[b].hsLost = false ∧ (s.silent b = true → s'.berth[b].tx = none ∧ s'.out = s.out) ∧
    (side = false → a.kind = 7 → s.silent b = false → s.boot.configAuth = true → s.berth[b].heldOff = false → s.berth[b].hot = false →
      s.live.drvLow = false → s.live.drvHigh = false → s.live.badRails = [] →
      s.berth[b].cancel = .untrained ∨ s.berth[b].cancel = .tracking ∨ s.berth[b].cancel = .fallback →
      s'.berth[b].cancel = .training ∧ s'.berth[b].trainDue = false ∧ s'.out = .lineTraining b :: s.out)) ∧
  (∀ s t (b : Berth) idx a t0 c, (s.at t).allocAt b idx = some (false, a, t0) → a.kind = 0 → a.dst = 0 → a.src ≠ 0 →
    (s.ctxs.find? fun c => c.berth == b && c.station == a.src && c.ctxSel == 0) = some c → c.id ≠ noCtx → s.ctx? c.id = some c →
    c.frameKey s.line[b].keyGen ≠ none → (∃ e, (a.src, e) ∈ s.line[b].acks) → Answers (exec (.ackTailStart t b idx) s) fun s' =>
    s'.line[b].acks = (s.line[b].acks.filter fun x => x.1 != a.src) ∧ (s.mayDrive b = true → ∃ fc pay, s'.out = .lineFrame b fc pay :: s.out)) ∧
  (∀ s t (b : Berth) busy a t0, (s.at t).curAlloc b = some (true, a, t0) → s.mayDrive b = true → s.berth[b].tx = none →
    (a.kind = 5 ∧ s.wantsJoin b = true) ∨ ((a.kind = 3 ∨ a.kind = 4) ∧ s.line[b].st.joined = true ∧ s.line[b].attempts < 7 ∧ s.contends b a.kind = true) →
    Answers (exec (.contentionSlot t b busy) s) fun s' =>
    (∀ n, s.line[b].backoff = some (n + 1) → busy = false → s.line[b].busyUntil ≤ max s.now t → s'.line[b].backoff = some n ∧ s'.out = s.out) ∧
    (∀ n, s.line[b].backoff = some n → busy = true → s'.line[b].backoff = some n ∧ s'.out = s.out) ∧
    (s.line[b].backoff = none → busy = true → ∃ n, s'.line[b].backoff = some n ∧ n < s'.line[b].cw ∧ s'.entropyCtr = s.entropyCtr + 1) ∧
    (a.kind = 5 → s.line[b].backoff = some 0 → busy = false → s.line[b].busyUntil ≤ max s.now t → s'.line[b].backoff = none ∧
      s'.line[b].st.reqBpc = some s.line[b].st.bpcNow ∧ ∃ fc pay, s'.out = .lineFrame b fc pay :: s.out))

/-- From R149, R152, R154 to R156, R160, R170, R171: acknowledgements, time transfer, beacons received and the loss of a coordinator on a berth. Each
clause says that exec answers a next state, and what that state holds. Where the spec leaves a point open the model's choice holds: notes/assumptions
1, 54, 62, 66, 75, 80. -/
def Obligations.AcknowledgementsTimeAndBeaconsFollow : Prop :=
  (∀ s t (b : Berth) ctx bytes e f, parseAck bytes = some [e] →
    (s.hold.frames.find? fun (f : Frame) => f.dstKind == 0 && f.dstIdx == b.val && f.sent && (f.role == 2) == (ctx == noCtx) &&
      (f.line.map fun (c : FrameCtl) => c.seq == e.seq && c.ctxSel == e.ctxSel && (ctx == noCtx || c.dst == s.msgTarget ctx)).getD false) = some f →
    Answers (exec (.ackRx t b ctx bytes) s) fun s' =>
    (e.delivered = true → s'.hold.frames = s.hold.frames.filter fun x => x.no != f.no) ∧
    (e.delivered = false → s'.hold.frames = s.hold.frames.map fun x => if x.no = f.no then { f with cwOk := f.cwOk ||| e.cwOk } else x)) ∧
  (∀ s t b ctx bytes, Answers (exec (.ackRx t b ctx bytes) s) fun s' =>
    s'.hold.mem = s.hold.mem ∧ s'.stats = s.stats ∧ ∀ f, f ∈ s'.hold.frames → ∃ g, g ∈ s.hold.frames ∧ g.no = f.no) ∧
  (∀ s t (b : Berth) ctx t2 a t0 c fc k u, (s.at t).curAlloc b = some (false, a, t0) → s.ctx? ctx = some c → a.kind = 6 → a.src = c.station → c.berth = b →
    (s.at t).msgFc b ctx 4 = some (fc, k, u) → Answers (exec (.ttReq t b ctx t2) s) fun s' =>
    (∀ x, x ∈ s'.ctxs → x.berth = b → x.station = c.station → x.dirty = true) ∧ (s.mayDrive b = true → ∃ h pay, s'.out = .lineFrame b h pay :: s.out)) ∧
  (∀ s t (b : Berth) payload t4 t1, payload.length = 23 → payload.headD 0 = 2 → s.line[b].st.t1 = some t1 → Answers (exec (.ttResp t b payload t4) s) fun s' =>
    ∀ t2 t3 : Int, t2 = ((bitsAt payload 8 48 * 1000000000 + bitsAt payload 56 32 : Nat) : Int) →
      t3 = ((bitsAt payload 88 48 * 1000000000 + bitsAt payload 136 32 : Nat) : Int) →
      s'.line[b].st.t1 = none ∧ s'.line[b].st.delta = Config.roundDiv ((t4 - t1) - (t3 - t2)) 2 ∧
      s'.line[b].st.theta = Config.roundDiv ((t2 - t1) + (t3 - t4)) 2) ∧
  (∀ s t (b : Berth) bytes, s.fnat .role b = 1 ∨ s.fnat .role b = 2 → parseBeacon bytes = none → Answers (exec (.beaconRx t b bytes) s) fun s' =>
    Counted s s' .bcnInvalid b ∧ s'.line = s.line) ∧
  (∀ s t (b : Berth) bytes k, s.fnat .role b = 1 ∨ s.fnat .role b = 2 → parseBeacon bytes = some k → k.tag = s.fnat .ferryTag b →
    Answers (exec (.beaconRx t b bytes) s) fun s' =>
    (s.line[b].st.joined = false → s'.line[b].st.lastBpc = some k.bpc ∧ s'.line[b].st.beacons = s.line[b].st.beacons + 1 ∧ s'.line[b].st.nPeriod = k.n ∧
      s'.line[b].st.periodAt = max s.now t) ∧
    (∀ key, s.line[b].st.joined = true → s.line[b].st.domKey k.gen = some key →
      (∀ p, s.line[b].st.lastBpc = some p → newer 32 k.bpc.toNat p.toNat = true) →
      if beaconTag key k.gen k.bpc.toNat k.tag (bytes.take (bytes.length - 16)) = bytes.drop (bytes.length - 16) then
        (s'.line[b].st.lastBpc = some k.bpc ∧ s'.line[b].st.map = k.allocs ∧ s'.line[b].st.periodAt = max s.now t)
      else (Counted s s' .bcnInvalid b ∧ s'.line = s.line)) ∧
    (∀ p, s.line[b].st.joined = true → s.line[b].st.lastBpc = some p → newer 32 k.bpc.toNat p.toNat = false →
      Counted s s' .bcnInvalid b ∧ s'.line = s.line)) ∧
  (∀ s t (b : Berth), s.line[b].st.joined = true → 8 ≤ (s.at t).stElapsed b → Answers (exec (.coordLost t b) s) fun s' =>
    s'.line[b].st = {} ∧ s'.mesh[b].fwd = [] ∧ s'.mesh[b].own = none ∧ s'.mesh[b].map = none ∧ s'.stat .coordLostHist b = 1)

/-- From R113 to R118, R167, R168: tone maps received and issued, key rolls by age and their messages. Each clause says that exec answers a next state,
and what that state holds. Where the spec leaves a point open the model's choice holds: notes/assumptions 1, 48, 49, 50, 51, 67. -/
def Obligations.ToneMapsAndKeyRollsFollow : Prop :=
  (∀ s t (b : Berth) link bytes, Answers (exec (.toneMap t b link bytes) s) fun s' =>
    (bytes.headD 0 = 0x09 → toneMapOk (s.emission b) (bytes.drop 1) = true →
      newer 32 (parseToneMap (bytes.drop 1)).validFrom.toNat (s.line[b].bpcOf (decide (4096 ≤ link))).toNat = true →
      ((parseToneMap (bytes.drop 1)).validFrom - s.line[b].bpcOf (decide (4096 ≤ link))).toNat ≤ 256 →
      ∃ y, y ∈ s'.berth[b].maps ∧ y.station = link ∧ y.held.head? = some (parseToneMap (bytes.drop 1))) ∧
    (bytes.headD 0 ≠ 0x09 ∨ toneMapOk (s.emission b) (bytes.drop 1) = false ∨
      newer 32 (parseToneMap (bytes.drop 1)).validFrom.toNat (s.line[b].bpcOf (decide (4096 ≤ link))).toNat = false ∨
      256 < ((parseToneMap (bytes.drop 1)).validFrom - s.line[b].bpcOf (decide (4096 ≤ link))).toNat →
      Counted s s' .tmInvalid b ∧ s'.berth = s.berth)) ∧
  (∀ s t (b : Berth) link snr u entries rate, (s.at t).releaseAt .toneMap b = u →
    loadBits (u.emission b) (u.fnat .rateMask b) (u.fnat .loadMargin b) (u.fnat .maxBits b) (snr.map Int.ofNat) = (entries, rate) →
    Answers (exec (.toneMapIssue t b link snr) s) fun s' =>
    ((s.berth[b].maps.find? fun (m : LinkMaps) => m.station == link) = none → ∃ y m, y ∈ s'.berth[b].maps ∧ y.station = link ∧ y.issued = [m] ∧ m.id = 1 ∧
      m.entries = entries ∧ m.rate = rate ∧ m.bits = entries.sum ∧ y.lastIssue = some (s.line[b].bpcOf (decide (4096 ≤ link)))) ∧
    (∀ y, (s.berth[b].maps.find? fun (m : LinkMaps) => m.station == link) = some y → y.lastIssue = some (s.line[b].bpcOf (decide (4096 ≤ link))) →
      s'.berth = s.berth)) ∧
  (∀ s t (b : Berth) ctx c k, s.ctx? ctx = some c → c.berth = b → s.line[b].rolling = true → s.drained .mgmt = false → s.line[b].kDomNext = some k →
    Answers (exec (.rekey t b ctx []) s) fun s' =>
    s'.line[b].msgs = s.line[b].msgs ++ [(c.id, List.flatten [[0x07], (Config.entropy s.entropyCtr).take 16, k])] ∧ s'.entropyCtr = s.entropyCtr + 1) ∧
  (∀ s t (b : Berth) ctx bytes, bytes.length = 49 → bytes.headD 0 = 0x07 → s.line[b].st.joined = true → Answers (exec (.rekey t b ctx bytes) s) fun s' =>
    s'.line[b].st.kDomNext = some (bytes.drop 17) ∧
    s'.line[b].st.kSessNext = some (rolledSessionKey s.line[b].st.kSess ((bytes.drop 1).take 16) ((Config.entropy s.entropyCtr).take 16)) ∧
    s'.line[b].msgs = s.line[b].msgs ++ [(noCtx, [0x08] ++ (Config.entropy s.entropyCtr).take 16)]) ∧
  (∀ s t (b : Berth) ctx bytes c dev, s.ctx? ctx = some c → c.rekey = some dev → bytes.length = 17 → bytes.headD 0 = 0x08 → c.berth = b →
    Answers (exec (.rekeyAck t b ctx bytes) s) fun s' =>
    ∀ x, x ∈ s'.ctxs → x.berth = b → x.station = c.station → x.rekey = none ∧ x.kSess = rolledSessionKey c.kSess dev (bytes.drop 1)) ∧
  (∀ s t (b : Berth), s.coordinates b = true → s.line[b].kDom ≠ none → s.line[b].rolling = false → s.drained .mgmt = false → s.sec.rngFailed = false →
    s.line[b].keySince + s.fnat .keyAgeMax b * seconds 86400 ≤ max s.now t → Answers (exec (.keyAgeRoll t b) s) fun s' =>
    s'.line[b].keyNext = (s.line[b].keyGen + 1) % 256 ∧ s'.line[b].keySwitch = s.line[b].bpc + 17 ∧
    s'.line[b].kDomNext = some (Config.entropy s.entropyCtr) ∧ s'.line[b].keyGen = s.line[b].keyGen ∧ s'.host.evSeq = s.host.evSeq + 1)

/-- From R157, R182 to R193: reports of stations, routes, relays and forwarding on the mesh. Each clause says that exec answers a next state, and what
that state holds. Where the spec leaves a point open the model's choice holds: notes/assumptions 1, 83, 85, 86, 87, 88. -/
def Obligations.MeshReportsAndRoutesFollow : Prop :=
  (∀ s t (b : Berth) ctx bytes c, s.ctx? ctx = some c → Answers (exec (.hearReport t b ctx bytes) s) fun s' =>
    (bytes.headD 0 = 0x0A → (bytes.getD 1 0).toNat ≤ 64 → bytes.length = 2 + 3 * (bytes.getD 1 0).toNat →
      ∃ es, s'.line[b].hears.head? = some (c.station, s.line[b].bpc, es) ∧ es.length = (bytes.getD 1 0).toNat) ∧
    (bytes.headD 0 ≠ 0x0A ∨ 64 < (bytes.getD 1 0).toNat ∨ bytes.length ≠ 2 + 3 * (bytes.getD 1 0).toNat → s'.line = s.line)) ∧
  (∀ s t (b : Berth) ctx bytes c, s.ctx? ctx = some c → Answers (exec (.linkReport t b ctx bytes) s) fun s' =>
    (∀ r, parseLinkReport bytes c.station s.line[b].bpc (fun n => n == 0 || !(s.ctxsOf b n).isEmpty) = some [r] →
      s'.mesh[b].links = (putLink s.mesh[b].links r).1 ∧ s'.mesh[b].changed = (s.mesh[b].changed || (putLink s.mesh[b].links r).2) ∧ s'.stats = s.stats) ∧
    (parseLinkReport bytes c.station s.line[b].bpc (fun n => n == 0 || !(s.ctxsOf b n).isEmpty) = none → s'.mesh = s.mesh ∧ Counted s s' .meshInvalid b)) ∧
  (∀ s t (b : Berth) bytes, Answers (exec (.routeSet t b bytes) s) fun s' =>
    (bytes.length ≠ 14 ∨ bytes.headD 0 ≠ 0x0D → s'.mesh = s.mesh ∧ Counted s s' .meshInvalid b) ∧
    (∀ r h, bytes.length = 14 → bytes.headD 0 = 0x0D → s.mesh[b].own = some (r, h) → newer 16 (bitsAt bytes 8 16) r.ver.toNat = false →
      s'.mesh = s.mesh ∧ Counted s s' .routeStale b) ∧
    (bytes.length = 14 → bytes.headD 0 = 0x0D → (∀ r h, s.mesh[b].own = some (r, h) → newer 16 (bitsAt bytes 8 16) r.ver.toNat = true) →
      ∃ r, s'.mesh[b].own = some (r, bitsAt bytes 104 8) ∧ r.ver = BitVec.ofNat 16 (bitsAt bytes 8 16) ∧ r.parent = bitsAt bytes 24 16 ∧
        r.parentRank = bitsAt bytes 40 16 ∧ r.rank = bitsAt bytes 56 16 ∧ r.alt = bitsAt bytes 72 16 ∧ r.altRank = bitsAt bytes 88 16)) ∧
  (∀ s t (b : Berth) bytes, Answers (exec (.relayMap t b bytes) s) fun s' =>
    (parseRelayMap bytes = none → s'.mesh = s.mesh ∧ Counted s s' .meshInvalid b) ∧
    (∀ x, parseRelayMap bytes = some x → s.line[b].st.lastBpc = some x.1 → s'.mesh[b].map = some x ∧ s'.mesh[b].relayFails = 0) ∧
    (∀ x, parseRelayMap bytes = some x → s.line[b].st.lastBpc ≠ some x.1 → s'.mesh = s.mesh ∧ Counted s s' .routeStale b)) ∧
  (∀ s t (b : Berth) fc frame, (parseFc fc).ftype ≠ 0 ∨ (frame.headD 0 ≠ 1 ∧ frame.headD 0 ≠ 2) ∨ frame.length < 45 →
    Answers (exec (.meshHopRx t b fc frame) s) fun s' => s'.mesh = s.mesh ∧ Counted s s' .meshInvalid b) ∧
  (∀ s t (b : Berth) fc frame h, (parseFc fc).ftype = 0 → frame.headD 0 = 1 ∨ frame.headD 0 = 2 → 45 ≤ frame.length →
    meshHdrOk (frame.headD 0 == 2) ((frame.drop 1).take 28) = true → parseMeshHdr ((frame.drop 1).take 28) = h → h.down = false ∨ h.final ≠ s.line[b].st.number →
    Answers (exec (.meshHopRx t b fc frame) s) fun s' =>
    (h.ttl ≤ 1 → s'.mesh = s.mesh ∧ Counted s s' .meshTtlDrop b) ∧
    (∀ r n, 1 < h.ttl → h.relayed = false → h.down = false → s.mesh[b].own = some (r, n) → r.rank < h.rank → Counted s s' .meshFwd b ∧
      ∃ f, s'.mesh[b].fwd = s.mesh[b].fwd ++ [f] ∧ f.next = (if r.parent = 0xFFFF then 0 else r.parent) ∧ f.relayed = false) ∧
    (∀ r n, 1 < h.ttl → h.relayed = false → h.down = false → s.mesh[b].own = some (r, n) → h.rank ≤ r.rank → Counted s s' .meshRankDrop b ∧
      s'.mesh[b].fwd = s.mesh[b].fwd ∧ s'.mesh[b].rankDrop = true) ∧
    (1 < h.ttl → h.relayed = false → h.down = true → Counted s s' .meshFwd b ∧
      ∃ f, s'.mesh[b].fwd = s.mesh[b].fwd ++ [f] ∧ f.next = (if h.srNext = h.srLen then h.final else h.sr.getD h.srNext 0) ∧ f.relayed = false) ∧
    (∀ l, 1 < h.ttl → h.relayed = true → s.mesh[b].map = some l → s.line[b].st.lastBpc = some l.1 → Counted s s' .meshFwd b ∧
      ∃ f, s'.mesh[b].fwd = s.mesh[b].fwd ++ [f] ∧ f.next = relayNext l.2 s.line[b].st.number h ∧ f.relayed = true)) ∧
  (∀ s t (b : Berth) cost, Answers (exec (.parentLinkFail t b cost) s) fun s' =>
    (s.mesh[b].own = none → s'.mesh = s.mesh) ∧
    (∀ r h, s.mesh[b].own = some (r, h) → s'.mesh[b].parentLost = true ∧ s'.mesh[b].reportDue = true ∧ s'.mesh[b].parentFails = 0 ∧
      s'.mesh[b].own = some (if r.alt = 0xFFFF then ({ r with parent := 0xFFFF } : StRoute)
        else { r with parent := r.alt, parentRank := r.altRank, rank := min 65535 (r.altRank + cost), alt := 0xFFFF, altRank := 0xFFFF }, h))) ∧
  (∀ s t (b : Berth) late, (late = fun (f : FwdFrame) => f.relayed && !f.sent && decide (2 ≤ (s.line[b].st.bpcNow - f.bpc).toNat)) →
    Answers (exec (.relayLateDrop t b) s) fun s' =>
    s'.mesh[b].fwd = (s.mesh[b].fwd.filter fun f => !late f) ∧
    s'.stat .relayLate b = min (s.stat .relayLate b + s.mesh[b].fwd.countP late) ((2 ^ Stat.relayLate.desc.bits : Nat) - 1))

/-- From R46, R54, R59, R74, R76, R91 to R96, R110, R138: what a berth receives and sends, symbol by symbol. Each clause says that exec answers a next
state, and what that state holds. Where the spec leaves a point open the model's choice holds: notes/assumptions 1, 53, 54, 63, 64, 71. -/
def Obligations.ReceptionFollows : Prop :=
  (∀ s t (b : Berth) w, Answers (exec (.berthDeadlineMiss t b w) s) fun s' =>
    Counted s s' .dropCount (berthDom b) ∧ s'.stat .dropHist (berthDom b) = 1 ∧
    (∀ n, w = .rxSymbol n → Counted s s' .rxSymLate b ∧ (n = 0 → s'.berth[b].rx = none)) ∧
    (∀ i llrs, w = .codeword i llrs → Counted s s' .cwLate b) ∧
    (w = .txSymbol → Counted s s' .txSymLate b) ∧
    (∀ f, w = .txSymbol → s.berth[b].tx = some f → s'.berth[b].tx = none ∧ s'.berth[b].silentAlloc = true ∧ (f.sym ≠ 0 → .lineAbort b ∈ s'.out)) ∧
    (∀ a, w = .allocation a → Counted s s' .allocUnused b)) ∧
  (∀ s t (b : Berth) syms, Answers (exec (.rxFifoOverflow t b syms) s) fun s' =>
    (syms ≠ [] → s'.stat .rxSymLate b = min (s.stat .rxSymLate b + syms.length) ((2 ^ Stat.rxSymLate.desc.bits : Nat) - 1)) ∧
    (0 ∈ syms → s'.berth[b].rx = none)) ∧
  (∀ s t (b : Berth) p2 level, s.domOn (berthDom b) = true → Answers (exec (.p1Detect t b p2 level) s) fun s' =>
    (p2 = true → s'.berth[b] = { s.berth[b] with gain := gainFor s.berth[b].gain level, gainDrop := false, rx := some {} } ∧ s'.stats = s.stats) ∧
    (p2 = false → s'.berth[b] = { s.berth[b] with rx := none } ∧ Counted s s' .preFalse b)) ∧
  (∀ s t (b : Berth) fc, s.berth[b].rx ≠ none → Answers (exec (.frameControlRx t b fc) s) fun s' =>
    (fcCrcOk fc = false → s'.berth[b].rx = none ∧ Counted s s' .fcCrcErr b) ∧
    (fcCrcOk fc = true → fcRange (parseFc fc) = false → s'.berth[b].rx = none ∧ Counted s s' .fcInvalid b) ∧
    (fcCrcOk fc = true → fcRange (parseFc fc) = true → s.knownTag b (parseFc fc) = false ∨ s.fcSide b (parseFc fc) = none →
      s'.berth[b].rx = none ∧ s'.stats = s.stats) ∧
    (∀ side f, parseFc fc = f → fcCrcOk fc = true → fcRange f = true → s.knownTag b f = true → s.fcSide b f = some side → f.mode = 0 →
      ((s.berth[b].maps.find? fun (m : LinkMaps) => m.station == mapKey side f.src).any fun (m : LinkMaps) => m.issued.any fun (y : ToneMap) => y.id == f.tmId) = false →
      s'.berth[b].rx = none ∧ Counted s s' .tmUnknown b) ∧
    (∀ side f, parseFc fc = f → fcCrcOk fc = true → fcRange f = true → s.knownTag b f = true → s.fcSide b f = some side →
      (f.mode = 0 → ((s.berth[b].maps.find? fun (m : LinkMaps) => m.station == mapKey side f.src).any fun (m : LinkMaps) => m.issued.any fun (y : ToneMap) => y.id == f.tmId) = true) →
      1 ≤ nSymbols (nCodewords f.short f.len) (ldpcN f.short f.rate) (s.rxBits b side f) →
      nSymbols (nCodewords f.short f.len) (ldpcN f.short f.rate) (s.rxBits b side f) ≤ 1024 →
      ∃ r, s'.berth[b].rx = some r ∧ r.fc = some f ∧ r.stationSide = side ∧ r.nCw = nCodewords f.short f.len ∧ r.done = 0 ∧
        r.nSym = nSymbols (nCodewords f.short f.len) (ldpcN f.short f.rate) (s.rxBits b side f))) ∧
  (∀ s t (b : Berth) w, Answers (exec (.payloadSymbolRx t b w) s) fun s' =>
    (∀ r f, s.berth[b].rx = some r → r.fc = some f → r.done + 1 < r.nSym →
      s'.berth[b].rx = some { r with done := r.done + 1, weights := symWeight w.blanked w.tx (s.berth[b].cancel == .diverged) w.excess :: r.weights }) ∧
    (symWeight w.blanked w.tx (s.berth[b].cancel == .diverged) w.excess = 0 → Counted s s' .symErased b) ∧
    (0 < symWeight w.blanked w.tx (s.berth[b].cancel == .diverged) w.excess → symWeight w.blanked w.tx (s.berth[b].cancel == .diverged) w.excess < 16 →
      Counted s s' .symDeweighted b)) ∧
  (∀ s t (b : Berth) llrs r, s.berth[b].rx = some r → Answers (exec (.abortSymbolRx t b llrs) s) fun s' =>
    Counted s s' .rxAbort b ∧ (r.fc = none → s'.berth[b].rx = none) ∧ ∀ x, x ∈ s'.line[b].acks → x ∈ s.line[b].acks) ∧
  (∀ s t (b : Berth) cw e r f, s.berth[b].rx = some r → r.fc = some f → (∃ d, d ∈ s.berth[b].dec ∧ d.idx = cw) →
    Answers (exec (.codewordDecode t b cw e) s) fun s' =>
    (∀ bits, e = .converged bits → r.done < r.nSym →
      s'.berth[b].rx = some { r with good := (cw, bits.take (ldpcK f.short)) :: r.good }) ∧
    (∀ llrs, e = .failed llrs → Counted s s' .cwFail b ∧ (r.done < r.nSym → ∃ r', s'.berth[b].rx = some r' ∧ cw ∈ r'.failed)) ∧
    (∀ llrs, e = .late llrs → Counted s s' .cwLate b ∧ Counted s s' .dropCount (berthDom b) ∧
      (r.done < r.nSym → ∃ r', s'.berth[b].rx = some r' ∧ cw ∈ r'.failed))) ∧
  (∀ s t (b : Berth) level, s.domOn (berthDom b) = true → Answers (exec (.symbolBoundary t b level) s) fun s' =>
    s'.berth[b].symIdx = s.berth[b].symIdx + 1 ∧
    s'.berth[b].cdac = (if s.berth[b].cdacUp then min 2 (s.berth[b].cdac + 1) else s.berth[b].cdac) ∧
    (s.berth[b].gainDrop = true → s'.berth[b].gain = max (-12) (s.berth[b].gain - 12)) ∧
    (s.berth[b].gainDrop = false → s.berth[b].rx ≠ none ∨ level = none → s'.berth[b].gain = s.berth[b].gain) ∧
    (∀ f, s.berth[b].tx = some f → f.abort = false → f.sym < 3 + f.nSym →
      s'.berth[b].tx = some { f with sym := f.sym + 1, skip := false } ∧ s'.out = .lineSymbol b (f.sym + 1) :: s.out) ∧
    (∀ f, s.berth[b].tx = some f → f.abort = true → f.skip = false → f.sym < 3 + f.nSym → s'.berth[b].tx = none ∧ s'.berth[b].silentAlloc = true ∧
      (f.sym ≠ 0 → s'.out = .lineAbort b :: s.out)))
end

