-- ==== Sys2Proof/Laws/Only.lean ====
section
/-! SUPPORT. What a change leaves alone: `Only` composes, and every update of a record of the state reaches the parts it names. -/

namespace Sys2Proof.Machine
open Sys2Proof

/-- Every part of `t` is in `L`. -/
def reach (t L : List Part) : Bool := t.all L.contains

theorem sub_reach {t u L : List Part} (hL : reach u L = true) (h : reach t u = true) : reach t L = true := by
  simp only [reach, List.all_eq_true, List.contains_iff_mem] at *
  exact fun p hp => hL p (h p hp)

theorem reach_cons {p : Part} {t L : List Part} : reach (p :: t) L = (L.contains p && reach t L) := rfl

theorem not_reach {t L : List Part} {p : Part} (hL : reach t L = true) (hp : L.contains p = false) : t.contains p = false := by
  simp only [reach, List.all_eq_true] at hL
  cases hc : t.contains p with
  | false => rfl
  | true => exact absurd (hL p (by simpa using hc)) (by rw [hp]; exact Bool.false_ne_true)

theorem Only.refl (L : List Part) (s : State) : Only L s s := by
  intro p _
  cases p <;> rfl

theorem State.agree_trans {a b c : State} {p : Part} (h : a.agree b p) (g : b.agree c p) : a.agree c p := by
  cases p <;> exact Eq.trans g h

theorem Only.trans {L : List Part} {a b c : State} (h : Only L a b) (g : Only L b c) : Only L a c := fun p hp => State.agree_trans (h p hp) (g p hp)

/-- A reach into fewer parts is one into more. -/
theorem Only.weaken {t L : List Part} {a b : State} (h : Only t a b) (hL : reach t L = true) : Only L a b := fun p hp => h p (not_reach hL hp)

theorem Only.all (a b : State) : Only Part.all a b := by
  intro p hp
  cases p <;> simp [Part.all] at hp

theorem Only.ite {L : List Part} {s₀ a b : State} {c : Prop} [Decidable c] (ha : Only L s₀ a) (hb : Only L s₀ b) : Only L s₀ (if c then a else b) := by
  split <;> assumption

theorem Only.dite {L : List Part} {s₀ : State} {c : Prop} [Decidable c] {a : c → State} {b : ¬c → State} (ha : ∀ h, Only L s₀ (a h))
    (hb : ∀ h, Only L s₀ (b h)) : Only L s₀ (if h : c then a h else b h) := by
  split
  · exact ha _
  · exact hb _

/-- A next state is reached through the parts of the list alone. -/
def OnlyNext (L : List Part) (s₀ : State) (o : Host.Outcome State Fault Refusal) : Prop := ∀ s', o = .next s' → Only L s₀ s'

theorem OnlyNext.next {L : List Part} {s₀ a : State} (h : Only L s₀ a) : OnlyNext L s₀ (.next a) := by
  intro s' e
  cases e
  exact h

theorem OnlyNext.ite {L : List Part} {s₀ : State} {c : Prop} [Decidable c] {a b : Host.Outcome State Fault Refusal} (ha : OnlyNext L s₀ a)
    (hb : OnlyNext L s₀ b) : OnlyNext L s₀ (if c then a else b) := by
  split <;> assumption

theorem OnlyNext.dite {L : List Part} {s₀ : State} {c : Prop} [Decidable c] {a : c → Host.Outcome State Fault Refusal}
    {b : ¬c → Host.Outcome State Fault Refusal} (ha : ∀ h, OnlyNext L s₀ (a h)) (hb : ∀ h, OnlyNext L s₀ (b h)) :
    OnlyNext L s₀ (if h : c then a h else b h) := by
  split
  · exact ha _
  · exact hb _

/-- The state that a command's start leaves. -/
def Eff.state : Eff → State
  | .done _ s => s
  | .run _ s => s

/-- A command's start reaches only the parts of the list. -/
def OnlyEff (L : List Part) (s₀ : State) (e : Eff) : Prop := Only L s₀ e.state

theorem OnlyEff.done {L : List Part} {s₀ a : State} {x : Rsp} (h : Only L s₀ a) : OnlyEff L s₀ (.done x a) := h
theorem OnlyEff.run {L : List Part} {s₀ a : State} {k : RunKind} (h : Only L s₀ a) : OnlyEff L s₀ (.run k a) := h
theorem OnlyEff.ite {L : List Part} {s₀ : State} {c : Prop} [Decidable c] {a b : Eff} (ha : OnlyEff L s₀ a) (hb : OnlyEff L s₀ b) :
    OnlyEff L s₀ (if c then a else b) := by
  split <;> assumption
theorem OnlyEff.dite {L : List Part} {s₀ : State} {c : Prop} [Decidable c] {a : c → Eff} {b : ¬c → Eff} (ha : ∀ h, OnlyEff L s₀ (a h))
    (hb : ∀ h, OnlyEff L s₀ (b h)) : OnlyEff L s₀ (if h : c then a h else b h) := by
  split
  · exact ha _
  · exact hb _

theorem State.forAll_only {α : Type} {L : List Part} {s₀ s : State} {l : List α} {f : State → α → State}
    (hf : ∀ a x, Only L s₀ a → Only L s₀ (f a x)) (h : Only L s₀ s) : Only L s₀ (s.forAll l f) := by
  unfold State.forAll
  induction l generalizing s with
  | nil => exact h
  | cons x l ih => exact ih (hf _ _ h)

/-! One lemma for each set of parts that some operation updates at once. -/

theorem only_set_avs {L : List Part} {s₀ s : State} {avs_ : _} (hL : reach [.avs] L = true) (h : Only L s₀ s) :
    Only L s₀ { s with avs := avs_ } := by
  intro p hp
  cases p <;> first | exact h _ hp | exact absurd (not_reach hL hp) (by decide)

theorem only_set_berth {L : List Part} {s₀ s : State} {berth_ : _} (hL : reach [.berth] L = true) (h : Only L s₀ s) :
    Only L s₀ { s with berth := berth_ } := by
  intro p hp
  cases p <;> first | exact h _ hp | exact absurd (not_reach hL hp) (by decide)

theorem only_set_boot {L : List Part} {s₀ s : State} {boot_ : _} (hL : reach [.boot] L = true) (h : Only L s₀ s) :
    Only L s₀ { s with boot := boot_ } := by
  intro p hp
  cases p <;> first | exact h _ hp | exact absurd (not_reach hL hp) (by decide)

theorem only_set_chk {L : List Part} {s₀ s : State} {chk_ : _} (hL : reach [.chk] L = true) (h : Only L s₀ s) :
    Only L s₀ { s with chk := chk_ } := by
  intro p hp
  cases p <;> first | exact h _ hp | exact absurd (not_reach hL hp) (by decide)

theorem only_set_clk {L : List Part} {s₀ s : State} {clk_ : _} (hL : reach [.clk] L = true) (h : Only L s₀ s) :
    Only L s₀ { s with clk := clk_ } := by
  intro p hp
  cases p <;> first | exact h _ hp | exact absurd (not_reach hL hp) (by decide)

theorem only_set_ctxs {L : List Part} {s₀ s : State} {ctxs_ : _} (hL : reach [.ctxs] L = true) (h : Only L s₀ s) :
    Only L s₀ { s with ctxs := ctxs_ } := by
  intro p hp
  cases p <;> first | exact h _ hp | exact absurd (not_reach hL hp) (by decide)

theorem only_set_die {L : List Part} {s₀ s : State} {die_ : _} (hL : reach [.die] L = true) (h : Only L s₀ s) :
    Only L s₀ { s with die := die_ } := by
  intro p hp
  cases p <;> first | exact h _ hp | exact absurd (not_reach hL hp) (by decide)

theorem only_set_dom {L : List Part} {s₀ s : State} {dom_ : _} (hL : reach [.dom] L = true) (h : Only L s₀ s) :
    Only L s₀ { s with dom := dom_ } := by
  intro p hp
  cases p <;> first | exact h _ hp | exact absurd (not_reach hL hp) (by decide)

theorem only_set_entropyCtr {L : List Part} {s₀ s : State} {entropyCtr_ : _} (hL : reach [.entropyCtr] L = true) (h : Only L s₀ s) :
    Only L s₀ { s with entropyCtr := entropyCtr_ } := by
  intro p hp
  cases p <;> first | exact h _ hp | exact absurd (not_reach hL hp) (by decide)

theorem only_set_eth {L : List Part} {s₀ s : State} {eth_ : _} (hL : reach [.eth] L = true) (h : Only L s₀ s) :
    Only L s₀ { s with eth := eth_ } := by
  intro p hp
  cases p <;> first | exact h _ hp | exact absurd (not_reach hL hp) (by decide)

theorem only_set_evTimes {L : List Part} {s₀ s : State} {evTimes_ : _} (hL : reach [.evTimes] L = true) (h : Only L s₀ s) :
    Only L s₀ { s with evTimes := evTimes_ } := by
  intro p hp
  cases p <;> first | exact h _ hp | exact absurd (not_reach hL hp) (by decide)

theorem only_set_fab {L : List Part} {s₀ s : State} {fab_ : _} (hL : reach [.fab] L = true) (h : Only L s₀ s) :
    Only L s₀ { s with fab := fab_ } := by
  intro p hp
  cases p <;> first | exact h _ hp | exact absurd (not_reach hL hp) (by decide)

theorem only_set_fields {L : List Part} {s₀ s : State} {fields_ : _} (hL : reach [.fields] L = true) (h : Only L s₀ s) :
    Only L s₀ { s with fields := fields_ } := by
  intro p hp
  cases p <;> first | exact h _ hp | exact absurd (not_reach hL hp) (by decide)

theorem only_set_freeCtr {L : List Part} {s₀ s : State} {freeCtr_ : _} (hL : reach [.freeCtr] L = true) (h : Only L s₀ s) :
    Only L s₀ { s with freeCtr := freeCtr_ } := by
  intro p hp
  cases p <;> first | exact h _ hp | exact absurd (not_reach hL hp) (by decide)

theorem only_set_hold {L : List Part} {s₀ s : State} {hold_ : _} (hL : reach [.hold] L = true) (h : Only L s₀ s) :
    Only L s₀ { s with hold := hold_ } := by
  intro p hp
  cases p <;> first | exact h _ hp | exact absurd (not_reach hL hp) (by decide)

theorem only_set_host {L : List Part} {s₀ s : State} {host_ : _} (hL : reach [.host] L = true) (h : Only L s₀ s) :
    Only L s₀ { s with host := host_ } := by
  intro p hp
  cases p <;> first | exact h _ hp | exact absurd (not_reach hL hp) (by decide)

theorem only_set_line {L : List Part} {s₀ s : State} {line_ : _} (hL : reach [.line] L = true) (h : Only L s₀ s) :
    Only L s₀ { s with line := line_ } := by
  intro p hp
  cases p <;> first | exact h _ hp | exact absurd (not_reach hL hp) (by decide)

theorem only_set_live {L : List Part} {s₀ s : State} {live_ : _} (hL : reach [.live] L = true) (h : Only L s₀ s) :
    Only L s₀ { s with live := live_ } := by
  intro p hp
  cases p <;> first | exact h _ hp | exact absurd (not_reach hL hp) (by decide)

theorem only_set_loop {L : List Part} {s₀ s : State} {loop_ : _} (hL : reach [.loop] L = true) (h : Only L s₀ s) :
    Only L s₀ { s with loop := loop_ } := by
  intro p hp
  cases p <;> first | exact h _ hp | exact absurd (not_reach hL hp) (by decide)

theorem only_set_mesh {L : List Part} {s₀ s : State} {mesh_ : _} (hL : reach [.mesh] L = true) (h : Only L s₀ s) :
    Only L s₀ { s with mesh := mesh_ } := by
  intro p hp
  cases p <;> first | exact h _ hp | exact absurd (not_reach hL hp) (by decide)

theorem only_set_mgmt {L : List Part} {s₀ s : State} {mgmt_ : _} (hL : reach [.mgmt] L = true) (h : Only L s₀ s) :
    Only L s₀ { s with mgmt := mgmt_ } := by
  intro p hp
  cases p <;> first | exact h _ hp | exact absurd (not_reach hL hp) (by decide)

theorem only_set_now {L : List Part} {s₀ s : State} {now_ : _} (hL : reach [.now] L = true) (h : Only L s₀ s) :
    Only L s₀ { s with now := now_ } := by
  intro p hp
  cases p <;> first | exact h _ hp | exact absurd (not_reach hL hp) (by decide)

theorem only_set_out {L : List Part} {s₀ s : State} {out_ : _} (hL : reach [.out] L = true) (h : Only L s₀ s) :
    Only L s₀ { s with out := out_ } := by
  intro p hp
  cases p <;> first | exact h _ hp | exact absurd (not_reach hL hp) (by decide)

theorem only_set_owns {L : List Part} {s₀ s : State} {owns_ : _} (hL : reach [.owns] L = true) (h : Only L s₀ s) :
    Only L s₀ { s with owns := owns_ } := by
  intro p hp
  cases p <;> first | exact h _ hp | exact absurd (not_reach hL hp) (by decide)

theorem only_set_pend {L : List Part} {s₀ s : State} {pend_ : _} (hL : reach [.pend] L = true) (h : Only L s₀ s) :
    Only L s₀ { s with pend := pend_ } := by
  intro p hp
  cases p <;> first | exact h _ hp | exact absurd (not_reach hL hp) (by decide)

theorem only_set_pending {L : List Part} {s₀ s : State} {pending_ : _} (hL : reach [.pending] L = true) (h : Only L s₀ s) :
    Only L s₀ { s with pending := pending_ } := by
  intro p hp
  cases p <;> first | exact h _ hp | exact absurd (not_reach hL hp) (by decide)

theorem only_set_qp {L : List Part} {s₀ s : State} {qp_ : _} (hL : reach [.qp] L = true) (h : Only L s₀ s) :
    Only L s₀ { s with qp := qp_ } := by
  intro p hp
  cases p <;> first | exact h _ hp | exact absurd (not_reach hL hp) (by decide)

theorem only_set_region {L : List Part} {s₀ s : State} {region_ : _} (hL : reach [.region] L = true) (h : Only L s₀ s) :
    Only L s₀ { s with region := region_ } := by
  intro p hp
  cases p <;> first | exact h _ hp | exact absurd (not_reach hL hp) (by decide)

theorem only_set_sec {L : List Part} {s₀ s : State} {sec_ : _} (hL : reach [.sec] L = true) (h : Only L s₀ s) :
    Only L s₀ { s with sec := sec_ } := by
  intro p hp
  cases p <;> first | exact h _ hp | exact absurd (not_reach hL hp) (by decide)

theorem only_set_sense {L : List Part} {s₀ s : State} {sense_ : _} (hL : reach [.sense] L = true) (h : Only L s₀ s) :
    Only L s₀ { s with sense := sense_ } := by
  intro p hp
  cases p <;> first | exact h _ hp | exact absurd (not_reach hL hp) (by decide)

theorem only_set_senseBlank {L : List Part} {s₀ s : State} {senseBlank_ : _} (hL : reach [.senseBlank] L = true) (h : Only L s₀ s) :
    Only L s₀ { s with senseBlank := senseBlank_ } := by
  intro p hp
  cases p <;> first | exact h _ hp | exact absurd (not_reach hL hp) (by decide)

theorem only_set_stats {L : List Part} {s₀ s : State} {stats_ : _} (hL : reach [.stats] L = true) (h : Only L s₀ s) :
    Only L s₀ { s with stats := stats_ } := by
  intro p hp
  cases p <;> first | exact h _ hp | exact absurd (not_reach hL hp) (by decide)

theorem only_set_uart {L : List Part} {s₀ s : State} {uart_ : _} (hL : reach [.uart] L = true) (h : Only L s₀ s) :
    Only L s₀ { s with uart := uart_ } := by
  intro p hp
  cases p <;> first | exact h _ hp | exact absurd (not_reach hL hp) (by decide)

theorem only_set_boot_live {L : List Part} {s₀ s : State} {boot_ : _} {live_ : _} (hL : reach [.boot, .live] L = true) (h : Only L s₀ s) :
    Only L s₀ { s with boot := boot_, live := live_ } := by
  intro p hp
  cases p <;> first | exact h _ hp | exact absurd (not_reach hL hp) (by decide)

theorem only_set_ctxs_hold {L : List Part} {s₀ s : State} {ctxs_ : _} {hold_ : _} (hL : reach [.ctxs, .hold] L = true) (h : Only L s₀ s) :
    Only L s₀ { s with ctxs := ctxs_, hold := hold_ } := by
  intro p hp
  cases p <;> first | exact h _ hp | exact absurd (not_reach hL hp) (by decide)

theorem only_set_ctxs_owns {L : List Part} {s₀ s : State} {ctxs_ : _} {owns_ : _} (hL : reach [.ctxs, .owns] L = true) (h : Only L s₀ s) :
    Only L s₀ { s with ctxs := ctxs_, owns := owns_ } := by
  intro p hp
  cases p <;> first | exact h _ hp | exact absurd (not_reach hL hp) (by decide)

theorem only_set_mgmt_boot {L : List Part} {s₀ s : State} {mgmt_ : _} {boot_ : _} (hL : reach [.mgmt, .boot] L = true) (h : Only L s₀ s) :
    Only L s₀ { s with mgmt := mgmt_, boot := boot_ } := by
  intro p hp
  cases p <;> first | exact h _ hp | exact absurd (not_reach hL hp) (by decide)

theorem only_set_sec_clk {L : List Part} {s₀ s : State} {sec_ : _} {clk_ : _} (hL : reach [.sec, .clk] L = true) (h : Only L s₀ s) :
    Only L s₀ { s with sec := sec_, clk := clk_ } := by
  intro p hp
  cases p <;> first | exact h _ hp | exact absurd (not_reach hL hp) (by decide)

theorem only_set_sec_fab {L : List Part} {s₀ s : State} {sec_ : _} {fab_ : _} (hL : reach [.sec, .fab] L = true) (h : Only L s₀ s) :
    Only L s₀ { s with sec := sec_, fab := fab_ } := by
  intro p hp
  cases p <;> first | exact h _ hp | exact absurd (not_reach hL hp) (by decide)

theorem only_set_host_qp_mgmt {L : List Part} {s₀ s : State} {host_ : _} {qp_ : _} {mgmt_ : _} (hL : reach [.host, .qp, .mgmt] L = true) (h : Only L s₀ s) :
    Only L s₀ { s with host := host_, qp := qp_, mgmt := mgmt_ } := by
  intro p hp
  cases p <;> first | exact h _ hp | exact absurd (not_reach hL hp) (by decide)

theorem only_set_sec_boot_live_clk {L : List Part} {s₀ s : State} {sec_ : _} {boot_ : _} {live_ : _} {clk_ : _} (hL : reach [.sec, .boot, .live, .clk] L = true) (h : Only L s₀ s) :
    Only L s₀ { s with sec := sec_, boot := boot_, live := live_, clk := clk_ } := by
  intro p hp
  cases p <;> first | exact h _ hp | exact absurd (not_reach hL hp) (by decide)

end Sys2Proof.Machine
end

