-- ==== Sys2Proof/Laws/OnlyOps.lean ====
section
/-! SUPPORT. The parts of the state that each operation of Machine/Ops.lean reaches. -/

namespace Sys2Proof.Machine
open Sys2Proof

set_option linter.all false

theorem State.fset_only {L : List Part} {s₀ : State} {s : State} {f : Fld} {i : Nat} {v : List Int} (hL : reach [.fields] L = true) (ho : Only L s₀ s) :
    Only L s₀ (State.fset s f i v) := by
  unfold State.fset
  repeat' with_reducible first | exact ho | refine Only.ite ?_ ?_ | refine Only.dite (fun _ => ?_) (fun _ => ?_) | assumption | split | (dsimp -proj only; split) | refine only_set_fields (sub_reach hL rfl) ?_

theorem State.objTouch_only {L : List Part} {s₀ : State} {s : State} {c : Cls} {i : Nat} (hL : reach [.mgmt] L = true) (ho : Only L s₀ s) :
    Only L s₀ (State.objTouch s c i) := by
  unfold State.objTouch
  repeat' with_reducible first | exact ho | refine Only.ite ?_ ?_ | refine Only.dite (fun _ => ?_) (fun _ => ?_) | assumption | split | (dsimp -proj only; split) | refine only_set_mgmt (sub_reach hL rfl) ?_

theorem State.dirty_only {L : List Part} {s₀ : State} {s : State} (hL : reach [.boot] L = true) (ho : Only L s₀ s) :
    Only L s₀ (State.dirty s) := by
  unfold State.dirty
  repeat' with_reducible first | exact ho | refine Only.ite ?_ ?_ | refine Only.dite (fun _ => ?_) (fun _ => ?_) | assumption | split | (dsimp -proj only; split) | refine only_set_boot (sub_reach hL rfl) ?_

theorem State.setBerth_only {L : List Part} {s₀ : State} {s : State} {b : Berth} {x : BerthSt} (hL : reach [.berth] L = true) (ho : Only L s₀ s) :
    Only L s₀ (State.setBerth s b x) := by
  unfold State.setBerth
  repeat' with_reducible first | exact ho | refine Only.ite ?_ ?_ | refine Only.dite (fun _ => ?_) (fun _ => ?_) | assumption | split | (dsimp -proj only; split) | refine only_set_berth (sub_reach hL rfl) ?_

theorem State.modBerth_only {L : List Part} {s₀ : State} {s : State} {b : Berth} {f : BerthSt → BerthSt} (hL : reach [.berth] L = true) (ho : Only L s₀ s) :
    Only L s₀ (State.modBerth s b f) := by
  unfold State.modBerth
  repeat' with_reducible first | exact ho | refine Only.ite ?_ ?_ | refine Only.dite (fun _ => ?_) (fun _ => ?_) | refine State.setBerth_only (sub_reach hL rfl) ?_ | assumption | split | (dsimp -proj only; split)

theorem State.setLine_only {L : List Part} {s₀ : State} {s : State} {b : Berth} {x : Line} (hL : reach [.line] L = true) (ho : Only L s₀ s) :
    Only L s₀ (State.setLine s b x) := by
  unfold State.setLine
  repeat' with_reducible first | exact ho | refine Only.ite ?_ ?_ | refine Only.dite (fun _ => ?_) (fun _ => ?_) | assumption | split | (dsimp -proj only; split) | refine only_set_line (sub_reach hL rfl) ?_

theorem State.modLine_only {L : List Part} {s₀ : State} {s : State} {b : Berth} {f : Line → Line} (hL : reach [.line] L = true) (ho : Only L s₀ s) :
    Only L s₀ (State.modLine s b f) := by
  unfold State.modLine
  repeat' with_reducible first | exact ho | refine Only.ite ?_ ?_ | refine Only.dite (fun _ => ?_) (fun _ => ?_) | refine State.setLine_only (sub_reach hL rfl) ?_ | assumption | split | (dsimp -proj only; split)

theorem State.at_only {L : List Part} {s₀ : State} {s : State} {t : Nat} (hL : reach [.now] L = true) (ho : Only L s₀ s) :
    Only L s₀ (State.at s t) := by
  unfold State.at
  repeat' with_reducible first | exact ho | refine Only.ite ?_ ?_ | refine Only.dite (fun _ => ?_) (fun _ => ?_) | assumption | split | (dsimp -proj only; split) | refine only_set_now (sub_reach hL rfl) ?_

theorem State.statSet_only {L : List Part} {s₀ : State} {s : State} {x : Stat} {i : Nat} {e : Nat} {v : Int} (hL : reach [.stats] L = true) (ho : Only L s₀ s) :
    Only L s₀ (State.statSet s x i e v) := by
  unfold State.statSet
  repeat' with_reducible first | exact ho | refine Only.ite ?_ ?_ | refine Only.dite (fun _ => ?_) (fun _ => ?_) | assumption | split | (dsimp -proj only; split) | refine only_set_stats (sub_reach hL rfl) ?_

theorem State.bump_only {L : List Part} {s₀ : State} {s : State} {x : Stat} {i : optParam Nat 0} {e : optParam Nat 0} {n : optParam Nat 1} (hL : reach [.stats] L = true) (ho : Only L s₀ s) :
    Only L s₀ (State.bump s x i e n) := by
  unfold State.bump
  repeat' with_reducible first | exact ho | refine Only.ite ?_ ?_ | refine Only.dite (fun _ => ?_) (fun _ => ?_) | refine State.statSet_only (sub_reach hL rfl) ?_ | assumption | split | (dsimp -proj only; split)

theorem State.stick_only {L : List Part} {s₀ : State} {s : State} {x : Stat} {i : optParam Nat 0} (hL : reach [.stats] L = true) (ho : Only L s₀ s) :
    Only L s₀ (State.stick s x i) := by
  unfold State.stick
  repeat' with_reducible first | exact ho | refine Only.ite ?_ ?_ | refine Only.dite (fun _ => ?_) (fun _ => ?_) | refine State.statSet_only (sub_reach hL rfl) ?_ | assumption | split | (dsimp -proj only; split)

theorem State.emit_only {L : List Part} {s₀ : State} {s : State} {o : Out} (hL : reach [.out] L = true) (ho : Only L s₀ s) :
    Only L s₀ (State.emit s o) := by
  unfold State.emit
  repeat' with_reducible first | exact ho | refine Only.ite ?_ ?_ | refine Only.dite (fun _ => ?_) (fun _ => ?_) | assumption | split | (dsimp -proj only; split) | refine only_set_out (sub_reach hL rfl) ?_

theorem State.msix_only {L : List Part} {s₀ : State} {s : State} {v : BitVec 9} (hL : reach [.out, .host] L = true) (ho : Only L s₀ s) :
    Only L s₀ (State.msix s v) := by
  unfold State.msix
  repeat' with_reducible first | exact ho | refine Only.ite ?_ ?_ | refine Only.dite (fun _ => ?_) (fun _ => ?_) | refine State.emit_only (sub_reach hL rfl) ?_ | assumption | split | (dsimp -proj only; split) | refine only_set_host (sub_reach hL rfl) ?_

theorem State.cause_only {L : List Part} {s₀ : State} {s : State} {k : Fin 8} (hL : reach [.out, .host] L = true) (ho : Only L s₀ s) :
    Only L s₀ (State.cause s k) := by
  unfold State.cause
  repeat' with_reducible first | exact ho | refine Only.ite ?_ ?_ | refine Only.dite (fun _ => ?_) (fun _ => ?_) | refine State.msix_only (sub_reach hL rfl) ?_ | assumption | split | (dsimp -proj only; split) | refine only_set_host (sub_reach hL rfl) ?_

theorem State.alarmOn_only {L : List Part} {s₀ : State} {s : State} (hL : reach [.stats, .out, .host] L = true) (ho : Only L s₀ s) :
    Only L s₀ (State.alarmOn s) := by
  unfold State.alarmOn
  repeat' with_reducible first | exact ho | refine Only.ite ?_ ?_ | refine Only.dite (fun _ => ?_) (fun _ => ?_) | refine State.cause_only (sub_reach hL rfl) ?_ | refine State.stick_only (sub_reach hL rfl) ?_ | assumption | split | (dsimp -proj only; split) | refine only_set_host (sub_reach hL rfl) ?_

theorem State.modLink_only {L : List Part} {s₀ : State} {s : State} {l : LinkId} {f : FabLink → FabLink} (hL : reach [.fab] L = true) (ho : Only L s₀ s) :
    Only L s₀ (State.modLink s l f) := by
  unfold State.modLink
  repeat' with_reducible first | exact ho | refine Only.ite ?_ ?_ | refine Only.dite (fun _ => ?_) (fun _ => ?_) | assumption | split | (dsimp -proj only; split) | refine only_set_fab (sub_reach hL rfl) ?_

theorem State.putPkt_only {L : List Part} {s₀ : State} {s : State} {l : LinkId} {p : Pkt} (hL : reach [.out, .fab] L = true) (ho : Only L s₀ s) :
    Only L s₀ (State.putPkt s l p) := by
  unfold State.putPkt
  repeat' with_reducible first | exact ho | refine Only.ite ?_ ?_ | refine Only.dite (fun _ => ?_) (fun _ => ?_) | refine State.modLink_only (sub_reach hL rfl) ?_ | refine State.emit_only (sub_reach hL rfl) ?_ | assumption | split | (dsimp -proj only; split)

theorem State.sendPkt_only {L : List Part} {s₀ : State} {s : State} {l : LinkId} {p : Pkt} (hL : reach [.out, .fab] L = true) (ho : Only L s₀ s) :
    Only L s₀ (State.sendPkt s l p) := by
  unfold State.sendPkt
  repeat' with_reducible first | exact ho | refine Only.ite ?_ ?_ | refine Only.dite (fun _ => ?_) (fun _ => ?_) | refine State.putPkt_only (sub_reach hL rfl) ?_ | refine State.modLink_only (sub_reach hL rfl) ?_ | assumption | split | (dsimp -proj only; split)

theorem State.sendTo_only {L : List Part} {s₀ : State} {s : State} {p : Pkt} {via : optParam LinkId 0} (hL : reach [.stats, .out, .fab] L = true) (ho : Only L s₀ s) :
    Only L s₀ (State.sendTo s p via) := by
  unfold State.sendTo
  repeat' with_reducible first | exact ho | refine Only.ite ?_ ?_ | refine Only.dite (fun _ => ?_) (fun _ => ?_) | refine State.sendPkt_only (sub_reach hL rfl) ?_ | refine State.bump_only (sub_reach hL rfl) ?_ | assumption | split | (dsimp -proj only; split)

theorem State.respond_only {L : List Part} {s₀ : State} {s : State} {tr : Transport} {data : Bytes} (hL : reach [.stats, .out, .fab] L = true) (ho : Only L s₀ s) :
    Only L s₀ (State.respond s tr data) := by
  unfold State.respond
  repeat' with_reducible first | exact ho | refine Only.ite ?_ ?_ | refine Only.dite (fun _ => ?_) (fun _ => ?_) | refine State.sendTo_only (sub_reach hL rfl) ?_ | refine State.emit_only (sub_reach hL rfl) ?_ | assumption | split | (dsimp -proj only; split)

theorem State.notify_only {L : List Part} {s₀ : State} {s : State} {e : Evt} (hL : reach [.stats, .out, .fab] L = true) (ho : Only L s₀ s) :
    Only L s₀ (State.notify s e) := by
  unfold State.notify
  repeat' with_reducible first | exact ho | refine Only.ite ?_ ?_ | refine Only.dite (fun _ => ?_) (fun _ => ?_) | refine State.respond_only (sub_reach hL rfl) ?_ | refine State.forAll_only (fun _ _ _ => ?_) ?_ | assumption | split | (dsimp -proj only; split)

theorem State.holdEvt_only {L : List Part} {s₀ : State} {s : State} {e : Evt} (hL : reach [.stats, .out, .host] L = true) (ho : Only L s₀ s) :
    Only L s₀ (State.holdEvt s e) := by
  unfold State.holdEvt
  repeat' with_reducible first | exact ho | refine Only.ite ?_ ?_ | refine Only.dite (fun _ => ?_) (fun _ => ?_) | refine State.cause_only (sub_reach hL rfl) ?_ | refine State.stick_only (sub_reach hL rfl) ?_ | refine State.bump_only (sub_reach hL rfl) ?_ | assumption | split | (dsimp -proj only; split) | refine only_set_host (sub_reach hL rfl) ?_

theorem State.raise_only {L : List Part} {s₀ : State} {s : State} {ev : Ev} {inst : Nat} {detail : Nat} (hL : reach [.stats, .out, .host, .fab] L = true) (ho : Only L s₀ s) :
    Only L s₀ (State.raise s ev inst detail) := by
  unfold State.raise
  repeat' with_reducible first | exact ho | refine Only.ite ?_ ?_ | refine Only.dite (fun _ => ?_) (fun _ => ?_) | refine State.holdEvt_only (sub_reach hL rfl) ?_ | refine State.notify_only (sub_reach hL rfl) ?_ | refine State.alarmOn_only (sub_reach hL rfl) ?_ | assumption | split | (dsimp -proj only; split) | refine only_set_host (sub_reach hL rfl) ?_

theorem State.report_only {L : List Part} {s₀ : State} {s : State} {x : Stat} {i : Nat} {e : Nat} {v : Int} (hL : reach [.stats] L = true) (ho : Only L s₀ s) :
    Only L s₀ (State.report s x i e v) := by
  unfold State.report
  repeat' with_reducible first | exact ho | refine Only.ite ?_ ?_ | refine Only.dite (fun _ => ?_) (fun _ => ?_) | refine State.statSet_only (sub_reach hL rfl) ?_ | assumption | split | (dsimp -proj only; split)

theorem State.setDomRec_only {L : List Part} {s₀ : State} {s : State} {k : DomId} {d : Dom} (hL : reach [.dom] L = true) (ho : Only L s₀ s) :
    Only L s₀ (State.setDomRec s k d) := by
  unfold State.setDomRec
  repeat' with_reducible first | exact ho | refine Only.ite ?_ ?_ | refine Only.dite (fun _ => ?_) (fun _ => ?_) | assumption | split | (dsimp -proj only; split) | refine only_set_dom (sub_reach hL rfl) ?_

theorem State.setDom_only {L : List Part} {s₀ : State} {s : State} {k : DomId} {st : DomSt} (hL : reach [.stats, .out, .dom, .host, .mgmt, .berth] L = true) (ho : Only L s₀ s) :
    Only L s₀ (State.setDom s k st) := by
  unfold State.setDom
  repeat' with_reducible first | exact ho | refine Only.ite ?_ ?_ | refine Only.dite (fun _ => ?_) (fun _ => ?_) | refine State.setDomRec_only (sub_reach hL rfl) ?_ | refine State.report_only (sub_reach hL rfl) ?_ | refine State.cause_only (sub_reach hL rfl) ?_ | refine State.modBerth_only (sub_reach hL rfl) ?_ | refine State.objTouch_only (sub_reach hL rfl) ?_ | assumption | split | (dsimp -proj only; split)

theorem State.startRamp_only {L : List Part} {s₀ : State} {s : State} {k : DomId} (hL : reach [.stats, .out, .dom, .host, .mgmt, .berth] L = true) (ho : Only L s₀ s) :
    Only L s₀ (State.startRamp s k) := by
  unfold State.startRamp
  repeat' with_reducible first | exact ho | refine Only.ite ?_ ?_ | refine Only.dite (fun _ => ?_) (fun _ => ?_) | refine State.setDom_only (sub_reach hL rfl) ?_ | refine State.setDomRec_only (sub_reach hL rfl) ?_ | assumption | split | (dsimp -proj only; split)

theorem State.modChan_only {L : List Part} {s₀ : State} {s : State} {m : Chan} {f : ChanRec → ChanRec} (hL : reach [.hold] L = true) (ho : Only L s₀ s) :
    Only L s₀ (State.modChan s m f) := by
  unfold State.modChan
  repeat' with_reducible first | exact ho | refine Only.ite ?_ ?_ | refine Only.dite (fun _ => ?_) (fun _ => ?_) | assumption | split | (dsimp -proj only; split) | refine only_set_hold (sub_reach hL rfl) ?_

theorem State.setQp_only {L : List Part} {s₀ : State} {s : State} {q : QpId} {x : Qp} (hL : reach [.qp] L = true) (ho : Only L s₀ s) :
    Only L s₀ (State.setQp s q x) := by
  unfold State.setQp
  repeat' with_reducible first | exact ho | refine Only.ite ?_ ?_ | refine Only.dite (fun _ => ?_) (fun _ => ?_) | assumption | split | (dsimp -proj only; split) | refine only_set_qp (sub_reach hL rfl) ?_

theorem State.modQp_only {L : List Part} {s₀ : State} {s : State} {q : QpId} {f : Qp → Qp} (hL : reach [.qp] L = true) (ho : Only L s₀ s) :
    Only L s₀ (State.modQp s q f) := by
  unfold State.modQp
  repeat' with_reducible first | exact ho | refine Only.ite ?_ ?_ | refine Only.dite (fun _ => ?_) (fun _ => ?_) | refine State.setQp_only (sub_reach hL rfl) ?_ | assumption | split | (dsimp -proj only; split)

theorem State.cqMessage_only {L : List Part} {s₀ : State} {s : State} {q : QpId} (hL : reach [.out, .host, .qp] L = true) (ho : Only L s₀ s) :
    Only L s₀ (State.cqMessage s q) := by
  unfold State.cqMessage
  repeat' with_reducible first | exact ho | refine Only.ite ?_ ?_ | refine Only.dite (fun _ => ?_) (fun _ => ?_) | refine State.modQp_only (sub_reach hL rfl) ?_ | refine State.msix_only (sub_reach hL rfl) ?_ | assumption | split | (dsimp -proj only; split)

theorem State.moderate_only {L : List Part} {s₀ : State} {s : State} {q : QpId} (hL : reach [.out, .host, .qp] L = true) (ho : Only L s₀ s) :
    Only L s₀ (State.moderate s q) := by
  unfold State.moderate
  repeat' with_reducible first | exact ho | refine Only.ite ?_ ?_ | refine Only.dite (fun _ => ?_) (fun _ => ?_) | refine State.cqMessage_only (sub_reach hL rfl) ?_ | refine State.setQp_only (sub_reach hL rfl) ?_ | assumption | split | (dsimp -proj only; split)

theorem State.cqWrite_only {L : List Part} {s₀ : State} {s : State} {q : QpId} {entry : Nat → Bool → Bytes} (hL : reach [.out, .host, .qp] L = true) (ho : Only L s₀ s) :
    Only L s₀ (State.cqWrite s q entry) := by
  unfold State.cqWrite
  repeat' with_reducible first | exact ho | refine Only.ite ?_ ?_ | refine Only.dite (fun _ => ?_) (fun _ => ?_) | refine State.moderate_only (sub_reach hL rfl) ?_ | refine State.setQp_only (sub_reach hL rfl) ?_ | refine State.emit_only (sub_reach hL rfl) ?_ | assumption | split | (dsimp -proj only; split)

theorem State.qpSettle_only {L : List Part} {s₀ : State} {s : State} {q : QpId} (hL : reach [.qp] L = true) (ho : Only L s₀ s) :
    Only L s₀ (State.qpSettle s q) := by
  unfold State.qpSettle
  repeat' with_reducible first | exact ho | refine Only.ite ?_ ?_ | refine Only.dite (fun _ => ?_) (fun _ => ?_) | refine State.setQp_only (sub_reach hL rfl) ?_ | assumption | split | (dsimp -proj only; split)

theorem State.setRegion_only {L : List Part} {s₀ : State} {s : State} {r : Fin 9} {x : RegionSt} (hL : reach [.region] L = true) (ho : Only L s₀ s) :
    Only L s₀ (State.setRegion s r x) := by
  unfold State.setRegion
  repeat' with_reducible first | exact ho | refine Only.ite ?_ ?_ | refine Only.dite (fun _ => ?_) (fun _ => ?_) | assumption | split | (dsimp -proj only; split) | refine only_set_region (sub_reach hL rfl) ?_

theorem State.modEth_only {L : List Part} {s₀ : State} {s : State} {p : EthId} {f : EthSt → EthSt} (hL : reach [.eth] L = true) (ho : Only L s₀ s) :
    Only L s₀ (State.modEth s p f) := by
  unfold State.modEth
  repeat' with_reducible first | exact ho | refine Only.ite ?_ ?_ | refine Only.dite (fun _ => ?_) (fun _ => ?_) | assumption | split | (dsimp -proj only; split) | refine only_set_eth (sub_reach hL rfl) ?_

theorem State.release_only {L : List Part} {s₀ : State} {s : State} {due : Fld → Nat → Option (BitVec 32) → Bool}
    (hL : reach [.fields, .pend] L = true) (h : Only L s₀ s) : Only L s₀ (s.release due) := by
  unfold State.release
  generalize hl : s.pend.filter (fun e => due e.1.1 e.1.2 e.2.2) = l
  clear hl
  induction l with
  | nil => exact only_set_pend (sub_reach hL rfl) h
  | cons e l ih => exact State.fset_only (sub_reach hL rfl) ih

theorem State.releaseAt_only {L : List Part} {s₀ : State} {s : State} {a : Applies} {i : Nat} (hL : reach [.fields, .pend] L = true) (ho : Only L s₀ s) :
    Only L s₀ (State.releaseAt s a i) := by
  unfold State.releaseAt
  repeat' with_reducible first | exact ho | refine Only.ite ?_ ?_ | refine Only.dite (fun _ => ?_) (fun _ => ?_) | refine State.release_only (sub_reach hL rfl) ?_ | assumption | split | (dsimp -proj only; split)

theorem State.draw_only {L : List Part} {s₀ : State} {s : State} (hL : reach [.entropyCtr] L = true) (ho : Only L s₀ s) :
    Only L s₀ (State.draw s).2 := by
  unfold State.draw
  repeat' with_reducible first | exact ho | refine Only.ite ?_ ?_ | refine Only.dite (fun _ => ?_) (fun _ => ?_) | assumption | split | (dsimp -proj only; split) | refine only_set_entropyCtr (sub_reach hL rfl) ?_
theorem State.draw_only_eq {L : List Part} {s₀ : State} {s : State} {s₁ : State} {xv : _} (he : State.draw s = (xv, s₁)) (hL : reach [.entropyCtr] L = true) (ho : Only L s₀ s) :
    Only L s₀ s₁ := by
  have := State.draw_only (s := s) hL ho
  rwa [he] at this

theorem State.modClk_only {L : List Part} {s₀ : State} {s : State} {f : ClockSt → ClockSt} (hL : reach [.clk] L = true) (ho : Only L s₀ s) :
    Only L s₀ (State.modClk s f) := by
  unfold State.modClk
  repeat' with_reducible first | exact ho | refine Only.ite ?_ ?_ | refine Only.dite (fun _ => ?_) (fun _ => ?_) | assumption | split | (dsimp -proj only; split) | refine only_set_clk (sub_reach hL rfl) ?_

theorem State.modSense_only {L : List Part} {s₀ : State} {s : State} {n : SensId} {f : SenseSt → SenseSt} (hL : reach [.sense] L = true) (ho : Only L s₀ s) :
    Only L s₀ (State.modSense s n f) := by
  unfold State.modSense
  repeat' with_reducible first | exact ho | refine Only.ite ?_ ?_ | refine Only.dite (fun _ => ?_) (fun _ => ?_) | assumption | split | (dsimp -proj only; split) | refine only_set_sense (sub_reach hL rfl) ?_

theorem State.modLoop_only {L : List Part} {s₀ : State} {s : State} {j : LoopId} {f : LoopSt → LoopSt} (hL : reach [.loop] L = true) (ho : Only L s₀ s) :
    Only L s₀ (State.modLoop s j f) := by
  unfold State.modLoop
  repeat' with_reducible first | exact ho | refine Only.ite ?_ ?_ | refine Only.dite (fun _ => ?_) (fun _ => ?_) | assumption | split | (dsimp -proj only; split) | refine only_set_loop (sub_reach hL rfl) ?_

theorem State.modUart_only {L : List Part} {s₀ : State} {s : State} {p : UartId} {f : UartSt → UartSt} (hL : reach [.uart] L = true) (ho : Only L s₀ s) :
    Only L s₀ (State.modUart s p f) := by
  unfold State.modUart
  repeat' with_reducible first | exact ho | refine Only.ite ?_ ?_ | refine Only.dite (fun _ => ?_) (fun _ => ?_) | assumption | split | (dsimp -proj only; split) | refine only_set_uart (sub_reach hL rfl) ?_

theorem State.nextRamp_only {L : List Part} {s₀ : State} {s : State} (hL : reach [.stats, .out, .dom, .host, .mgmt, .berth] L = true) (ho : Only L s₀ s) :
    Only L s₀ (State.nextRamp s) := by
  unfold State.nextRamp
  repeat' with_reducible first | exact ho | refine Only.ite ?_ ?_ | refine Only.dite (fun _ => ?_) (fun _ => ?_) | refine State.startRamp_only (sub_reach hL rfl) ?_ | assumption | split | (dsimp -proj only; split)

theorem State.modMesh_only {L : List Part} {s₀ : State} {s : State} {b : Berth} {f : Mesh → Mesh} (hL : reach [.mesh] L = true) (ho : Only L s₀ s) :
    Only L s₀ (State.modMesh s b f) := by
  unfold State.modMesh
  repeat' with_reducible first | exact ho | refine Only.ite ?_ ?_ | refine Only.dite (fun _ => ?_) (fun _ => ?_) | assumption | split | (dsimp -proj only; split) | refine only_set_mesh (sub_reach hL rfl) ?_

theorem State.modChk_only {L : List Part} {s₀ : State} {s : State} {u : ChkId} {f : ChkSt → ChkSt} (hL : reach [.chk] L = true) (ho : Only L s₀ s) :
    Only L s₀ (State.modChk s u f) := by
  unfold State.modChk
  repeat' with_reducible first | exact ho | refine Only.ite ?_ ?_ | refine Only.dite (fun _ => ?_) (fun _ => ?_) | assumption | split | (dsimp -proj only; split) | refine only_set_chk (sub_reach hL rfl) ?_

theorem State.raiseKey.rest_only {L : List Part} {s₀ : State} {s : State} {ev : Ev} {key : Nat} {inst : Nat} {detail : Nat} (hL : reach [.stats, .evTimes, .out, .host, .fab] L = true) (ho : Only L s₀ s) :
    Only L s₀ (State.raiseKey.rest s ev key inst detail) := by
  unfold State.raiseKey.rest
  repeat' with_reducible first | exact ho | refine Only.ite ?_ ?_ | refine Only.dite (fun _ => ?_) (fun _ => ?_) | refine State.raise_only (sub_reach hL rfl) ?_ | assumption | split | (dsimp -proj only; split) | refine only_set_evTimes (sub_reach hL rfl) ?_

theorem State.raiseKey_only {L : List Part} {s₀ : State} {s : State} {ev : Ev} {key : Nat} {gap : Nat} {inst : Nat} {detail : Nat} (hL : reach [.stats, .evTimes, .out, .host, .fab] L = true) (ho : Only L s₀ s) :
    Only L s₀ (State.raiseKey s ev key gap inst detail) := by
  unfold State.raiseKey
  repeat' with_reducible first | exact ho | refine Only.ite ?_ ?_ | refine Only.dite (fun _ => ?_) (fun _ => ?_) | refine State.raiseKey.rest_only (sub_reach hL rfl) ?_ | assumption | split | (dsimp -proj only; split)

theorem State.raiseEvery_only {L : List Part} {s₀ : State} {s : State} {ev : Ev} {gap : Nat} {inst : Nat} {detail : Nat} (hL : reach [.stats, .evTimes, .out, .host, .fab] L = true) (ho : Only L s₀ s) :
    Only L s₀ (State.raiseEvery s ev gap inst detail) := by
  unfold State.raiseEvery
  repeat' with_reducible first | exact ho | refine Only.ite ?_ ?_ | refine Only.dite (fun _ => ?_) (fun _ => ?_) | refine State.raiseKey_only (sub_reach hL rfl) ?_ | assumption | split | (dsimp -proj only; split)

theorem State.free_only {L : List Part} {s₀ : State} {s : State} (hL : reach [.freeCtr] L = true) (ho : Only L s₀ s) :
    Only L s₀ (State.free s).2 := by
  unfold State.free
  repeat' with_reducible first | exact ho | refine Only.ite ?_ ?_ | refine Only.dite (fun _ => ?_) (fun _ => ?_) | assumption | split | (dsimp -proj only; split) | refine only_set_freeCtr (sub_reach hL rfl) ?_
theorem State.free_only_eq {L : List Part} {s₀ : State} {s : State} {s₁ : State} {xv : _} (he : State.free s = (xv, s₁)) (hL : reach [.freeCtr] L = true) (ho : Only L s₀ s) :
    Only L s₀ s₁ := by
  have := State.free_only (s := s) hL ho
  rwa [he] at this

theorem State.startPhases_only {L : List Part} {s₀ : State} {s : State} {p : Pkt} {phs : List Nat} {via : optParam LinkId 0} (hL : reach [.stats, .out, .fab] L = true) (ho : Only L s₀ s) :
    Only L s₀ (State.startPhases s p phs via) := by
  unfold State.startPhases
  repeat' with_reducible first | exact ho | refine Only.ite ?_ ?_ | refine Only.dite (fun _ => ?_) (fun _ => ?_) | refine State.sendTo_only (sub_reach hL rfl) ?_ | refine State.forAll_only (fun _ _ _ => ?_) ?_ | assumption | split | (dsimp -proj only; split)

theorem State.broadcast_only {L : List Part} {s₀ : State} {s : State} {ptype : Nat} {prio : Nat} {payload : Bytes} (hL : reach [.stats, .out, .fab] L = true) (ho : Only L s₀ s) :
    Only L s₀ (State.broadcast s ptype prio payload) := by
  unfold State.broadcast
  repeat' with_reducible first | exact ho | refine Only.ite ?_ ?_ | refine Only.dite (fun _ => ?_) (fun _ => ?_) | refine State.startPhases_only (sub_reach hL rfl) ?_ | assumption | split | (dsimp -proj only; split)

theorem State.flushLink_only {L : List Part} {s₀ : State} {s : State} {l : LinkId} (hL : reach [.out, .fab] L = true) (ho : Only L s₀ s) :
    Only L s₀ (State.flushLink s l) := by
  unfold State.flushLink
  repeat' with_reducible first | exact ho | refine Only.ite ?_ ?_ | refine Only.dite (fun _ => ?_) (fun _ => ?_) | refine State.putPkt_only (sub_reach hL rfl) ?_ | refine State.modLink_only (sub_reach hL rfl) ?_ | refine State.forAll_only (fun _ _ _ => ?_) ?_ | assumption | split | (dsimp -proj only; split)

theorem State.qpError_only {L : List Part} {s₀ : State} {s : State} {q : QpId} {code : Nat} (hL : reach [.stats, .out, .host, .qp] L = true) (ho : Only L s₀ s) :
    Only L s₀ (State.qpError s q code) := by
  unfold State.qpError
  repeat' with_reducible first | exact ho | refine Only.ite ?_ ?_ | refine Only.dite (fun _ => ?_) (fun _ => ?_) | refine State.modQp_only (sub_reach hL rfl) ?_ | refine State.cause_only (sub_reach hL rfl) ?_ | refine State.stick_only (sub_reach hL rfl) ?_ | assumption | split | (dsimp -proj only; split)

theorem State.alarmUpdate_only {L : List Part} {s₀ : State} {s : State} (hL : reach [.host] L = true) (ho : Only L s₀ s) :
    Only L s₀ (State.alarmUpdate s) := by
  unfold State.alarmUpdate
  repeat' with_reducible first | exact ho | refine Only.ite ?_ ?_ | refine Only.dite (fun _ => ?_) (fun _ => ?_) | assumption | split | (dsimp -proj only; split) | refine only_set_host (sub_reach hL rfl) ?_

theorem State.pendSet_only {L : List Part} {s₀ : State} {s : State} {f : Fld} {i : Nat} {v : List Int} {bpc : Option (BitVec 32)} (hL : reach [.pend] L = true) (ho : Only L s₀ s) :
    Only L s₀ (State.pendSet s f i v bpc) := by
  unfold State.pendSet
  repeat' with_reducible first | exact ho | refine Only.ite ?_ ?_ | refine Only.dite (fun _ => ?_) (fun _ => ?_) | assumption | split | (dsimp -proj only; split) | refine only_set_pend (sub_reach hL rfl) ?_

theorem State.slackJudge_only {L : List Part} {s₀ : State} {s : State} {k : DomId} (hL : reach [.stats, .dom] L = true) (ho : Only L s₀ s) :
    Only L s₀ (State.slackJudge s k) := by
  unfold State.slackJudge
  repeat' with_reducible first | exact ho | refine Only.ite ?_ ?_ | refine Only.dite (fun _ => ?_) (fun _ => ?_) | refine State.setDomRec_only (sub_reach hL rfl) ?_ | refine State.stick_only (sub_reach hL rfl) ?_ | assumption | split | (dsimp -proj only; split)

theorem State.setD2d_only {L : List Part} {s₀ : State} {s : State} {d : D2dId} {x : DieLink} (hL : reach [.die] L = true) (ho : Only L s₀ s) :
    Only L s₀ (State.setD2d s d x) := by
  unfold State.setD2d
  repeat' with_reducible first | exact ho | refine Only.ite ?_ ?_ | refine Only.dite (fun _ => ?_) (fun _ => ?_) | assumption | split | (dsimp -proj only; split) | refine only_set_die (sub_reach hL rfl) ?_

end Sys2Proof.Machine
end

