-- ==== Sys2Proof/Laws/State.lean ====
section
/-! SUPPORT. Every field of the state after each basic update: the updated one, and the others as they were. -/

namespace Sys2Proof.Machine
open Sys2Proof

@[simp] theorem State.at_now (s : State) (t : Nat) : (s.at t).now = max s.now t := rfl
@[simp] theorem State.at_pending (s : State) (t : Nat) : (s.at t).pending = s.pending := rfl
@[simp] theorem State.at_fields (s : State) (t : Nat) : (s.at t).fields = s.fields := rfl
@[simp] theorem State.at_pend (s : State) (t : Nat) : (s.at t).pend = s.pend := rfl
@[simp] theorem State.at_stats (s : State) (t : Nat) : (s.at t).stats = s.stats := rfl
@[simp] theorem State.at_evTimes (s : State) (t : Nat) : (s.at t).evTimes = s.evTimes := rfl
@[simp] theorem State.at_out (s : State) (t : Nat) : (s.at t).out = s.out := rfl
@[simp] theorem State.at_entropyCtr (s : State) (t : Nat) : (s.at t).entropyCtr = s.entropyCtr := rfl
@[simp] theorem State.at_freeCtr (s : State) (t : Nat) : (s.at t).freeCtr = s.freeCtr := rfl
@[simp] theorem State.at_dom (s : State) (t : Nat) : (s.at t).dom = s.dom := rfl
@[simp] theorem State.at_die (s : State) (t : Nat) : (s.at t).die = s.die := rfl
@[simp] theorem State.at_avs (s : State) (t : Nat) : (s.at t).avs = s.avs := rfl
@[simp] theorem State.at_host (s : State) (t : Nat) : (s.at t).host = s.host := rfl
@[simp] theorem State.at_qp (s : State) (t : Nat) : (s.at t).qp = s.qp := rfl
@[simp] theorem State.at_mgmt (s : State) (t : Nat) : (s.at t).mgmt = s.mgmt := rfl
@[simp] theorem State.at_sec (s : State) (t : Nat) : (s.at t).sec = s.sec := rfl
@[simp] theorem State.at_boot (s : State) (t : Nat) : (s.at t).boot = s.boot := rfl
@[simp] theorem State.at_region (s : State) (t : Nat) : (s.at t).region = s.region := rfl
@[simp] theorem State.at_live (s : State) (t : Nat) : (s.at t).live = s.live := rfl
@[simp] theorem State.at_berth (s : State) (t : Nat) : (s.at t).berth = s.berth := rfl
@[simp] theorem State.at_line (s : State) (t : Nat) : (s.at t).line = s.line := rfl
@[simp] theorem State.at_ctxs (s : State) (t : Nat) : (s.at t).ctxs = s.ctxs := rfl
@[simp] theorem State.at_owns (s : State) (t : Nat) : (s.at t).owns = s.owns := rfl
@[simp] theorem State.at_mesh (s : State) (t : Nat) : (s.at t).mesh = s.mesh := rfl
@[simp] theorem State.at_hold (s : State) (t : Nat) : (s.at t).hold = s.hold := rfl
@[simp] theorem State.at_eth (s : State) (t : Nat) : (s.at t).eth = s.eth := rfl
@[simp] theorem State.at_fab (s : State) (t : Nat) : (s.at t).fab = s.fab := rfl
@[simp] theorem State.at_clk (s : State) (t : Nat) : (s.at t).clk = s.clk := rfl
@[simp] theorem State.at_sense (s : State) (t : Nat) : (s.at t).sense = s.sense := rfl
@[simp] theorem State.at_senseBlank (s : State) (t : Nat) : (s.at t).senseBlank = s.senseBlank := rfl
@[simp] theorem State.at_loop (s : State) (t : Nat) : (s.at t).loop = s.loop := rfl
@[simp] theorem State.at_chk (s : State) (t : Nat) : (s.at t).chk = s.chk := rfl
@[simp] theorem State.at_uart (s : State) (t : Nat) : (s.at t).uart = s.uart := rfl

@[simp] theorem State.setDomRec_now (s : State) (k : DomId) (d : Dom) : (s.setDomRec k d).now = s.now := rfl
@[simp] theorem State.setDomRec_pending (s : State) (k : DomId) (d : Dom) : (s.setDomRec k d).pending = s.pending := rfl
@[simp] theorem State.setDomRec_fields (s : State) (k : DomId) (d : Dom) : (s.setDomRec k d).fields = s.fields := rfl
@[simp] theorem State.setDomRec_pend (s : State) (k : DomId) (d : Dom) : (s.setDomRec k d).pend = s.pend := rfl
@[simp] theorem State.setDomRec_stats (s : State) (k : DomId) (d : Dom) : (s.setDomRec k d).stats = s.stats := rfl
@[simp] theorem State.setDomRec_evTimes (s : State) (k : DomId) (d : Dom) : (s.setDomRec k d).evTimes = s.evTimes := rfl
@[simp] theorem State.setDomRec_out (s : State) (k : DomId) (d : Dom) : (s.setDomRec k d).out = s.out := rfl
@[simp] theorem State.setDomRec_entropyCtr (s : State) (k : DomId) (d : Dom) : (s.setDomRec k d).entropyCtr = s.entropyCtr := rfl
@[simp] theorem State.setDomRec_freeCtr (s : State) (k : DomId) (d : Dom) : (s.setDomRec k d).freeCtr = s.freeCtr := rfl
@[simp] theorem State.setDomRec_dom (s : State) (k : DomId) (d : Dom) : (s.setDomRec k d).dom = s.dom.set k d := rfl
@[simp] theorem State.setDomRec_die (s : State) (k : DomId) (d : Dom) : (s.setDomRec k d).die = s.die := rfl
@[simp] theorem State.setDomRec_avs (s : State) (k : DomId) (d : Dom) : (s.setDomRec k d).avs = s.avs := rfl
@[simp] theorem State.setDomRec_host (s : State) (k : DomId) (d : Dom) : (s.setDomRec k d).host = s.host := rfl
@[simp] theorem State.setDomRec_qp (s : State) (k : DomId) (d : Dom) : (s.setDomRec k d).qp = s.qp := rfl
@[simp] theorem State.setDomRec_mgmt (s : State) (k : DomId) (d : Dom) : (s.setDomRec k d).mgmt = s.mgmt := rfl
@[simp] theorem State.setDomRec_sec (s : State) (k : DomId) (d : Dom) : (s.setDomRec k d).sec = s.sec := rfl
@[simp] theorem State.setDomRec_boot (s : State) (k : DomId) (d : Dom) : (s.setDomRec k d).boot = s.boot := rfl
@[simp] theorem State.setDomRec_region (s : State) (k : DomId) (d : Dom) : (s.setDomRec k d).region = s.region := rfl
@[simp] theorem State.setDomRec_live (s : State) (k : DomId) (d : Dom) : (s.setDomRec k d).live = s.live := rfl
@[simp] theorem State.setDomRec_berth (s : State) (k : DomId) (d : Dom) : (s.setDomRec k d).berth = s.berth := rfl
@[simp] theorem State.setDomRec_line (s : State) (k : DomId) (d : Dom) : (s.setDomRec k d).line = s.line := rfl
@[simp] theorem State.setDomRec_ctxs (s : State) (k : DomId) (d : Dom) : (s.setDomRec k d).ctxs = s.ctxs := rfl
@[simp] theorem State.setDomRec_owns (s : State) (k : DomId) (d : Dom) : (s.setDomRec k d).owns = s.owns := rfl
@[simp] theorem State.setDomRec_mesh (s : State) (k : DomId) (d : Dom) : (s.setDomRec k d).mesh = s.mesh := rfl
@[simp] theorem State.setDomRec_hold (s : State) (k : DomId) (d : Dom) : (s.setDomRec k d).hold = s.hold := rfl
@[simp] theorem State.setDomRec_eth (s : State) (k : DomId) (d : Dom) : (s.setDomRec k d).eth = s.eth := rfl
@[simp] theorem State.setDomRec_fab (s : State) (k : DomId) (d : Dom) : (s.setDomRec k d).fab = s.fab := rfl
@[simp] theorem State.setDomRec_clk (s : State) (k : DomId) (d : Dom) : (s.setDomRec k d).clk = s.clk := rfl
@[simp] theorem State.setDomRec_sense (s : State) (k : DomId) (d : Dom) : (s.setDomRec k d).sense = s.sense := rfl
@[simp] theorem State.setDomRec_senseBlank (s : State) (k : DomId) (d : Dom) : (s.setDomRec k d).senseBlank = s.senseBlank := rfl
@[simp] theorem State.setDomRec_loop (s : State) (k : DomId) (d : Dom) : (s.setDomRec k d).loop = s.loop := rfl
@[simp] theorem State.setDomRec_chk (s : State) (k : DomId) (d : Dom) : (s.setDomRec k d).chk = s.chk := rfl
@[simp] theorem State.setDomRec_uart (s : State) (k : DomId) (d : Dom) : (s.setDomRec k d).uart = s.uart := rfl

@[simp] theorem State.setQp_now (s : State) (q : QpId) (x : Qp) : (s.setQp q x).now = s.now := rfl
@[simp] theorem State.setQp_pending (s : State) (q : QpId) (x : Qp) : (s.setQp q x).pending = s.pending := rfl
@[simp] theorem State.setQp_fields (s : State) (q : QpId) (x : Qp) : (s.setQp q x).fields = s.fields := rfl
@[simp] theorem State.setQp_pend (s : State) (q : QpId) (x : Qp) : (s.setQp q x).pend = s.pend := rfl
@[simp] theorem State.setQp_stats (s : State) (q : QpId) (x : Qp) : (s.setQp q x).stats = s.stats := rfl
@[simp] theorem State.setQp_evTimes (s : State) (q : QpId) (x : Qp) : (s.setQp q x).evTimes = s.evTimes := rfl
@[simp] theorem State.setQp_out (s : State) (q : QpId) (x : Qp) : (s.setQp q x).out = s.out := rfl
@[simp] theorem State.setQp_entropyCtr (s : State) (q : QpId) (x : Qp) : (s.setQp q x).entropyCtr = s.entropyCtr := rfl
@[simp] theorem State.setQp_freeCtr (s : State) (q : QpId) (x : Qp) : (s.setQp q x).freeCtr = s.freeCtr := rfl
@[simp] theorem State.setQp_dom (s : State) (q : QpId) (x : Qp) : (s.setQp q x).dom = s.dom := rfl
@[simp] theorem State.setQp_die (s : State) (q : QpId) (x : Qp) : (s.setQp q x).die = s.die := rfl
@[simp] theorem State.setQp_avs (s : State) (q : QpId) (x : Qp) : (s.setQp q x).avs = s.avs := rfl
@[simp] theorem State.setQp_host (s : State) (q : QpId) (x : Qp) : (s.setQp q x).host = s.host := rfl
@[simp] theorem State.setQp_qp (s : State) (q : QpId) (x : Qp) : (s.setQp q x).qp = s.qp.set q x := rfl
@[simp] theorem State.setQp_mgmt (s : State) (q : QpId) (x : Qp) : (s.setQp q x).mgmt = s.mgmt := rfl
@[simp] theorem State.setQp_sec (s : State) (q : QpId) (x : Qp) : (s.setQp q x).sec = s.sec := rfl
@[simp] theorem State.setQp_boot (s : State) (q : QpId) (x : Qp) : (s.setQp q x).boot = s.boot := rfl
@[simp] theorem State.setQp_region (s : State) (q : QpId) (x : Qp) : (s.setQp q x).region = s.region := rfl
@[simp] theorem State.setQp_live (s : State) (q : QpId) (x : Qp) : (s.setQp q x).live = s.live := rfl
@[simp] theorem State.setQp_berth (s : State) (q : QpId) (x : Qp) : (s.setQp q x).berth = s.berth := rfl
@[simp] theorem State.setQp_line (s : State) (q : QpId) (x : Qp) : (s.setQp q x).line = s.line := rfl
@[simp] theorem State.setQp_ctxs (s : State) (q : QpId) (x : Qp) : (s.setQp q x).ctxs = s.ctxs := rfl
@[simp] theorem State.setQp_owns (s : State) (q : QpId) (x : Qp) : (s.setQp q x).owns = s.owns := rfl
@[simp] theorem State.setQp_mesh (s : State) (q : QpId) (x : Qp) : (s.setQp q x).mesh = s.mesh := rfl
@[simp] theorem State.setQp_hold (s : State) (q : QpId) (x : Qp) : (s.setQp q x).hold = s.hold := rfl
@[simp] theorem State.setQp_eth (s : State) (q : QpId) (x : Qp) : (s.setQp q x).eth = s.eth := rfl
@[simp] theorem State.setQp_fab (s : State) (q : QpId) (x : Qp) : (s.setQp q x).fab = s.fab := rfl
@[simp] theorem State.setQp_clk (s : State) (q : QpId) (x : Qp) : (s.setQp q x).clk = s.clk := rfl
@[simp] theorem State.setQp_sense (s : State) (q : QpId) (x : Qp) : (s.setQp q x).sense = s.sense := rfl
@[simp] theorem State.setQp_senseBlank (s : State) (q : QpId) (x : Qp) : (s.setQp q x).senseBlank = s.senseBlank := rfl
@[simp] theorem State.setQp_loop (s : State) (q : QpId) (x : Qp) : (s.setQp q x).loop = s.loop := rfl
@[simp] theorem State.setQp_chk (s : State) (q : QpId) (x : Qp) : (s.setQp q x).chk = s.chk := rfl
@[simp] theorem State.setQp_uart (s : State) (q : QpId) (x : Qp) : (s.setQp q x).uart = s.uart := rfl

@[simp] theorem State.setBerth_now (s : State) (b : Berth) (x : BerthSt) : (s.setBerth b x).now = s.now := rfl
@[simp] theorem State.setBerth_pending (s : State) (b : Berth) (x : BerthSt) : (s.setBerth b x).pending = s.pending := rfl
@[simp] theorem State.setBerth_fields (s : State) (b : Berth) (x : BerthSt) : (s.setBerth b x).fields = s.fields := rfl
@[simp] theorem State.setBerth_pend (s : State) (b : Berth) (x : BerthSt) : (s.setBerth b x).pend = s.pend := rfl
@[simp] theorem State.setBerth_stats (s : State) (b : Berth) (x : BerthSt) : (s.setBerth b x).stats = s.stats := rfl
@[simp] theorem State.setBerth_evTimes (s : State) (b : Berth) (x : BerthSt) : (s.setBerth b x).evTimes = s.evTimes := rfl
@[simp] theorem State.setBerth_out (s : State) (b : Berth) (x : BerthSt) : (s.setBerth b x).out = s.out := rfl
@[simp] theorem State.setBerth_entropyCtr (s : State) (b : Berth) (x : BerthSt) : (s.setBerth b x).entropyCtr = s.entropyCtr := rfl
@[simp] theorem State.setBerth_freeCtr (s : State) (b : Berth) (x : BerthSt) : (s.setBerth b x).freeCtr = s.freeCtr := rfl
@[simp] theorem State.setBerth_dom (s : State) (b : Berth) (x : BerthSt) : (s.setBerth b x).dom = s.dom := rfl
@[simp] theorem State.setBerth_die (s : State) (b : Berth) (x : BerthSt) : (s.setBerth b x).die = s.die := rfl
@[simp] theorem State.setBerth_avs (s : State) (b : Berth) (x : BerthSt) : (s.setBerth b x).avs = s.avs := rfl
@[simp] theorem State.setBerth_host (s : State) (b : Berth) (x : BerthSt) : (s.setBerth b x).host = s.host := rfl
@[simp] theorem State.setBerth_qp (s : State) (b : Berth) (x : BerthSt) : (s.setBerth b x).qp = s.qp := rfl
@[simp] theorem State.setBerth_mgmt (s : State) (b : Berth) (x : BerthSt) : (s.setBerth b x).mgmt = s.mgmt := rfl
@[simp] theorem State.setBerth_sec (s : State) (b : Berth) (x : BerthSt) : (s.setBerth b x).sec = s.sec := rfl
@[simp] theorem State.setBerth_boot (s : State) (b : Berth) (x : BerthSt) : (s.setBerth b x).boot = s.boot := rfl
@[simp] theorem State.setBerth_region (s : State) (b : Berth) (x : BerthSt) : (s.setBerth b x).region = s.region := rfl
@[simp] theorem State.setBerth_live (s : State) (b : Berth) (x : BerthSt) : (s.setBerth b x).live = s.live := rfl
@[simp] theorem State.setBerth_berth (s : State) (b : Berth) (x : BerthSt) : (s.setBerth b x).berth = s.berth.set b x := rfl
@[simp] theorem State.setBerth_line (s : State) (b : Berth) (x : BerthSt) : (s.setBerth b x).line = s.line := rfl
@[simp] theorem State.setBerth_ctxs (s : State) (b : Berth) (x : BerthSt) : (s.setBerth b x).ctxs = s.ctxs := rfl
@[simp] theorem State.setBerth_owns (s : State) (b : Berth) (x : BerthSt) : (s.setBerth b x).owns = s.owns := rfl
@[simp] theorem State.setBerth_mesh (s : State) (b : Berth) (x : BerthSt) : (s.setBerth b x).mesh = s.mesh := rfl
@[simp] theorem State.setBerth_hold (s : State) (b : Berth) (x : BerthSt) : (s.setBerth b x).hold = s.hold := rfl
@[simp] theorem State.setBerth_eth (s : State) (b : Berth) (x : BerthSt) : (s.setBerth b x).eth = s.eth := rfl
@[simp] theorem State.setBerth_fab (s : State) (b : Berth) (x : BerthSt) : (s.setBerth b x).fab = s.fab := rfl
@[simp] theorem State.setBerth_clk (s : State) (b : Berth) (x : BerthSt) : (s.setBerth b x).clk = s.clk := rfl
@[simp] theorem State.setBerth_sense (s : State) (b : Berth) (x : BerthSt) : (s.setBerth b x).sense = s.sense := rfl
@[simp] theorem State.setBerth_senseBlank (s : State) (b : Berth) (x : BerthSt) : (s.setBerth b x).senseBlank = s.senseBlank := rfl
@[simp] theorem State.setBerth_loop (s : State) (b : Berth) (x : BerthSt) : (s.setBerth b x).loop = s.loop := rfl
@[simp] theorem State.setBerth_chk (s : State) (b : Berth) (x : BerthSt) : (s.setBerth b x).chk = s.chk := rfl
@[simp] theorem State.setBerth_uart (s : State) (b : Berth) (x : BerthSt) : (s.setBerth b x).uart = s.uart := rfl

@[simp] theorem State.setLine_now (s : State) (b : Berth) (x : Line) : (s.setLine b x).now = s.now := rfl
@[simp] theorem State.setLine_pending (s : State) (b : Berth) (x : Line) : (s.setLine b x).pending = s.pending := rfl
@[simp] theorem State.setLine_fields (s : State) (b : Berth) (x : Line) : (s.setLine b x).fields = s.fields := rfl
@[simp] theorem State.setLine_pend (s : State) (b : Berth) (x : Line) : (s.setLine b x).pend = s.pend := rfl
@[simp] theorem State.setLine_stats (s : State) (b : Berth) (x : Line) : (s.setLine b x).stats = s.stats := rfl
@[simp] theorem State.setLine_evTimes (s : State) (b : Berth) (x : Line) : (s.setLine b x).evTimes = s.evTimes := rfl
@[simp] theorem State.setLine_out (s : State) (b : Berth) (x : Line) : (s.setLine b x).out = s.out := rfl
@[simp] theorem State.setLine_entropyCtr (s : State) (b : Berth) (x : Line) : (s.setLine b x).entropyCtr = s.entropyCtr := rfl
@[simp] theorem State.setLine_freeCtr (s : State) (b : Berth) (x : Line) : (s.setLine b x).freeCtr = s.freeCtr := rfl
@[simp] theorem State.setLine_dom (s : State) (b : Berth) (x : Line) : (s.setLine b x).dom = s.dom := rfl
@[simp] theorem State.setLine_die (s : State) (b : Berth) (x : Line) : (s.setLine b x).die = s.die := rfl
@[simp] theorem State.setLine_avs (s : State) (b : Berth) (x : Line) : (s.setLine b x).avs = s.avs := rfl
@[simp] theorem State.setLine_host (s : State) (b : Berth) (x : Line) : (s.setLine b x).host = s.host := rfl
@[simp] theorem State.setLine_qp (s : State) (b : Berth) (x : Line) : (s.setLine b x).qp = s.qp := rfl
@[simp] theorem State.setLine_mgmt (s : State) (b : Berth) (x : Line) : (s.setLine b x).mgmt = s.mgmt := rfl
@[simp] theorem State.setLine_sec (s : State) (b : Berth) (x : Line) : (s.setLine b x).sec = s.sec := rfl
@[simp] theorem State.setLine_boot (s : State) (b : Berth) (x : Line) : (s.setLine b x).boot = s.boot := rfl
@[simp] theorem State.setLine_region (s : State) (b : Berth) (x : Line) : (s.setLine b x).region = s.region := rfl
@[simp] theorem State.setLine_live (s : State) (b : Berth) (x : Line) : (s.setLine b x).live = s.live := rfl
@[simp] theorem State.setLine_berth (s : State) (b : Berth) (x : Line) : (s.setLine b x).berth = s.berth := rfl
@[simp] theorem State.setLine_line (s : State) (b : Berth) (x : Line) : (s.setLine b x).line = s.line.set b x := rfl
@[simp] theorem State.setLine_ctxs (s : State) (b : Berth) (x : Line) : (s.setLine b x).ctxs = s.ctxs := rfl
@[simp] theorem State.setLine_owns (s : State) (b : Berth) (x : Line) : (s.setLine b x).owns = s.owns := rfl
@[simp] theorem State.setLine_mesh (s : State) (b : Berth) (x : Line) : (s.setLine b x).mesh = s.mesh := rfl
@[simp] theorem State.setLine_hold (s : State) (b : Berth) (x : Line) : (s.setLine b x).hold = s.hold := rfl
@[simp] theorem State.setLine_eth (s : State) (b : Berth) (x : Line) : (s.setLine b x).eth = s.eth := rfl
@[simp] theorem State.setLine_fab (s : State) (b : Berth) (x : Line) : (s.setLine b x).fab = s.fab := rfl
@[simp] theorem State.setLine_clk (s : State) (b : Berth) (x : Line) : (s.setLine b x).clk = s.clk := rfl
@[simp] theorem State.setLine_sense (s : State) (b : Berth) (x : Line) : (s.setLine b x).sense = s.sense := rfl
@[simp] theorem State.setLine_senseBlank (s : State) (b : Berth) (x : Line) : (s.setLine b x).senseBlank = s.senseBlank := rfl
@[simp] theorem State.setLine_loop (s : State) (b : Berth) (x : Line) : (s.setLine b x).loop = s.loop := rfl
@[simp] theorem State.setLine_chk (s : State) (b : Berth) (x : Line) : (s.setLine b x).chk = s.chk := rfl
@[simp] theorem State.setLine_uart (s : State) (b : Berth) (x : Line) : (s.setLine b x).uart = s.uart := rfl

@[simp] theorem State.setRegion_now (s : State) (r : Fin 9) (x : RegionSt) : (s.setRegion r x).now = s.now := rfl
@[simp] theorem State.setRegion_pending (s : State) (r : Fin 9) (x : RegionSt) : (s.setRegion r x).pending = s.pending := rfl
@[simp] theorem State.setRegion_fields (s : State) (r : Fin 9) (x : RegionSt) : (s.setRegion r x).fields = s.fields := rfl
@[simp] theorem State.setRegion_pend (s : State) (r : Fin 9) (x : RegionSt) : (s.setRegion r x).pend = s.pend := rfl
@[simp] theorem State.setRegion_stats (s : State) (r : Fin 9) (x : RegionSt) : (s.setRegion r x).stats = s.stats := rfl
@[simp] theorem State.setRegion_evTimes (s : State) (r : Fin 9) (x : RegionSt) : (s.setRegion r x).evTimes = s.evTimes := rfl
@[simp] theorem State.setRegion_out (s : State) (r : Fin 9) (x : RegionSt) : (s.setRegion r x).out = s.out := rfl
@[simp] theorem State.setRegion_entropyCtr (s : State) (r : Fin 9) (x : RegionSt) : (s.setRegion r x).entropyCtr = s.entropyCtr := rfl
@[simp] theorem State.setRegion_freeCtr (s : State) (r : Fin 9) (x : RegionSt) : (s.setRegion r x).freeCtr = s.freeCtr := rfl
@[simp] theorem State.setRegion_dom (s : State) (r : Fin 9) (x : RegionSt) : (s.setRegion r x).dom = s.dom := rfl
@[simp] theorem State.setRegion_die (s : State) (r : Fin 9) (x : RegionSt) : (s.setRegion r x).die = s.die := rfl
@[simp] theorem State.setRegion_avs (s : State) (r : Fin 9) (x : RegionSt) : (s.setRegion r x).avs = s.avs := rfl
@[simp] theorem State.setRegion_host (s : State) (r : Fin 9) (x : RegionSt) : (s.setRegion r x).host = s.host := rfl
@[simp] theorem State.setRegion_qp (s : State) (r : Fin 9) (x : RegionSt) : (s.setRegion r x).qp = s.qp := rfl
@[simp] theorem State.setRegion_mgmt (s : State) (r : Fin 9) (x : RegionSt) : (s.setRegion r x).mgmt = s.mgmt := rfl
@[simp] theorem State.setRegion_sec (s : State) (r : Fin 9) (x : RegionSt) : (s.setRegion r x).sec = s.sec := rfl
@[simp] theorem State.setRegion_boot (s : State) (r : Fin 9) (x : RegionSt) : (s.setRegion r x).boot = s.boot := rfl
@[simp] theorem State.setRegion_region (s : State) (r : Fin 9) (x : RegionSt) : (s.setRegion r x).region = s.region.set r x := rfl
@[simp] theorem State.setRegion_live (s : State) (r : Fin 9) (x : RegionSt) : (s.setRegion r x).live = s.live := rfl
@[simp] theorem State.setRegion_berth (s : State) (r : Fin 9) (x : RegionSt) : (s.setRegion r x).berth = s.berth := rfl
@[simp] theorem State.setRegion_line (s : State) (r : Fin 9) (x : RegionSt) : (s.setRegion r x).line = s.line := rfl
@[simp] theorem State.setRegion_ctxs (s : State) (r : Fin 9) (x : RegionSt) : (s.setRegion r x).ctxs = s.ctxs := rfl
@[simp] theorem State.setRegion_owns (s : State) (r : Fin 9) (x : RegionSt) : (s.setRegion r x).owns = s.owns := rfl
@[simp] theorem State.setRegion_mesh (s : State) (r : Fin 9) (x : RegionSt) : (s.setRegion r x).mesh = s.mesh := rfl
@[simp] theorem State.setRegion_hold (s : State) (r : Fin 9) (x : RegionSt) : (s.setRegion r x).hold = s.hold := rfl
@[simp] theorem State.setRegion_eth (s : State) (r : Fin 9) (x : RegionSt) : (s.setRegion r x).eth = s.eth := rfl
@[simp] theorem State.setRegion_fab (s : State) (r : Fin 9) (x : RegionSt) : (s.setRegion r x).fab = s.fab := rfl
@[simp] theorem State.setRegion_clk (s : State) (r : Fin 9) (x : RegionSt) : (s.setRegion r x).clk = s.clk := rfl
@[simp] theorem State.setRegion_sense (s : State) (r : Fin 9) (x : RegionSt) : (s.setRegion r x).sense = s.sense := rfl
@[simp] theorem State.setRegion_senseBlank (s : State) (r : Fin 9) (x : RegionSt) : (s.setRegion r x).senseBlank = s.senseBlank := rfl
@[simp] theorem State.setRegion_loop (s : State) (r : Fin 9) (x : RegionSt) : (s.setRegion r x).loop = s.loop := rfl
@[simp] theorem State.setRegion_chk (s : State) (r : Fin 9) (x : RegionSt) : (s.setRegion r x).chk = s.chk := rfl
@[simp] theorem State.setRegion_uart (s : State) (r : Fin 9) (x : RegionSt) : (s.setRegion r x).uart = s.uart := rfl

@[simp] theorem State.setD2d_now (s : State) (d : D2dId) (x : DieLink) : (s.setD2d d x).now = s.now := rfl
@[simp] theorem State.setD2d_pending (s : State) (d : D2dId) (x : DieLink) : (s.setD2d d x).pending = s.pending := rfl
@[simp] theorem State.setD2d_fields (s : State) (d : D2dId) (x : DieLink) : (s.setD2d d x).fields = s.fields := rfl
@[simp] theorem State.setD2d_pend (s : State) (d : D2dId) (x : DieLink) : (s.setD2d d x).pend = s.pend := rfl
@[simp] theorem State.setD2d_stats (s : State) (d : D2dId) (x : DieLink) : (s.setD2d d x).stats = s.stats := rfl
@[simp] theorem State.setD2d_evTimes (s : State) (d : D2dId) (x : DieLink) : (s.setD2d d x).evTimes = s.evTimes := rfl
@[simp] theorem State.setD2d_out (s : State) (d : D2dId) (x : DieLink) : (s.setD2d d x).out = s.out := rfl
@[simp] theorem State.setD2d_entropyCtr (s : State) (d : D2dId) (x : DieLink) : (s.setD2d d x).entropyCtr = s.entropyCtr := rfl
@[simp] theorem State.setD2d_freeCtr (s : State) (d : D2dId) (x : DieLink) : (s.setD2d d x).freeCtr = s.freeCtr := rfl
@[simp] theorem State.setD2d_dom (s : State) (d : D2dId) (x : DieLink) : (s.setD2d d x).dom = s.dom := rfl
@[simp] theorem State.setD2d_die (s : State) (d : D2dId) (x : DieLink) : (s.setD2d d x).die = s.die.set d x := rfl
@[simp] theorem State.setD2d_avs (s : State) (d : D2dId) (x : DieLink) : (s.setD2d d x).avs = s.avs := rfl
@[simp] theorem State.setD2d_host (s : State) (d : D2dId) (x : DieLink) : (s.setD2d d x).host = s.host := rfl
@[simp] theorem State.setD2d_qp (s : State) (d : D2dId) (x : DieLink) : (s.setD2d d x).qp = s.qp := rfl
@[simp] theorem State.setD2d_mgmt (s : State) (d : D2dId) (x : DieLink) : (s.setD2d d x).mgmt = s.mgmt := rfl
@[simp] theorem State.setD2d_sec (s : State) (d : D2dId) (x : DieLink) : (s.setD2d d x).sec = s.sec := rfl
@[simp] theorem State.setD2d_boot (s : State) (d : D2dId) (x : DieLink) : (s.setD2d d x).boot = s.boot := rfl
@[simp] theorem State.setD2d_region (s : State) (d : D2dId) (x : DieLink) : (s.setD2d d x).region = s.region := rfl
@[simp] theorem State.setD2d_live (s : State) (d : D2dId) (x : DieLink) : (s.setD2d d x).live = s.live := rfl
@[simp] theorem State.setD2d_berth (s : State) (d : D2dId) (x : DieLink) : (s.setD2d d x).berth = s.berth := rfl
@[simp] theorem State.setD2d_line (s : State) (d : D2dId) (x : DieLink) : (s.setD2d d x).line = s.line := rfl
@[simp] theorem State.setD2d_ctxs (s : State) (d : D2dId) (x : DieLink) : (s.setD2d d x).ctxs = s.ctxs := rfl
@[simp] theorem State.setD2d_owns (s : State) (d : D2dId) (x : DieLink) : (s.setD2d d x).owns = s.owns := rfl
@[simp] theorem State.setD2d_mesh (s : State) (d : D2dId) (x : DieLink) : (s.setD2d d x).mesh = s.mesh := rfl
@[simp] theorem State.setD2d_hold (s : State) (d : D2dId) (x : DieLink) : (s.setD2d d x).hold = s.hold := rfl
@[simp] theorem State.setD2d_eth (s : State) (d : D2dId) (x : DieLink) : (s.setD2d d x).eth = s.eth := rfl
@[simp] theorem State.setD2d_fab (s : State) (d : D2dId) (x : DieLink) : (s.setD2d d x).fab = s.fab := rfl
@[simp] theorem State.setD2d_clk (s : State) (d : D2dId) (x : DieLink) : (s.setD2d d x).clk = s.clk := rfl
@[simp] theorem State.setD2d_sense (s : State) (d : D2dId) (x : DieLink) : (s.setD2d d x).sense = s.sense := rfl
@[simp] theorem State.setD2d_senseBlank (s : State) (d : D2dId) (x : DieLink) : (s.setD2d d x).senseBlank = s.senseBlank := rfl
@[simp] theorem State.setD2d_loop (s : State) (d : D2dId) (x : DieLink) : (s.setD2d d x).loop = s.loop := rfl
@[simp] theorem State.setD2d_chk (s : State) (d : D2dId) (x : DieLink) : (s.setD2d d x).chk = s.chk := rfl
@[simp] theorem State.setD2d_uart (s : State) (d : D2dId) (x : DieLink) : (s.setD2d d x).uart = s.uart := rfl

@[simp] theorem State.modBerth_now (s : State) (b : Berth) (f : BerthSt → BerthSt) : (s.modBerth b f).now = s.now := rfl
@[simp] theorem State.modBerth_pending (s : State) (b : Berth) (f : BerthSt → BerthSt) : (s.modBerth b f).pending = s.pending := rfl
@[simp] theorem State.modBerth_fields (s : State) (b : Berth) (f : BerthSt → BerthSt) : (s.modBerth b f).fields = s.fields := rfl
@[simp] theorem State.modBerth_pend (s : State) (b : Berth) (f : BerthSt → BerthSt) : (s.modBerth b f).pend = s.pend := rfl
@[simp] theorem State.modBerth_stats (s : State) (b : Berth) (f : BerthSt → BerthSt) : (s.modBerth b f).stats = s.stats := rfl
@[simp] theorem State.modBerth_evTimes (s : State) (b : Berth) (f : BerthSt → BerthSt) : (s.modBerth b f).evTimes = s.evTimes := rfl
@[simp] theorem State.modBerth_out (s : State) (b : Berth) (f : BerthSt → BerthSt) : (s.modBerth b f).out = s.out := rfl
@[simp] theorem State.modBerth_entropyCtr (s : State) (b : Berth) (f : BerthSt → BerthSt) : (s.modBerth b f).entropyCtr = s.entropyCtr := rfl
@[simp] theorem State.modBerth_freeCtr (s : State) (b : Berth) (f : BerthSt → BerthSt) : (s.modBerth b f).freeCtr = s.freeCtr := rfl
@[simp] theorem State.modBerth_dom (s : State) (b : Berth) (f : BerthSt → BerthSt) : (s.modBerth b f).dom = s.dom := rfl
@[simp] theorem State.modBerth_die (s : State) (b : Berth) (f : BerthSt → BerthSt) : (s.modBerth b f).die = s.die := rfl
@[simp] theorem State.modBerth_avs (s : State) (b : Berth) (f : BerthSt → BerthSt) : (s.modBerth b f).avs = s.avs := rfl
@[simp] theorem State.modBerth_host (s : State) (b : Berth) (f : BerthSt → BerthSt) : (s.modBerth b f).host = s.host := rfl
@[simp] theorem State.modBerth_qp (s : State) (b : Berth) (f : BerthSt → BerthSt) : (s.modBerth b f).qp = s.qp := rfl
@[simp] theorem State.modBerth_mgmt (s : State) (b : Berth) (f : BerthSt → BerthSt) : (s.modBerth b f).mgmt = s.mgmt := rfl
@[simp] theorem State.modBerth_sec (s : State) (b : Berth) (f : BerthSt → BerthSt) : (s.modBerth b f).sec = s.sec := rfl
@[simp] theorem State.modBerth_boot (s : State) (b : Berth) (f : BerthSt → BerthSt) : (s.modBerth b f).boot = s.boot := rfl
@[simp] theorem State.modBerth_region (s : State) (b : Berth) (f : BerthSt → BerthSt) : (s.modBerth b f).region = s.region := rfl
@[simp] theorem State.modBerth_live (s : State) (b : Berth) (f : BerthSt → BerthSt) : (s.modBerth b f).live = s.live := rfl
@[simp] theorem State.modBerth_berth (s : State) (b : Berth) (f : BerthSt → BerthSt) : (s.modBerth b f).berth = s.berth.set b (f s.berth[b]) := rfl
@[simp] theorem State.modBerth_line (s : State) (b : Berth) (f : BerthSt → BerthSt) : (s.modBerth b f).line = s.line := rfl
@[simp] theorem State.modBerth_ctxs (s : State) (b : Berth) (f : BerthSt → BerthSt) : (s.modBerth b f).ctxs = s.ctxs := rfl
@[simp] theorem State.modBerth_owns (s : State) (b : Berth) (f : BerthSt → BerthSt) : (s.modBerth b f).owns = s.owns := rfl
@[simp] theorem State.modBerth_mesh (s : State) (b : Berth) (f : BerthSt → BerthSt) : (s.modBerth b f).mesh = s.mesh := rfl
@[simp] theorem State.modBerth_hold (s : State) (b : Berth) (f : BerthSt → BerthSt) : (s.modBerth b f).hold = s.hold := rfl
@[simp] theorem State.modBerth_eth (s : State) (b : Berth) (f : BerthSt → BerthSt) : (s.modBerth b f).eth = s.eth := rfl
@[simp] theorem State.modBerth_fab (s : State) (b : Berth) (f : BerthSt → BerthSt) : (s.modBerth b f).fab = s.fab := rfl
@[simp] theorem State.modBerth_clk (s : State) (b : Berth) (f : BerthSt → BerthSt) : (s.modBerth b f).clk = s.clk := rfl
@[simp] theorem State.modBerth_sense (s : State) (b : Berth) (f : BerthSt → BerthSt) : (s.modBerth b f).sense = s.sense := rfl
@[simp] theorem State.modBerth_senseBlank (s : State) (b : Berth) (f : BerthSt → BerthSt) : (s.modBerth b f).senseBlank = s.senseBlank := rfl
@[simp] theorem State.modBerth_loop (s : State) (b : Berth) (f : BerthSt → BerthSt) : (s.modBerth b f).loop = s.loop := rfl
@[simp] theorem State.modBerth_chk (s : State) (b : Berth) (f : BerthSt → BerthSt) : (s.modBerth b f).chk = s.chk := rfl
@[simp] theorem State.modBerth_uart (s : State) (b : Berth) (f : BerthSt → BerthSt) : (s.modBerth b f).uart = s.uart := rfl

@[simp] theorem State.modLine_now (s : State) (b : Berth) (f : Line → Line) : (s.modLine b f).now = s.now := rfl
@[simp] theorem State.modLine_pending (s : State) (b : Berth) (f : Line → Line) : (s.modLine b f).pending = s.pending := rfl
@[simp] theorem State.modLine_fields (s : State) (b : Berth) (f : Line → Line) : (s.modLine b f).fields = s.fields := rfl
@[simp] theorem State.modLine_pend (s : State) (b : Berth) (f : Line → Line) : (s.modLine b f).pend = s.pend := rfl
@[simp] theorem State.modLine_stats (s : State) (b : Berth) (f : Line → Line) : (s.modLine b f).stats = s.stats := rfl
@[simp] theorem State.modLine_evTimes (s : State) (b : Berth) (f : Line → Line) : (s.modLine b f).evTimes = s.evTimes := rfl
@[simp] theorem State.modLine_out (s : State) (b : Berth) (f : Line → Line) : (s.modLine b f).out = s.out := rfl
@[simp] theorem State.modLine_entropyCtr (s : State) (b : Berth) (f : Line → Line) : (s.modLine b f).entropyCtr = s.entropyCtr := rfl
@[simp] theorem State.modLine_freeCtr (s : State) (b : Berth) (f : Line → Line) : (s.modLine b f).freeCtr = s.freeCtr := rfl
@[simp] theorem State.modLine_dom (s : State) (b : Berth) (f : Line → Line) : (s.modLine b f).dom = s.dom := rfl
@[simp] theorem State.modLine_die (s : State) (b : Berth) (f : Line → Line) : (s.modLine b f).die = s.die := rfl
@[simp] theorem State.modLine_avs (s : State) (b : Berth) (f : Line → Line) : (s.modLine b f).avs = s.avs := rfl
@[simp] theorem State.modLine_host (s : State) (b : Berth) (f : Line → Line) : (s.modLine b f).host = s.host := rfl
@[simp] theorem State.modLine_qp (s : State) (b : Berth) (f : Line → Line) : (s.modLine b f).qp = s.qp := rfl
@[simp] theorem State.modLine_mgmt (s : State) (b : Berth) (f : Line → Line) : (s.modLine b f).mgmt = s.mgmt := rfl
@[simp] theorem State.modLine_sec (s : State) (b : Berth) (f : Line → Line) : (s.modLine b f).sec = s.sec := rfl
@[simp] theorem State.modLine_boot (s : State) (b : Berth) (f : Line → Line) : (s.modLine b f).boot = s.boot := rfl
@[simp] theorem State.modLine_region (s : State) (b : Berth) (f : Line → Line) : (s.modLine b f).region = s.region := rfl
@[simp] theorem State.modLine_live (s : State) (b : Berth) (f : Line → Line) : (s.modLine b f).live = s.live := rfl
@[simp] theorem State.modLine_berth (s : State) (b : Berth) (f : Line → Line) : (s.modLine b f).berth = s.berth := rfl
@[simp] theorem State.modLine_line (s : State) (b : Berth) (f : Line → Line) : (s.modLine b f).line = s.line.set b (f s.line[b]) := rfl
@[simp] theorem State.modLine_ctxs (s : State) (b : Berth) (f : Line → Line) : (s.modLine b f).ctxs = s.ctxs := rfl
@[simp] theorem State.modLine_owns (s : State) (b : Berth) (f : Line → Line) : (s.modLine b f).owns = s.owns := rfl
@[simp] theorem State.modLine_mesh (s : State) (b : Berth) (f : Line → Line) : (s.modLine b f).mesh = s.mesh := rfl
@[simp] theorem State.modLine_hold (s : State) (b : Berth) (f : Line → Line) : (s.modLine b f).hold = s.hold := rfl
@[simp] theorem State.modLine_eth (s : State) (b : Berth) (f : Line → Line) : (s.modLine b f).eth = s.eth := rfl
@[simp] theorem State.modLine_fab (s : State) (b : Berth) (f : Line → Line) : (s.modLine b f).fab = s.fab := rfl
@[simp] theorem State.modLine_clk (s : State) (b : Berth) (f : Line → Line) : (s.modLine b f).clk = s.clk := rfl
@[simp] theorem State.modLine_sense (s : State) (b : Berth) (f : Line → Line) : (s.modLine b f).sense = s.sense := rfl
@[simp] theorem State.modLine_senseBlank (s : State) (b : Berth) (f : Line → Line) : (s.modLine b f).senseBlank = s.senseBlank := rfl
@[simp] theorem State.modLine_loop (s : State) (b : Berth) (f : Line → Line) : (s.modLine b f).loop = s.loop := rfl
@[simp] theorem State.modLine_chk (s : State) (b : Berth) (f : Line → Line) : (s.modLine b f).chk = s.chk := rfl
@[simp] theorem State.modLine_uart (s : State) (b : Berth) (f : Line → Line) : (s.modLine b f).uart = s.uart := rfl

@[simp] theorem State.modQp_now (s : State) (q : QpId) (f : Qp → Qp) : (s.modQp q f).now = s.now := rfl
@[simp] theorem State.modQp_pending (s : State) (q : QpId) (f : Qp → Qp) : (s.modQp q f).pending = s.pending := rfl
@[simp] theorem State.modQp_fields (s : State) (q : QpId) (f : Qp → Qp) : (s.modQp q f).fields = s.fields := rfl
@[simp] theorem State.modQp_pend (s : State) (q : QpId) (f : Qp → Qp) : (s.modQp q f).pend = s.pend := rfl
@[simp] theorem State.modQp_stats (s : State) (q : QpId) (f : Qp → Qp) : (s.modQp q f).stats = s.stats := rfl
@[simp] theorem State.modQp_evTimes (s : State) (q : QpId) (f : Qp → Qp) : (s.modQp q f).evTimes = s.evTimes := rfl
@[simp] theorem State.modQp_out (s : State) (q : QpId) (f : Qp → Qp) : (s.modQp q f).out = s.out := rfl
@[simp] theorem State.modQp_entropyCtr (s : State) (q : QpId) (f : Qp → Qp) : (s.modQp q f).entropyCtr = s.entropyCtr := rfl
@[simp] theorem State.modQp_freeCtr (s : State) (q : QpId) (f : Qp → Qp) : (s.modQp q f).freeCtr = s.freeCtr := rfl
@[simp] theorem State.modQp_dom (s : State) (q : QpId) (f : Qp → Qp) : (s.modQp q f).dom = s.dom := rfl
@[simp] theorem State.modQp_die (s : State) (q : QpId) (f : Qp → Qp) : (s.modQp q f).die = s.die := rfl
@[simp] theorem State.modQp_avs (s : State) (q : QpId) (f : Qp → Qp) : (s.modQp q f).avs = s.avs := rfl
@[simp] theorem State.modQp_host (s : State) (q : QpId) (f : Qp → Qp) : (s.modQp q f).host = s.host := rfl
@[simp] theorem State.modQp_qp (s : State) (q : QpId) (f : Qp → Qp) : (s.modQp q f).qp = s.qp.set q (f s.qp[q]) := rfl
@[simp] theorem State.modQp_mgmt (s : State) (q : QpId) (f : Qp → Qp) : (s.modQp q f).mgmt = s.mgmt := rfl
@[simp] theorem State.modQp_sec (s : State) (q : QpId) (f : Qp → Qp) : (s.modQp q f).sec = s.sec := rfl
@[simp] theorem State.modQp_boot (s : State) (q : QpId) (f : Qp → Qp) : (s.modQp q f).boot = s.boot := rfl
@[simp] theorem State.modQp_region (s : State) (q : QpId) (f : Qp → Qp) : (s.modQp q f).region = s.region := rfl
@[simp] theorem State.modQp_live (s : State) (q : QpId) (f : Qp → Qp) : (s.modQp q f).live = s.live := rfl
@[simp] theorem State.modQp_berth (s : State) (q : QpId) (f : Qp → Qp) : (s.modQp q f).berth = s.berth := rfl
@[simp] theorem State.modQp_line (s : State) (q : QpId) (f : Qp → Qp) : (s.modQp q f).line = s.line := rfl
@[simp] theorem State.modQp_ctxs (s : State) (q : QpId) (f : Qp → Qp) : (s.modQp q f).ctxs = s.ctxs := rfl
@[simp] theorem State.modQp_owns (s : State) (q : QpId) (f : Qp → Qp) : (s.modQp q f).owns = s.owns := rfl
@[simp] theorem State.modQp_mesh (s : State) (q : QpId) (f : Qp → Qp) : (s.modQp q f).mesh = s.mesh := rfl
@[simp] theorem State.modQp_hold (s : State) (q : QpId) (f : Qp → Qp) : (s.modQp q f).hold = s.hold := rfl
@[simp] theorem State.modQp_eth (s : State) (q : QpId) (f : Qp → Qp) : (s.modQp q f).eth = s.eth := rfl
@[simp] theorem State.modQp_fab (s : State) (q : QpId) (f : Qp → Qp) : (s.modQp q f).fab = s.fab := rfl
@[simp] theorem State.modQp_clk (s : State) (q : QpId) (f : Qp → Qp) : (s.modQp q f).clk = s.clk := rfl
@[simp] theorem State.modQp_sense (s : State) (q : QpId) (f : Qp → Qp) : (s.modQp q f).sense = s.sense := rfl
@[simp] theorem State.modQp_senseBlank (s : State) (q : QpId) (f : Qp → Qp) : (s.modQp q f).senseBlank = s.senseBlank := rfl
@[simp] theorem State.modQp_loop (s : State) (q : QpId) (f : Qp → Qp) : (s.modQp q f).loop = s.loop := rfl
@[simp] theorem State.modQp_chk (s : State) (q : QpId) (f : Qp → Qp) : (s.modQp q f).chk = s.chk := rfl
@[simp] theorem State.modQp_uart (s : State) (q : QpId) (f : Qp → Qp) : (s.modQp q f).uart = s.uart := rfl

@[simp] theorem State.modSense_now (s : State) (n : SensId) (f : SenseSt → SenseSt) : (s.modSense n f).now = s.now := rfl
@[simp] theorem State.modSense_pending (s : State) (n : SensId) (f : SenseSt → SenseSt) : (s.modSense n f).pending = s.pending := rfl
@[simp] theorem State.modSense_fields (s : State) (n : SensId) (f : SenseSt → SenseSt) : (s.modSense n f).fields = s.fields := rfl
@[simp] theorem State.modSense_pend (s : State) (n : SensId) (f : SenseSt → SenseSt) : (s.modSense n f).pend = s.pend := rfl
@[simp] theorem State.modSense_stats (s : State) (n : SensId) (f : SenseSt → SenseSt) : (s.modSense n f).stats = s.stats := rfl
@[simp] theorem State.modSense_evTimes (s : State) (n : SensId) (f : SenseSt → SenseSt) : (s.modSense n f).evTimes = s.evTimes := rfl
@[simp] theorem State.modSense_out (s : State) (n : SensId) (f : SenseSt → SenseSt) : (s.modSense n f).out = s.out := rfl
@[simp] theorem State.modSense_entropyCtr (s : State) (n : SensId) (f : SenseSt → SenseSt) : (s.modSense n f).entropyCtr = s.entropyCtr := rfl
@[simp] theorem State.modSense_freeCtr (s : State) (n : SensId) (f : SenseSt → SenseSt) : (s.modSense n f).freeCtr = s.freeCtr := rfl
@[simp] theorem State.modSense_dom (s : State) (n : SensId) (f : SenseSt → SenseSt) : (s.modSense n f).dom = s.dom := rfl
@[simp] theorem State.modSense_die (s : State) (n : SensId) (f : SenseSt → SenseSt) : (s.modSense n f).die = s.die := rfl
@[simp] theorem State.modSense_avs (s : State) (n : SensId) (f : SenseSt → SenseSt) : (s.modSense n f).avs = s.avs := rfl
@[simp] theorem State.modSense_host (s : State) (n : SensId) (f : SenseSt → SenseSt) : (s.modSense n f).host = s.host := rfl
@[simp] theorem State.modSense_qp (s : State) (n : SensId) (f : SenseSt → SenseSt) : (s.modSense n f).qp = s.qp := rfl
@[simp] theorem State.modSense_mgmt (s : State) (n : SensId) (f : SenseSt → SenseSt) : (s.modSense n f).mgmt = s.mgmt := rfl
@[simp] theorem State.modSense_sec (s : State) (n : SensId) (f : SenseSt → SenseSt) : (s.modSense n f).sec = s.sec := rfl
@[simp] theorem State.modSense_boot (s : State) (n : SensId) (f : SenseSt → SenseSt) : (s.modSense n f).boot = s.boot := rfl
@[simp] theorem State.modSense_region (s : State) (n : SensId) (f : SenseSt → SenseSt) : (s.modSense n f).region = s.region := rfl
@[simp] theorem State.modSense_live (s : State) (n : SensId) (f : SenseSt → SenseSt) : (s.modSense n f).live = s.live := rfl
@[simp] theorem State.modSense_berth (s : State) (n : SensId) (f : SenseSt → SenseSt) : (s.modSense n f).berth = s.berth := rfl
@[simp] theorem State.modSense_line (s : State) (n : SensId) (f : SenseSt → SenseSt) : (s.modSense n f).line = s.line := rfl
@[simp] theorem State.modSense_ctxs (s : State) (n : SensId) (f : SenseSt → SenseSt) : (s.modSense n f).ctxs = s.ctxs := rfl
@[simp] theorem State.modSense_owns (s : State) (n : SensId) (f : SenseSt → SenseSt) : (s.modSense n f).owns = s.owns := rfl
@[simp] theorem State.modSense_mesh (s : State) (n : SensId) (f : SenseSt → SenseSt) : (s.modSense n f).mesh = s.mesh := rfl
@[simp] theorem State.modSense_hold (s : State) (n : SensId) (f : SenseSt → SenseSt) : (s.modSense n f).hold = s.hold := rfl
@[simp] theorem State.modSense_eth (s : State) (n : SensId) (f : SenseSt → SenseSt) : (s.modSense n f).eth = s.eth := rfl
@[simp] theorem State.modSense_fab (s : State) (n : SensId) (f : SenseSt → SenseSt) : (s.modSense n f).fab = s.fab := rfl
@[simp] theorem State.modSense_clk (s : State) (n : SensId) (f : SenseSt → SenseSt) : (s.modSense n f).clk = s.clk := rfl
@[simp] theorem State.modSense_sense (s : State) (n : SensId) (f : SenseSt → SenseSt) : (s.modSense n f).sense = s.sense.set n (f s.sense[n]) := rfl
@[simp] theorem State.modSense_senseBlank (s : State) (n : SensId) (f : SenseSt → SenseSt) : (s.modSense n f).senseBlank = s.senseBlank := rfl
@[simp] theorem State.modSense_loop (s : State) (n : SensId) (f : SenseSt → SenseSt) : (s.modSense n f).loop = s.loop := rfl
@[simp] theorem State.modSense_chk (s : State) (n : SensId) (f : SenseSt → SenseSt) : (s.modSense n f).chk = s.chk := rfl
@[simp] theorem State.modSense_uart (s : State) (n : SensId) (f : SenseSt → SenseSt) : (s.modSense n f).uart = s.uart := rfl

@[simp] theorem State.modLoop_now (s : State) (j : LoopId) (f : LoopSt → LoopSt) : (s.modLoop j f).now = s.now := rfl
@[simp] theorem State.modLoop_pending (s : State) (j : LoopId) (f : LoopSt → LoopSt) : (s.modLoop j f).pending = s.pending := rfl
@[simp] theorem State.modLoop_fields (s : State) (j : LoopId) (f : LoopSt → LoopSt) : (s.modLoop j f).fields = s.fields := rfl
@[simp] theorem State.modLoop_pend (s : State) (j : LoopId) (f : LoopSt → LoopSt) : (s.modLoop j f).pend = s.pend := rfl
@[simp] theorem State.modLoop_stats (s : State) (j : LoopId) (f : LoopSt → LoopSt) : (s.modLoop j f).stats = s.stats := rfl
@[simp] theorem State.modLoop_evTimes (s : State) (j : LoopId) (f : LoopSt → LoopSt) : (s.modLoop j f).evTimes = s.evTimes := rfl
@[simp] theorem State.modLoop_out (s : State) (j : LoopId) (f : LoopSt → LoopSt) : (s.modLoop j f).out = s.out := rfl
@[simp] theorem State.modLoop_entropyCtr (s : State) (j : LoopId) (f : LoopSt → LoopSt) : (s.modLoop j f).entropyCtr = s.entropyCtr := rfl
@[simp] theorem State.modLoop_freeCtr (s : State) (j : LoopId) (f : LoopSt → LoopSt) : (s.modLoop j f).freeCtr = s.freeCtr := rfl
@[simp] theorem State.modLoop_dom (s : State) (j : LoopId) (f : LoopSt → LoopSt) : (s.modLoop j f).dom = s.dom := rfl
@[simp] theorem State.modLoop_die (s : State) (j : LoopId) (f : LoopSt → LoopSt) : (s.modLoop j f).die = s.die := rfl
@[simp] theorem State.modLoop_avs (s : State) (j : LoopId) (f : LoopSt → LoopSt) : (s.modLoop j f).avs = s.avs := rfl
@[simp] theorem State.modLoop_host (s : State) (j : LoopId) (f : LoopSt → LoopSt) : (s.modLoop j f).host = s.host := rfl
@[simp] theorem State.modLoop_qp (s : State) (j : LoopId) (f : LoopSt → LoopSt) : (s.modLoop j f).qp = s.qp := rfl
@[simp] theorem State.modLoop_mgmt (s : State) (j : LoopId) (f : LoopSt → LoopSt) : (s.modLoop j f).mgmt = s.mgmt := rfl
@[simp] theorem State.modLoop_sec (s : State) (j : LoopId) (f : LoopSt → LoopSt) : (s.modLoop j f).sec = s.sec := rfl
@[simp] theorem State.modLoop_boot (s : State) (j : LoopId) (f : LoopSt → LoopSt) : (s.modLoop j f).boot = s.boot := rfl
@[simp] theorem State.modLoop_region (s : State) (j : LoopId) (f : LoopSt → LoopSt) : (s.modLoop j f).region = s.region := rfl
@[simp] theorem State.modLoop_live (s : State) (j : LoopId) (f : LoopSt → LoopSt) : (s.modLoop j f).live = s.live := rfl
@[simp] theorem State.modLoop_berth (s : State) (j : LoopId) (f : LoopSt → LoopSt) : (s.modLoop j f).berth = s.berth := rfl
@[simp] theorem State.modLoop_line (s : State) (j : LoopId) (f : LoopSt → LoopSt) : (s.modLoop j f).line = s.line := rfl
@[simp] theorem State.modLoop_ctxs (s : State) (j : LoopId) (f : LoopSt → LoopSt) : (s.modLoop j f).ctxs = s.ctxs := rfl
@[simp] theorem State.modLoop_owns (s : State) (j : LoopId) (f : LoopSt → LoopSt) : (s.modLoop j f).owns = s.owns := rfl
@[simp] theorem State.modLoop_mesh (s : State) (j : LoopId) (f : LoopSt → LoopSt) : (s.modLoop j f).mesh = s.mesh := rfl
@[simp] theorem State.modLoop_hold (s : State) (j : LoopId) (f : LoopSt → LoopSt) : (s.modLoop j f).hold = s.hold := rfl
@[simp] theorem State.modLoop_eth (s : State) (j : LoopId) (f : LoopSt → LoopSt) : (s.modLoop j f).eth = s.eth := rfl
@[simp] theorem State.modLoop_fab (s : State) (j : LoopId) (f : LoopSt → LoopSt) : (s.modLoop j f).fab = s.fab := rfl
@[simp] theorem State.modLoop_clk (s : State) (j : LoopId) (f : LoopSt → LoopSt) : (s.modLoop j f).clk = s.clk := rfl
@[simp] theorem State.modLoop_sense (s : State) (j : LoopId) (f : LoopSt → LoopSt) : (s.modLoop j f).sense = s.sense := rfl
@[simp] theorem State.modLoop_senseBlank (s : State) (j : LoopId) (f : LoopSt → LoopSt) : (s.modLoop j f).senseBlank = s.senseBlank := rfl
@[simp] theorem State.modLoop_loop (s : State) (j : LoopId) (f : LoopSt → LoopSt) : (s.modLoop j f).loop = s.loop.set j (f s.loop[j]) := rfl
@[simp] theorem State.modLoop_chk (s : State) (j : LoopId) (f : LoopSt → LoopSt) : (s.modLoop j f).chk = s.chk := rfl
@[simp] theorem State.modLoop_uart (s : State) (j : LoopId) (f : LoopSt → LoopSt) : (s.modLoop j f).uart = s.uart := rfl

@[simp] theorem State.modChk_now (s : State) (u : ChkId) (f : ChkSt → ChkSt) : (s.modChk u f).now = s.now := rfl
@[simp] theorem State.modChk_pending (s : State) (u : ChkId) (f : ChkSt → ChkSt) : (s.modChk u f).pending = s.pending := rfl
@[simp] theorem State.modChk_fields (s : State) (u : ChkId) (f : ChkSt → ChkSt) : (s.modChk u f).fields = s.fields := rfl
@[simp] theorem State.modChk_pend (s : State) (u : ChkId) (f : ChkSt → ChkSt) : (s.modChk u f).pend = s.pend := rfl
@[simp] theorem State.modChk_stats (s : State) (u : ChkId) (f : ChkSt → ChkSt) : (s.modChk u f).stats = s.stats := rfl
@[simp] theorem State.modChk_evTimes (s : State) (u : ChkId) (f : ChkSt → ChkSt) : (s.modChk u f).evTimes = s.evTimes := rfl
@[simp] theorem State.modChk_out (s : State) (u : ChkId) (f : ChkSt → ChkSt) : (s.modChk u f).out = s.out := rfl
@[simp] theorem State.modChk_entropyCtr (s : State) (u : ChkId) (f : ChkSt → ChkSt) : (s.modChk u f).entropyCtr = s.entropyCtr := rfl
@[simp] theorem State.modChk_freeCtr (s : State) (u : ChkId) (f : ChkSt → ChkSt) : (s.modChk u f).freeCtr = s.freeCtr := rfl
@[simp] theorem State.modChk_dom (s : State) (u : ChkId) (f : ChkSt → ChkSt) : (s.modChk u f).dom = s.dom := rfl
@[simp] theorem State.modChk_die (s : State) (u : ChkId) (f : ChkSt → ChkSt) : (s.modChk u f).die = s.die := rfl
@[simp] theorem State.modChk_avs (s : State) (u : ChkId) (f : ChkSt → ChkSt) : (s.modChk u f).avs = s.avs := rfl
@[simp] theorem State.modChk_host (s : State) (u : ChkId) (f : ChkSt → ChkSt) : (s.modChk u f).host = s.host := rfl
@[simp] theorem State.modChk_qp (s : State) (u : ChkId) (f : ChkSt → ChkSt) : (s.modChk u f).qp = s.qp := rfl
@[simp] theorem State.modChk_mgmt (s : State) (u : ChkId) (f : ChkSt → ChkSt) : (s.modChk u f).mgmt = s.mgmt := rfl
@[simp] theorem State.modChk_sec (s : State) (u : ChkId) (f : ChkSt → ChkSt) : (s.modChk u f).sec = s.sec := rfl
@[simp] theorem State.modChk_boot (s : State) (u : ChkId) (f : ChkSt → ChkSt) : (s.modChk u f).boot = s.boot := rfl
@[simp] theorem State.modChk_region (s : State) (u : ChkId) (f : ChkSt → ChkSt) : (s.modChk u f).region = s.region := rfl
@[simp] theorem State.modChk_live (s : State) (u : ChkId) (f : ChkSt → ChkSt) : (s.modChk u f).live = s.live := rfl
@[simp] theorem State.modChk_berth (s : State) (u : ChkId) (f : ChkSt → ChkSt) : (s.modChk u f).berth = s.berth := rfl
@[simp] theorem State.modChk_line (s : State) (u : ChkId) (f : ChkSt → ChkSt) : (s.modChk u f).line = s.line := rfl
@[simp] theorem State.modChk_ctxs (s : State) (u : ChkId) (f : ChkSt → ChkSt) : (s.modChk u f).ctxs = s.ctxs := rfl
@[simp] theorem State.modChk_owns (s : State) (u : ChkId) (f : ChkSt → ChkSt) : (s.modChk u f).owns = s.owns := rfl
@[simp] theorem State.modChk_mesh (s : State) (u : ChkId) (f : ChkSt → ChkSt) : (s.modChk u f).mesh = s.mesh := rfl
@[simp] theorem State.modChk_hold (s : State) (u : ChkId) (f : ChkSt → ChkSt) : (s.modChk u f).hold = s.hold := rfl
@[simp] theorem State.modChk_eth (s : State) (u : ChkId) (f : ChkSt → ChkSt) : (s.modChk u f).eth = s.eth := rfl
@[simp] theorem State.modChk_fab (s : State) (u : ChkId) (f : ChkSt → ChkSt) : (s.modChk u f).fab = s.fab := rfl
@[simp] theorem State.modChk_clk (s : State) (u : ChkId) (f : ChkSt → ChkSt) : (s.modChk u f).clk = s.clk := rfl
@[simp] theorem State.modChk_sense (s : State) (u : ChkId) (f : ChkSt → ChkSt) : (s.modChk u f).sense = s.sense := rfl
@[simp] theorem State.modChk_senseBlank (s : State) (u : ChkId) (f : ChkSt → ChkSt) : (s.modChk u f).senseBlank = s.senseBlank := rfl
@[simp] theorem State.modChk_loop (s : State) (u : ChkId) (f : ChkSt → ChkSt) : (s.modChk u f).loop = s.loop := rfl
@[simp] theorem State.modChk_chk (s : State) (u : ChkId) (f : ChkSt → ChkSt) : (s.modChk u f).chk = s.chk.set u (f s.chk[u]) := rfl
@[simp] theorem State.modChk_uart (s : State) (u : ChkId) (f : ChkSt → ChkSt) : (s.modChk u f).uart = s.uart := rfl

@[simp] theorem State.modUart_now (s : State) (p : UartId) (f : UartSt → UartSt) : (s.modUart p f).now = s.now := rfl
@[simp] theorem State.modUart_pending (s : State) (p : UartId) (f : UartSt → UartSt) : (s.modUart p f).pending = s.pending := rfl
@[simp] theorem State.modUart_fields (s : State) (p : UartId) (f : UartSt → UartSt) : (s.modUart p f).fields = s.fields := rfl
@[simp] theorem State.modUart_pend (s : State) (p : UartId) (f : UartSt → UartSt) : (s.modUart p f).pend = s.pend := rfl
@[simp] theorem State.modUart_stats (s : State) (p : UartId) (f : UartSt → UartSt) : (s.modUart p f).stats = s.stats := rfl
@[simp] theorem State.modUart_evTimes (s : State) (p : UartId) (f : UartSt → UartSt) : (s.modUart p f).evTimes = s.evTimes := rfl
@[simp] theorem State.modUart_out (s : State) (p : UartId) (f : UartSt → UartSt) : (s.modUart p f).out = s.out := rfl
@[simp] theorem State.modUart_entropyCtr (s : State) (p : UartId) (f : UartSt → UartSt) : (s.modUart p f).entropyCtr = s.entropyCtr := rfl
@[simp] theorem State.modUart_freeCtr (s : State) (p : UartId) (f : UartSt → UartSt) : (s.modUart p f).freeCtr = s.freeCtr := rfl
@[simp] theorem State.modUart_dom (s : State) (p : UartId) (f : UartSt → UartSt) : (s.modUart p f).dom = s.dom := rfl
@[simp] theorem State.modUart_die (s : State) (p : UartId) (f : UartSt → UartSt) : (s.modUart p f).die = s.die := rfl
@[simp] theorem State.modUart_avs (s : State) (p : UartId) (f : UartSt → UartSt) : (s.modUart p f).avs = s.avs := rfl
@[simp] theorem State.modUart_host (s : State) (p : UartId) (f : UartSt → UartSt) : (s.modUart p f).host = s.host := rfl
@[simp] theorem State.modUart_qp (s : State) (p : UartId) (f : UartSt → UartSt) : (s.modUart p f).qp = s.qp := rfl
@[simp] theorem State.modUart_mgmt (s : State) (p : UartId) (f : UartSt → UartSt) : (s.modUart p f).mgmt = s.mgmt := rfl
@[simp] theorem State.modUart_sec (s : State) (p : UartId) (f : UartSt → UartSt) : (s.modUart p f).sec = s.sec := rfl
@[simp] theorem State.modUart_boot (s : State) (p : UartId) (f : UartSt → UartSt) : (s.modUart p f).boot = s.boot := rfl
@[simp] theorem State.modUart_region (s : State) (p : UartId) (f : UartSt → UartSt) : (s.modUart p f).region = s.region := rfl
@[simp] theorem State.modUart_live (s : State) (p : UartId) (f : UartSt → UartSt) : (s.modUart p f).live = s.live := rfl
@[simp] theorem State.modUart_berth (s : State) (p : UartId) (f : UartSt → UartSt) : (s.modUart p f).berth = s.berth := rfl
@[simp] theorem State.modUart_line (s : State) (p : UartId) (f : UartSt → UartSt) : (s.modUart p f).line = s.line := rfl
@[simp] theorem State.modUart_ctxs (s : State) (p : UartId) (f : UartSt → UartSt) : (s.modUart p f).ctxs = s.ctxs := rfl
@[simp] theorem State.modUart_owns (s : State) (p : UartId) (f : UartSt → UartSt) : (s.modUart p f).owns = s.owns := rfl
@[simp] theorem State.modUart_mesh (s : State) (p : UartId) (f : UartSt → UartSt) : (s.modUart p f).mesh = s.mesh := rfl
@[simp] theorem State.modUart_hold (s : State) (p : UartId) (f : UartSt → UartSt) : (s.modUart p f).hold = s.hold := rfl
@[simp] theorem State.modUart_eth (s : State) (p : UartId) (f : UartSt → UartSt) : (s.modUart p f).eth = s.eth := rfl
@[simp] theorem State.modUart_fab (s : State) (p : UartId) (f : UartSt → UartSt) : (s.modUart p f).fab = s.fab := rfl
@[simp] theorem State.modUart_clk (s : State) (p : UartId) (f : UartSt → UartSt) : (s.modUart p f).clk = s.clk := rfl
@[simp] theorem State.modUart_sense (s : State) (p : UartId) (f : UartSt → UartSt) : (s.modUart p f).sense = s.sense := rfl
@[simp] theorem State.modUart_senseBlank (s : State) (p : UartId) (f : UartSt → UartSt) : (s.modUart p f).senseBlank = s.senseBlank := rfl
@[simp] theorem State.modUart_loop (s : State) (p : UartId) (f : UartSt → UartSt) : (s.modUart p f).loop = s.loop := rfl
@[simp] theorem State.modUart_chk (s : State) (p : UartId) (f : UartSt → UartSt) : (s.modUart p f).chk = s.chk := rfl
@[simp] theorem State.modUart_uart (s : State) (p : UartId) (f : UartSt → UartSt) : (s.modUart p f).uart = s.uart.set p (f s.uart[p]) := rfl

@[simp] theorem State.modEth_now (s : State) (p : EthId) (f : EthSt → EthSt) : (s.modEth p f).now = s.now := rfl
@[simp] theorem State.modEth_pending (s : State) (p : EthId) (f : EthSt → EthSt) : (s.modEth p f).pending = s.pending := rfl
@[simp] theorem State.modEth_fields (s : State) (p : EthId) (f : EthSt → EthSt) : (s.modEth p f).fields = s.fields := rfl
@[simp] theorem State.modEth_pend (s : State) (p : EthId) (f : EthSt → EthSt) : (s.modEth p f).pend = s.pend := rfl
@[simp] theorem State.modEth_stats (s : State) (p : EthId) (f : EthSt → EthSt) : (s.modEth p f).stats = s.stats := rfl
@[simp] theorem State.modEth_evTimes (s : State) (p : EthId) (f : EthSt → EthSt) : (s.modEth p f).evTimes = s.evTimes := rfl
@[simp] theorem State.modEth_out (s : State) (p : EthId) (f : EthSt → EthSt) : (s.modEth p f).out = s.out := rfl
@[simp] theorem State.modEth_entropyCtr (s : State) (p : EthId) (f : EthSt → EthSt) : (s.modEth p f).entropyCtr = s.entropyCtr := rfl
@[simp] theorem State.modEth_freeCtr (s : State) (p : EthId) (f : EthSt → EthSt) : (s.modEth p f).freeCtr = s.freeCtr := rfl
@[simp] theorem State.modEth_dom (s : State) (p : EthId) (f : EthSt → EthSt) : (s.modEth p f).dom = s.dom := rfl
@[simp] theorem State.modEth_die (s : State) (p : EthId) (f : EthSt → EthSt) : (s.modEth p f).die = s.die := rfl
@[simp] theorem State.modEth_avs (s : State) (p : EthId) (f : EthSt → EthSt) : (s.modEth p f).avs = s.avs := rfl
@[simp] theorem State.modEth_host (s : State) (p : EthId) (f : EthSt → EthSt) : (s.modEth p f).host = s.host := rfl
@[simp] theorem State.modEth_qp (s : State) (p : EthId) (f : EthSt → EthSt) : (s.modEth p f).qp = s.qp := rfl
@[simp] theorem State.modEth_mgmt (s : State) (p : EthId) (f : EthSt → EthSt) : (s.modEth p f).mgmt = s.mgmt := rfl
@[simp] theorem State.modEth_sec (s : State) (p : EthId) (f : EthSt → EthSt) : (s.modEth p f).sec = s.sec := rfl
@[simp] theorem State.modEth_boot (s : State) (p : EthId) (f : EthSt → EthSt) : (s.modEth p f).boot = s.boot := rfl
@[simp] theorem State.modEth_region (s : State) (p : EthId) (f : EthSt → EthSt) : (s.modEth p f).region = s.region := rfl
@[simp] theorem State.modEth_live (s : State) (p : EthId) (f : EthSt → EthSt) : (s.modEth p f).live = s.live := rfl
@[simp] theorem State.modEth_berth (s : State) (p : EthId) (f : EthSt → EthSt) : (s.modEth p f).berth = s.berth := rfl
@[simp] theorem State.modEth_line (s : State) (p : EthId) (f : EthSt → EthSt) : (s.modEth p f).line = s.line := rfl
@[simp] theorem State.modEth_ctxs (s : State) (p : EthId) (f : EthSt → EthSt) : (s.modEth p f).ctxs = s.ctxs := rfl
@[simp] theorem State.modEth_owns (s : State) (p : EthId) (f : EthSt → EthSt) : (s.modEth p f).owns = s.owns := rfl
@[simp] theorem State.modEth_mesh (s : State) (p : EthId) (f : EthSt → EthSt) : (s.modEth p f).mesh = s.mesh := rfl
@[simp] theorem State.modEth_hold (s : State) (p : EthId) (f : EthSt → EthSt) : (s.modEth p f).hold = s.hold := rfl
@[simp] theorem State.modEth_eth (s : State) (p : EthId) (f : EthSt → EthSt) : (s.modEth p f).eth = s.eth.set p (f s.eth[p]) := rfl
@[simp] theorem State.modEth_fab (s : State) (p : EthId) (f : EthSt → EthSt) : (s.modEth p f).fab = s.fab := rfl
@[simp] theorem State.modEth_clk (s : State) (p : EthId) (f : EthSt → EthSt) : (s.modEth p f).clk = s.clk := rfl
@[simp] theorem State.modEth_sense (s : State) (p : EthId) (f : EthSt → EthSt) : (s.modEth p f).sense = s.sense := rfl
@[simp] theorem State.modEth_senseBlank (s : State) (p : EthId) (f : EthSt → EthSt) : (s.modEth p f).senseBlank = s.senseBlank := rfl
@[simp] theorem State.modEth_loop (s : State) (p : EthId) (f : EthSt → EthSt) : (s.modEth p f).loop = s.loop := rfl
@[simp] theorem State.modEth_chk (s : State) (p : EthId) (f : EthSt → EthSt) : (s.modEth p f).chk = s.chk := rfl
@[simp] theorem State.modEth_uart (s : State) (p : EthId) (f : EthSt → EthSt) : (s.modEth p f).uart = s.uart := rfl

@[simp] theorem State.modLink_now (s : State) (l : LinkId) (f : FabLink → FabLink) : (s.modLink l f).now = s.now := rfl
@[simp] theorem State.modLink_pending (s : State) (l : LinkId) (f : FabLink → FabLink) : (s.modLink l f).pending = s.pending := rfl
@[simp] theorem State.modLink_fields (s : State) (l : LinkId) (f : FabLink → FabLink) : (s.modLink l f).fields = s.fields := rfl
@[simp] theorem State.modLink_pend (s : State) (l : LinkId) (f : FabLink → FabLink) : (s.modLink l f).pend = s.pend := rfl
@[simp] theorem State.modLink_stats (s : State) (l : LinkId) (f : FabLink → FabLink) : (s.modLink l f).stats = s.stats := rfl
@[simp] theorem State.modLink_evTimes (s : State) (l : LinkId) (f : FabLink → FabLink) : (s.modLink l f).evTimes = s.evTimes := rfl
@[simp] theorem State.modLink_out (s : State) (l : LinkId) (f : FabLink → FabLink) : (s.modLink l f).out = s.out := rfl
@[simp] theorem State.modLink_entropyCtr (s : State) (l : LinkId) (f : FabLink → FabLink) : (s.modLink l f).entropyCtr = s.entropyCtr := rfl
@[simp] theorem State.modLink_freeCtr (s : State) (l : LinkId) (f : FabLink → FabLink) : (s.modLink l f).freeCtr = s.freeCtr := rfl
@[simp] theorem State.modLink_dom (s : State) (l : LinkId) (f : FabLink → FabLink) : (s.modLink l f).dom = s.dom := rfl
@[simp] theorem State.modLink_die (s : State) (l : LinkId) (f : FabLink → FabLink) : (s.modLink l f).die = s.die := rfl
@[simp] theorem State.modLink_avs (s : State) (l : LinkId) (f : FabLink → FabLink) : (s.modLink l f).avs = s.avs := rfl
@[simp] theorem State.modLink_host (s : State) (l : LinkId) (f : FabLink → FabLink) : (s.modLink l f).host = s.host := rfl
@[simp] theorem State.modLink_qp (s : State) (l : LinkId) (f : FabLink → FabLink) : (s.modLink l f).qp = s.qp := rfl
@[simp] theorem State.modLink_mgmt (s : State) (l : LinkId) (f : FabLink → FabLink) : (s.modLink l f).mgmt = s.mgmt := rfl
@[simp] theorem State.modLink_sec (s : State) (l : LinkId) (f : FabLink → FabLink) : (s.modLink l f).sec = s.sec := rfl
@[simp] theorem State.modLink_boot (s : State) (l : LinkId) (f : FabLink → FabLink) : (s.modLink l f).boot = s.boot := rfl
@[simp] theorem State.modLink_region (s : State) (l : LinkId) (f : FabLink → FabLink) : (s.modLink l f).region = s.region := rfl
@[simp] theorem State.modLink_live (s : State) (l : LinkId) (f : FabLink → FabLink) : (s.modLink l f).live = s.live := rfl
@[simp] theorem State.modLink_berth (s : State) (l : LinkId) (f : FabLink → FabLink) : (s.modLink l f).berth = s.berth := rfl
@[simp] theorem State.modLink_line (s : State) (l : LinkId) (f : FabLink → FabLink) : (s.modLink l f).line = s.line := rfl
@[simp] theorem State.modLink_ctxs (s : State) (l : LinkId) (f : FabLink → FabLink) : (s.modLink l f).ctxs = s.ctxs := rfl
@[simp] theorem State.modLink_owns (s : State) (l : LinkId) (f : FabLink → FabLink) : (s.modLink l f).owns = s.owns := rfl
@[simp] theorem State.modLink_mesh (s : State) (l : LinkId) (f : FabLink → FabLink) : (s.modLink l f).mesh = s.mesh := rfl
@[simp] theorem State.modLink_hold (s : State) (l : LinkId) (f : FabLink → FabLink) : (s.modLink l f).hold = s.hold := rfl
@[simp] theorem State.modLink_eth (s : State) (l : LinkId) (f : FabLink → FabLink) : (s.modLink l f).eth = s.eth := rfl
@[simp] theorem State.modLink_fab (s : State) (l : LinkId) (f : FabLink → FabLink) : (s.modLink l f).fab = { s.fab with link := s.fab.link.set l (f s.fab.link[l]) } := rfl
@[simp] theorem State.modLink_clk (s : State) (l : LinkId) (f : FabLink → FabLink) : (s.modLink l f).clk = s.clk := rfl
@[simp] theorem State.modLink_sense (s : State) (l : LinkId) (f : FabLink → FabLink) : (s.modLink l f).sense = s.sense := rfl
@[simp] theorem State.modLink_senseBlank (s : State) (l : LinkId) (f : FabLink → FabLink) : (s.modLink l f).senseBlank = s.senseBlank := rfl
@[simp] theorem State.modLink_loop (s : State) (l : LinkId) (f : FabLink → FabLink) : (s.modLink l f).loop = s.loop := rfl
@[simp] theorem State.modLink_chk (s : State) (l : LinkId) (f : FabLink → FabLink) : (s.modLink l f).chk = s.chk := rfl
@[simp] theorem State.modLink_uart (s : State) (l : LinkId) (f : FabLink → FabLink) : (s.modLink l f).uart = s.uart := rfl

@[simp] theorem State.modMesh_now (s : State) (b : Berth) (f : Mesh → Mesh) : (s.modMesh b f).now = s.now := rfl
@[simp] theorem State.modMesh_pending (s : State) (b : Berth) (f : Mesh → Mesh) : (s.modMesh b f).pending = s.pending := rfl
@[simp] theorem State.modMesh_fields (s : State) (b : Berth) (f : Mesh → Mesh) : (s.modMesh b f).fields = s.fields := rfl
@[simp] theorem State.modMesh_pend (s : State) (b : Berth) (f : Mesh → Mesh) : (s.modMesh b f).pend = s.pend := rfl
@[simp] theorem State.modMesh_stats (s : State) (b : Berth) (f : Mesh → Mesh) : (s.modMesh b f).stats = s.stats := rfl
@[simp] theorem State.modMesh_evTimes (s : State) (b : Berth) (f : Mesh → Mesh) : (s.modMesh b f).evTimes = s.evTimes := rfl
@[simp] theorem State.modMesh_out (s : State) (b : Berth) (f : Mesh → Mesh) : (s.modMesh b f).out = s.out := rfl
@[simp] theorem State.modMesh_entropyCtr (s : State) (b : Berth) (f : Mesh → Mesh) : (s.modMesh b f).entropyCtr = s.entropyCtr := rfl
@[simp] theorem State.modMesh_freeCtr (s : State) (b : Berth) (f : Mesh → Mesh) : (s.modMesh b f).freeCtr = s.freeCtr := rfl
@[simp] theorem State.modMesh_dom (s : State) (b : Berth) (f : Mesh → Mesh) : (s.modMesh b f).dom = s.dom := rfl
@[simp] theorem State.modMesh_die (s : State) (b : Berth) (f : Mesh → Mesh) : (s.modMesh b f).die = s.die := rfl
@[simp] theorem State.modMesh_avs (s : State) (b : Berth) (f : Mesh → Mesh) : (s.modMesh b f).avs = s.avs := rfl
@[simp] theorem State.modMesh_host (s : State) (b : Berth) (f : Mesh → Mesh) : (s.modMesh b f).host = s.host := rfl
@[simp] theorem State.modMesh_qp (s : State) (b : Berth) (f : Mesh → Mesh) : (s.modMesh b f).qp = s.qp := rfl
@[simp] theorem State.modMesh_mgmt (s : State) (b : Berth) (f : Mesh → Mesh) : (s.modMesh b f).mgmt = s.mgmt := rfl
@[simp] theorem State.modMesh_sec (s : State) (b : Berth) (f : Mesh → Mesh) : (s.modMesh b f).sec = s.sec := rfl
@[simp] theorem State.modMesh_boot (s : State) (b : Berth) (f : Mesh → Mesh) : (s.modMesh b f).boot = s.boot := rfl
@[simp] theorem State.modMesh_region (s : State) (b : Berth) (f : Mesh → Mesh) : (s.modMesh b f).region = s.region := rfl
@[simp] theorem State.modMesh_live (s : State) (b : Berth) (f : Mesh → Mesh) : (s.modMesh b f).live = s.live := rfl
@[simp] theorem State.modMesh_berth (s : State) (b : Berth) (f : Mesh → Mesh) : (s.modMesh b f).berth = s.berth := rfl
@[simp] theorem State.modMesh_line (s : State) (b : Berth) (f : Mesh → Mesh) : (s.modMesh b f).line = s.line := rfl
@[simp] theorem State.modMesh_ctxs (s : State) (b : Berth) (f : Mesh → Mesh) : (s.modMesh b f).ctxs = s.ctxs := rfl
@[simp] theorem State.modMesh_owns (s : State) (b : Berth) (f : Mesh → Mesh) : (s.modMesh b f).owns = s.owns := rfl
@[simp] theorem State.modMesh_mesh (s : State) (b : Berth) (f : Mesh → Mesh) : (s.modMesh b f).mesh = s.mesh.set b (f s.mesh[b]) := rfl
@[simp] theorem State.modMesh_hold (s : State) (b : Berth) (f : Mesh → Mesh) : (s.modMesh b f).hold = s.hold := rfl
@[simp] theorem State.modMesh_eth (s : State) (b : Berth) (f : Mesh → Mesh) : (s.modMesh b f).eth = s.eth := rfl
@[simp] theorem State.modMesh_fab (s : State) (b : Berth) (f : Mesh → Mesh) : (s.modMesh b f).fab = s.fab := rfl
@[simp] theorem State.modMesh_clk (s : State) (b : Berth) (f : Mesh → Mesh) : (s.modMesh b f).clk = s.clk := rfl
@[simp] theorem State.modMesh_sense (s : State) (b : Berth) (f : Mesh → Mesh) : (s.modMesh b f).sense = s.sense := rfl
@[simp] theorem State.modMesh_senseBlank (s : State) (b : Berth) (f : Mesh → Mesh) : (s.modMesh b f).senseBlank = s.senseBlank := rfl
@[simp] theorem State.modMesh_loop (s : State) (b : Berth) (f : Mesh → Mesh) : (s.modMesh b f).loop = s.loop := rfl
@[simp] theorem State.modMesh_chk (s : State) (b : Berth) (f : Mesh → Mesh) : (s.modMesh b f).chk = s.chk := rfl
@[simp] theorem State.modMesh_uart (s : State) (b : Berth) (f : Mesh → Mesh) : (s.modMesh b f).uart = s.uart := rfl

@[simp] theorem State.modChan_now (s : State) (m : Chan) (f : ChanRec → ChanRec) : (s.modChan m f).now = s.now := rfl
@[simp] theorem State.modChan_pending (s : State) (m : Chan) (f : ChanRec → ChanRec) : (s.modChan m f).pending = s.pending := rfl
@[simp] theorem State.modChan_fields (s : State) (m : Chan) (f : ChanRec → ChanRec) : (s.modChan m f).fields = s.fields := rfl
@[simp] theorem State.modChan_pend (s : State) (m : Chan) (f : ChanRec → ChanRec) : (s.modChan m f).pend = s.pend := rfl
@[simp] theorem State.modChan_stats (s : State) (m : Chan) (f : ChanRec → ChanRec) : (s.modChan m f).stats = s.stats := rfl
@[simp] theorem State.modChan_evTimes (s : State) (m : Chan) (f : ChanRec → ChanRec) : (s.modChan m f).evTimes = s.evTimes := rfl
@[simp] theorem State.modChan_out (s : State) (m : Chan) (f : ChanRec → ChanRec) : (s.modChan m f).out = s.out := rfl
@[simp] theorem State.modChan_entropyCtr (s : State) (m : Chan) (f : ChanRec → ChanRec) : (s.modChan m f).entropyCtr = s.entropyCtr := rfl
@[simp] theorem State.modChan_freeCtr (s : State) (m : Chan) (f : ChanRec → ChanRec) : (s.modChan m f).freeCtr = s.freeCtr := rfl
@[simp] theorem State.modChan_dom (s : State) (m : Chan) (f : ChanRec → ChanRec) : (s.modChan m f).dom = s.dom := rfl
@[simp] theorem State.modChan_die (s : State) (m : Chan) (f : ChanRec → ChanRec) : (s.modChan m f).die = s.die := rfl
@[simp] theorem State.modChan_avs (s : State) (m : Chan) (f : ChanRec → ChanRec) : (s.modChan m f).avs = s.avs := rfl
@[simp] theorem State.modChan_host (s : State) (m : Chan) (f : ChanRec → ChanRec) : (s.modChan m f).host = s.host := rfl
@[simp] theorem State.modChan_qp (s : State) (m : Chan) (f : ChanRec → ChanRec) : (s.modChan m f).qp = s.qp := rfl
@[simp] theorem State.modChan_mgmt (s : State) (m : Chan) (f : ChanRec → ChanRec) : (s.modChan m f).mgmt = s.mgmt := rfl
@[simp] theorem State.modChan_sec (s : State) (m : Chan) (f : ChanRec → ChanRec) : (s.modChan m f).sec = s.sec := rfl
@[simp] theorem State.modChan_boot (s : State) (m : Chan) (f : ChanRec → ChanRec) : (s.modChan m f).boot = s.boot := rfl
@[simp] theorem State.modChan_region (s : State) (m : Chan) (f : ChanRec → ChanRec) : (s.modChan m f).region = s.region := rfl
@[simp] theorem State.modChan_live (s : State) (m : Chan) (f : ChanRec → ChanRec) : (s.modChan m f).live = s.live := rfl
@[simp] theorem State.modChan_berth (s : State) (m : Chan) (f : ChanRec → ChanRec) : (s.modChan m f).berth = s.berth := rfl
@[simp] theorem State.modChan_line (s : State) (m : Chan) (f : ChanRec → ChanRec) : (s.modChan m f).line = s.line := rfl
@[simp] theorem State.modChan_ctxs (s : State) (m : Chan) (f : ChanRec → ChanRec) : (s.modChan m f).ctxs = s.ctxs := rfl
@[simp] theorem State.modChan_owns (s : State) (m : Chan) (f : ChanRec → ChanRec) : (s.modChan m f).owns = s.owns := rfl
@[simp] theorem State.modChan_mesh (s : State) (m : Chan) (f : ChanRec → ChanRec) : (s.modChan m f).mesh = s.mesh := rfl
@[simp] theorem State.modChan_hold (s : State) (m : Chan) (f : ChanRec → ChanRec) : (s.modChan m f).hold = { s.hold with chan := s.hold.chan.set m (f s.hold.chan[m]) } := rfl
@[simp] theorem State.modChan_eth (s : State) (m : Chan) (f : ChanRec → ChanRec) : (s.modChan m f).eth = s.eth := rfl
@[simp] theorem State.modChan_fab (s : State) (m : Chan) (f : ChanRec → ChanRec) : (s.modChan m f).fab = s.fab := rfl
@[simp] theorem State.modChan_clk (s : State) (m : Chan) (f : ChanRec → ChanRec) : (s.modChan m f).clk = s.clk := rfl
@[simp] theorem State.modChan_sense (s : State) (m : Chan) (f : ChanRec → ChanRec) : (s.modChan m f).sense = s.sense := rfl
@[simp] theorem State.modChan_senseBlank (s : State) (m : Chan) (f : ChanRec → ChanRec) : (s.modChan m f).senseBlank = s.senseBlank := rfl
@[simp] theorem State.modChan_loop (s : State) (m : Chan) (f : ChanRec → ChanRec) : (s.modChan m f).loop = s.loop := rfl
@[simp] theorem State.modChan_chk (s : State) (m : Chan) (f : ChanRec → ChanRec) : (s.modChan m f).chk = s.chk := rfl
@[simp] theorem State.modChan_uart (s : State) (m : Chan) (f : ChanRec → ChanRec) : (s.modChan m f).uart = s.uart := rfl

@[simp] theorem State.modClk_now (s : State) (f : ClockSt → ClockSt) : (s.modClk f).now = s.now := rfl
@[simp] theorem State.modClk_pending (s : State) (f : ClockSt → ClockSt) : (s.modClk f).pending = s.pending := rfl
@[simp] theorem State.modClk_fields (s : State) (f : ClockSt → ClockSt) : (s.modClk f).fields = s.fields := rfl
@[simp] theorem State.modClk_pend (s : State) (f : ClockSt → ClockSt) : (s.modClk f).pend = s.pend := rfl
@[simp] theorem State.modClk_stats (s : State) (f : ClockSt → ClockSt) : (s.modClk f).stats = s.stats := rfl
@[simp] theorem State.modClk_evTimes (s : State) (f : ClockSt → ClockSt) : (s.modClk f).evTimes = s.evTimes := rfl
@[simp] theorem State.modClk_out (s : State) (f : ClockSt → ClockSt) : (s.modClk f).out = s.out := rfl
@[simp] theorem State.modClk_entropyCtr (s : State) (f : ClockSt → ClockSt) : (s.modClk f).entropyCtr = s.entropyCtr := rfl
@[simp] theorem State.modClk_freeCtr (s : State) (f : ClockSt → ClockSt) : (s.modClk f).freeCtr = s.freeCtr := rfl
@[simp] theorem State.modClk_dom (s : State) (f : ClockSt → ClockSt) : (s.modClk f).dom = s.dom := rfl
@[simp] theorem State.modClk_die (s : State) (f : ClockSt → ClockSt) : (s.modClk f).die = s.die := rfl
@[simp] theorem State.modClk_avs (s : State) (f : ClockSt → ClockSt) : (s.modClk f).avs = s.avs := rfl
@[simp] theorem State.modClk_host (s : State) (f : ClockSt → ClockSt) : (s.modClk f).host = s.host := rfl
@[simp] theorem State.modClk_qp (s : State) (f : ClockSt → ClockSt) : (s.modClk f).qp = s.qp := rfl
@[simp] theorem State.modClk_mgmt (s : State) (f : ClockSt → ClockSt) : (s.modClk f).mgmt = s.mgmt := rfl
@[simp] theorem State.modClk_sec (s : State) (f : ClockSt → ClockSt) : (s.modClk f).sec = s.sec := rfl
@[simp] theorem State.modClk_boot (s : State) (f : ClockSt → ClockSt) : (s.modClk f).boot = s.boot := rfl
@[simp] theorem State.modClk_region (s : State) (f : ClockSt → ClockSt) : (s.modClk f).region = s.region := rfl
@[simp] theorem State.modClk_live (s : State) (f : ClockSt → ClockSt) : (s.modClk f).live = s.live := rfl
@[simp] theorem State.modClk_berth (s : State) (f : ClockSt → ClockSt) : (s.modClk f).berth = s.berth := rfl
@[simp] theorem State.modClk_line (s : State) (f : ClockSt → ClockSt) : (s.modClk f).line = s.line := rfl
@[simp] theorem State.modClk_ctxs (s : State) (f : ClockSt → ClockSt) : (s.modClk f).ctxs = s.ctxs := rfl
@[simp] theorem State.modClk_owns (s : State) (f : ClockSt → ClockSt) : (s.modClk f).owns = s.owns := rfl
@[simp] theorem State.modClk_mesh (s : State) (f : ClockSt → ClockSt) : (s.modClk f).mesh = s.mesh := rfl
@[simp] theorem State.modClk_hold (s : State) (f : ClockSt → ClockSt) : (s.modClk f).hold = s.hold := rfl
@[simp] theorem State.modClk_eth (s : State) (f : ClockSt → ClockSt) : (s.modClk f).eth = s.eth := rfl
@[simp] theorem State.modClk_fab (s : State) (f : ClockSt → ClockSt) : (s.modClk f).fab = s.fab := rfl
@[simp] theorem State.modClk_clk (s : State) (f : ClockSt → ClockSt) : (s.modClk f).clk = f s.clk := rfl
@[simp] theorem State.modClk_sense (s : State) (f : ClockSt → ClockSt) : (s.modClk f).sense = s.sense := rfl
@[simp] theorem State.modClk_senseBlank (s : State) (f : ClockSt → ClockSt) : (s.modClk f).senseBlank = s.senseBlank := rfl
@[simp] theorem State.modClk_loop (s : State) (f : ClockSt → ClockSt) : (s.modClk f).loop = s.loop := rfl
@[simp] theorem State.modClk_chk (s : State) (f : ClockSt → ClockSt) : (s.modClk f).chk = s.chk := rfl
@[simp] theorem State.modClk_uart (s : State) (f : ClockSt → ClockSt) : (s.modClk f).uart = s.uart := rfl

@[simp] theorem State.pendSet_now (s : State) (f : Fld) (i : Nat) (v : List Int) (bpc : Option (BitVec 32)) : (s.pendSet f i v bpc).now = s.now := rfl
@[simp] theorem State.pendSet_pending (s : State) (f : Fld) (i : Nat) (v : List Int) (bpc : Option (BitVec 32)) : (s.pendSet f i v bpc).pending = s.pending := rfl
@[simp] theorem State.pendSet_fields (s : State) (f : Fld) (i : Nat) (v : List Int) (bpc : Option (BitVec 32)) : (s.pendSet f i v bpc).fields = s.fields := rfl
@[simp] theorem State.pendSet_pend (s : State) (f : Fld) (i : Nat) (v : List Int) (bpc : Option (BitVec 32)) : (s.pendSet f i v bpc).pend = ((f, i), v, bpc) :: s.pend.filter fun e => !decide (e.1 = (f, i) ∧ e.2.2 = bpc) := rfl
@[simp] theorem State.pendSet_stats (s : State) (f : Fld) (i : Nat) (v : List Int) (bpc : Option (BitVec 32)) : (s.pendSet f i v bpc).stats = s.stats := rfl
@[simp] theorem State.pendSet_evTimes (s : State) (f : Fld) (i : Nat) (v : List Int) (bpc : Option (BitVec 32)) : (s.pendSet f i v bpc).evTimes = s.evTimes := rfl
@[simp] theorem State.pendSet_out (s : State) (f : Fld) (i : Nat) (v : List Int) (bpc : Option (BitVec 32)) : (s.pendSet f i v bpc).out = s.out := rfl
@[simp] theorem State.pendSet_entropyCtr (s : State) (f : Fld) (i : Nat) (v : List Int) (bpc : Option (BitVec 32)) : (s.pendSet f i v bpc).entropyCtr = s.entropyCtr := rfl
@[simp] theorem State.pendSet_freeCtr (s : State) (f : Fld) (i : Nat) (v : List Int) (bpc : Option (BitVec 32)) : (s.pendSet f i v bpc).freeCtr = s.freeCtr := rfl
@[simp] theorem State.pendSet_dom (s : State) (f : Fld) (i : Nat) (v : List Int) (bpc : Option (BitVec 32)) : (s.pendSet f i v bpc).dom = s.dom := rfl
@[simp] theorem State.pendSet_die (s : State) (f : Fld) (i : Nat) (v : List Int) (bpc : Option (BitVec 32)) : (s.pendSet f i v bpc).die = s.die := rfl
@[simp] theorem State.pendSet_avs (s : State) (f : Fld) (i : Nat) (v : List Int) (bpc : Option (BitVec 32)) : (s.pendSet f i v bpc).avs = s.avs := rfl
@[simp] theorem State.pendSet_host (s : State) (f : Fld) (i : Nat) (v : List Int) (bpc : Option (BitVec 32)) : (s.pendSet f i v bpc).host = s.host := rfl
@[simp] theorem State.pendSet_qp (s : State) (f : Fld) (i : Nat) (v : List Int) (bpc : Option (BitVec 32)) : (s.pendSet f i v bpc).qp = s.qp := rfl
@[simp] theorem State.pendSet_mgmt (s : State) (f : Fld) (i : Nat) (v : List Int) (bpc : Option (BitVec 32)) : (s.pendSet f i v bpc).mgmt = s.mgmt := rfl
@[simp] theorem State.pendSet_sec (s : State) (f : Fld) (i : Nat) (v : List Int) (bpc : Option (BitVec 32)) : (s.pendSet f i v bpc).sec = s.sec := rfl
@[simp] theorem State.pendSet_boot (s : State) (f : Fld) (i : Nat) (v : List Int) (bpc : Option (BitVec 32)) : (s.pendSet f i v bpc).boot = s.boot := rfl
@[simp] theorem State.pendSet_region (s : State) (f : Fld) (i : Nat) (v : List Int) (bpc : Option (BitVec 32)) : (s.pendSet f i v bpc).region = s.region := rfl
@[simp] theorem State.pendSet_live (s : State) (f : Fld) (i : Nat) (v : List Int) (bpc : Option (BitVec 32)) : (s.pendSet f i v bpc).live = s.live := rfl
@[simp] theorem State.pendSet_berth (s : State) (f : Fld) (i : Nat) (v : List Int) (bpc : Option (BitVec 32)) : (s.pendSet f i v bpc).berth = s.berth := rfl
@[simp] theorem State.pendSet_line (s : State) (f : Fld) (i : Nat) (v : List Int) (bpc : Option (BitVec 32)) : (s.pendSet f i v bpc).line = s.line := rfl
@[simp] theorem State.pendSet_ctxs (s : State) (f : Fld) (i : Nat) (v : List Int) (bpc : Option (BitVec 32)) : (s.pendSet f i v bpc).ctxs = s.ctxs := rfl
@[simp] theorem State.pendSet_owns (s : State) (f : Fld) (i : Nat) (v : List Int) (bpc : Option (BitVec 32)) : (s.pendSet f i v bpc).owns = s.owns := rfl
@[simp] theorem State.pendSet_mesh (s : State) (f : Fld) (i : Nat) (v : List Int) (bpc : Option (BitVec 32)) : (s.pendSet f i v bpc).mesh = s.mesh := rfl
@[simp] theorem State.pendSet_hold (s : State) (f : Fld) (i : Nat) (v : List Int) (bpc : Option (BitVec 32)) : (s.pendSet f i v bpc).hold = s.hold := rfl
@[simp] theorem State.pendSet_eth (s : State) (f : Fld) (i : Nat) (v : List Int) (bpc : Option (BitVec 32)) : (s.pendSet f i v bpc).eth = s.eth := rfl
@[simp] theorem State.pendSet_fab (s : State) (f : Fld) (i : Nat) (v : List Int) (bpc : Option (BitVec 32)) : (s.pendSet f i v bpc).fab = s.fab := rfl
@[simp] theorem State.pendSet_clk (s : State) (f : Fld) (i : Nat) (v : List Int) (bpc : Option (BitVec 32)) : (s.pendSet f i v bpc).clk = s.clk := rfl
@[simp] theorem State.pendSet_sense (s : State) (f : Fld) (i : Nat) (v : List Int) (bpc : Option (BitVec 32)) : (s.pendSet f i v bpc).sense = s.sense := rfl
@[simp] theorem State.pendSet_senseBlank (s : State) (f : Fld) (i : Nat) (v : List Int) (bpc : Option (BitVec 32)) : (s.pendSet f i v bpc).senseBlank = s.senseBlank := rfl
@[simp] theorem State.pendSet_loop (s : State) (f : Fld) (i : Nat) (v : List Int) (bpc : Option (BitVec 32)) : (s.pendSet f i v bpc).loop = s.loop := rfl
@[simp] theorem State.pendSet_chk (s : State) (f : Fld) (i : Nat) (v : List Int) (bpc : Option (BitVec 32)) : (s.pendSet f i v bpc).chk = s.chk := rfl
@[simp] theorem State.pendSet_uart (s : State) (f : Fld) (i : Nat) (v : List Int) (bpc : Option (BitVec 32)) : (s.pendSet f i v bpc).uart = s.uart := rfl

@[simp] theorem State.fset_now (s : State) (f : Fld) (i : Nat) (v : List Int) : (s.fset f i v).now = s.now := rfl
@[simp] theorem State.fset_pending (s : State) (f : Fld) (i : Nat) (v : List Int) : (s.fset f i v).pending = s.pending := rfl
@[simp] theorem State.fset_pend (s : State) (f : Fld) (i : Nat) (v : List Int) : (s.fset f i v).pend = s.pend := rfl
@[simp] theorem State.fset_stats (s : State) (f : Fld) (i : Nat) (v : List Int) : (s.fset f i v).stats = s.stats := rfl
@[simp] theorem State.fset_evTimes (s : State) (f : Fld) (i : Nat) (v : List Int) : (s.fset f i v).evTimes = s.evTimes := rfl
@[simp] theorem State.fset_out (s : State) (f : Fld) (i : Nat) (v : List Int) : (s.fset f i v).out = s.out := rfl
@[simp] theorem State.fset_entropyCtr (s : State) (f : Fld) (i : Nat) (v : List Int) : (s.fset f i v).entropyCtr = s.entropyCtr := rfl
@[simp] theorem State.fset_freeCtr (s : State) (f : Fld) (i : Nat) (v : List Int) : (s.fset f i v).freeCtr = s.freeCtr := rfl
@[simp] theorem State.fset_dom (s : State) (f : Fld) (i : Nat) (v : List Int) : (s.fset f i v).dom = s.dom := rfl
@[simp] theorem State.fset_die (s : State) (f : Fld) (i : Nat) (v : List Int) : (s.fset f i v).die = s.die := rfl
@[simp] theorem State.fset_avs (s : State) (f : Fld) (i : Nat) (v : List Int) : (s.fset f i v).avs = s.avs := rfl
@[simp] theorem State.fset_host (s : State) (f : Fld) (i : Nat) (v : List Int) : (s.fset f i v).host = s.host := rfl
@[simp] theorem State.fset_qp (s : State) (f : Fld) (i : Nat) (v : List Int) : (s.fset f i v).qp = s.qp := rfl
@[simp] theorem State.fset_mgmt (s : State) (f : Fld) (i : Nat) (v : List Int) : (s.fset f i v).mgmt = s.mgmt := rfl
@[simp] theorem State.fset_sec (s : State) (f : Fld) (i : Nat) (v : List Int) : (s.fset f i v).sec = s.sec := rfl
@[simp] theorem State.fset_boot (s : State) (f : Fld) (i : Nat) (v : List Int) : (s.fset f i v).boot = s.boot := rfl
@[simp] theorem State.fset_region (s : State) (f : Fld) (i : Nat) (v : List Int) : (s.fset f i v).region = s.region := rfl
@[simp] theorem State.fset_live (s : State) (f : Fld) (i : Nat) (v : List Int) : (s.fset f i v).live = s.live := rfl
@[simp] theorem State.fset_berth (s : State) (f : Fld) (i : Nat) (v : List Int) : (s.fset f i v).berth = s.berth := rfl
@[simp] theorem State.fset_line (s : State) (f : Fld) (i : Nat) (v : List Int) : (s.fset f i v).line = s.line := rfl
@[simp] theorem State.fset_ctxs (s : State) (f : Fld) (i : Nat) (v : List Int) : (s.fset f i v).ctxs = s.ctxs := rfl
@[simp] theorem State.fset_owns (s : State) (f : Fld) (i : Nat) (v : List Int) : (s.fset f i v).owns = s.owns := rfl
@[simp] theorem State.fset_mesh (s : State) (f : Fld) (i : Nat) (v : List Int) : (s.fset f i v).mesh = s.mesh := rfl
@[simp] theorem State.fset_hold (s : State) (f : Fld) (i : Nat) (v : List Int) : (s.fset f i v).hold = s.hold := rfl
@[simp] theorem State.fset_eth (s : State) (f : Fld) (i : Nat) (v : List Int) : (s.fset f i v).eth = s.eth := rfl
@[simp] theorem State.fset_fab (s : State) (f : Fld) (i : Nat) (v : List Int) : (s.fset f i v).fab = s.fab := rfl
@[simp] theorem State.fset_clk (s : State) (f : Fld) (i : Nat) (v : List Int) : (s.fset f i v).clk = s.clk := rfl
@[simp] theorem State.fset_sense (s : State) (f : Fld) (i : Nat) (v : List Int) : (s.fset f i v).sense = s.sense := rfl
@[simp] theorem State.fset_senseBlank (s : State) (f : Fld) (i : Nat) (v : List Int) : (s.fset f i v).senseBlank = s.senseBlank := rfl
@[simp] theorem State.fset_loop (s : State) (f : Fld) (i : Nat) (v : List Int) : (s.fset f i v).loop = s.loop := rfl
@[simp] theorem State.fset_chk (s : State) (f : Fld) (i : Nat) (v : List Int) : (s.fset f i v).chk = s.chk := rfl
@[simp] theorem State.fset_uart (s : State) (f : Fld) (i : Nat) (v : List Int) : (s.fset f i v).uart = s.uart := rfl

@[simp] theorem State.statSet_now (s : State) (x : Stat) (i : Nat) (e : Nat) (v : Int) : (s.statSet x i e v).now = s.now := rfl
@[simp] theorem State.statSet_pending (s : State) (x : Stat) (i : Nat) (e : Nat) (v : Int) : (s.statSet x i e v).pending = s.pending := rfl
@[simp] theorem State.statSet_fields (s : State) (x : Stat) (i : Nat) (e : Nat) (v : Int) : (s.statSet x i e v).fields = s.fields := rfl
@[simp] theorem State.statSet_pend (s : State) (x : Stat) (i : Nat) (e : Nat) (v : Int) : (s.statSet x i e v).pend = s.pend := rfl
@[simp] theorem State.statSet_evTimes (s : State) (x : Stat) (i : Nat) (e : Nat) (v : Int) : (s.statSet x i e v).evTimes = s.evTimes := rfl
@[simp] theorem State.statSet_out (s : State) (x : Stat) (i : Nat) (e : Nat) (v : Int) : (s.statSet x i e v).out = s.out := rfl
@[simp] theorem State.statSet_entropyCtr (s : State) (x : Stat) (i : Nat) (e : Nat) (v : Int) : (s.statSet x i e v).entropyCtr = s.entropyCtr := rfl
@[simp] theorem State.statSet_freeCtr (s : State) (x : Stat) (i : Nat) (e : Nat) (v : Int) : (s.statSet x i e v).freeCtr = s.freeCtr := rfl
@[simp] theorem State.statSet_dom (s : State) (x : Stat) (i : Nat) (e : Nat) (v : Int) : (s.statSet x i e v).dom = s.dom := rfl
@[simp] theorem State.statSet_die (s : State) (x : Stat) (i : Nat) (e : Nat) (v : Int) : (s.statSet x i e v).die = s.die := rfl
@[simp] theorem State.statSet_avs (s : State) (x : Stat) (i : Nat) (e : Nat) (v : Int) : (s.statSet x i e v).avs = s.avs := rfl
@[simp] theorem State.statSet_host (s : State) (x : Stat) (i : Nat) (e : Nat) (v : Int) : (s.statSet x i e v).host = s.host := rfl
@[simp] theorem State.statSet_qp (s : State) (x : Stat) (i : Nat) (e : Nat) (v : Int) : (s.statSet x i e v).qp = s.qp := rfl
@[simp] theorem State.statSet_mgmt (s : State) (x : Stat) (i : Nat) (e : Nat) (v : Int) : (s.statSet x i e v).mgmt = s.mgmt := rfl
@[simp] theorem State.statSet_sec (s : State) (x : Stat) (i : Nat) (e : Nat) (v : Int) : (s.statSet x i e v).sec = s.sec := rfl
@[simp] theorem State.statSet_boot (s : State) (x : Stat) (i : Nat) (e : Nat) (v : Int) : (s.statSet x i e v).boot = s.boot := rfl
@[simp] theorem State.statSet_region (s : State) (x : Stat) (i : Nat) (e : Nat) (v : Int) : (s.statSet x i e v).region = s.region := rfl
@[simp] theorem State.statSet_live (s : State) (x : Stat) (i : Nat) (e : Nat) (v : Int) : (s.statSet x i e v).live = s.live := rfl
@[simp] theorem State.statSet_berth (s : State) (x : Stat) (i : Nat) (e : Nat) (v : Int) : (s.statSet x i e v).berth = s.berth := rfl
@[simp] theorem State.statSet_line (s : State) (x : Stat) (i : Nat) (e : Nat) (v : Int) : (s.statSet x i e v).line = s.line := rfl
@[simp] theorem State.statSet_ctxs (s : State) (x : Stat) (i : Nat) (e : Nat) (v : Int) : (s.statSet x i e v).ctxs = s.ctxs := rfl
@[simp] theorem State.statSet_owns (s : State) (x : Stat) (i : Nat) (e : Nat) (v : Int) : (s.statSet x i e v).owns = s.owns := rfl
@[simp] theorem State.statSet_mesh (s : State) (x : Stat) (i : Nat) (e : Nat) (v : Int) : (s.statSet x i e v).mesh = s.mesh := rfl
@[simp] theorem State.statSet_hold (s : State) (x : Stat) (i : Nat) (e : Nat) (v : Int) : (s.statSet x i e v).hold = s.hold := rfl
@[simp] theorem State.statSet_eth (s : State) (x : Stat) (i : Nat) (e : Nat) (v : Int) : (s.statSet x i e v).eth = s.eth := rfl
@[simp] theorem State.statSet_fab (s : State) (x : Stat) (i : Nat) (e : Nat) (v : Int) : (s.statSet x i e v).fab = s.fab := rfl
@[simp] theorem State.statSet_clk (s : State) (x : Stat) (i : Nat) (e : Nat) (v : Int) : (s.statSet x i e v).clk = s.clk := rfl
@[simp] theorem State.statSet_sense (s : State) (x : Stat) (i : Nat) (e : Nat) (v : Int) : (s.statSet x i e v).sense = s.sense := rfl
@[simp] theorem State.statSet_senseBlank (s : State) (x : Stat) (i : Nat) (e : Nat) (v : Int) : (s.statSet x i e v).senseBlank = s.senseBlank := rfl
@[simp] theorem State.statSet_loop (s : State) (x : Stat) (i : Nat) (e : Nat) (v : Int) : (s.statSet x i e v).loop = s.loop := rfl
@[simp] theorem State.statSet_chk (s : State) (x : Stat) (i : Nat) (e : Nat) (v : Int) : (s.statSet x i e v).chk = s.chk := rfl
@[simp] theorem State.statSet_uart (s : State) (x : Stat) (i : Nat) (e : Nat) (v : Int) : (s.statSet x i e v).uart = s.uart := rfl

@[simp] theorem State.bump_now (s : State) (x : Stat) (i : optParam Nat 0) (e : optParam Nat 0) (n : optParam Nat 1) : (s.bump x i e n).now = s.now := rfl
@[simp] theorem State.bump_pending (s : State) (x : Stat) (i : optParam Nat 0) (e : optParam Nat 0) (n : optParam Nat 1) : (s.bump x i e n).pending = s.pending := rfl
@[simp] theorem State.bump_fields (s : State) (x : Stat) (i : optParam Nat 0) (e : optParam Nat 0) (n : optParam Nat 1) : (s.bump x i e n).fields = s.fields := rfl
@[simp] theorem State.bump_pend (s : State) (x : Stat) (i : optParam Nat 0) (e : optParam Nat 0) (n : optParam Nat 1) : (s.bump x i e n).pend = s.pend := rfl
@[simp] theorem State.bump_evTimes (s : State) (x : Stat) (i : optParam Nat 0) (e : optParam Nat 0) (n : optParam Nat 1) : (s.bump x i e n).evTimes = s.evTimes := rfl
@[simp] theorem State.bump_out (s : State) (x : Stat) (i : optParam Nat 0) (e : optParam Nat 0) (n : optParam Nat 1) : (s.bump x i e n).out = s.out := rfl
@[simp] theorem State.bump_entropyCtr (s : State) (x : Stat) (i : optParam Nat 0) (e : optParam Nat 0) (n : optParam Nat 1) : (s.bump x i e n).entropyCtr = s.entropyCtr := rfl
@[simp] theorem State.bump_freeCtr (s : State) (x : Stat) (i : optParam Nat 0) (e : optParam Nat 0) (n : optParam Nat 1) : (s.bump x i e n).freeCtr = s.freeCtr := rfl
@[simp] theorem State.bump_dom (s : State) (x : Stat) (i : optParam Nat 0) (e : optParam Nat 0) (n : optParam Nat 1) : (s.bump x i e n).dom = s.dom := rfl
@[simp] theorem State.bump_die (s : State) (x : Stat) (i : optParam Nat 0) (e : optParam Nat 0) (n : optParam Nat 1) : (s.bump x i e n).die = s.die := rfl
@[simp] theorem State.bump_avs (s : State) (x : Stat) (i : optParam Nat 0) (e : optParam Nat 0) (n : optParam Nat 1) : (s.bump x i e n).avs = s.avs := rfl
@[simp] theorem State.bump_host (s : State) (x : Stat) (i : optParam Nat 0) (e : optParam Nat 0) (n : optParam Nat 1) : (s.bump x i e n).host = s.host := rfl
@[simp] theorem State.bump_qp (s : State) (x : Stat) (i : optParam Nat 0) (e : optParam Nat 0) (n : optParam Nat 1) : (s.bump x i e n).qp = s.qp := rfl
@[simp] theorem State.bump_mgmt (s : State) (x : Stat) (i : optParam Nat 0) (e : optParam Nat 0) (n : optParam Nat 1) : (s.bump x i e n).mgmt = s.mgmt := rfl
@[simp] theorem State.bump_sec (s : State) (x : Stat) (i : optParam Nat 0) (e : optParam Nat 0) (n : optParam Nat 1) : (s.bump x i e n).sec = s.sec := rfl
@[simp] theorem State.bump_boot (s : State) (x : Stat) (i : optParam Nat 0) (e : optParam Nat 0) (n : optParam Nat 1) : (s.bump x i e n).boot = s.boot := rfl
@[simp] theorem State.bump_region (s : State) (x : Stat) (i : optParam Nat 0) (e : optParam Nat 0) (n : optParam Nat 1) : (s.bump x i e n).region = s.region := rfl
@[simp] theorem State.bump_live (s : State) (x : Stat) (i : optParam Nat 0) (e : optParam Nat 0) (n : optParam Nat 1) : (s.bump x i e n).live = s.live := rfl
@[simp] theorem State.bump_berth (s : State) (x : Stat) (i : optParam Nat 0) (e : optParam Nat 0) (n : optParam Nat 1) : (s.bump x i e n).berth = s.berth := rfl
@[simp] theorem State.bump_line (s : State) (x : Stat) (i : optParam Nat 0) (e : optParam Nat 0) (n : optParam Nat 1) : (s.bump x i e n).line = s.line := rfl
@[simp] theorem State.bump_ctxs (s : State) (x : Stat) (i : optParam Nat 0) (e : optParam Nat 0) (n : optParam Nat 1) : (s.bump x i e n).ctxs = s.ctxs := rfl
@[simp] theorem State.bump_owns (s : State) (x : Stat) (i : optParam Nat 0) (e : optParam Nat 0) (n : optParam Nat 1) : (s.bump x i e n).owns = s.owns := rfl
@[simp] theorem State.bump_mesh (s : State) (x : Stat) (i : optParam Nat 0) (e : optParam Nat 0) (n : optParam Nat 1) : (s.bump x i e n).mesh = s.mesh := rfl
@[simp] theorem State.bump_hold (s : State) (x : Stat) (i : optParam Nat 0) (e : optParam Nat 0) (n : optParam Nat 1) : (s.bump x i e n).hold = s.hold := rfl
@[simp] theorem State.bump_eth (s : State) (x : Stat) (i : optParam Nat 0) (e : optParam Nat 0) (n : optParam Nat 1) : (s.bump x i e n).eth = s.eth := rfl
@[simp] theorem State.bump_fab (s : State) (x : Stat) (i : optParam Nat 0) (e : optParam Nat 0) (n : optParam Nat 1) : (s.bump x i e n).fab = s.fab := rfl
@[simp] theorem State.bump_clk (s : State) (x : Stat) (i : optParam Nat 0) (e : optParam Nat 0) (n : optParam Nat 1) : (s.bump x i e n).clk = s.clk := rfl
@[simp] theorem State.bump_sense (s : State) (x : Stat) (i : optParam Nat 0) (e : optParam Nat 0) (n : optParam Nat 1) : (s.bump x i e n).sense = s.sense := rfl
@[simp] theorem State.bump_senseBlank (s : State) (x : Stat) (i : optParam Nat 0) (e : optParam Nat 0) (n : optParam Nat 1) : (s.bump x i e n).senseBlank = s.senseBlank := rfl
@[simp] theorem State.bump_loop (s : State) (x : Stat) (i : optParam Nat 0) (e : optParam Nat 0) (n : optParam Nat 1) : (s.bump x i e n).loop = s.loop := rfl
@[simp] theorem State.bump_chk (s : State) (x : Stat) (i : optParam Nat 0) (e : optParam Nat 0) (n : optParam Nat 1) : (s.bump x i e n).chk = s.chk := rfl
@[simp] theorem State.bump_uart (s : State) (x : Stat) (i : optParam Nat 0) (e : optParam Nat 0) (n : optParam Nat 1) : (s.bump x i e n).uart = s.uart := rfl

@[simp] theorem State.report_now (s : State) (x : Stat) (i : Nat) (e : Nat) (v : Int) : (s.report x i e v).now = s.now := rfl
@[simp] theorem State.report_pending (s : State) (x : Stat) (i : Nat) (e : Nat) (v : Int) : (s.report x i e v).pending = s.pending := rfl
@[simp] theorem State.report_fields (s : State) (x : Stat) (i : Nat) (e : Nat) (v : Int) : (s.report x i e v).fields = s.fields := rfl
@[simp] theorem State.report_pend (s : State) (x : Stat) (i : Nat) (e : Nat) (v : Int) : (s.report x i e v).pend = s.pend := rfl
@[simp] theorem State.report_evTimes (s : State) (x : Stat) (i : Nat) (e : Nat) (v : Int) : (s.report x i e v).evTimes = s.evTimes := rfl
@[simp] theorem State.report_out (s : State) (x : Stat) (i : Nat) (e : Nat) (v : Int) : (s.report x i e v).out = s.out := rfl
@[simp] theorem State.report_entropyCtr (s : State) (x : Stat) (i : Nat) (e : Nat) (v : Int) : (s.report x i e v).entropyCtr = s.entropyCtr := rfl
@[simp] theorem State.report_freeCtr (s : State) (x : Stat) (i : Nat) (e : Nat) (v : Int) : (s.report x i e v).freeCtr = s.freeCtr := rfl
@[simp] theorem State.report_dom (s : State) (x : Stat) (i : Nat) (e : Nat) (v : Int) : (s.report x i e v).dom = s.dom := rfl
@[simp] theorem State.report_die (s : State) (x : Stat) (i : Nat) (e : Nat) (v : Int) : (s.report x i e v).die = s.die := rfl
@[simp] theorem State.report_avs (s : State) (x : Stat) (i : Nat) (e : Nat) (v : Int) : (s.report x i e v).avs = s.avs := rfl
@[simp] theorem State.report_host (s : State) (x : Stat) (i : Nat) (e : Nat) (v : Int) : (s.report x i e v).host = s.host := rfl
@[simp] theorem State.report_qp (s : State) (x : Stat) (i : Nat) (e : Nat) (v : Int) : (s.report x i e v).qp = s.qp := rfl
@[simp] theorem State.report_mgmt (s : State) (x : Stat) (i : Nat) (e : Nat) (v : Int) : (s.report x i e v).mgmt = s.mgmt := rfl
@[simp] theorem State.report_sec (s : State) (x : Stat) (i : Nat) (e : Nat) (v : Int) : (s.report x i e v).sec = s.sec := rfl
@[simp] theorem State.report_boot (s : State) (x : Stat) (i : Nat) (e : Nat) (v : Int) : (s.report x i e v).boot = s.boot := rfl
@[simp] theorem State.report_region (s : State) (x : Stat) (i : Nat) (e : Nat) (v : Int) : (s.report x i e v).region = s.region := rfl
@[simp] theorem State.report_live (s : State) (x : Stat) (i : Nat) (e : Nat) (v : Int) : (s.report x i e v).live = s.live := rfl
@[simp] theorem State.report_berth (s : State) (x : Stat) (i : Nat) (e : Nat) (v : Int) : (s.report x i e v).berth = s.berth := rfl
@[simp] theorem State.report_line (s : State) (x : Stat) (i : Nat) (e : Nat) (v : Int) : (s.report x i e v).line = s.line := rfl
@[simp] theorem State.report_ctxs (s : State) (x : Stat) (i : Nat) (e : Nat) (v : Int) : (s.report x i e v).ctxs = s.ctxs := rfl
@[simp] theorem State.report_owns (s : State) (x : Stat) (i : Nat) (e : Nat) (v : Int) : (s.report x i e v).owns = s.owns := rfl
@[simp] theorem State.report_mesh (s : State) (x : Stat) (i : Nat) (e : Nat) (v : Int) : (s.report x i e v).mesh = s.mesh := rfl
@[simp] theorem State.report_hold (s : State) (x : Stat) (i : Nat) (e : Nat) (v : Int) : (s.report x i e v).hold = s.hold := rfl
@[simp] theorem State.report_eth (s : State) (x : Stat) (i : Nat) (e : Nat) (v : Int) : (s.report x i e v).eth = s.eth := rfl
@[simp] theorem State.report_fab (s : State) (x : Stat) (i : Nat) (e : Nat) (v : Int) : (s.report x i e v).fab = s.fab := rfl
@[simp] theorem State.report_clk (s : State) (x : Stat) (i : Nat) (e : Nat) (v : Int) : (s.report x i e v).clk = s.clk := rfl
@[simp] theorem State.report_sense (s : State) (x : Stat) (i : Nat) (e : Nat) (v : Int) : (s.report x i e v).sense = s.sense := rfl
@[simp] theorem State.report_senseBlank (s : State) (x : Stat) (i : Nat) (e : Nat) (v : Int) : (s.report x i e v).senseBlank = s.senseBlank := rfl
@[simp] theorem State.report_loop (s : State) (x : Stat) (i : Nat) (e : Nat) (v : Int) : (s.report x i e v).loop = s.loop := rfl
@[simp] theorem State.report_chk (s : State) (x : Stat) (i : Nat) (e : Nat) (v : Int) : (s.report x i e v).chk = s.chk := rfl
@[simp] theorem State.report_uart (s : State) (x : Stat) (i : Nat) (e : Nat) (v : Int) : (s.report x i e v).uart = s.uart := rfl

@[simp] theorem State.stick_now (s : State) (x : Stat) (i : optParam Nat 0) : (s.stick x i).now = s.now := rfl
@[simp] theorem State.stick_pending (s : State) (x : Stat) (i : optParam Nat 0) : (s.stick x i).pending = s.pending := rfl
@[simp] theorem State.stick_fields (s : State) (x : Stat) (i : optParam Nat 0) : (s.stick x i).fields = s.fields := rfl
@[simp] theorem State.stick_pend (s : State) (x : Stat) (i : optParam Nat 0) : (s.stick x i).pend = s.pend := rfl
@[simp] theorem State.stick_evTimes (s : State) (x : Stat) (i : optParam Nat 0) : (s.stick x i).evTimes = s.evTimes := rfl
@[simp] theorem State.stick_out (s : State) (x : Stat) (i : optParam Nat 0) : (s.stick x i).out = s.out := rfl
@[simp] theorem State.stick_entropyCtr (s : State) (x : Stat) (i : optParam Nat 0) : (s.stick x i).entropyCtr = s.entropyCtr := rfl
@[simp] theorem State.stick_freeCtr (s : State) (x : Stat) (i : optParam Nat 0) : (s.stick x i).freeCtr = s.freeCtr := rfl
@[simp] theorem State.stick_dom (s : State) (x : Stat) (i : optParam Nat 0) : (s.stick x i).dom = s.dom := rfl
@[simp] theorem State.stick_die (s : State) (x : Stat) (i : optParam Nat 0) : (s.stick x i).die = s.die := rfl
@[simp] theorem State.stick_avs (s : State) (x : Stat) (i : optParam Nat 0) : (s.stick x i).avs = s.avs := rfl
@[simp] theorem State.stick_host (s : State) (x : Stat) (i : optParam Nat 0) : (s.stick x i).host = s.host := rfl
@[simp] theorem State.stick_qp (s : State) (x : Stat) (i : optParam Nat 0) : (s.stick x i).qp = s.qp := rfl
@[simp] theorem State.stick_mgmt (s : State) (x : Stat) (i : optParam Nat 0) : (s.stick x i).mgmt = s.mgmt := rfl
@[simp] theorem State.stick_sec (s : State) (x : Stat) (i : optParam Nat 0) : (s.stick x i).sec = s.sec := rfl
@[simp] theorem State.stick_boot (s : State) (x : Stat) (i : optParam Nat 0) : (s.stick x i).boot = s.boot := rfl
@[simp] theorem State.stick_region (s : State) (x : Stat) (i : optParam Nat 0) : (s.stick x i).region = s.region := rfl
@[simp] theorem State.stick_live (s : State) (x : Stat) (i : optParam Nat 0) : (s.stick x i).live = s.live := rfl
@[simp] theorem State.stick_berth (s : State) (x : Stat) (i : optParam Nat 0) : (s.stick x i).berth = s.berth := rfl
@[simp] theorem State.stick_line (s : State) (x : Stat) (i : optParam Nat 0) : (s.stick x i).line = s.line := rfl
@[simp] theorem State.stick_ctxs (s : State) (x : Stat) (i : optParam Nat 0) : (s.stick x i).ctxs = s.ctxs := rfl
@[simp] theorem State.stick_owns (s : State) (x : Stat) (i : optParam Nat 0) : (s.stick x i).owns = s.owns := rfl
@[simp] theorem State.stick_mesh (s : State) (x : Stat) (i : optParam Nat 0) : (s.stick x i).mesh = s.mesh := rfl
@[simp] theorem State.stick_hold (s : State) (x : Stat) (i : optParam Nat 0) : (s.stick x i).hold = s.hold := rfl
@[simp] theorem State.stick_eth (s : State) (x : Stat) (i : optParam Nat 0) : (s.stick x i).eth = s.eth := rfl
@[simp] theorem State.stick_fab (s : State) (x : Stat) (i : optParam Nat 0) : (s.stick x i).fab = s.fab := rfl
@[simp] theorem State.stick_clk (s : State) (x : Stat) (i : optParam Nat 0) : (s.stick x i).clk = s.clk := rfl
@[simp] theorem State.stick_sense (s : State) (x : Stat) (i : optParam Nat 0) : (s.stick x i).sense = s.sense := rfl
@[simp] theorem State.stick_senseBlank (s : State) (x : Stat) (i : optParam Nat 0) : (s.stick x i).senseBlank = s.senseBlank := rfl
@[simp] theorem State.stick_loop (s : State) (x : Stat) (i : optParam Nat 0) : (s.stick x i).loop = s.loop := rfl
@[simp] theorem State.stick_chk (s : State) (x : Stat) (i : optParam Nat 0) : (s.stick x i).chk = s.chk := rfl
@[simp] theorem State.stick_uart (s : State) (x : Stat) (i : optParam Nat 0) : (s.stick x i).uart = s.uart := rfl

@[simp] theorem State.emit_now (s : State) (o : Out) : (s.emit o).now = s.now := rfl
@[simp] theorem State.emit_pending (s : State) (o : Out) : (s.emit o).pending = s.pending := rfl
@[simp] theorem State.emit_fields (s : State) (o : Out) : (s.emit o).fields = s.fields := rfl
@[simp] theorem State.emit_pend (s : State) (o : Out) : (s.emit o).pend = s.pend := rfl
@[simp] theorem State.emit_stats (s : State) (o : Out) : (s.emit o).stats = s.stats := rfl
@[simp] theorem State.emit_evTimes (s : State) (o : Out) : (s.emit o).evTimes = s.evTimes := rfl
@[simp] theorem State.emit_out (s : State) (o : Out) : (s.emit o).out = o :: s.out := rfl
@[simp] theorem State.emit_entropyCtr (s : State) (o : Out) : (s.emit o).entropyCtr = s.entropyCtr := rfl
@[simp] theorem State.emit_freeCtr (s : State) (o : Out) : (s.emit o).freeCtr = s.freeCtr := rfl
@[simp] theorem State.emit_dom (s : State) (o : Out) : (s.emit o).dom = s.dom := rfl
@[simp] theorem State.emit_die (s : State) (o : Out) : (s.emit o).die = s.die := rfl
@[simp] theorem State.emit_avs (s : State) (o : Out) : (s.emit o).avs = s.avs := rfl
@[simp] theorem State.emit_host (s : State) (o : Out) : (s.emit o).host = s.host := rfl
@[simp] theorem State.emit_qp (s : State) (o : Out) : (s.emit o).qp = s.qp := rfl
@[simp] theorem State.emit_mgmt (s : State) (o : Out) : (s.emit o).mgmt = s.mgmt := rfl
@[simp] theorem State.emit_sec (s : State) (o : Out) : (s.emit o).sec = s.sec := rfl
@[simp] theorem State.emit_boot (s : State) (o : Out) : (s.emit o).boot = s.boot := rfl
@[simp] theorem State.emit_region (s : State) (o : Out) : (s.emit o).region = s.region := rfl
@[simp] theorem State.emit_live (s : State) (o : Out) : (s.emit o).live = s.live := rfl
@[simp] theorem State.emit_berth (s : State) (o : Out) : (s.emit o).berth = s.berth := rfl
@[simp] theorem State.emit_line (s : State) (o : Out) : (s.emit o).line = s.line := rfl
@[simp] theorem State.emit_ctxs (s : State) (o : Out) : (s.emit o).ctxs = s.ctxs := rfl
@[simp] theorem State.emit_owns (s : State) (o : Out) : (s.emit o).owns = s.owns := rfl
@[simp] theorem State.emit_mesh (s : State) (o : Out) : (s.emit o).mesh = s.mesh := rfl
@[simp] theorem State.emit_hold (s : State) (o : Out) : (s.emit o).hold = s.hold := rfl
@[simp] theorem State.emit_eth (s : State) (o : Out) : (s.emit o).eth = s.eth := rfl
@[simp] theorem State.emit_fab (s : State) (o : Out) : (s.emit o).fab = s.fab := rfl
@[simp] theorem State.emit_clk (s : State) (o : Out) : (s.emit o).clk = s.clk := rfl
@[simp] theorem State.emit_sense (s : State) (o : Out) : (s.emit o).sense = s.sense := rfl
@[simp] theorem State.emit_senseBlank (s : State) (o : Out) : (s.emit o).senseBlank = s.senseBlank := rfl
@[simp] theorem State.emit_loop (s : State) (o : Out) : (s.emit o).loop = s.loop := rfl
@[simp] theorem State.emit_chk (s : State) (o : Out) : (s.emit o).chk = s.chk := rfl
@[simp] theorem State.emit_uart (s : State) (o : Out) : (s.emit o).uart = s.uart := rfl

@[simp] theorem State.draw_now (s : State) : s.draw.2.now = s.now := rfl
@[simp] theorem State.draw_pending (s : State) : s.draw.2.pending = s.pending := rfl
@[simp] theorem State.draw_fields (s : State) : s.draw.2.fields = s.fields := rfl
@[simp] theorem State.draw_pend (s : State) : s.draw.2.pend = s.pend := rfl
@[simp] theorem State.draw_stats (s : State) : s.draw.2.stats = s.stats := rfl
@[simp] theorem State.draw_evTimes (s : State) : s.draw.2.evTimes = s.evTimes := rfl
@[simp] theorem State.draw_out (s : State) : s.draw.2.out = s.out := rfl
@[simp] theorem State.draw_entropyCtr (s : State) : s.draw.2.entropyCtr = s.entropyCtr + 1 := rfl
@[simp] theorem State.draw_freeCtr (s : State) : s.draw.2.freeCtr = s.freeCtr := rfl
@[simp] theorem State.draw_dom (s : State) : s.draw.2.dom = s.dom := rfl
@[simp] theorem State.draw_die (s : State) : s.draw.2.die = s.die := rfl
@[simp] theorem State.draw_avs (s : State) : s.draw.2.avs = s.avs := rfl
@[simp] theorem State.draw_host (s : State) : s.draw.2.host = s.host := rfl
@[simp] theorem State.draw_qp (s : State) : s.draw.2.qp = s.qp := rfl
@[simp] theorem State.draw_mgmt (s : State) : s.draw.2.mgmt = s.mgmt := rfl
@[simp] theorem State.draw_sec (s : State) : s.draw.2.sec = s.sec := rfl
@[simp] theorem State.draw_boot (s : State) : s.draw.2.boot = s.boot := rfl
@[simp] theorem State.draw_region (s : State) : s.draw.2.region = s.region := rfl
@[simp] theorem State.draw_live (s : State) : s.draw.2.live = s.live := rfl
@[simp] theorem State.draw_berth (s : State) : s.draw.2.berth = s.berth := rfl
@[simp] theorem State.draw_line (s : State) : s.draw.2.line = s.line := rfl
@[simp] theorem State.draw_ctxs (s : State) : s.draw.2.ctxs = s.ctxs := rfl
@[simp] theorem State.draw_owns (s : State) : s.draw.2.owns = s.owns := rfl
@[simp] theorem State.draw_mesh (s : State) : s.draw.2.mesh = s.mesh := rfl
@[simp] theorem State.draw_hold (s : State) : s.draw.2.hold = s.hold := rfl
@[simp] theorem State.draw_eth (s : State) : s.draw.2.eth = s.eth := rfl
@[simp] theorem State.draw_fab (s : State) : s.draw.2.fab = s.fab := rfl
@[simp] theorem State.draw_clk (s : State) : s.draw.2.clk = s.clk := rfl
@[simp] theorem State.draw_sense (s : State) : s.draw.2.sense = s.sense := rfl
@[simp] theorem State.draw_senseBlank (s : State) : s.draw.2.senseBlank = s.senseBlank := rfl
@[simp] theorem State.draw_loop (s : State) : s.draw.2.loop = s.loop := rfl
@[simp] theorem State.draw_chk (s : State) : s.draw.2.chk = s.chk := rfl
@[simp] theorem State.draw_uart (s : State) : s.draw.2.uart = s.uart := rfl

@[simp] theorem State.free_now (s : State) : s.free.2.now = s.now := rfl
@[simp] theorem State.free_pending (s : State) : s.free.2.pending = s.pending := rfl
@[simp] theorem State.free_fields (s : State) : s.free.2.fields = s.fields := rfl
@[simp] theorem State.free_pend (s : State) : s.free.2.pend = s.pend := rfl
@[simp] theorem State.free_stats (s : State) : s.free.2.stats = s.stats := rfl
@[simp] theorem State.free_evTimes (s : State) : s.free.2.evTimes = s.evTimes := rfl
@[simp] theorem State.free_out (s : State) : s.free.2.out = s.out := rfl
@[simp] theorem State.free_entropyCtr (s : State) : s.free.2.entropyCtr = s.entropyCtr := rfl
@[simp] theorem State.free_freeCtr (s : State) : s.free.2.freeCtr = s.freeCtr + 1 := rfl
@[simp] theorem State.free_dom (s : State) : s.free.2.dom = s.dom := rfl
@[simp] theorem State.free_die (s : State) : s.free.2.die = s.die := rfl
@[simp] theorem State.free_avs (s : State) : s.free.2.avs = s.avs := rfl
@[simp] theorem State.free_host (s : State) : s.free.2.host = s.host := rfl
@[simp] theorem State.free_qp (s : State) : s.free.2.qp = s.qp := rfl
@[simp] theorem State.free_mgmt (s : State) : s.free.2.mgmt = s.mgmt := rfl
@[simp] theorem State.free_sec (s : State) : s.free.2.sec = s.sec := rfl
@[simp] theorem State.free_boot (s : State) : s.free.2.boot = s.boot := rfl
@[simp] theorem State.free_region (s : State) : s.free.2.region = s.region := rfl
@[simp] theorem State.free_live (s : State) : s.free.2.live = s.live := rfl
@[simp] theorem State.free_berth (s : State) : s.free.2.berth = s.berth := rfl
@[simp] theorem State.free_line (s : State) : s.free.2.line = s.line := rfl
@[simp] theorem State.free_ctxs (s : State) : s.free.2.ctxs = s.ctxs := rfl
@[simp] theorem State.free_owns (s : State) : s.free.2.owns = s.owns := rfl
@[simp] theorem State.free_mesh (s : State) : s.free.2.mesh = s.mesh := rfl
@[simp] theorem State.free_hold (s : State) : s.free.2.hold = s.hold := rfl
@[simp] theorem State.free_eth (s : State) : s.free.2.eth = s.eth := rfl
@[simp] theorem State.free_fab (s : State) : s.free.2.fab = s.fab := rfl
@[simp] theorem State.free_clk (s : State) : s.free.2.clk = s.clk := rfl
@[simp] theorem State.free_sense (s : State) : s.free.2.sense = s.sense := rfl
@[simp] theorem State.free_senseBlank (s : State) : s.free.2.senseBlank = s.senseBlank := rfl
@[simp] theorem State.free_loop (s : State) : s.free.2.loop = s.loop := rfl
@[simp] theorem State.free_chk (s : State) : s.free.2.chk = s.chk := rfl
@[simp] theorem State.free_uart (s : State) : s.free.2.uart = s.uart := rfl

/-! Settings. -/

theorem lookupFld_cons {l : List ((Fld × Nat) × List Int)} {k : Fld × Nat} {v : List Int} {f : Fld} {i : Nat} :
    lookupFld ((k, v) :: l) f i = if k = (f, i) then some v else lookupFld l f i := rfl

theorem lookupFld_erase_other {l : List ((Fld × Nat) × List Int)} {f g : Fld} {i j : Nat} (h : (g, j) ≠ (f, i)) :
    lookupFld (eraseFld l f i) g j = lookupFld l g j := by
  induction l with
  | nil => rfl
  | cons e l ih =>
    obtain ⟨k, v⟩ := e
    unfold eraseFld at *
    rw [List.filter_cons]
    by_cases hk : k = (f, i)
    · simp only [hk, decide_true, Bool.not_true, Bool.false_eq_true, if_false]
      rw [ih, lookupFld_cons, if_neg (fun e => h e.symm)]
    · simp only [hk, decide_false, Bool.not_false, if_true]
      rw [lookupFld_cons, lookupFld_cons, ih]

theorem lookupFld_erase_same {l : List ((Fld × Nat) × List Int)} {f : Fld} {i : Nat} : lookupFld (eraseFld l f i) f i = none := by
  induction l with
  | nil => rfl
  | cons e l ih =>
    obtain ⟨k, v⟩ := e
    unfold eraseFld at *
    rw [List.filter_cons]
    by_cases hk : k = (f, i)
    · simp only [hk, decide_true, Bool.not_true, Bool.false_eq_true, if_false]
      exact ih
    · simp only [hk, decide_false, Bool.not_false, if_true]
      rw [lookupFld_cons, if_neg hk, ih]

/-- A setting reads as it was set. -/
@[simp] theorem State.fget_fset_same (s : State) (f : Fld) (i : Nat) (v : List Int) : (s.fset f i v).fget f i = v := by
  unfold State.fget State.fset
  dsimp only
  split
  · rename_i h
    rw [lookupFld_erase_same, h]
    rfl
  · rw [lookupFld_cons, if_pos rfl]
    rfl

/-- Every other setting reads as before. -/
theorem State.fget_fset_other (s : State) (f g : Fld) (i j : Nat) (v : List Int) (h : (g, j) ≠ (f, i)) : (s.fset f i v).fget g j = s.fget g j := by
  unfold State.fget State.fset
  dsimp only
  split
  · rw [lookupFld_erase_other h]
  · rw [lookupFld_cons, if_neg (fun e => h e.symm), lookupFld_erase_other h]

/-! Statistics. -/

theorem lookupStat_cons {l : List ((Stat × Nat × Nat) × Int)} {k k' : Stat × Nat × Nat} {v : Int} :
    lookupStat ((k', v) :: l) k = if k' = k then some v else lookupStat l k := rfl

theorem lookupStat_filter_other {l : List ((Stat × Nat × Nat) × Int)} {k k' : Stat × Nat × Nat} (h : k' ≠ k) :
    lookupStat (l.filter fun y => !decide (y.1 = k)) k' = lookupStat l k' := by
  induction l with
  | nil => rfl
  | cons e l ih =>
    obtain ⟨a, v⟩ := e
    rw [List.filter_cons]
    by_cases hk : a = k
    · simp only [hk, decide_true, Bool.not_true, Bool.false_eq_true, if_false]
      rw [ih, lookupStat_cons, if_neg (fun e => h e.symm)]
    · simp only [hk, decide_false, Bool.not_false, if_true]
      rw [lookupStat_cons, lookupStat_cons, ih]

theorem lookupStat_filter_same {l : List ((Stat × Nat × Nat) × Int)} {k : Stat × Nat × Nat} :
    lookupStat (l.filter fun y => !decide (y.1 = k)) k = none := by
  induction l with
  | nil => rfl
  | cons e l ih =>
    obtain ⟨a, v⟩ := e
    rw [List.filter_cons]
    by_cases hk : a = k
    · simp only [hk, decide_true, Bool.not_true, Bool.false_eq_true, if_false]
      exact ih
    · simp only [hk, decide_false, Bool.not_false, if_true]
      rw [lookupStat_cons, if_neg hk, ih]

/-- A statistic reads as it was set. -/
@[simp] theorem State.stat_statSet_same (s : State) (x : Stat) (i e : Nat) (v : Int) : (s.statSet x i e v).stat x i e = v := by
  unfold State.stat State.statSet
  dsimp only
  split
  · rename_i h
    rw [lookupStat_filter_same, h]
    rfl
  · rw [lookupStat_cons, if_pos rfl]
    rfl

/-- Every other statistic reads as before. -/
theorem State.stat_statSet_other (s : State) (x y : Stat) (i e j d : Nat) (v : Int) (h : (y, j, d) ≠ (x, i, e)) :
    (s.statSet x i e v).stat y j d = s.stat y j d := by
  unfold State.stat State.statSet
  dsimp only
  split
  · rw [lookupStat_filter_other h]
  · rw [lookupStat_cons, if_neg (fun e => h e.symm), lookupStat_filter_other h]

end Sys2Proof.Machine
end

