-- ==== Sys2Proof/Laws/Events.lean ====
section
/-! SUPPORT. What raising an event does: the sequence number counts, the event is held for QP1, and of the statistics only those of the event
path change. -/

namespace Sys2Proof.Machine
open Sys2Proof

@[simp] theorem State.msix_evSeq (s : State) (v : BitVec 9) : (s.msix v).host.evSeq = s.host.evSeq := by
  unfold State.msix
  repeat' split
  all_goals rfl

@[simp] theorem State.msix_held (s : State) (v : BitVec 9) : (s.msix v).host.held = s.host.held := by
  unfold State.msix
  repeat' split
  all_goals rfl

@[simp] theorem State.cause_evSeq (s : State) (k : Fin 8) : (s.cause k).host.evSeq = s.host.evSeq := by
  unfold State.cause
  repeat' split
  all_goals simp

@[simp] theorem State.cause_held (s : State) (k : Fin 8) : (s.cause k).host.held = s.host.held := by
  unfold State.cause
  repeat' split
  all_goals simp

@[simp] theorem State.alarmOn_evSeq (s : State) : s.alarmOn.host.evSeq = s.host.evSeq := by
  unfold State.alarmOn
  split
  · rfl
  · simp

@[simp] theorem State.alarmOn_held (s : State) : s.alarmOn.host.held = s.host.held := by
  unfold State.alarmOn
  split
  · rfl
  · simp

theorem State.notify_host (s : State) (e : Evt) : (s.notify e).host = s.host :=
  State.notify_only (L := [.stats, .out, .fab]) (s₀ := s) rfl (Only.refl _ _) .host rfl

@[simp] theorem State.holdEvt_evSeq (s : State) (e : Evt) : (s.holdEvt e).host.evSeq = s.host.evSeq := by
  unfold State.holdEvt
  split
  · rfl
  · simp

/-- A held event is the newest of those that wait (R252). -/
theorem State.holdEvt_mem (s : State) (e : Evt) : e ∈ (s.holdEvt e).host.held := by
  unfold State.holdEvt
  split <;> simp

/-- An event counts in the sequence (R250). -/
@[simp] theorem State.raise_evSeq (s : State) (ev : Ev) (i d : Nat) : (s.raise ev i d).host.evSeq = s.host.evSeq + 1 := by
  unfold State.raise
  dsimp only
  split <;> simp [State.notify_host]

/-- An event waits for QP1 with its number, its code and its argument (R252, R276). -/
theorem State.raise_mem (s : State) (ev : Ev) (i d : Nat) :
    (⟨s.host.evSeq + 1, ev.desc.code, evtArg ev.desc.cls i d⟩ : Evt) ∈ (s.raise ev i d).host.held := by
  unfold State.raise
  dsimp only
  split
  · rw [State.alarmOn_held, State.notify_host]
    exact State.holdEvt_mem _ _
  · rw [State.notify_host]
    exact State.holdEvt_mem _ _

/-- A statistic other than `x` reads as before. -/
theorem State.stat_bump_other (s : State) (x y : Stat) (i e n j d : Nat) (h : y ≠ x) : (s.bump x i e n).stat y j d = s.stat y j d :=
  State.stat_statSet_other s x y i e j d _ (fun q => h (congrArg Prod.fst q))

theorem State.stat_stick_other (s : State) (x y : Stat) (i j d : Nat) (h : y ≠ x) : (s.stick x i).stat y j d = s.stat y j d :=
  State.stat_statSet_other s x y i 0 j d _ (fun q => h (congrArg Prod.fst q))

theorem State.stat_report_other (s : State) (x y : Stat) (i e j d : Nat) (v : Int) (h : y ≠ x) : (s.report x i e v).stat y j d = s.stat y j d :=
  State.stat_statSet_other s x y i e j d _ (fun q => h (congrArg Prod.fst q))

theorem State.stat_of_stats {s s' : State} (h : s'.stats = s.stats) (x : Stat) (i e : Nat) : s'.stat x i e = s.stat x i e := by
  unfold State.stat
  rw [h]

@[simp] theorem State.stat_bump_same (s : State) (x : Stat) (i e n : Nat) :
    (s.bump x i e n).stat x i e = min (s.stat x i e + n) ((2 ^ x.desc.bits : Nat) - 1) := State.stat_statSet_same _ _ _ _ _

@[simp] theorem State.stat_stick_same (s : State) (x : Stat) (i : Nat) : (s.stick x i).stat x i = 1 := State.stat_statSet_same _ _ _ _ _

@[simp] theorem State.stat_report_same (s : State) (x : Stat) (i e : Nat) (v : Int) : (s.report x i e v).stat x i e = clampStat x v :=
  State.stat_statSet_same _ _ _ _ _

theorem State.stat_sendTo (s : State) (p : Pkt) (via : LinkId) (x : Stat) (i e : Nat) (h : x ≠ .unreachable) :
    (s.sendTo p via).stat x i e = s.stat x i e := by
  unfold State.sendTo
  split
  · exact State.stat_of_stats (State.sendPkt_only (L := [.out, .fab]) (s₀ := s) rfl (Only.refl _ _) .stats rfl) x i e
  · exact State.stat_bump_other _ _ _ _ _ _ _ _ h

theorem State.stat_respond (s : State) (tr : Transport) (data : Bytes) (x : Stat) (i e : Nat) (h : x ≠ .unreachable) :
    (s.respond tr data).stat x i e = s.stat x i e := by
  unfold State.respond
  split
  · exact State.stat_sendTo _ _ _ x i e h
  · rfl

theorem State.stat_notify (s : State) (v : Evt) (x : Stat) (i e : Nat) (h : x ≠ .unreachable) : (s.notify v).stat x i e = s.stat x i e := by
  unfold State.notify State.forAll
  generalize s.mgmt.sessions.filter _ = l
  induction l generalizing s with
  | nil => rfl
  | cons y l ih => exact (ih _).trans (State.stat_respond _ _ _ x i e h)

theorem State.stat_cause (s : State) (k : Fin 8) (x : Stat) (i e : Nat) : (s.cause k).stat x i e = s.stat x i e :=
  State.stat_of_stats (State.cause_only (L := [.out, .host]) (s₀ := s) rfl (Only.refl _ _) .stats rfl) x i e

/-- The statistics that an event's path may change (R252, R277, R298). -/
def evStats : List Stat := [.evOverflow, .evOverflowHist, .alarmHist, .unreachable]

/-- An event leaves every other statistic as it was. -/
theorem State.stat_raise (s : State) (ev : Ev) (j d : Nat) (x : Stat) (i e : Nat) (h : evStats.contains x = false) :
    (s.raise ev j d).stat x i e = s.stat x i e := by
  have hx : x ≠ .evOverflow ∧ x ≠ .evOverflowHist ∧ x ≠ .alarmHist ∧ x ≠ .unreachable := by
    refine ⟨?_, ?_, ?_, ?_⟩ <;> (rintro rfl; exact absurd h (by decide))
  have hh : ∀ (a : State) (v : Evt), (a.holdEvt v).stat x i e = a.stat x i e := by
    intro a v
    unfold State.holdEvt
    split
    · rfl
    · rw [State.stat_cause, State.stat_stick_other _ _ _ _ _ _ hx.2.1, State.stat_bump_other _ _ _ _ _ _ _ _ hx.1]
      rfl
  have ha : ∀ a : State, a.alarmOn.stat x i e = a.stat x i e := by
    intro a
    unfold State.alarmOn
    split
    · rfl
    · rw [State.stat_cause, State.stat_stick_other _ _ _ _ _ _ hx.2.2.1]
      rfl
  unfold State.raise
  dsimp only
  split
  · rw [ha, State.stat_notify _ _ _ _ _ hx.2.2.2, hh]
    rfl
  · rw [State.stat_notify _ _ _ _ _ hx.2.2.2, hh]
    rfl

end Sys2Proof.Machine
end

