-- ==== Sys2Proof/Laws/Memory.lean ====
section
/-! SUPPORT. The byte memory: every write keeps the canonical form, a read after a write, and a write leaves every other byte alone. -/

namespace Sys2Proof.Machine
open Sys2Proof

theorem Memory.wfAbove_cons {a k : Nat} {v : Byte} {r : Memory} :
    Memory.wfAbove a ((k, v) :: r) = true ↔ a < k ∧ v ≠ 0 ∧ Memory.wfAbove k r = true := by
  show (decide (a < k) && v != 0 && Memory.wfAbove k r) = true ↔ _
  rw [Bool.and_eq_true, Bool.and_eq_true, decide_eq_true_eq, bne_iff_ne, and_assoc]

theorem Memory.wf_cons {k : Nat} {v : Byte} {r : Memory} : Memory.wf ((k, v) :: r) = true ↔ v ≠ 0 ∧ Memory.wfAbove k r = true := by
  show (v != 0 && Memory.wfAbove k r) = true ↔ _
  rw [Bool.and_eq_true, bne_iff_ne]

theorem Memory.get_cons {k a : Nat} {v : Byte} {r : Memory} : Memory.get ((k, v) :: r) a = if a = k then v else if a < k then 0 else Memory.get r a := rfl

theorem Memory.wfAbove_mono {a b : Nat} {m : Memory} (h : Memory.wfAbove b m = true) (hab : a ≤ b) : Memory.wfAbove a m = true := by
  cases m with
  | nil => rfl
  | cons x r =>
    rw [Memory.wfAbove_cons] at *
    exact ⟨Nat.lt_of_le_of_lt hab h.1, h.2⟩

theorem Memory.wf_of_wfAbove {a : Nat} {m : Memory} (h : Memory.wfAbove a m = true) : m.wf = true := by
  cases m with
  | nil => rfl
  | cons x r => exact Memory.wf_cons.mpr (Memory.wfAbove_cons.mp h).2

theorem Memory.put_wfAbove {c a : Nat} {b : Byte} {m : Memory} (h : Memory.wfAbove c m = true) (hc : c < a) : Memory.wfAbove c (m.put a b) = true := by
  induction m generalizing c with
  | nil =>
    unfold Memory.put
    split
    · rfl
    · rename_i hb
      exact Memory.wfAbove_cons.mpr ⟨hc, hb, rfl⟩
  | cons x r ih =>
    obtain ⟨k, v⟩ := x
    obtain ⟨hck, hv, hr⟩ := Memory.wfAbove_cons.mp h
    unfold Memory.put
    split
    · rename_i hak
      split
      · exact h
      · rename_i hb
        exact Memory.wfAbove_cons.mpr ⟨hc, hb, Memory.wfAbove_cons.mpr ⟨hak, hv, hr⟩⟩
    · split
      · split
        · exact Memory.wfAbove_mono hr (Nat.le_of_lt hck)
        · rename_i hb
          exact Memory.wfAbove_cons.mpr ⟨hck, hb, hr⟩
      · exact Memory.wfAbove_cons.mpr ⟨hck, hv, ih (c := k) hr (by omega)⟩

/-- A write keeps the canonical form. -/
theorem Memory.put_wf {a : Nat} {b : Byte} {m : Memory} (h : m.wf = true) : (m.put a b).wf = true := by
  cases m with
  | nil =>
    unfold Memory.put
    split
    · rfl
    · rename_i hb
      exact Memory.wf_cons.mpr ⟨hb, rfl⟩
  | cons x r =>
    obtain ⟨k, v⟩ := x
    obtain ⟨hv, hr⟩ := Memory.wf_cons.mp h
    unfold Memory.put
    split
    · rename_i hak
      split
      · exact h
      · rename_i hb
        exact Memory.wf_cons.mpr ⟨hb, Memory.wfAbove_cons.mpr ⟨hak, hv, hr⟩⟩
    · split
      · split
        · exact Memory.wf_of_wfAbove hr
        · rename_i hb
          exact Memory.wf_cons.mpr ⟨hb, hr⟩
      · exact Memory.wf_cons.mpr ⟨hv, Memory.put_wfAbove hr (by omega)⟩

/-- So does a write of a byte string. -/
theorem Memory.puts_wf {a : Nat} {l : Bytes} {m : Memory} (h : m.wf = true) : (m.puts a l).wf = true := by
  induction l generalizing m a with
  | nil => exact h
  | cons b l ih => exact ih (Memory.put_wf h)

theorem Memory.get_of_wfAbove {c a : Nat} {m : Memory} (h : Memory.wfAbove c m = true) (ha : a ≤ c) : m.get a = 0 := by
  cases m with
  | nil => rfl
  | cons x r =>
    obtain ⟨k, v⟩ := x
    have hk := (Memory.wfAbove_cons.mp h).1
    unfold Memory.get
    rw [if_neg (by omega), if_pos (by omega)]

/-- A read after a write: the byte written at its address, the byte before elsewhere. -/
theorem Memory.get_put {a a' : Nat} {b : Byte} {m : Memory} (h : m.wf = true) : (m.put a b).get a' = if a' = a then b else m.get a' := by
  induction m with
  | nil =>
    unfold Memory.put
    by_cases hb : b = 0
    · rw [if_pos hb, hb]
      exact (ite_self (0 : Byte)).symm
    · rw [if_neg hb, Memory.get_cons, show Memory.get [] a' = 0 from rfl, ite_self]
  | cons x r ih =>
    obtain ⟨k, v⟩ := x
    have hk : Memory.wfAbove k r = true := (Memory.wf_cons.mp h).2
    have ih := ih (Memory.wf_of_wfAbove hk)
    unfold Memory.put
    by_cases h1 : a < k
    · rw [if_pos h1]
      by_cases hb : b = 0
      · rw [if_pos hb]
        by_cases h2 : a' = a
        · rw [if_pos h2, Memory.get_cons, if_neg (by omega), if_pos (by omega), hb]
        · rw [if_neg h2]
      · rw [if_neg hb, Memory.get_cons]
        by_cases h2 : a' = a
        · rw [if_pos h2, if_pos h2]
        · rw [if_neg h2, if_neg h2]
          by_cases h3 : a' < a
          · rw [if_pos h3, Memory.get_cons, if_neg (by omega), if_pos (by omega)]
          · rw [if_neg h3]
    · rw [if_neg h1]
      by_cases h2 : a = k
      · rw [if_pos h2, Memory.get_cons, ← h2]
        by_cases h3 : a' = a
        · rw [if_pos h3]
          by_cases hb : b = 0
          · rw [if_pos hb, Memory.get_of_wfAbove hk (by omega), hb]
          · rw [if_neg hb, Memory.get_cons, if_pos h3]
        · rw [if_neg h3, if_neg h3]
          by_cases h4 : a' < a
          · rw [if_pos h4]
            by_cases hb : b = 0
            · rw [if_pos hb, Memory.get_of_wfAbove hk (by omega)]
            · rw [if_neg hb, Memory.get_cons, if_neg h3, if_pos h4]
          · rw [if_neg h4]
            by_cases hb : b = 0
            · rw [if_pos hb]
            · rw [if_neg hb, Memory.get_cons, if_neg h3, if_neg h4]
      · rw [if_neg h2, Memory.get_cons, Memory.get_cons, ih]
        by_cases h3 : a' = k
        · rw [if_pos h3, if_neg (by omega), if_pos h3]
        · rw [if_neg h3, if_neg h3]
          by_cases h4 : a' < k
          · rw [if_pos h4, if_pos h4, if_neg (by omega)]
          · rw [if_neg h4, if_neg h4]

/-- A byte string leaves every byte outside its addresses as it was. -/
theorem Memory.get_puts_outside {a a' : Nat} {l : Bytes} {m : Memory} (h : m.wf = true) (ho : a' < a ∨ a + l.length ≤ a') :
    (m.puts a l).get a' = m.get a' := by
  induction l generalizing m a with
  | nil => rfl
  | cons b l ih =>
    have ha : a' ≠ a := by
      simp only [List.length_cons] at ho
      omega
    have hl : a' < a + 1 ∨ a + 1 + l.length ≤ a' := by
      simp only [List.length_cons] at ho
      omega
    show ((m.put a b).puts (a + 1) l).get a' = m.get a'
    rw [ih (Memory.put_wf h) hl, Memory.get_put h, if_neg ha]

/-- What was written reads back. -/
theorem Memory.get_puts_inside {a i : Nat} {l : Bytes} {m : Memory} (h : m.wf = true) (hi : i < l.length) : (m.puts a l).get (a + i) = l[i] := by
  induction l generalizing m a i with
  | nil => exact absurd hi (Nat.not_lt_zero _)
  | cons b l ih =>
    cases i with
    | zero =>
      show ((m.put a b).puts (a + 1) l).get a = b
      rw [Memory.get_puts_outside (Memory.put_wf h) (Or.inl (Nat.lt_succ_self a)), Memory.get_put h, if_pos rfl]
    | succ i =>
      have hl : i < l.length := Nat.lt_of_succ_lt_succ hi
      show ((m.put a b).puts (a + 1) l).get (a + (i + 1)) = l[i]
      rw [← ih (m := m.put a b) (a := a + 1) (Memory.put_wf h) hl, Nat.add_assoc, Nat.add_comm 1 i]

theorem Memory.gets_puts {a : Nat} {l : Bytes} {m : Memory} (h : m.wf = true) : (m.puts a l).gets a l.length = l := by
  have key : ∀ (n k : Nat) (r : Bytes), k + n = l.length → r = l.drop k → (m.puts a l).gets (a + k) n = r := by
    intro n
    induction n with
    | zero =>
      intro k r hk hr
      rw [hr, List.drop_eq_nil_of_le (by omega)]
      rfl
    | succ n ih =>
      intro k r hk hr
      have hlt : k < l.length := by omega
      rw [hr, List.drop_eq_getElem_cons hlt]
      show (m.puts a l).get (a + k) :: (m.puts a l).gets (a + k + 1) n = _
      rw [Memory.get_puts_inside h hlt, Nat.add_assoc, ih (k + 1) _ (by omega) rfl]
  exact key l.length 0 l (Nat.zero_add _) rfl

end Sys2Proof.Machine
end

