-- ==== Sys2Proof/Laws/Inv.lean ====
section
/-! SUPPORT. What always holds is kept: `Inv` composes, and every operation keeps it that reaches neither the domains, the Hold nor the host
interface, or that writes them as their own laws say. -/

namespace Sys2Proof.Machine
open Sys2Proof

theorem inv_same {a b : State} (hd : b.dom = a.dom) (hm : b.hold.mem = a.hold.mem) (hh : b.host.held = a.host.held) (h : Inv a) : Inv b := by
  refine ⟨?_, ?_, ?_⟩
  · have := h.secOn
    unfold State.domSt at *
    rwa [hd]
  · rw [hm]
    exact h.memOk
  · rw [hh]
    exact h.heldLe

/-- A reach that leaves the domains, the Hold and the host interface alone keeps what always holds. -/
theorem inv_only {L : List Part} {a b : State} (ho : Only L a b) (hL : (L.contains .dom || L.contains .hold || L.contains .host) = false)
    (h : Inv a) : Inv b := by
  simp only [Bool.or_eq_false_iff] at hL
  refine inv_same (ho .dom hL.1.1) ?_ ?_ h
  · rw [show b.hold = a.hold from ho .hold hL.1.2]
  · rw [show b.host = a.host from ho .host hL.2]

theorem Inv.ite {c : Prop} [Decidable c] {a b : State} (ha : Inv a) (hb : Inv b) : Inv (if c then a else b) := by
  split <;> assumption

theorem Inv.dite {c : Prop} [Decidable c] {a : c → State} {b : ¬c → State} (ha : ∀ h, Inv (a h)) (hb : ∀ h, Inv (b h)) :
    Inv (if h : c then a h else b h) := by
  split
  · exact ha _
  · exact hb _

/-- What always holds, of a next state. -/
def InvNext (o : Host.Outcome State Fault Refusal) : Prop := ∀ s', o = .next s' → Inv s'

theorem InvNext.next {a : State} (h : Inv a) : InvNext (.next a) := by
  intro s' e
  cases e
  exact h

theorem InvNext.ite {c : Prop} [Decidable c] {a b : Host.Outcome State Fault Refusal} (ha : InvNext a) (hb : InvNext b) :
    InvNext (if c then a else b) := by
  split <;> assumption

theorem InvNext.dite {c : Prop} [Decidable c] {a : c → Host.Outcome State Fault Refusal} {b : ¬c → Host.Outcome State Fault Refusal}
    (ha : ∀ h, InvNext (a h)) (hb : ∀ h, InvNext (b h)) : InvNext (if h : c then a h else b h) := by
  split
  · exact ha _
  · exact hb _

/-- What always holds, of the state a command's start leaves. -/
def InvEff (e : Eff) : Prop := Inv e.state

theorem InvEff.done {a : State} {x : Rsp} (h : Inv a) : InvEff (.done x a) := h
theorem InvEff.run {a : State} {k : RunKind} (h : Inv a) : InvEff (.run k a) := h
theorem InvEff.ite {c : Prop} [Decidable c] {a b : Eff} (ha : InvEff a) (hb : InvEff b) : InvEff (if c then a else b) := by
  split <;> assumption
theorem InvEff.dite {c : Prop} [Decidable c] {a : c → Eff} {b : ¬c → Eff} (ha : ∀ h, InvEff (a h)) (hb : ∀ h, InvEff (b h)) :
    InvEff (if h : c then a h else b h) := by
  split
  · exact ha _
  · exact hb _

theorem State.forAll_inv {α : Type} {s : State} {l : List α} {f : State → α → State} (hf : ∀ a x, Inv a → Inv (f a x)) (h : Inv s) :
    Inv (s.forAll l f) := by
  unfold State.forAll
  induction l generalizing s with
  | nil => exact h
  | cons x l ih => exact ih (hf _ _ h)

theorem inv_set_avs {s : State} {avs_ : _} (h : Inv s) : Inv { s with avs := avs_ } :=
  inv_same (a := s) rfl rfl rfl h

theorem inv_set_boot {s : State} {boot_ : _} (h : Inv s) : Inv { s with boot := boot_ } :=
  inv_same (a := s) rfl rfl rfl h

theorem inv_set_clk {s : State} {clk_ : _} (h : Inv s) : Inv { s with clk := clk_ } :=
  inv_same (a := s) rfl rfl rfl h

theorem inv_set_ctxs {s : State} {ctxs_ : _} (h : Inv s) : Inv { s with ctxs := ctxs_ } :=
  inv_same (a := s) rfl rfl rfl h

theorem inv_set_evTimes {s : State} {evTimes_ : _} (h : Inv s) : Inv { s with evTimes := evTimes_ } :=
  inv_same (a := s) rfl rfl rfl h

theorem inv_set_fab {s : State} {fab_ : _} (h : Inv s) : Inv { s with fab := fab_ } :=
  inv_same (a := s) rfl rfl rfl h

theorem inv_set_hold {s : State} {hold_ : _} (hhold : hold_.mem = s.hold.mem) (h : Inv s) : Inv { s with hold := hold_ } :=
  inv_same (a := s) rfl hhold rfl h

theorem inv_set_host {s : State} {host_ : _} (hhost : host_.held = s.host.held) (h : Inv s) : Inv { s with host := host_ } :=
  inv_same (a := s) rfl rfl hhost h

theorem inv_set_live {s : State} {live_ : _} (h : Inv s) : Inv { s with live := live_ } :=
  inv_same (a := s) rfl rfl rfl h

theorem inv_set_mgmt {s : State} {mgmt_ : _} (h : Inv s) : Inv { s with mgmt := mgmt_ } :=
  inv_same (a := s) rfl rfl rfl h

theorem inv_set_owns {s : State} {owns_ : _} (h : Inv s) : Inv { s with owns := owns_ } :=
  inv_same (a := s) rfl rfl rfl h

theorem inv_set_region {s : State} {region_ : _} (h : Inv s) : Inv { s with region := region_ } :=
  inv_same (a := s) rfl rfl rfl h

theorem inv_set_sec {s : State} {sec_ : _} (h : Inv s) : Inv { s with sec := sec_ } :=
  inv_same (a := s) rfl rfl rfl h

theorem inv_set_boot_live {s : State} {boot_ : _} {live_ : _} (h : Inv s) : Inv { s with boot := boot_, live := live_ } :=
  inv_same (a := s) rfl rfl rfl h

theorem inv_set_ctxs_hold {s : State} {ctxs_ : _} {hold_ : _} (hhold : hold_.mem = s.hold.mem) (h : Inv s) : Inv { s with ctxs := ctxs_, hold := hold_ } :=
  inv_same (a := s) rfl hhold rfl h

theorem inv_set_sec_clk {s : State} {sec_ : _} {clk_ : _} (h : Inv s) : Inv { s with sec := sec_, clk := clk_ } :=
  inv_same (a := s) rfl rfl rfl h

theorem inv_set_sec_fab {s : State} {sec_ : _} {fab_ : _} (h : Inv s) : Inv { s with sec := sec_, fab := fab_ } :=
  inv_same (a := s) rfl rfl rfl h

theorem inv_set_host_qp_mgmt {s : State} {host_ : _} {qp_ : _} {mgmt_ : _} (hhost : host_.held = s.host.held) (h : Inv s) : Inv { s with host := host_, qp := qp_, mgmt := mgmt_ } :=
  inv_same (a := s) rfl rfl hhost h

theorem inv_set_sec_boot_live_clk {s : State} {sec_ : _} {boot_ : _} {live_ : _} {clk_ : _} (h : Inv s) : Inv { s with sec := sec_, boot := boot_, live := live_, clk := clk_ } :=
  inv_same (a := s) rfl rfl rfl h

/-- A domain's record may change in everything but its state. -/
theorem State.setDomRec_inv {s : State} {k : DomId} {d : Dom} (hd : d.st = s.dom[k].st) (h : Inv s) : Inv (s.setDomRec k d) := by
  refine ⟨?_, h.memOk, h.heldLe⟩
  have h1 := h.secOn
  unfold State.domSt State.setDomRec at *
  by_cases hk : k = pdSec
  · subst hk
    simpa [hd] using h1
  · have : k.val ≠ pdSec.val := fun e => hk (Fin.ext e)
    simpa [Vector.getElem_set, this] using h1

theorem State.setDomRec_other_inv {s : State} {k : DomId} {d : Dom} (hk : k ≠ pdSec) (h : Inv s) : Inv (s.setDomRec k d) := by
  refine ⟨?_, h.memOk, h.heldLe⟩
  have h1 := h.secOn
  unfold State.domSt State.setDomRec at *
  have : k.val ≠ pdSec.val := fun e => hk (Fin.ext e)
  simpa [Vector.getElem_set, this] using h1

theorem inv_mem {a b : State} (hd : b.dom = a.dom) (hm : b.hold.mem.wf = true) (hh : b.host.held = a.host.held) (h : Inv a) : Inv b := by
  refine ⟨?_, hm, ?_⟩
  · have := h.secOn
    unfold State.domSt at *
    rwa [hd]
  · rw [hh]
    exact h.heldLe

theorem State.reset_inv : Inv State.reset := ⟨by decide, by decide, by decide⟩

end Sys2Proof.Machine
end

