-- ==== Sys2Proof/Laws/InvOps.lean ====
section
/-! SUPPORT. The operations of Machine/Ops.lean keep what always holds. -/

namespace Sys2Proof.Machine
open Sys2Proof

set_option linter.all false

theorem State.fset_inv {s : State} {f : Fld} {i : Nat} {v : List Int} (ho : Inv s) : Inv (State.fset s f i v) :=
  inv_only (State.fset_only (L := [.fields]) (s := s) (f := f) (i := i) (v := v) rfl (Only.refl _ _)) rfl ho

theorem State.objTouch_inv {s : State} {c : Cls} {i : Nat} (ho : Inv s) : Inv (State.objTouch s c i) :=
  inv_only (State.objTouch_only (L := [.mgmt]) (s := s) (c := c) (i := i) rfl (Only.refl _ _)) rfl ho

theorem State.dirty_inv {s : State} (ho : Inv s) : Inv (State.dirty s) :=
  inv_only (State.dirty_only (L := [.boot]) (s := s) rfl (Only.refl _ _)) rfl ho

theorem State.setBerth_inv {s : State} {b : Berth} {x : BerthSt} (ho : Inv s) : Inv (State.setBerth s b x) :=
  inv_only (State.setBerth_only (L := [.berth]) (s := s) (b := b) (x := x) rfl (Only.refl _ _)) rfl ho

theorem State.modBerth_inv {s : State} {b : Berth} {f : BerthSt → BerthSt} (ho : Inv s) : Inv (State.modBerth s b f) :=
  inv_only (State.modBerth_only (L := [.berth]) (s := s) (b := b) (f := f) rfl (Only.refl _ _)) rfl ho

theorem State.modLine_inv {s : State} {b : Berth} {f : Line → Line} (ho : Inv s) : Inv (State.modLine s b f) :=
  inv_only (State.modLine_only (L := [.line]) (s := s) (b := b) (f := f) rfl (Only.refl _ _)) rfl ho

theorem State.at_inv {s : State} {t : Nat} (ho : Inv s) : Inv (State.at s t) :=
  inv_only (State.at_only (L := [.now]) (s := s) (t := t) rfl (Only.refl _ _)) rfl ho

theorem State.statSet_inv {s : State} {x : Stat} {i : Nat} {e : Nat} {v : Int} (ho : Inv s) : Inv (State.statSet s x i e v) :=
  inv_only (State.statSet_only (L := [.stats]) (s := s) (x := x) (i := i) (e := e) (v := v) rfl (Only.refl _ _)) rfl ho

theorem State.bump_inv {s : State} {x : Stat} {i : optParam Nat 0} {e : optParam Nat 0} {n : optParam Nat 1} (ho : Inv s) : Inv (State.bump s x i e n) :=
  inv_only (State.bump_only (L := [.stats]) (s := s) (x := x) (i := i) (e := e) (n := n) rfl (Only.refl _ _)) rfl ho

theorem State.stick_inv {s : State} {x : Stat} {i : optParam Nat 0} (ho : Inv s) : Inv (State.stick s x i) :=
  inv_only (State.stick_only (L := [.stats]) (s := s) (x := x) (i := i) rfl (Only.refl _ _)) rfl ho

theorem State.emit_inv {s : State} {o : Out} (ho : Inv s) : Inv (State.emit s o) :=
  inv_only (State.emit_only (L := [.out]) (s := s) (o := o) rfl (Only.refl _ _)) rfl ho

theorem State.msix_inv {s : State} {v : BitVec 9} (ho : Inv s) : Inv (State.msix s v) := by
  unfold State.msix
  repeat' with_reducible first | exact ho | refine Inv.ite ?_ ?_ | refine Inv.dite (fun _ => ?_) (fun _ => ?_) | refine State.emit_inv ?_ | assumption | exact rfl | split | (dsimp -proj only; split) | refine inv_set_host ?_ ?_

theorem State.cause_inv {s : State} {k : Fin 8} (ho : Inv s) : Inv (State.cause s k) := by
  unfold State.cause
  repeat' with_reducible first | exact ho | refine Inv.ite ?_ ?_ | refine Inv.dite (fun _ => ?_) (fun _ => ?_) | refine State.msix_inv ?_ | assumption | exact rfl | split | (dsimp -proj only; split) | refine inv_set_host ?_ ?_

theorem State.alarmOn_inv {s : State} (ho : Inv s) : Inv (State.alarmOn s) := by
  unfold State.alarmOn
  repeat' with_reducible first | exact ho | refine Inv.ite ?_ ?_ | refine Inv.dite (fun _ => ?_) (fun _ => ?_) | refine State.cause_inv ?_ | refine State.stick_inv ?_ | assumption | exact rfl | split | (dsimp -proj only; split) | refine inv_set_host ?_ ?_

theorem State.modLink_inv {s : State} {l : LinkId} {f : FabLink → FabLink} (ho : Inv s) : Inv (State.modLink s l f) :=
  inv_only (State.modLink_only (L := [.fab]) (s := s) (l := l) (f := f) rfl (Only.refl _ _)) rfl ho

theorem State.putPkt_inv {s : State} {l : LinkId} {p : Pkt} (ho : Inv s) : Inv (State.putPkt s l p) :=
  inv_only (State.putPkt_only (L := [.out, .fab]) (s := s) (l := l) (p := p) rfl (Only.refl _ _)) rfl ho

theorem State.sendTo_inv {s : State} {p : Pkt} {via : optParam LinkId 0} (ho : Inv s) : Inv (State.sendTo s p via) :=
  inv_only (State.sendTo_only (L := [.stats, .out, .fab]) (s := s) (p := p) (via := via) rfl (Only.refl _ _)) rfl ho

theorem State.respond_inv {s : State} {tr : Transport} {data : Bytes} (ho : Inv s) : Inv (State.respond s tr data) :=
  inv_only (State.respond_only (L := [.stats, .out, .fab]) (s := s) (tr := tr) (data := data) rfl (Only.refl _ _)) rfl ho

theorem State.notify_inv {s : State} {e : Evt} (ho : Inv s) : Inv (State.notify s e) :=
  inv_only (State.notify_only (L := [.stats, .out, .fab]) (s := s) (e := e) rfl (Only.refl _ _)) rfl ho

theorem State.holdEvt_inv {s : State} {e : Evt} (h : Inv s) : Inv (s.holdEvt e) := by
  unfold State.holdEvt
  split
  · rename_i hl
    refine ⟨h.secOn, h.memOk, ?_⟩
    show (s.host.held ++ [e]).length ≤ 4096
    rw [List.length_append]
    exact hl
  · refine State.cause_inv (State.stick_inv (State.bump_inv ?_))
    refine ⟨h.secOn, h.memOk, ?_⟩
    show (s.host.held.drop 1 ++ [e]).length ≤ 4096
    have := h.heldLe
    rw [List.length_append, List.length_drop, List.length_singleton]
    omega

theorem State.raise_inv {s : State} {ev : Ev} {inst : Nat} {detail : Nat} (ho : Inv s) : Inv (State.raise s ev inst detail) := by
  unfold State.raise
  repeat' with_reducible first | exact ho | refine Inv.ite ?_ ?_ | refine Inv.dite (fun _ => ?_) (fun _ => ?_) | refine State.holdEvt_inv ?_ | refine State.notify_inv ?_ | refine State.alarmOn_inv ?_ | assumption | exact rfl | split | (dsimp -proj only; split) | refine inv_set_host ?_ ?_

theorem State.report_inv {s : State} {x : Stat} {i : Nat} {e : Nat} {v : Int} (ho : Inv s) : Inv (State.report s x i e v) :=
  inv_only (State.report_only (L := [.stats]) (s := s) (x := x) (i := i) (e := e) (v := v) rfl (Only.refl _ _)) rfl ho

theorem State.setDom_inv {s : State} {k : DomId} {st : DomSt} (h : Inv s) : Inv (s.setDom k st) := by
  unfold State.setDom
  dsimp only
  refine Inv.dite (fun _ => h) (fun hk => ?_)
  have hk : k ≠ pdSec := fun e => hk (Or.inr e)
  refine State.cause_inv (State.objTouch_inv ?_)
  split
  · exact Inv.ite (State.report_inv
      (State.modBerth_inv (State.setDomRec_other_inv hk h))) (State.setDomRec_other_inv hk h)
  · exact State.setDomRec_other_inv hk h

theorem State.startRamp_inv {s : State} {k : DomId} (ho : Inv s) : Inv (State.startRamp s k) := by
  unfold State.startRamp
  repeat' with_reducible first | exact ho | refine Inv.ite ?_ ?_ | refine Inv.dite (fun _ => ?_) (fun _ => ?_) | refine State.setDom_inv ?_ | refine State.setDomRec_inv (by rfl) ?_ | assumption | exact rfl | split | (dsimp -proj only; split)

theorem State.modChan_inv {s : State} {m : Chan} {f : ChanRec → ChanRec} (ho : Inv s) : Inv (State.modChan s m f) := by
  unfold State.modChan
  repeat' with_reducible first | exact ho | refine Inv.ite ?_ ?_ | refine Inv.dite (fun _ => ?_) (fun _ => ?_) | assumption | exact rfl | split | (dsimp -proj only; split) | refine inv_set_hold ?_ ?_

theorem State.setQp_inv {s : State} {q : QpId} {x : Qp} (ho : Inv s) : Inv (State.setQp s q x) :=
  inv_only (State.setQp_only (L := [.qp]) (s := s) (q := q) (x := x) rfl (Only.refl _ _)) rfl ho

theorem State.modQp_inv {s : State} {q : QpId} {f : Qp → Qp} (ho : Inv s) : Inv (State.modQp s q f) :=
  inv_only (State.modQp_only (L := [.qp]) (s := s) (q := q) (f := f) rfl (Only.refl _ _)) rfl ho

theorem State.cqMessage_inv {s : State} {q : QpId} (ho : Inv s) : Inv (State.cqMessage s q) := by
  unfold State.cqMessage
  repeat' with_reducible first | exact ho | refine Inv.ite ?_ ?_ | refine Inv.dite (fun _ => ?_) (fun _ => ?_) | refine State.modQp_inv ?_ | refine State.msix_inv ?_ | assumption | exact rfl | split | (dsimp -proj only; split)

theorem State.moderate_inv {s : State} {q : QpId} (ho : Inv s) : Inv (State.moderate s q) := by
  unfold State.moderate
  repeat' with_reducible first | exact ho | refine Inv.ite ?_ ?_ | refine Inv.dite (fun _ => ?_) (fun _ => ?_) | refine State.cqMessage_inv ?_ | refine State.setQp_inv ?_ | assumption | exact rfl | split | (dsimp -proj only; split)

theorem State.cqWrite_inv {s : State} {q : QpId} {entry : Nat → Bool → Bytes} (ho : Inv s) : Inv (State.cqWrite s q entry) := by
  unfold State.cqWrite
  repeat' with_reducible first | exact ho | refine Inv.ite ?_ ?_ | refine Inv.dite (fun _ => ?_) (fun _ => ?_) | refine State.moderate_inv ?_ | refine State.setQp_inv ?_ | refine State.emit_inv ?_ | assumption | exact rfl | split | (dsimp -proj only; split)

theorem State.qpSettle_inv {s : State} {q : QpId} (ho : Inv s) : Inv (State.qpSettle s q) :=
  inv_only (State.qpSettle_only (L := [.qp]) (s := s) (q := q) rfl (Only.refl _ _)) rfl ho

theorem State.setRegion_inv {s : State} {r : Fin 9} {x : RegionSt} (ho : Inv s) : Inv (State.setRegion s r x) :=
  inv_only (State.setRegion_only (L := [.region]) (s := s) (r := r) (x := x) rfl (Only.refl _ _)) rfl ho

theorem State.modEth_inv {s : State} {p : EthId} {f : EthSt → EthSt} (ho : Inv s) : Inv (State.modEth s p f) :=
  inv_only (State.modEth_only (L := [.eth]) (s := s) (p := p) (f := f) rfl (Only.refl _ _)) rfl ho

theorem State.releaseAt_inv {s : State} {a : Applies} {i : Nat} (ho : Inv s) : Inv (State.releaseAt s a i) :=
  inv_only (State.releaseAt_only (L := [.fields, .pend]) (s := s) (a := a) (i := i) rfl (Only.refl _ _)) rfl ho

theorem State.draw_inv {s : State} (ho : Inv s) : Inv (State.draw s).2 :=
  inv_only (State.draw_only (L := [.entropyCtr]) (s := s) rfl (Only.refl _ _)) rfl ho
theorem State.draw_inv_eq {s : State} {s₁ : State} {xv : _} (he : State.draw s = (xv, s₁)) (ho : Inv s) : Inv s₁ :=
  inv_only (State.draw_only_eq (L := [.entropyCtr]) (s := s) (he := he) rfl (Only.refl _ _)) rfl ho

theorem State.modClk_inv {s : State} {f : ClockSt → ClockSt} (ho : Inv s) : Inv (State.modClk s f) :=
  inv_only (State.modClk_only (L := [.clk]) (s := s) (f := f) rfl (Only.refl _ _)) rfl ho

theorem State.modSense_inv {s : State} {n : SensId} {f : SenseSt → SenseSt} (ho : Inv s) : Inv (State.modSense s n f) :=
  inv_only (State.modSense_only (L := [.sense]) (s := s) (n := n) (f := f) rfl (Only.refl _ _)) rfl ho

theorem State.modLoop_inv {s : State} {j : LoopId} {f : LoopSt → LoopSt} (ho : Inv s) : Inv (State.modLoop s j f) :=
  inv_only (State.modLoop_only (L := [.loop]) (s := s) (j := j) (f := f) rfl (Only.refl _ _)) rfl ho

theorem State.modUart_inv {s : State} {p : UartId} {f : UartSt → UartSt} (ho : Inv s) : Inv (State.modUart s p f) :=
  inv_only (State.modUart_only (L := [.uart]) (s := s) (p := p) (f := f) rfl (Only.refl _ _)) rfl ho

theorem State.nextRamp_inv {s : State} (ho : Inv s) : Inv (State.nextRamp s) := by
  unfold State.nextRamp
  repeat' with_reducible first | exact ho | refine Inv.ite ?_ ?_ | refine Inv.dite (fun _ => ?_) (fun _ => ?_) | refine State.startRamp_inv ?_ | assumption | exact rfl | split | (dsimp -proj only; split)

theorem State.modMesh_inv {s : State} {b : Berth} {f : Mesh → Mesh} (ho : Inv s) : Inv (State.modMesh s b f) :=
  inv_only (State.modMesh_only (L := [.mesh]) (s := s) (b := b) (f := f) rfl (Only.refl _ _)) rfl ho

theorem State.modChk_inv {s : State} {u : ChkId} {f : ChkSt → ChkSt} (ho : Inv s) : Inv (State.modChk s u f) :=
  inv_only (State.modChk_only (L := [.chk]) (s := s) (u := u) (f := f) rfl (Only.refl _ _)) rfl ho

theorem State.raiseKey.rest_inv {s : State} {ev : Ev} {key : Nat} {inst : Nat} {detail : Nat} (ho : Inv s) : Inv (State.raiseKey.rest s ev key inst detail) := by
  unfold State.raiseKey.rest
  repeat' with_reducible first | exact ho | refine Inv.ite ?_ ?_ | refine Inv.dite (fun _ => ?_) (fun _ => ?_) | refine State.raise_inv ?_ | assumption | exact rfl | split | (dsimp -proj only; split) | refine inv_set_evTimes ?_

theorem State.raiseKey_inv {s : State} {ev : Ev} {key : Nat} {gap : Nat} {inst : Nat} {detail : Nat} (ho : Inv s) : Inv (State.raiseKey s ev key gap inst detail) := by
  unfold State.raiseKey
  repeat' with_reducible first | exact ho | refine Inv.ite ?_ ?_ | refine Inv.dite (fun _ => ?_) (fun _ => ?_) | refine State.raiseKey.rest_inv ?_ | assumption | exact rfl | split | (dsimp -proj only; split)

theorem State.raiseEvery_inv {s : State} {ev : Ev} {gap : Nat} {inst : Nat} {detail : Nat} (ho : Inv s) : Inv (State.raiseEvery s ev gap inst detail) := by
  unfold State.raiseEvery
  repeat' with_reducible first | exact ho | refine Inv.ite ?_ ?_ | refine Inv.dite (fun _ => ?_) (fun _ => ?_) | refine State.raiseKey_inv ?_ | assumption | exact rfl | split | (dsimp -proj only; split)

theorem State.free_inv {s : State} (ho : Inv s) : Inv (State.free s).2 :=
  inv_only (State.free_only (L := [.freeCtr]) (s := s) rfl (Only.refl _ _)) rfl ho
theorem State.free_inv_eq {s : State} {s₁ : State} {xv : _} (he : State.free s = (xv, s₁)) (ho : Inv s) : Inv s₁ :=
  inv_only (State.free_only_eq (L := [.freeCtr]) (s := s) (he := he) rfl (Only.refl _ _)) rfl ho

theorem State.broadcast_inv {s : State} {ptype : Nat} {prio : Nat} {payload : Bytes} (ho : Inv s) : Inv (State.broadcast s ptype prio payload) :=
  inv_only (State.broadcast_only (L := [.stats, .out, .fab]) (s := s) (ptype := ptype) (prio := prio) (payload := payload) rfl (Only.refl _ _)) rfl ho

theorem State.flushLink_inv {s : State} {l : LinkId} (ho : Inv s) : Inv (State.flushLink s l) :=
  inv_only (State.flushLink_only (L := [.out, .fab]) (s := s) (l := l) rfl (Only.refl _ _)) rfl ho

theorem State.qpError_inv {s : State} {q : QpId} {code : Nat} (ho : Inv s) : Inv (State.qpError s q code) := by
  unfold State.qpError
  repeat' with_reducible first | exact ho | refine Inv.ite ?_ ?_ | refine Inv.dite (fun _ => ?_) (fun _ => ?_) | refine State.modQp_inv ?_ | refine State.cause_inv ?_ | refine State.stick_inv ?_ | assumption | exact rfl | split | (dsimp -proj only; split)

theorem State.alarmUpdate_inv {s : State} (ho : Inv s) : Inv (State.alarmUpdate s) := by
  unfold State.alarmUpdate
  repeat' with_reducible first | exact ho | refine Inv.ite ?_ ?_ | refine Inv.dite (fun _ => ?_) (fun _ => ?_) | assumption | exact rfl | split | (dsimp -proj only; split) | refine inv_set_host ?_ ?_

theorem State.pendSet_inv {s : State} {f : Fld} {i : Nat} {v : List Int} {bpc : Option (BitVec 32)} (ho : Inv s) : Inv (State.pendSet s f i v bpc) :=
  inv_only (State.pendSet_only (L := [.pend]) (s := s) (f := f) (i := i) (v := v) (bpc := bpc) rfl (Only.refl _ _)) rfl ho

theorem State.slackJudge_inv {s : State} {k : DomId} (ho : Inv s) : Inv (State.slackJudge s k) := by
  unfold State.slackJudge
  repeat' with_reducible first | exact ho | refine Inv.ite ?_ ?_ | refine Inv.dite (fun _ => ?_) (fun _ => ?_) | refine State.setDomRec_inv (by rfl) ?_ | refine State.stick_inv ?_ | assumption | exact rfl | split | (dsimp -proj only; split)

theorem State.setD2d_inv {s : State} {d : D2dId} {x : DieLink} (ho : Inv s) : Inv (State.setD2d s d x) :=
  inv_only (State.setD2d_only (L := [.die]) (s := s) (d := d) (x := x) rfl (Only.refl _ _)) rfl ho

end Sys2Proof.Machine
end

