-- ==== Sys2Proof/Laws/OnlyHold.lean ====
section
/-! SUPPORT. The parts of the state that each operation of Machine/Hold.lean reaches. -/

namespace Sys2Proof.Machine
open Sys2Proof

set_option linter.all false

theorem State.fence_only {L : List Part} {s₀ : State} {s : State} {m : Chan} (hL : reach [.stats, .out, .host, .ctxs, .hold, .fab] L = true) (ho : Only L s₀ s) :
    Only L s₀ (State.fence s m) := by
  unfold State.fence
  repeat' with_reducible first | exact ho | refine Only.ite ?_ ?_ | refine Only.dite (fun _ => ?_) (fun _ => ?_) | refine State.modChan_only (sub_reach hL rfl) ?_ | refine State.raise_only (sub_reach hL rfl) ?_ | assumption | split | (dsimp -proj only; split) | refine only_set_ctxs_hold (sub_reach hL rfl) ?_

theorem State.fenceGroup_only {L : List Part} {s₀ : State} {s : State} {k : DomId} (hL : reach [.stats, .out, .host, .ctxs, .hold, .fab] L = true) (ho : Only L s₀ s) :
    Only L s₀ (State.fenceGroup s k) := by
  unfold State.fenceGroup
  repeat' with_reducible first | exact ho | refine Only.ite ?_ ?_ | refine Only.dite (fun _ => ?_) (fun _ => ?_) | refine State.fence_only (sub_reach hL rfl) ?_ | refine State.forAll_only (fun _ _ _ => ?_) ?_ | assumption | split | (dsimp -proj only; split)

theorem State.maskChan_only {L : List Part} {s₀ : State} {s : State} {m : Chan} (hL : reach [.sec] L = true) (ho : Only L s₀ s) :
    Only L s₀ (State.maskChan s m) := by
  unfold State.maskChan
  repeat' with_reducible first | exact ho | refine Only.ite ?_ ?_ | refine Only.dite (fun _ => ?_) (fun _ => ?_) | assumption | split | (dsimp -proj only; split) | refine only_set_sec (sub_reach hL rfl) ?_

theorem State.setFrame_only {L : List Part} {s₀ : State} {s : State} {f : Frame} (hL : reach [.hold] L = true) (ho : Only L s₀ s) :
    Only L s₀ (State.setFrame s f) := by
  unfold State.setFrame
  repeat' with_reducible first | exact ho | refine Only.ite ?_ ?_ | refine Only.dite (fun _ => ?_) (fun _ => ?_) | assumption | split | (dsimp -proj only; split) | refine only_set_hold (sub_reach hL rfl) ?_

theorem State.addPend_only {L : List Part} {s₀ : State} {s : State} {m : Chan} {cls : Fin 5} {n : Nat} (hL : reach [.hold] L = true) (ho : Only L s₀ s) :
    Only L s₀ (State.addPend s m cls n) := by
  unfold State.addPend
  repeat' with_reducible first | exact ho | refine Only.ite ?_ ?_ | refine Only.dite (fun _ => ?_) (fun _ => ?_) | refine State.modChan_only (sub_reach hL rfl) ?_ | assumption | split | (dsimp -proj only; split)

theorem State.modCtx_only {L : List Part} {s₀ : State} {s : State} {id : Nat} {f : Ctx → Ctx} (hL : reach [.ctxs] L = true) (ho : Only L s₀ s) :
    Only L s₀ (State.modCtx s id f) := by
  unfold State.modCtx
  repeat' with_reducible first | exact ho | refine Only.ite ?_ ?_ | refine Only.dite (fun _ => ?_) (fun _ => ?_) | assumption | split | (dsimp -proj only; split) | refine only_set_ctxs (sub_reach hL rfl) ?_

theorem State.clearSoft_only {L : List Part} {s₀ : State} {s : State} {id : Nat} {p : SoftDesc → Bool} (hL : reach [.ctxs] L = true) (ho : Only L s₀ s) :
    Only L s₀ (State.clearSoft s id p) := by
  unfold State.clearSoft
  repeat' with_reducible first | exact ho | refine Only.ite ?_ ?_ | refine Only.dite (fun _ => ?_) (fun _ => ?_) | assumption | split | (dsimp -proj only; split) | refine only_set_ctxs (sub_reach hL rfl) ?_

theorem State.setCtx_only {L : List Part} {s₀ : State} {s : State} {c : Ctx} (hL : reach [.ctxs] L = true) (ho : Only L s₀ s) :
    Only L s₀ (State.setCtx s c) := by
  unfold State.setCtx
  repeat' with_reducible first | exact ho | refine Only.ite ?_ ?_ | refine Only.dite (fun _ => ?_) (fun _ => ?_) | assumption | split | (dsimp -proj only; split) | refine only_set_ctxs (sub_reach hL rfl) ?_

theorem State.noteDrop_only {L : List Part} {s₀ : State} {s : State} {f : Frame} (hL : reach [.qp] L = true) (ho : Only L s₀ s) :
    Only L s₀ (State.noteDrop s f) := by
  unfold State.noteDrop
  repeat' with_reducible first | exact ho | refine Only.ite ?_ ?_ | refine Only.dite (fun _ => ?_) (fun _ => ?_) | refine State.modQp_only (sub_reach hL rfl) ?_ | assumption | split | (dsimp -proj only; split)

theorem State.placeFrame_only {L : List Part} {s₀ : State} {s : State} {f : Frame} {payload : Bytes} {m : Chan} {i : Nat} (hL : reach [.hold] L = true) (ho : Only L s₀ s) :
    Only L s₀ (State.placeFrame s f payload m i) := by
  unfold State.placeFrame
  repeat' with_reducible first | exact ho | refine Only.ite ?_ ?_ | refine Only.dite (fun _ => ?_) (fun _ => ?_) | refine State.addPend_only (sub_reach hL rfl) ?_ | refine State.modChan_only (sub_reach hL rfl) ?_ | assumption | split | (dsimp -proj only; split) | refine only_set_hold (sub_reach hL rfl) ?_

theorem State.dropFrames_only {L : List Part} {s₀ : State} {s : State} {nos : List Nat} (hL : reach [.hold] L = true) (ho : Only L s₀ s) :
    Only L s₀ (State.dropFrames s nos) := by
  unfold State.dropFrames
  repeat' with_reducible first | exact ho | refine Only.ite ?_ ?_ | refine Only.dite (fun _ => ?_) (fun _ => ?_) | assumption | split | (dsimp -proj only; split) | refine only_set_hold (sub_reach hL rfl) ?_

theorem State.takeIn_only {L : List Part} {s₀ : State} {s : State} {f0 : Frame} {payload : Bytes} (hL : reach [.stats, .qp, .hold] L = true) (ho : Only L s₀ s) :
    Only L s₀ (State.takeIn s f0 payload).1 := by
  unfold State.takeIn
  repeat' with_reducible first | exact ho | refine Only.ite ?_ ?_ | refine Only.dite (fun _ => ?_) (fun _ => ?_) | refine State.dropFrames_only (sub_reach hL rfl) ?_ | refine State.placeFrame_only (sub_reach hL rfl) ?_ | refine State.noteDrop_only (sub_reach hL rfl) ?_ | refine State.bump_only (sub_reach hL rfl) ?_ | assumption | split | (dsimp -proj only; split)
theorem State.takeIn_only_eq {L : List Part} {s₀ : State} {s : State} {f0 : Frame} {payload : Bytes} {s₁ : State} {xv : _} (he : State.takeIn s f0 payload = (s₁, xv)) (hL : reach [.stats, .qp, .hold] L = true) (ho : Only L s₀ s) :
    Only L s₀ s₁ := by
  have := State.takeIn_only (s := s) (f0 := f0) (payload := payload) hL ho
  rwa [he] at this

theorem State.readFrame_only {L : List Part} {s₀ : State} {s : State} {f : Frame} (hL : reach [.stats, .evTimes, .out, .host, .hold, .fab] L = true) (ho : Only L s₀ s) :
    Only L s₀ (State.readFrame s f).1 := by
  unfold State.readFrame
  repeat' with_reducible first | exact ho | refine Only.ite ?_ ?_ | refine Only.dite (fun _ => ?_) (fun _ => ?_) | refine State.raiseKey_only (sub_reach hL rfl) ?_ | refine State.dropFrames_only (sub_reach hL rfl) ?_ | refine State.addPend_only (sub_reach hL rfl) ?_ | refine State.bump_only (sub_reach hL rfl) ?_ | assumption | split | (dsimp -proj only; split)
theorem State.readFrame_only_eq {L : List Part} {s₀ : State} {s : State} {f : Frame} {s₁ : State} {xv : _} (he : State.readFrame s f = (s₁, xv)) (hL : reach [.stats, .evTimes, .out, .host, .hold, .fab] L = true) (ho : Only L s₀ s) :
    Only L s₀ s₁ := by
  have := State.readFrame_only (s := s) (f := f) hL ho
  rwa [he] at this

theorem State.cacheUse_only {L : List Part} {s₀ : State} {s : State} {id : Nat} (hL : reach [.stats, .hold] L = true) (ho : Only L s₀ s) :
    Only L s₀ (State.cacheUse s id) := by
  unfold State.cacheUse
  repeat' with_reducible first | exact ho | refine Only.ite ?_ ?_ | refine Only.dite (fun _ => ?_) (fun _ => ?_) | refine State.bump_only (sub_reach hL rfl) ?_ | assumption | split | (dsimp -proj only; split) | refine only_set_hold (sub_reach hL rfl) ?_

end Sys2Proof.Machine
end

