-- ==== Sys2Proof/Laws/InvHold.lean ====
section
/-! SUPPORT. The operations of Machine/Hold.lean keep what always holds. -/

namespace Sys2Proof.Machine
open Sys2Proof

set_option linter.all false

theorem State.fence_inv {s : State} {m : Chan} (ho : Inv s) : Inv (State.fence s m) := by
  unfold State.fence
  repeat' with_reducible first | exact ho | refine Inv.ite ?_ ?_ | refine Inv.dite (fun _ => ?_) (fun _ => ?_) | refine State.modChan_inv ?_ | refine State.raise_inv ?_ | assumption | exact rfl | split | (dsimp -proj only; split) | refine inv_set_ctxs_hold ?_ ?_

theorem State.fenceGroup_inv {s : State} {k : DomId} (ho : Inv s) : Inv (State.fenceGroup s k) := by
  unfold State.fenceGroup
  repeat' with_reducible first | exact ho | refine Inv.ite ?_ ?_ | refine Inv.dite (fun _ => ?_) (fun _ => ?_) | refine State.fence_inv ?_ | refine State.forAll_inv (fun _ _ _ => ?_) ?_ | assumption | exact rfl | split | (dsimp -proj only; split)

theorem State.maskChan_inv {s : State} {m : Chan} (ho : Inv s) : Inv (State.maskChan s m) :=
  inv_only (State.maskChan_only (L := [.sec]) (s := s) (m := m) rfl (Only.refl _ _)) rfl ho

theorem State.setFrame_inv {s : State} {f : Frame} (ho : Inv s) : Inv (State.setFrame s f) := by
  unfold State.setFrame
  repeat' with_reducible first | exact ho | refine Inv.ite ?_ ?_ | refine Inv.dite (fun _ => ?_) (fun _ => ?_) | assumption | exact rfl | split | (dsimp -proj only; split) | refine inv_set_hold ?_ ?_

theorem State.addPend_inv {s : State} {m : Chan} {cls : Fin 5} {n : Nat} (ho : Inv s) : Inv (State.addPend s m cls n) := by
  unfold State.addPend
  repeat' with_reducible first | exact ho | refine Inv.ite ?_ ?_ | refine Inv.dite (fun _ => ?_) (fun _ => ?_) | refine State.modChan_inv ?_ | assumption | exact rfl | split | (dsimp -proj only; split)

theorem State.modCtx_inv {s : State} {id : Nat} {f : Ctx → Ctx} (ho : Inv s) : Inv (State.modCtx s id f) :=
  inv_only (State.modCtx_only (L := [.ctxs]) (s := s) (id := id) (f := f) rfl (Only.refl _ _)) rfl ho

theorem State.clearSoft_inv {s : State} {id : Nat} {p : SoftDesc → Bool} (ho : Inv s) : Inv (State.clearSoft s id p) :=
  inv_only (State.clearSoft_only (L := [.ctxs]) (s := s) (id := id) (p := p) rfl (Only.refl _ _)) rfl ho

theorem State.noteDrop_inv {s : State} {f : Frame} (ho : Inv s) : Inv (State.noteDrop s f) :=
  inv_only (State.noteDrop_only (L := [.qp]) (s := s) (f := f) rfl (Only.refl _ _)) rfl ho

theorem State.placeFrame_inv {s : State} {f : Frame} {payload : Bytes} {m : Chan} {i : Nat} (h : Inv s) : Inv (s.placeFrame f payload m i) := by
  unfold State.placeFrame
  extract_lets g addr img hd s1
  clear_value img addr
  have h1 : Inv s1 := inv_mem (a := s) rfl (Memory.puts_wf h.memOk) rfl h
  exact State.addPend_inv (State.modChan_inv h1)

theorem State.dropFrames_inv {s : State} {nos : List Nat} (ho : Inv s) : Inv (State.dropFrames s nos) := by
  unfold State.dropFrames
  repeat' with_reducible first | exact ho | refine Inv.ite ?_ ?_ | refine Inv.dite (fun _ => ?_) (fun _ => ?_) | assumption | exact rfl | split | (dsimp -proj only; split) | refine inv_set_hold ?_ ?_

theorem State.takeIn_inv {s : State} {f0 : Frame} {payload : Bytes} (ho : Inv s) : Inv (State.takeIn s f0 payload).1 := by
  unfold State.takeIn
  repeat' with_reducible first | exact ho | refine Inv.ite ?_ ?_ | refine Inv.dite (fun _ => ?_) (fun _ => ?_) | refine State.dropFrames_inv ?_ | refine State.placeFrame_inv ?_ | refine State.noteDrop_inv ?_ | refine State.bump_inv ?_ | assumption | exact rfl | split | (dsimp -proj only; split)
theorem State.takeIn_inv_eq {s : State} {f0 : Frame} {payload : Bytes} {s₁ : State} {xv : _} (he : State.takeIn s f0 payload = (s₁, xv)) (ho : Inv s) : Inv s₁ := by
  have := State.takeIn_inv (s := s) (f0 := f0) (payload := payload) ho
  rwa [he] at this

theorem State.readFrame_inv {s : State} {f : Frame} (ho : Inv s) : Inv (State.readFrame s f).1 := by
  unfold State.readFrame
  repeat' with_reducible first | exact ho | refine Inv.ite ?_ ?_ | refine Inv.dite (fun _ => ?_) (fun _ => ?_) | refine State.raiseKey_inv ?_ | refine State.dropFrames_inv ?_ | refine State.addPend_inv ?_ | refine State.bump_inv ?_ | assumption | exact rfl | split | (dsimp -proj only; split)
theorem State.readFrame_inv_eq {s : State} {f : Frame} {s₁ : State} {xv : _} (he : State.readFrame s f = (s₁, xv)) (ho : Inv s) : Inv s₁ := by
  have := State.readFrame_inv (s := s) (f := f) ho
  rwa [he] at this

theorem State.cacheUse_inv {s : State} {id : Nat} (ho : Inv s) : Inv (State.cacheUse s id) := by
  unfold State.cacheUse
  repeat' with_reducible first | exact ho | refine Inv.ite ?_ ?_ | refine Inv.dite (fun _ => ?_) (fun _ => ?_) | refine State.bump_inv ?_ | assumption | exact rfl | split | (dsimp -proj only; split) | refine inv_set_hold ?_ ?_

end Sys2Proof.Machine
end

