-- ==== Sys2Proof/Laws/OnlyMgmtOps.lean ====
section
/-! SUPPORT. The parts of the state that each operation of Machine/MgmtOps.lean reaches. -/

namespace Sys2Proof.Machine
open Sys2Proof

set_option linter.all false

theorem State.grant_only {L : List Part} {s₀ : State} {s : State} (hL : reach [.mgmt] L = true) (ho : Only L s₀ s) :
    Only L s₀ (State.grant s) := by
  unfold State.grant
  repeat' with_reducible first | exact ho | refine Only.ite ?_ ?_ | refine Only.dite (fun _ => ?_) (fun _ => ?_) | assumption | split | (dsimp -proj only; split) | refine only_set_mgmt (sub_reach hL rfl) ?_

theorem State.countStatus_only {L : List Part} {s₀ : State} {s : State} {st : Status} (hL : reach [.stats] L = true) (ho : Only L s₀ s) :
    Only L s₀ (State.countStatus s st) := by
  unfold State.countStatus
  repeat' with_reducible first | exact ho | refine Only.ite ?_ ?_ | refine Only.dite (fun _ => ?_) (fun _ => ?_) | refine State.bump_only (sub_reach hL rfl) ?_ | assumption | split | (dsimp -proj only; split)

theorem State.sendRsp_only {L : List Part} {s₀ : State} {s : State} {r : Req} {key : Bytes} {st : Status} {msg : Bytes} (hL : reach [.stats, .out, .host, .qp, .fab] L = true) (ho : Only L s₀ s) :
    Only L s₀ (State.sendRsp s r key st msg) := by
  unfold State.sendRsp
  repeat' with_reducible first | exact ho | refine Only.ite ?_ ?_ | refine Only.dite (fun _ => ?_) (fun _ => ?_) | refine State.qpSettle_only (sub_reach hL rfl) ?_ | refine State.cqWrite_only (sub_reach hL rfl) ?_ | refine State.modQp_only (sub_reach hL rfl) ?_ | refine State.respond_only (sub_reach hL rfl) ?_ | refine State.emit_only (sub_reach hL rfl) ?_ | assumption | split | (dsimp -proj only; split)

theorem State.answer_only {L : List Part} {s₀ : State} {s : State} {cmd : Nat} {r : Req} {key : Bytes} {x : Rsp} (hL : reach [.stats, .out, .host, .qp, .fab] L = true) (ho : Only L s₀ s) :
    Only L s₀ (State.answer s cmd r key x) := by
  unfold State.answer
  repeat' with_reducible first | exact ho | refine Only.ite ?_ ?_ | refine Only.dite (fun _ => ?_) (fun _ => ?_) | refine State.sendRsp_only (sub_reach hL rfl) ?_ | refine State.countStatus_only (sub_reach hL rfl) ?_ | assumption | split | (dsimp -proj only; split)

theorem State.answerShort_only {L : List Part} {s₀ : State} {s : State} {cmd : Nat} {r : Req} {key : Bytes} {need : Nat} (hL : reach [.stats, .out, .host, .qp, .fab] L = true) (ho : Only L s₀ s) :
    Only L s₀ (State.answerShort s cmd r key need) := by
  unfold State.answerShort
  repeat' with_reducible first | exact ho | refine Only.ite ?_ ?_ | refine Only.dite (fun _ => ?_) (fun _ => ?_) | refine State.sendRsp_only (sub_reach hL rfl) ?_ | refine State.countStatus_only (sub_reach hL rfl) ?_ | assumption | split | (dsimp -proj only; split)

theorem State.modSession_only {L : List Part} {s₀ : State} {s : State} {id : BitVec 16} {f : Session → Session} (hL : reach [.mgmt] L = true) (ho : Only L s₀ s) :
    Only L s₀ (State.modSession s id f) := by
  unfold State.modSession
  repeat' with_reducible first | exact ho | refine Only.ite ?_ ?_ | refine Only.dite (fun _ => ?_) (fun _ => ?_) | assumption | split | (dsimp -proj only; split) | refine only_set_mgmt (sub_reach hL rfl) ?_

theorem State.closeSession_only {L : List Part} {s₀ : State} {s : State} {id : BitVec 16} (hL : reach [.mgmt, .boot] L = true) (ho : Only L s₀ s) :
    Only L s₀ (State.closeSession s id) := by
  unfold State.closeSession
  repeat' with_reducible first | exact ho | refine Only.ite ?_ ?_ | refine Only.dite (fun _ => ?_) (fun _ => ?_) | assumption | split | (dsimp -proj only; split) | refine only_set_mgmt_boot (sub_reach hL rfl) ?_

theorem State.sessionDone_only {L : List Part} {s₀ : State} {s : State} {id : BitVec 16} (hL : reach [.stats, .out, .host, .qp, .mgmt, .boot, .fab] L = true) (ho : Only L s₀ s) :
    Only L s₀ (State.sessionDone s id) := by
  unfold State.sessionDone
  repeat' with_reducible first | exact ho | refine Only.ite ?_ ?_ | refine Only.dite (fun _ => ?_) (fun _ => ?_) | refine State.closeSession_only (sub_reach hL rfl) ?_ | refine State.modSession_only (sub_reach hL rfl) ?_ | refine State.answer_only (sub_reach hL rfl) ?_ | assumption | split | (dsimp -proj only; split)

theorem State.complete_only {L : List Part} {s₀ : State} {before : State} {cmd : Nat} {r : Req} {key : Bytes} {x : Rsp} {after : State} {lost : optParam Bool Bool.false} (hL : reach [.stats, .out, .host, .qp, .mgmt, .boot, .fab] L = true) (ho : Only L s₀ before) (ho1 : Only L s₀ after) :
    Only L s₀ (State.complete before cmd r key x after lost) := by
  unfold State.complete
  repeat' with_reducible first | exact ho | exact ho1 | refine Only.ite ?_ ?_ | refine Only.dite (fun _ => ?_) (fun _ => ?_) | refine State.sessionDone_only (sub_reach hL rfl) ?_ | refine State.answerShort_only (sub_reach hL rfl) ?_ | refine State.answer_only (sub_reach hL rfl) ?_ | assumption | split | (dsimp -proj only; split)

theorem State.completeRun_only {L : List Part} {s₀ : State} {s : State} {p : RunKind → Bool} {x : Rsp} (hL : reach [.stats, .out, .host, .qp, .mgmt, .boot, .fab] L = true) (ho : Only L s₀ s) :
    Only L s₀ (State.completeRun s p x) := by
  unfold State.completeRun
  repeat' with_reducible first | exact ho | refine Only.ite ?_ ?_ | refine Only.dite (fun _ => ?_) (fun _ => ?_) | refine State.complete_only (sub_reach hL rfl) ?_ ?_ | refine State.grant_only (sub_reach hL rfl) ?_ | refine State.forAll_only (fun _ _ _ => ?_) ?_ | assumption | split | (dsimp -proj only; split) | refine only_set_mgmt (sub_reach hL rfl) ?_

theorem State.unbox_only {L : List Part} {s₀ : State} {s : State} {cmd : Nat} {r : Req} (hL : reach [.mgmt] L = true) (ho : Only L s₀ s) :
    Only L s₀ (State.unbox s cmd r) := by
  unfold State.unbox
  repeat' with_reducible first | exact ho | refine Only.ite ?_ ?_ | refine Only.dite (fun _ => ?_) (fun _ => ?_) | assumption | split | (dsimp -proj only; split) | refine only_set_mgmt (sub_reach hL rfl) ?_

theorem State.accept_only {L : List Part} {s₀ : State} {s : State} {cmd : Nat} {r : Req} (hL : reach [.mgmt] L = true) (ho : Only L s₀ s) :
    Only L s₀ (State.accept s cmd r).1 := by
  unfold State.accept
  repeat' with_reducible first | exact ho | refine Only.ite ?_ ?_ | refine Only.dite (fun _ => ?_) (fun _ => ?_) | refine State.modSession_only (sub_reach hL rfl) ?_ | assumption | split | (dsimp -proj only; split)
theorem State.accept_only_eq {L : List Part} {s₀ : State} {s : State} {cmd : Nat} {r : Req} {s₁ : State} {xv : _} (he : State.accept s cmd r = (s₁, xv)) (hL : reach [.mgmt] L = true) (ho : Only L s₀ s) :
    Only L s₀ s₁ := by
  have := State.accept_only (s := s) (cmd := cmd) (r := r) hL ho
  rwa [he] at this

theorem State.arrive_only {L : List Part} {s₀ : State} {s : State} {cmd : Nat} {r : Req} {key : Bytes} {locks : List Lock} (hL : reach [.mgmt] L = true) (ho : Only L s₀ s) :
    Only L s₀ (State.arrive s cmd r key locks) := by
  unfold State.arrive
  repeat' with_reducible first | exact ho | refine Only.ite ?_ ?_ | refine Only.dite (fun _ => ?_) (fun _ => ?_) | assumption | split | (dsimp -proj only; split) | refine only_set_mgmt (sub_reach hL rfl) ?_

theorem State.takeGranted_only {L : List Part} {s₀ s : State} {cmd : Nat} {r : Req} {q : LockReq} {s₁ : State}
    (he : s.takeGranted cmd r = some (q, s₁)) (hL : reach [.mgmt] L = true) (h : Only L s₀ s) : Only L s₀ s₁ := by
  unfold State.takeGranted at he
  split at he
  · cases he
    exact only_set_mgmt hL h
  · cases he

theorem State.startLocked_only {L : List Part} {s₀ s : State} {cmd : Nat} {q : LockReq} {eff : State → Eff}
    (hL : reach [.stats, .out, .host, .qp, .mgmt, .boot, .fab] L = true) (he : ∀ a, Only L s₀ a → OnlyEff L s₀ (eff a)) (h : Only L s₀ s) :
    Only L s₀ (s.startLocked cmd q eff) := by
  have hs := he s h
  unfold State.startLocked
  generalize eff s = e at hs
  cases e with
  | done x s' => exact State.grant_only (sub_reach hL rfl) (State.complete_only (sub_reach hL rfl) h hs)
  | run k s' => exact only_set_mgmt (sub_reach hL rfl) hs

theorem State.runLocked_only {L : List Part} {s₀ s : State} {cmd : Nat} {r : Req} {locks : List Lock} {eff : State → Eff}
    (hL : reach [.stats, .out, .host, .qp, .mgmt, .boot, .fab] L = true) (he : ∀ a, Only L s₀ a → OnlyEff L s₀ (eff a)) (h : Only L s₀ s) :
    Only L s₀ (s.runLocked cmd r locks eff) := by
  unfold State.runLocked
  refine Only.ite h ?_
  split
  · rename_i q s1 hq
    exact State.startLocked_only (sub_reach hL rfl) he (State.takeGranted_only hq (sub_reach hL rfl) h)
  · dsimp only
    refine Only.ite h ?_
    have hu : Only L s₀ (s.unbox cmd r) := State.unbox_only (sub_reach hL rfl) h
    split
    · rename_i hq
      exact State.arrive_only (sub_reach hL rfl) (State.accept_only_eq hq (sub_reach hL rfl) hu)
    · rename_i hq
      exact State.answer_only (sub_reach hL rfl) (State.accept_only_eq hq (sub_reach hL rfl) hu)
    · rename_i hq
      exact State.accept_only_eq hq (sub_reach hL rfl) hu

theorem State.closeWhere_only {L : List Part} {s₀ : State} {s : State} {p : Session → Bool} (hL : reach [.mgmt, .boot] L = true) (ho : Only L s₀ s) :
    Only L s₀ (State.closeWhere s p) := by
  unfold State.closeWhere
  repeat' with_reducible first | exact ho | refine Only.ite ?_ ?_ | refine Only.dite (fun _ => ?_) (fun _ => ?_) | refine State.closeSession_only (sub_reach hL rfl) ?_ | refine State.forAll_only (fun _ _ _ => ?_) ?_ | assumption | split | (dsimp -proj only; split)

theorem State.runFree_only {L : List Part} {s₀ s : State} {cmd : Nat} {r : Req} {eff : State → Session → Rsp × State}
    (hL : reach [.stats, .out, .host, .qp, .mgmt, .boot, .fab] L = true) (he : ∀ a x, Only L s₀ a → Only L s₀ (eff a x).2) (h : Only L s₀ s) :
    Only L s₀ (s.runFree cmd r eff) := by
  unfold State.runFree
  have hu : Only L s₀ (s.unbox cmd r) := State.unbox_only (sub_reach hL rfl) h
  dsimp only
  refine Only.ite h ?_
  split
  · rename_i s1 x hq
    have h1 : Only L s₀ s1 := State.accept_only_eq hq (sub_reach hL rfl) hu
    exact State.complete_only (sub_reach hL rfl) h1 (he s1 x h1)
  · rename_i hq
    exact State.answer_only (sub_reach hL rfl) (State.accept_only_eq hq (sub_reach hL rfl) hu)
  · rename_i hq
    exact State.accept_only_eq hq (sub_reach hL rfl) hu

end Sys2Proof.Machine
end

