-- ==== Sys2Proof/Laws/InvMgmtOps.lean ====
section
/-! SUPPORT. The operations of Machine/MgmtOps.lean keep what always holds. -/

namespace Sys2Proof.Machine
open Sys2Proof

set_option linter.all false

theorem State.grant_inv {s : State} (ho : Inv s) : Inv (State.grant s) :=
  inv_only (State.grant_only (L := [.mgmt]) (s := s) rfl (Only.refl _ _)) rfl ho

theorem State.countStatus_inv {s : State} {st : Status} (ho : Inv s) : Inv (State.countStatus s st) :=
  inv_only (State.countStatus_only (L := [.stats]) (s := s) (st := st) rfl (Only.refl _ _)) rfl ho

theorem State.sendRsp_inv {s : State} {r : Req} {key : Bytes} {st : Status} {msg : Bytes} (ho : Inv s) : Inv (State.sendRsp s r key st msg) := by
  unfold State.sendRsp
  repeat' with_reducible first | exact ho | refine Inv.ite ?_ ?_ | refine Inv.dite (fun _ => ?_) (fun _ => ?_) | refine State.qpSettle_inv ?_ | refine State.cqWrite_inv ?_ | refine State.modQp_inv ?_ | refine State.respond_inv ?_ | refine State.emit_inv ?_ | assumption | exact rfl | split | (dsimp -proj only; split)

theorem State.answer_inv {s : State} {cmd : Nat} {r : Req} {key : Bytes} {x : Rsp} (ho : Inv s) : Inv (State.answer s cmd r key x) := by
  unfold State.answer
  repeat' with_reducible first | exact ho | refine Inv.ite ?_ ?_ | refine Inv.dite (fun _ => ?_) (fun _ => ?_) | refine State.sendRsp_inv ?_ | refine State.countStatus_inv ?_ | assumption | exact rfl | split | (dsimp -proj only; split)

theorem State.answerShort_inv {s : State} {cmd : Nat} {r : Req} {key : Bytes} {need : Nat} (ho : Inv s) : Inv (State.answerShort s cmd r key need) := by
  unfold State.answerShort
  repeat' with_reducible first | exact ho | refine Inv.ite ?_ ?_ | refine Inv.dite (fun _ => ?_) (fun _ => ?_) | refine State.sendRsp_inv ?_ | refine State.countStatus_inv ?_ | assumption | exact rfl | split | (dsimp -proj only; split)

theorem State.modSession_inv {s : State} {id : BitVec 16} {f : Session → Session} (ho : Inv s) : Inv (State.modSession s id f) :=
  inv_only (State.modSession_only (L := [.mgmt]) (s := s) (id := id) (f := f) rfl (Only.refl _ _)) rfl ho

theorem State.closeSession_inv {s : State} {id : BitVec 16} (ho : Inv s) : Inv (State.closeSession s id) :=
  inv_only (State.closeSession_only (L := [.mgmt, .boot]) (s := s) (id := id) rfl (Only.refl _ _)) rfl ho

theorem State.sessionDone_inv {s : State} {id : BitVec 16} (ho : Inv s) : Inv (State.sessionDone s id) := by
  unfold State.sessionDone
  repeat' with_reducible first | exact ho | refine Inv.ite ?_ ?_ | refine Inv.dite (fun _ => ?_) (fun _ => ?_) | refine State.closeSession_inv ?_ | refine State.modSession_inv ?_ | refine State.answer_inv ?_ | assumption | exact rfl | split | (dsimp -proj only; split)

theorem State.complete_inv {before : State} {cmd : Nat} {r : Req} {key : Bytes} {x : Rsp} {after : State} {lost : optParam Bool Bool.false} (ho : Inv before) (ho1 : Inv after) : Inv (State.complete before cmd r key x after lost) := by
  unfold State.complete
  repeat' with_reducible first | exact ho | exact ho1 | refine Inv.ite ?_ ?_ | refine Inv.dite (fun _ => ?_) (fun _ => ?_) | refine State.sessionDone_inv ?_ | refine State.answerShort_inv ?_ | refine State.answer_inv ?_ | assumption | exact rfl | split | (dsimp -proj only; split)

theorem State.completeRun_inv {s : State} {p : RunKind → Bool} {x : Rsp} (ho : Inv s) : Inv (State.completeRun s p x) := by
  unfold State.completeRun
  repeat' with_reducible first | exact ho | refine Inv.ite ?_ ?_ | refine Inv.dite (fun _ => ?_) (fun _ => ?_) | refine State.complete_inv ?_ ?_ | refine State.grant_inv ?_ | refine State.forAll_inv (fun _ _ _ => ?_) ?_ | assumption | exact rfl | split | (dsimp -proj only; split) | refine inv_set_mgmt ?_

theorem State.unbox_inv {s : State} {cmd : Nat} {r : Req} (ho : Inv s) : Inv (State.unbox s cmd r) :=
  inv_only (State.unbox_only (L := [.mgmt]) (s := s) (cmd := cmd) (r := r) rfl (Only.refl _ _)) rfl ho

theorem State.accept_inv {s : State} {cmd : Nat} {r : Req} (ho : Inv s) : Inv (State.accept s cmd r).1 :=
  inv_only (State.accept_only (L := [.mgmt]) (s := s) (cmd := cmd) (r := r) rfl (Only.refl _ _)) rfl ho
theorem State.accept_inv_eq {s : State} {cmd : Nat} {r : Req} {s₁ : State} {xv : _} (he : State.accept s cmd r = (s₁, xv)) (ho : Inv s) : Inv s₁ :=
  inv_only (State.accept_only_eq (L := [.mgmt]) (s := s) (cmd := cmd) (r := r) (he := he) rfl (Only.refl _ _)) rfl ho

theorem State.arrive_inv {s : State} {cmd : Nat} {r : Req} {key : Bytes} {locks : List Lock} (ho : Inv s) : Inv (State.arrive s cmd r key locks) :=
  inv_only (State.arrive_only (L := [.mgmt]) (s := s) (cmd := cmd) (r := r) (key := key) (locks := locks) rfl (Only.refl _ _)) rfl ho

theorem State.takeGranted_inv {s : State} {cmd : Nat} {r : Req} {q : LockReq} {s₁ : State}
    (he : s.takeGranted cmd r = some (q, s₁)) (h : Inv s) : Inv s₁ :=
  inv_only (State.takeGranted_only (L := [.mgmt]) he rfl (Only.refl _ _)) rfl h

theorem State.startLocked_inv {s : State} {cmd : Nat} {q : LockReq} {eff : State → Eff}
    (he : ∀ a, Inv a → InvEff (eff a)) (h : Inv s) :
    Inv (s.startLocked cmd q eff) := by
  have hs := he s h
  unfold State.startLocked
  generalize eff s = e at hs
  cases e with
  | done x s' => exact State.grant_inv (State.complete_inv h hs)
  | run k s' => exact inv_set_mgmt hs

theorem State.runLocked_inv {s : State} {cmd : Nat} {r : Req} {locks : List Lock} {eff : State → Eff}
    (he : ∀ a, Inv a → InvEff (eff a)) (h : Inv s) :
    Inv (s.runLocked cmd r locks eff) := by
  unfold State.runLocked
  refine Inv.ite h ?_
  split
  · rename_i q s1 hq
    exact State.startLocked_inv he (State.takeGranted_inv hq h)
  · dsimp only
    refine Inv.ite h ?_
    have hu : Inv (s.unbox cmd r) := State.unbox_inv h
    split
    · rename_i hq
      exact State.arrive_inv (State.accept_inv_eq hq hu)
    · rename_i hq
      exact State.answer_inv (State.accept_inv_eq hq hu)
    · rename_i hq
      exact State.accept_inv_eq hq hu

theorem State.closeWhere_inv {s : State} {p : Session → Bool} (ho : Inv s) : Inv (State.closeWhere s p) :=
  inv_only (State.closeWhere_only (L := [.mgmt, .boot]) (s := s) (p := p) rfl (Only.refl _ _)) rfl ho

theorem State.runFree_inv {s : State} {cmd : Nat} {r : Req} {eff : State → Session → Rsp × State}
    (he : ∀ a x, Inv a → Inv (eff a x).2) (h : Inv s) :
    Inv (s.runFree cmd r eff) := by
  unfold State.runFree
  have hu : Inv (s.unbox cmd r) := State.unbox_inv h
  dsimp only
  refine Inv.ite h ?_
  split
  · rename_i s1 x hq
    have h1 : Inv s1 := State.accept_inv_eq hq hu
    exact State.complete_inv h1 (he s1 x h1)
  · rename_i hq
    exact State.answer_inv (State.accept_inv_eq hq hu)
  · rename_i hq
    exact State.accept_inv_eq hq hu

end Sys2Proof.Machine
end

