-- ==== Sys2Proof/Laws/OnlyPowerOps.lean ====
section
/-! SUPPORT. The parts of the state that each operation of Machine/PowerOps.lean reaches. -/

namespace Sys2Proof.Machine
open Sys2Proof

set_option linter.all false

theorem State.modCtxs_only {L : List Part} {s₀ : State} {s : State} {f : Ctx → Ctx} (hL : reach [.ctxs] L = true) (ho : Only L s₀ s) :
    Only L s₀ (State.modCtxs s f) := by
  unfold State.modCtxs
  repeat' with_reducible first | exact ho | refine Only.ite ?_ ?_ | refine Only.dite (fun _ => ?_) (fun _ => ?_) | assumption | split | (dsimp -proj only; split) | refine only_set_ctxs (sub_reach hL rfl) ?_

theorem State.holdCtxs_only {L : List Part} {s₀ : State} {s : State} {b : Berth} (hL : reach [.mgmt, .ctxs] L = true) (ho : Only L s₀ s) :
    Only L s₀ (State.holdCtxs s b) := by
  unfold State.holdCtxs
  repeat' with_reducible first | exact ho | refine Only.ite ?_ ?_ | refine Only.dite (fun _ => ?_) (fun _ => ?_) | refine State.modCtxs_only (sub_reach hL rfl) ?_ | refine State.forAll_only (fun _ _ _ => ?_) ?_ | refine State.objTouch_only (sub_reach hL rfl) ?_ | assumption | split | (dsimp -proj only; split)

theorem State.dropJoins_only {L : List Part} {s₀ : State} {s : State} {b : Berth} (hL : reach [.mgmt, .line, .ctxs] L = true) (ho : Only L s₀ s) :
    Only L s₀ (State.dropJoins s b) := by
  unfold State.dropJoins
  repeat' with_reducible first | exact ho | refine Only.ite ?_ ?_ | refine Only.dite (fun _ => ?_) (fun _ => ?_) | refine State.modLine_only (sub_reach hL rfl) ?_ | refine State.forAll_only (fun _ _ _ => ?_) ?_ | refine State.objTouch_only (sub_reach hL rfl) ?_ | assumption | split | (dsimp -proj only; split) | refine only_set_ctxs (sub_reach hL rfl) ?_

theorem State.silence_only {L : List Part} {s₀ : State} {s : State} {b : Berth} (hL : reach [.mgmt, .berth, .line, .ctxs] L = true) (ho : Only L s₀ s) :
    Only L s₀ (State.silence s b) := by
  unfold State.silence
  repeat' with_reducible first | exact ho | refine Only.ite ?_ ?_ | refine Only.dite (fun _ => ?_) (fun _ => ?_) | refine State.dropJoins_only (sub_reach hL rfl) ?_ | refine State.modBerth_only (sub_reach hL rfl) ?_ | assumption | split | (dsimp -proj only; split)

theorem State.ownBringUp_only {L : List Part} {s₀ : State} {s : State} {k : DomId} (hL : reach [.stats, .out, .dom, .host, .mgmt, .berth] L = true) (ho : Only L s₀ s) :
    Only L s₀ (State.ownBringUp s k) := by
  unfold State.ownBringUp
  repeat' with_reducible first | exact ho | refine Only.ite ?_ ?_ | refine Only.dite (fun _ => ?_) (fun _ => ?_) | refine State.startRamp_only (sub_reach hL rfl) ?_ | refine State.setDomRec_only (sub_reach hL rfl) ?_ | assumption | split | (dsimp -proj only; split)

theorem State.stopBoot_only {L : List Part} {s₀ : State} {s : State} {fault : Nat} (hL : reach [.stats, .out, .dom, .host, .mgmt, .boot, .berth] L = true) (ho : Only L s₀ s) :
    Only L s₀ (State.stopBoot s fault) := by
  unfold State.stopBoot
  repeat' with_reducible first | exact ho | refine Only.ite ?_ ?_ | refine Only.dite (fun _ => ?_) (fun _ => ?_) | refine State.startRamp_only (sub_reach hL rfl) ?_ | assumption | split | (dsimp -proj only; split) | refine only_set_boot (sub_reach hL rfl) ?_

theorem State.bringUpFails_only {L : List Part} {s₀ : State} {s : State} {k : DomId} {st : DomSt} (hL : reach [.stats, .out, .dom, .host, .qp, .mgmt, .boot, .berth, .fab] L = true) (ho : Only L s₀ s) :
    Only L s₀ (State.bringUpFails s k st) := by
  unfold State.bringUpFails
  repeat' with_reducible first | exact ho | refine Only.ite ?_ ?_ | refine Only.dite (fun _ => ?_) (fun _ => ?_) | refine State.completeRun_only (sub_reach hL rfl) ?_ | refine State.setDom_only (sub_reach hL rfl) ?_ | refine State.setDomRec_only (sub_reach hL rfl) ?_ | assumption | split | (dsimp -proj only; split)

theorem State.startDrain_only {L : List Part} {s₀ : State} {s : State} {k : DomId} (hL : reach [.out, .dom, .host, .mgmt, .berth] L = true) (ho : Only L s₀ s) :
    Only L s₀ (State.startDrain s k) := by
  unfold State.startDrain
  repeat' with_reducible first | exact ho | refine Only.ite ?_ ?_ | refine Only.dite (fun _ => ?_) (fun _ => ?_) | refine State.setDomRec_only (sub_reach hL rfl) ?_ | refine State.cause_only (sub_reach hL rfl) ?_ | refine State.modBerth_only (sub_reach hL rfl) ?_ | refine State.objTouch_only (sub_reach hL rfl) ?_ | assumption | split | (dsimp -proj only; split)

theorem State.leaveService_only {L : List Part} {s₀ : State} {s : State} {k : DomId} (hL : reach [.stats, .out, .dom, .host, .qp, .mgmt, .boot, .berth, .fab] L = true) (ho : Only L s₀ s) :
    Only L s₀ (State.leaveService s k) := by
  unfold State.leaveService
  repeat' with_reducible first | exact ho | refine Only.ite ?_ ?_ | refine Only.dite (fun _ => ?_) (fun _ => ?_) | refine State.startDrain_only (sub_reach hL rfl) ?_ | refine State.bringUpFails_only (sub_reach hL rfl) ?_ | refine State.completeRun_only (sub_reach hL rfl) ?_ | assumption | split | (dsimp -proj only; split)

theorem State.faultDom_only {L : List Part} {s₀ : State} {s : State} {k : DomId} (hL : reach [.stats, .out, .dom, .host, .qp, .mgmt, .boot, .berth, .line, .ctxs, .fab] L = true) (ho : Only L s₀ s) :
    Only L s₀ (State.faultDom s k) := by
  unfold State.faultDom
  repeat' with_reducible first | exact ho | refine Only.ite ?_ ?_ | refine Only.dite (fun _ => ?_) (fun _ => ?_) | refine State.leaveService_only (sub_reach hL rfl) ?_ | refine State.bringUpFails_only (sub_reach hL rfl) ?_ | refine State.completeRun_only (sub_reach hL rfl) ?_ | refine State.silence_only (sub_reach hL rfl) ?_ | refine State.modBerth_only (sub_reach hL rfl) ?_ | refine State.forAll_only (fun _ _ _ => ?_) ?_ | assumption | split | (dsimp -proj only; split)

theorem State.clusterFault_only {L : List Part} {s₀ : State} {s : State} {k : DomId} (hL : reach [.stats, .out, .dom, .host, .qp, .mgmt, .boot, .berth, .line, .ctxs, .hold, .fab] L = true) (ho : Only L s₀ s) :
    Only L s₀ (State.clusterFault s k) := by
  unfold State.clusterFault
  repeat' with_reducible first | exact ho | refine Only.ite ?_ ?_ | refine Only.dite (fun _ => ?_) (fun _ => ?_) | refine State.faultDom_only (sub_reach hL rfl) ?_ | refine State.fenceGroup_only (sub_reach hL rfl) ?_ | refine State.raise_only (sub_reach hL rfl) ?_ | refine State.cause_only (sub_reach hL rfl) ?_ | refine State.stick_only (sub_reach hL rfl) ?_ | assumption | split | (dsimp -proj only; split)

theorem State.resumeCtxs_only {L : List Part} {s₀ : State} {s : State} {b : Berth} (hL : reach [.mgmt, .ctxs] L = true) (ho : Only L s₀ s) :
    Only L s₀ (State.resumeCtxs s b) := by
  unfold State.resumeCtxs
  repeat' with_reducible first | exact ho | refine Only.ite ?_ ?_ | refine Only.dite (fun _ => ?_) (fun _ => ?_) | refine State.modCtxs_only (sub_reach hL rfl) ?_ | refine State.forAll_only (fun _ _ _ => ?_) ?_ | refine State.objTouch_only (sub_reach hL rfl) ?_ | assumption | split | (dsimp -proj only; split)

theorem State.berthReturns_only {L : List Part} {s₀ : State} {s : State} {b : Berth} (hL : reach [.mgmt, .line, .ctxs] L = true) (ho : Only L s₀ s) :
    Only L s₀ (State.berthReturns s b) := by
  unfold State.berthReturns
  repeat' with_reducible first | exact ho | refine Only.ite ?_ ?_ | refine Only.dite (fun _ => ?_) (fun _ => ?_) | refine State.resumeCtxs_only (sub_reach hL rfl) ?_ | refine State.modLine_only (sub_reach hL rfl) ?_ | assumption | split | (dsimp -proj only; split)

theorem State.servedOwn_only {L : List Part} {s₀ : State} {s : State} (hL : reach [.stats, .out, .dom, .host, .mgmt, .berth] L = true) (ho : Only L s₀ s) :
    Only L s₀ (State.servedOwn s) := by
  unfold State.servedOwn
  repeat' with_reducible first | exact ho | refine Only.ite ?_ ?_ | refine Only.dite (fun _ => ?_) (fun _ => ?_) | refine State.ownBringUp_only (sub_reach hL rfl) ?_ | refine State.forAll_only (fun _ _ _ => ?_) ?_ | assumption | split | (dsimp -proj only; split)

theorem State.bootFollows_only {L : List Part} {s₀ : State} {s : State} {k : DomId} (hL : reach [.stats, .out, .dom, .host, .mgmt, .boot, .berth] L = true) (ho : Only L s₀ s) :
    Only L s₀ (State.bootFollows s k) := by
  unfold State.bootFollows
  repeat' with_reducible first | exact ho | refine Only.ite ?_ ?_ | refine Only.dite (fun _ => ?_) (fun _ => ?_) | refine State.ownBringUp_only (sub_reach hL rfl) ?_ | refine State.forAll_only (fun _ _ _ => ?_) ?_ | assumption | split | (dsimp -proj only; split) | refine only_set_boot (sub_reach hL rfl) ?_

theorem State.nowOff_only {L : List Part} {s₀ : State} {s : State} {k : DomId} (hL : reach [.stats, .out, .dom, .host, .qp, .mgmt, .boot, .berth, .line, .ctxs, .fab] L = true) (ho : Only L s₀ s) :
    Only L s₀ (State.nowOff s k) := by
  unfold State.nowOff
  repeat' with_reducible first | exact ho | refine Only.ite ?_ ?_ | refine Only.dite (fun _ => ?_) (fun _ => ?_) | refine State.completeRun_only (sub_reach hL rfl) ?_ | refine State.setDom_only (sub_reach hL rfl) ?_ | refine State.report_only (sub_reach hL rfl) ?_ | refine State.silence_only (sub_reach hL rfl) ?_ | refine State.modBerth_only (sub_reach hL rfl) ?_ | assumption | split | (dsimp -proj only; split)

theorem State.leaveGrid_only {L : List Part} {s₀ : State} {s : State} {b : Berth} (hL : reach [.pend, .line] L = true) (ho : Only L s₀ s) :
    Only L s₀ (State.leaveGrid s b) := by
  unfold State.leaveGrid
  repeat' with_reducible first | exact ho | refine Only.ite ?_ ?_ | refine Only.dite (fun _ => ?_) (fun _ => ?_) | refine State.modLine_only (sub_reach hL rfl) ?_ | assumption | split | (dsimp -proj only; split) | refine only_set_pend (sub_reach hL rfl) ?_

theorem powerEff_only {L : List Part} {s₀ : State} {k : DomId} {on : Bool} {s : State} (hL : reach [.stats, .out, .dom, .host, .qp, .mgmt, .boot, .berth, .line, .ctxs, .fab] L = true) (ho : Only L s₀ s) :
    OnlyEff L s₀ (powerEff k on s) := by
  unfold powerEff
  repeat' with_reducible first | refine OnlyEff.done ?_ | refine OnlyEff.run ?_ | refine OnlyEff.ite ?_ ?_ | refine OnlyEff.dite (fun _ => ?_) (fun _ => ?_) | exact ho | refine Only.ite ?_ ?_ | refine Only.dite (fun _ => ?_) (fun _ => ?_) | refine State.nowOff_only (sub_reach hL rfl) ?_ | refine State.startDrain_only (sub_reach hL rfl) ?_ | refine State.startRamp_only (sub_reach hL rfl) ?_ | refine State.setDomRec_only (sub_reach hL rfl) ?_ | assumption | split | (dsimp -proj only; split)

theorem State.holdFault_only {L : List Part} {s₀ : State} {s : State} {k : DomId} (hL : reach [.stats, .out, .dom, .host, .qp, .mgmt, .boot, .berth, .line, .ctxs, .fab] L = true) (ho : Only L s₀ s) :
    Only L s₀ (State.holdFault s k) := by
  unfold State.holdFault
  repeat' with_reducible first | exact ho | refine Only.ite ?_ ?_ | refine Only.dite (fun _ => ?_) (fun _ => ?_) | refine State.faultDom_only (sub_reach hL rfl) ?_ | refine State.setDomRec_only (sub_reach hL rfl) ?_ | assumption | split | (dsimp -proj only; split)

theorem State.loseLink_only {L : List Part} {s₀ : State} {s : State} {l : D2dId} (hL : reach [.stats, .out, .dom, .die, .host, .qp, .mgmt, .boot, .berth, .line, .ctxs, .fab] L = true) (ho : Only L s₀ s) :
    Only L s₀ (State.loseLink s l) := by
  unfold State.loseLink
  repeat' with_reducible first | exact ho | refine Only.ite ?_ ?_ | refine Only.dite (fun _ => ?_) (fun _ => ?_) | refine State.holdFault_only (sub_reach hL rfl) ?_ | refine State.setD2d_only (sub_reach hL rfl) ?_ | refine State.raise_only (sub_reach hL rfl) ?_ | refine State.stick_only (sub_reach hL rfl) ?_ | refine State.holdCtxs_only (sub_reach hL rfl) ?_ | refine State.forAll_only (fun _ _ _ => ?_) ?_ | assumption | split | (dsimp -proj only; split)

end Sys2Proof.Machine
end

