-- ==== Sys2Proof/Laws/InvPowerOps.lean ====
section
/-! SUPPORT. The operations of Machine/PowerOps.lean keep what always holds. -/

namespace Sys2Proof.Machine
open Sys2Proof

set_option linter.all false

theorem State.holdCtxs_inv {s : State} {b : Berth} (ho : Inv s) : Inv (State.holdCtxs s b) :=
  inv_only (State.holdCtxs_only (L := [.mgmt, .ctxs]) (s := s) (b := b) rfl (Only.refl _ _)) rfl ho

theorem State.silence_inv {s : State} {b : Berth} (ho : Inv s) : Inv (State.silence s b) :=
  inv_only (State.silence_only (L := [.mgmt, .berth, .line, .ctxs]) (s := s) (b := b) rfl (Only.refl _ _)) rfl ho

theorem State.ownBringUp_inv {s : State} {k : DomId} (ho : Inv s) : Inv (State.ownBringUp s k) := by
  unfold State.ownBringUp
  repeat' with_reducible first | exact ho | refine Inv.ite ?_ ?_ | refine Inv.dite (fun _ => ?_) (fun _ => ?_) | refine State.startRamp_inv ?_ | refine State.setDomRec_inv (by rfl) ?_ | assumption | exact rfl | split | (dsimp -proj only; split)

theorem State.stopBoot_inv {s : State} {fault : Nat} (ho : Inv s) : Inv (State.stopBoot s fault) := by
  unfold State.stopBoot
  repeat' with_reducible first | exact ho | refine Inv.ite ?_ ?_ | refine Inv.dite (fun _ => ?_) (fun _ => ?_) | refine State.startRamp_inv ?_ | assumption | exact rfl | split | (dsimp -proj only; split) | refine inv_set_boot ?_

theorem State.bringUpFails_inv {s : State} {k : DomId} {st : DomSt} (ho : Inv s) : Inv (State.bringUpFails s k st) := by
  unfold State.bringUpFails
  repeat' with_reducible first | exact ho | refine Inv.ite ?_ ?_ | refine Inv.dite (fun _ => ?_) (fun _ => ?_) | refine State.completeRun_inv ?_ | refine State.setDom_inv ?_ | refine State.setDomRec_inv (by rfl) ?_ | assumption | exact rfl | split | (dsimp -proj only; split)

theorem State.startDrain_inv {s : State} {k : DomId} (h : Inv s) : Inv (s.startDrain k) := by
  unfold State.startDrain
  refine Inv.dite (fun _ => h) (fun hk => ?_)
  dsimp only
  refine State.cause_inv (State.objTouch_inv (State.setDomRec_other_inv hk ?_))
  split
  · exact State.modBerth_inv h
  · exact h

theorem State.leaveService_inv {s : State} {k : DomId} (ho : Inv s) : Inv (State.leaveService s k) := by
  unfold State.leaveService
  repeat' with_reducible first | exact ho | refine Inv.ite ?_ ?_ | refine Inv.dite (fun _ => ?_) (fun _ => ?_) | refine State.startDrain_inv ?_ | refine State.bringUpFails_inv ?_ | refine State.completeRun_inv ?_ | assumption | exact rfl | split | (dsimp -proj only; split)

theorem State.faultDom_inv {s : State} {k : DomId} (ho : Inv s) : Inv (State.faultDom s k) := by
  unfold State.faultDom
  repeat' with_reducible first | exact ho | refine Inv.ite ?_ ?_ | refine Inv.dite (fun _ => ?_) (fun _ => ?_) | refine State.leaveService_inv ?_ | refine State.bringUpFails_inv ?_ | refine State.completeRun_inv ?_ | refine State.silence_inv ?_ | refine State.modBerth_inv ?_ | refine State.forAll_inv (fun _ _ _ => ?_) ?_ | assumption | exact rfl | split | (dsimp -proj only; split)

theorem State.clusterFault_inv {s : State} {k : DomId} (ho : Inv s) : Inv (State.clusterFault s k) := by
  unfold State.clusterFault
  repeat' with_reducible first | exact ho | refine Inv.ite ?_ ?_ | refine Inv.dite (fun _ => ?_) (fun _ => ?_) | refine State.faultDom_inv ?_ | refine State.fenceGroup_inv ?_ | refine State.raise_inv ?_ | refine State.cause_inv ?_ | refine State.stick_inv ?_ | assumption | exact rfl | split | (dsimp -proj only; split)

theorem State.resumeCtxs_inv {s : State} {b : Berth} (ho : Inv s) : Inv (State.resumeCtxs s b) :=
  inv_only (State.resumeCtxs_only (L := [.mgmt, .ctxs]) (s := s) (b := b) rfl (Only.refl _ _)) rfl ho

theorem State.berthReturns_inv {s : State} {b : Berth} (ho : Inv s) : Inv (State.berthReturns s b) :=
  inv_only (State.berthReturns_only (L := [.mgmt, .line, .ctxs]) (s := s) (b := b) rfl (Only.refl _ _)) rfl ho

theorem State.servedOwn_inv {s : State} (ho : Inv s) : Inv (State.servedOwn s) := by
  unfold State.servedOwn
  repeat' with_reducible first | exact ho | refine Inv.ite ?_ ?_ | refine Inv.dite (fun _ => ?_) (fun _ => ?_) | refine State.ownBringUp_inv ?_ | refine State.forAll_inv (fun _ _ _ => ?_) ?_ | assumption | exact rfl | split | (dsimp -proj only; split)

theorem State.bootFollows_inv {s : State} {k : DomId} (ho : Inv s) : Inv (State.bootFollows s k) := by
  unfold State.bootFollows
  repeat' with_reducible first | exact ho | refine Inv.ite ?_ ?_ | refine Inv.dite (fun _ => ?_) (fun _ => ?_) | refine State.ownBringUp_inv ?_ | refine State.forAll_inv (fun _ _ _ => ?_) ?_ | assumption | exact rfl | split | (dsimp -proj only; split) | refine inv_set_boot ?_

theorem State.nowOff_inv {s : State} {k : DomId} (ho : Inv s) : Inv (State.nowOff s k) := by
  unfold State.nowOff
  repeat' with_reducible first | exact ho | refine Inv.ite ?_ ?_ | refine Inv.dite (fun _ => ?_) (fun _ => ?_) | refine State.completeRun_inv ?_ | refine State.setDom_inv ?_ | refine State.report_inv ?_ | refine State.silence_inv ?_ | refine State.modBerth_inv ?_ | assumption | exact rfl | split | (dsimp -proj only; split)

theorem State.leaveGrid_inv {s : State} {b : Berth} (ho : Inv s) : Inv (State.leaveGrid s b) :=
  inv_only (State.leaveGrid_only (L := [.pend, .line]) (s := s) (b := b) rfl (Only.refl _ _)) rfl ho

theorem powerEff_inv {k : DomId} {on : Bool} {s : State} (ho : Inv s) : InvEff (powerEff k on s) := by
  unfold powerEff
  repeat' with_reducible first | refine InvEff.done ?_ | refine InvEff.run ?_ | refine InvEff.ite ?_ ?_ | refine InvEff.dite (fun _ => ?_) (fun _ => ?_) | exact ho | refine Inv.ite ?_ ?_ | refine Inv.dite (fun _ => ?_) (fun _ => ?_) | refine State.nowOff_inv ?_ | refine State.startDrain_inv ?_ | refine State.startRamp_inv ?_ | refine State.setDomRec_inv (by rfl) ?_ | assumption | exact rfl | split | (dsimp -proj only; split)

theorem State.holdFault_inv {s : State} {k : DomId} (ho : Inv s) : Inv (State.holdFault s k) := by
  unfold State.holdFault
  repeat' with_reducible first | exact ho | refine Inv.ite ?_ ?_ | refine Inv.dite (fun _ => ?_) (fun _ => ?_) | refine State.faultDom_inv ?_ | refine State.setDomRec_inv (by rfl) ?_ | assumption | exact rfl | split | (dsimp -proj only; split)

theorem State.loseLink_inv {s : State} {l : D2dId} (ho : Inv s) : Inv (State.loseLink s l) := by
  unfold State.loseLink
  repeat' with_reducible first | exact ho | refine Inv.ite ?_ ?_ | refine Inv.dite (fun _ => ?_) (fun _ => ?_) | refine State.holdFault_inv ?_ | refine State.setD2d_inv ?_ | refine State.raise_inv ?_ | refine State.stick_inv ?_ | refine State.holdCtxs_inv ?_ | refine State.forAll_inv (fun _ _ _ => ?_) ?_ | assumption | exact rfl | split | (dsimp -proj only; split)

end Sys2Proof.Machine
end

