-- ==== Sys2Proof/Laws/OnlyAnalog.lean ====
section
/-! SUPPORT. The parts of the state that each operation of Machine/Analog.lean reaches. -/

namespace Sys2Proof.Machine
open Sys2Proof

set_option linter.all false

theorem State.txOff_only {L : List Part} {s₀ : State} {s : State} {b : Berth} (hL : reach [.fields, .mgmt, .boot, .berth, .line, .ctxs] L = true) (ho : Only L s₀ s) :
    Only L s₀ (State.txOff s b) := by
  unfold State.txOff
  repeat' with_reducible first | exact ho | refine Only.ite ?_ ?_ | refine Only.dite (fun _ => ?_) (fun _ => ?_) | refine State.silence_only (sub_reach hL rfl) ?_ | refine State.holdCtxs_only (sub_reach hL rfl) ?_ | refine State.dirty_only (sub_reach hL rfl) ?_ | refine State.objTouch_only (sub_reach hL rfl) ?_ | refine State.fset_only (sub_reach hL rfl) ?_ | assumption | split | (dsimp -proj only; split)

end Sys2Proof.Machine
end

