-- ==== Sys2Proof/Laws/InvAnalog.lean ====
section
/-! SUPPORT. The operations of Machine/Analog.lean keep what always holds. -/

namespace Sys2Proof.Machine
open Sys2Proof

set_option linter.all false

theorem State.txOff_inv {s : State} {b : Berth} (ho : Inv s) : Inv (State.txOff s b) :=
  inv_only (State.txOff_only (L := [.fields, .mgmt, .boot, .berth, .line, .ctxs]) (s := s) (b := b) rfl (Only.refl _ _)) rfl ho

end Sys2Proof.Machine
end

