-- ==== Sys2Proof/Laws/OnlyRoute.lean ====
section
/-! SUPPORT. The parts of the state that each operation of Machine/Route.lean reaches. -/

namespace Sys2Proof.Machine
open Sys2Proof

set_option linter.all false

theorem State.toHost_only {L : List Part} {s₀ : State} {s : State} {srcKind : Nat} {srcIdx : Nat} {tclass : Nat} {ctx : Nat} {payload : Bytes} (hL : reach [.stats, .qp, .hold] L = true) (ho : Only L s₀ s) :
    Only L s₀ (State.toHost s srcKind srcIdx tclass ctx payload).1 := by
  unfold State.toHost
  repeat' with_reducible first | exact ho | refine Only.ite ?_ ?_ | refine Only.dite (fun _ => ?_) (fun _ => ?_) | refine State.takeIn_only (sub_reach hL rfl) ?_ | refine State.takeIn_only_eq (by assumption) (sub_reach hL rfl) ?_ | refine State.bump_only (sub_reach hL rfl) ?_ | assumption | split | (dsimp -proj only; split)
theorem State.toHost_only_eq {L : List Part} {s₀ : State} {s : State} {srcKind : Nat} {srcIdx : Nat} {tclass : Nat} {ctx : Nat} {payload : Bytes} {s₁ : State} {xv : _} (he : State.toHost s srcKind srcIdx tclass ctx payload = (s₁, xv)) (hL : reach [.stats, .qp, .hold] L = true) (ho : Only L s₀ s) :
    Only L s₀ s₁ := by
  have := State.toHost_only (s := s) (srcKind := srcKind) (srcIdx := srcIdx) (tclass := tclass) (ctx := ctx) (payload := payload) hL ho
  rwa [he] at this

theorem State.toFabric_only {L : List Part} {s₀ : State} {s : State} {srcKind : Nat} {srcIdx : Nat} {dst : Nat} {src : Nat} {ttl : Nat} {redirected : Bool} {sub : Bytes} {payload : Bytes} {via : optParam LinkId 0} (hL : reach [.stats, .qp, .hold] L = true) (ho : Only L s₀ s) :
    Only L s₀ (State.toFabric s srcKind srcIdx dst src ttl redirected sub payload via).1 := by
  unfold State.toFabric
  repeat' with_reducible first | exact ho | refine Only.ite ?_ ?_ | refine Only.dite (fun _ => ?_) (fun _ => ?_) | refine State.takeIn_only (sub_reach hL rfl) ?_ | refine State.takeIn_only_eq (by assumption) (sub_reach hL rfl) ?_ | refine State.bump_only (sub_reach hL rfl) ?_ | assumption | split | (dsimp -proj only; split)
theorem State.toFabric_only_eq {L : List Part} {s₀ : State} {s : State} {srcKind : Nat} {srcIdx : Nat} {dst : Nat} {src : Nat} {ttl : Nat} {redirected : Bool} {sub : Bytes} {payload : Bytes} {via : optParam LinkId 0} {s₁ : State} {xv : _} (he : State.toFabric s srcKind srcIdx dst src ttl redirected sub payload via = (s₁, xv)) (hL : reach [.stats, .qp, .hold] L = true) (ho : Only L s₀ s) :
    Only L s₀ s₁ := by
  have := State.toFabric_only (s := s) (srcKind := srcKind) (srcIdx := srcIdx) (dst := dst) (src := src) (ttl := ttl) (redirected := redirected) (sub := sub) (payload := payload) (via := via) hL ho
  rwa [he] at this

theorem State.uplink_only {L : List Part} {s₀ : State} {s : State} {b : Berth} {c : Ctx} {tclass : Nat} {payload : Bytes} (hL : reach [.stats, .qp, .hold] L = true) (ho : Only L s₀ s) :
    Only L s₀ (State.uplink s b c tclass payload).1 := by
  unfold State.uplink
  repeat' with_reducible first | exact ho | refine Only.ite ?_ ?_ | refine Only.dite (fun _ => ?_) (fun _ => ?_) | refine State.toFabric_only (sub_reach hL rfl) ?_ | refine State.toFabric_only_eq (by assumption) (sub_reach hL rfl) ?_ | refine State.toHost_only (sub_reach hL rfl) ?_ | refine State.toHost_only_eq (by assumption) (sub_reach hL rfl) ?_ | refine State.takeIn_only (sub_reach hL rfl) ?_ | refine State.takeIn_only_eq (by assumption) (sub_reach hL rfl) ?_ | assumption | split | (dsimp -proj only; split)
theorem State.uplink_only_eq {L : List Part} {s₀ : State} {s : State} {b : Berth} {c : Ctx} {tclass : Nat} {payload : Bytes} {s₁ : State} {xv : _} (he : State.uplink s b c tclass payload = (s₁, xv)) (hL : reach [.stats, .qp, .hold] L = true) (ho : Only L s₀ s) :
    Only L s₀ s₁ := by
  have := State.uplink_only (s := s) (b := b) (c := c) (tclass := tclass) (payload := payload) hL ho
  rwa [he] at this

theorem State.putRoute_only {L : List Part} {s₀ : State} {s : State} {r : Route} (hL : reach [.mgmt, .hold] L = true) (ho : Only L s₀ s) :
    Only L s₀ (State.putRoute s r) := by
  unfold State.putRoute
  repeat' with_reducible first | exact ho | refine Only.ite ?_ ?_ | refine Only.dite (fun _ => ?_) (fun _ => ?_) | refine State.objTouch_only (sub_reach hL rfl) ?_ | assumption | split | (dsimp -proj only; split) | refine only_set_hold (sub_reach hL rfl) ?_

theorem State.dropRoute_only {L : List Part} {s₀ : State} {s : State} {eui : BitVec 64} (hL : reach [.mgmt, .hold] L = true) (ho : Only L s₀ s) :
    Only L s₀ (State.dropRoute s eui) := by
  unfold State.dropRoute
  repeat' with_reducible first | exact ho | refine Only.ite ?_ ?_ | refine Only.dite (fun _ => ?_) (fun _ => ?_) | refine State.objTouch_only (sub_reach hL rfl) ?_ | assumption | split | (dsimp -proj only; split) | refine only_set_hold (sub_reach hL rfl) ?_

theorem State.routeLeave_only {L : List Part} {s₀ : State} {s : State} {eui : BitVec 64} (hL : reach [.mgmt, .hold] L = true) (ho : Only L s₀ s) :
    Only L s₀ (State.routeLeave s eui) := by
  unfold State.routeLeave
  repeat' with_reducible first | exact ho | refine Only.ite ?_ ?_ | refine Only.dite (fun _ => ?_) (fun _ => ?_) | refine State.dropRoute_only (sub_reach hL rfl) ?_ | refine State.putRoute_only (sub_reach hL rfl) ?_ | assumption | split | (dsimp -proj only; split) | refine only_set_hold (sub_reach hL rfl) ?_

theorem State.handOver_only {L : List Part} {s₀ : State} {s : State} {c : Ctx} {addr : Nat} (hL : reach [.stats, .evTimes, .out, .host, .qp, .hold, .fab] L = true) (ho : Only L s₀ s) :
    Only L s₀ (State.handOver s c addr) := by
  unfold State.handOver
  repeat' with_reducible first | exact ho | refine Only.ite ?_ ?_ | refine Only.dite (fun _ => ?_) (fun _ => ?_) | refine State.readFrame_only (sub_reach hL rfl) ?_ | refine State.readFrame_only_eq (by assumption) (sub_reach hL rfl) ?_ | refine State.toFabric_only (sub_reach hL rfl) ?_ | refine State.toFabric_only_eq (by assumption) (sub_reach hL rfl) ?_ | refine State.dropFrames_only (sub_reach hL rfl) ?_ | refine State.forAll_only (fun _ _ _ => ?_) ?_ | assumption | split | (dsimp -proj only; split)

theorem State.routeLearn_only {L : List Part} {s₀ : State} {s : State} {eui : BitVec 64} {addr : BitVec 9} {epoch : BitVec 32} (hL : reach [.stats, .evTimes, .out, .host, .mgmt, .hold, .fab] L = true) (ho : Only L s₀ s) :
    Only L s₀ (State.routeLearn s eui addr epoch) := by
  unfold State.routeLearn
  repeat' with_reducible first | exact ho | refine Only.ite ?_ ?_ | refine Only.dite (fun _ => ?_) (fun _ => ?_) | refine State.putRoute_only (sub_reach hL rfl) ?_ | refine State.raiseEvery_only (sub_reach hL rfl) ?_ | refine State.bump_only (sub_reach hL rfl) ?_ | assumption | split | (dsimp -proj only; split) | refine only_set_hold (sub_reach hL rfl) ?_

theorem State.toCtx_only {L : List Part} {s₀ : State} {s : State} {srcKind : Nat} {srcIdx : Nat} {id : Nat} {tclass : Nat} {redirected : Bool} {payload : Bytes} (hL : reach [.stats, .qp, .hold] L = true) (ho : Only L s₀ s) :
    Only L s₀ (State.toCtx s srcKind srcIdx id tclass redirected payload).1 := by
  unfold State.toCtx
  repeat' with_reducible first | exact ho | refine Only.ite ?_ ?_ | refine Only.dite (fun _ => ?_) (fun _ => ?_) | refine State.takeIn_only (sub_reach hL rfl) ?_ | refine State.takeIn_only_eq (by assumption) (sub_reach hL rfl) ?_ | assumption | split | (dsimp -proj only; split)
theorem State.toCtx_only_eq {L : List Part} {s₀ : State} {s : State} {srcKind : Nat} {srcIdx : Nat} {id : Nat} {tclass : Nat} {redirected : Bool} {payload : Bytes} {s₁ : State} {xv : _} (he : State.toCtx s srcKind srcIdx id tclass redirected payload = (s₁, xv)) (hL : reach [.stats, .qp, .hold] L = true) (ho : Only L s₀ s) :
    Only L s₀ s₁ := by
  have := State.toCtx_only (s := s) (srcKind := srcKind) (srcIdx := srcIdx) (id := id) (tclass := tclass) (redirected := redirected) (payload := payload) hL ho
  rwa [he] at this

theorem State.toBroadcast_only {L : List Part} {s₀ : State} {s : State} {srcKind : Nat} {srcIdx : Nat} {b : Berth} {payload : Bytes} (hL : reach [.stats, .qp, .hold] L = true) (ho : Only L s₀ s) :
    Only L s₀ (State.toBroadcast s srcKind srcIdx b payload).1 := by
  unfold State.toBroadcast
  repeat' with_reducible first | exact ho | refine Only.ite ?_ ?_ | refine Only.dite (fun _ => ?_) (fun _ => ?_) | refine State.takeIn_only (sub_reach hL rfl) ?_ | refine State.takeIn_only_eq (by assumption) (sub_reach hL rfl) ?_ | assumption | split | (dsimp -proj only; split)
theorem State.toBroadcast_only_eq {L : List Part} {s₀ : State} {s : State} {srcKind : Nat} {srcIdx : Nat} {b : Berth} {payload : Bytes} {s₁ : State} {xv : _} (he : State.toBroadcast s srcKind srcIdx b payload = (s₁, xv)) (hL : reach [.stats, .qp, .hold] L = true) (ho : Only L s₀ s) :
    Only L s₀ s₁ := by
  have := State.toBroadcast_only (s := s) (srcKind := srcKind) (srcIdx := srcIdx) (b := b) (payload := payload) hL ho
  rwa [he] at this

theorem State.resolve_only {L : List Part} {s₀ : State} {s : State} {srcKind : Nat} {srcIdx : Nat} {eui : BitVec 64} {tclass : Nat} {ctxSel : Nat} {redirected : Bool} {payload : Bytes} (hL : reach [.stats, .evTimes, .out, .host, .qp, .hold, .fab] L = true) (ho : Only L s₀ s) :
    Only L s₀ (State.resolve s srcKind srcIdx eui tclass ctxSel redirected payload).1 := by
  unfold State.resolve
  repeat' with_reducible first | exact ho | refine Only.ite ?_ ?_ | refine Only.dite (fun _ => ?_) (fun _ => ?_) | refine State.toCtx_only (sub_reach hL rfl) ?_ | refine State.toCtx_only_eq (by assumption) (sub_reach hL rfl) ?_ | refine State.raiseEvery_only (sub_reach hL rfl) ?_ | refine State.toFabric_only (sub_reach hL rfl) ?_ | refine State.toFabric_only_eq (by assumption) (sub_reach hL rfl) ?_ | refine State.takeIn_only (sub_reach hL rfl) ?_ | refine State.takeIn_only_eq (by assumption) (sub_reach hL rfl) ?_ | refine State.stick_only (sub_reach hL rfl) ?_ | refine State.bump_only (sub_reach hL rfl) ?_ | assumption | split | (dsimp -proj only; split)
theorem State.resolve_only_eq {L : List Part} {s₀ : State} {s : State} {srcKind : Nat} {srcIdx : Nat} {eui : BitVec 64} {tclass : Nat} {ctxSel : Nat} {redirected : Bool} {payload : Bytes} {s₁ : State} {xv : _} (he : State.resolve s srcKind srcIdx eui tclass ctxSel redirected payload = (s₁, xv)) (hL : reach [.stats, .evTimes, .out, .host, .qp, .hold, .fab] L = true) (ho : Only L s₀ s) :
    Only L s₀ s₁ := by
  have := State.resolve_only (s := s) (srcKind := srcKind) (srcIdx := srcIdx) (eui := eui) (tclass := tclass) (ctxSel := ctxSel) (redirected := redirected) (payload := payload) hL ho
  rwa [he] at this

theorem State.reHead_only {L : List Part} {s₀ : State} {s : State} {f : Frame} (hL : reach [.hold] L = true) (ho : Only L s₀ s) :
    Only L s₀ (State.reHead s f) := by
  unfold State.reHead
  repeat' with_reducible first | exact ho | refine Only.ite ?_ ?_ | refine Only.dite (fun _ => ?_) (fun _ => ?_) | refine State.setFrame_only (sub_reach hL rfl) ?_ | assumption | split | (dsimp -proj only; split) | refine only_set_hold (sub_reach hL rfl) ?_

theorem State.reroute_only {L : List Part} {s₀ : State} {s : State} (hL : reach [.stats, .hold] L = true) (ho : Only L s₀ s) :
    Only L s₀ (State.reroute s) := by
  unfold State.reroute
  repeat' with_reducible first | exact ho | refine Only.ite ?_ ?_ | refine Only.dite (fun _ => ?_) (fun _ => ?_) | refine State.reHead_only (sub_reach hL rfl) ?_ | refine State.dropFrames_only (sub_reach hL rfl) ?_ | refine State.bump_only (sub_reach hL rfl) ?_ | refine State.forAll_only (fun _ _ _ => ?_) ?_ | assumption | split | (dsimp -proj only; split)

theorem State.routeJoin_only {L : List Part} {s₀ : State} {s : State} {r : Route} (hL : reach [.mgmt, .hold] L = true) (ho : Only L s₀ s) :
    Only L s₀ (State.routeJoin s r) := by
  unfold State.routeJoin
  repeat' with_reducible first | exact ho | refine Only.ite ?_ ?_ | refine Only.dite (fun _ => ?_) (fun _ => ?_) | refine State.putRoute_only (sub_reach hL rfl) ?_ | assumption | split | (dsimp -proj only; split) | refine only_set_hold (sub_reach hL rfl) ?_

end Sys2Proof.Machine
end

