-- ==== Sys2Proof/Laws/InvRoute.lean ====
section
/-! SUPPORT. The operations of Machine/Route.lean keep what always holds. -/

namespace Sys2Proof.Machine
open Sys2Proof

set_option linter.all false

theorem State.toHost_inv {s : State} {srcKind : Nat} {srcIdx : Nat} {tclass : Nat} {ctx : Nat} {payload : Bytes} (ho : Inv s) : Inv (State.toHost s srcKind srcIdx tclass ctx payload).1 := by
  unfold State.toHost
  repeat' with_reducible first | exact ho | refine Inv.ite ?_ ?_ | refine Inv.dite (fun _ => ?_) (fun _ => ?_) | refine State.takeIn_inv ?_ | refine State.takeIn_inv_eq (by assumption) ?_ | refine State.bump_inv ?_ | assumption | exact rfl | split | (dsimp -proj only; split)
theorem State.toHost_inv_eq {s : State} {srcKind : Nat} {srcIdx : Nat} {tclass : Nat} {ctx : Nat} {payload : Bytes} {s₁ : State} {xv : _} (he : State.toHost s srcKind srcIdx tclass ctx payload = (s₁, xv)) (ho : Inv s) : Inv s₁ := by
  have := State.toHost_inv (s := s) (srcKind := srcKind) (srcIdx := srcIdx) (tclass := tclass) (ctx := ctx) (payload := payload) ho
  rwa [he] at this

theorem State.toFabric_inv {s : State} {srcKind : Nat} {srcIdx : Nat} {dst : Nat} {src : Nat} {ttl : Nat} {redirected : Bool} {sub : Bytes} {payload : Bytes} {via : optParam LinkId 0} (ho : Inv s) : Inv (State.toFabric s srcKind srcIdx dst src ttl redirected sub payload via).1 := by
  unfold State.toFabric
  repeat' with_reducible first | exact ho | refine Inv.ite ?_ ?_ | refine Inv.dite (fun _ => ?_) (fun _ => ?_) | refine State.takeIn_inv ?_ | refine State.takeIn_inv_eq (by assumption) ?_ | refine State.bump_inv ?_ | assumption | exact rfl | split | (dsimp -proj only; split)
theorem State.toFabric_inv_eq {s : State} {srcKind : Nat} {srcIdx : Nat} {dst : Nat} {src : Nat} {ttl : Nat} {redirected : Bool} {sub : Bytes} {payload : Bytes} {via : optParam LinkId 0} {s₁ : State} {xv : _} (he : State.toFabric s srcKind srcIdx dst src ttl redirected sub payload via = (s₁, xv)) (ho : Inv s) : Inv s₁ := by
  have := State.toFabric_inv (s := s) (srcKind := srcKind) (srcIdx := srcIdx) (dst := dst) (src := src) (ttl := ttl) (redirected := redirected) (sub := sub) (payload := payload) (via := via) ho
  rwa [he] at this

theorem State.uplink_inv {s : State} {b : Berth} {c : Ctx} {tclass : Nat} {payload : Bytes} (ho : Inv s) : Inv (State.uplink s b c tclass payload).1 := by
  unfold State.uplink
  repeat' with_reducible first | exact ho | refine Inv.ite ?_ ?_ | refine Inv.dite (fun _ => ?_) (fun _ => ?_) | refine State.toFabric_inv ?_ | refine State.toFabric_inv_eq (by assumption) ?_ | refine State.toHost_inv ?_ | refine State.toHost_inv_eq (by assumption) ?_ | refine State.takeIn_inv ?_ | refine State.takeIn_inv_eq (by assumption) ?_ | assumption | exact rfl | split | (dsimp -proj only; split)
theorem State.uplink_inv_eq {s : State} {b : Berth} {c : Ctx} {tclass : Nat} {payload : Bytes} {s₁ : State} {xv : _} (he : State.uplink s b c tclass payload = (s₁, xv)) (ho : Inv s) : Inv s₁ := by
  have := State.uplink_inv (s := s) (b := b) (c := c) (tclass := tclass) (payload := payload) ho
  rwa [he] at this

theorem State.putRoute_inv {s : State} {r : Route} (ho : Inv s) : Inv (State.putRoute s r) := by
  unfold State.putRoute
  repeat' with_reducible first | exact ho | refine Inv.ite ?_ ?_ | refine Inv.dite (fun _ => ?_) (fun _ => ?_) | refine State.objTouch_inv ?_ | assumption | exact rfl | split | (dsimp -proj only; split) | refine inv_set_hold ?_ ?_

theorem State.dropRoute_inv {s : State} {eui : BitVec 64} (ho : Inv s) : Inv (State.dropRoute s eui) := by
  unfold State.dropRoute
  repeat' with_reducible first | exact ho | refine Inv.ite ?_ ?_ | refine Inv.dite (fun _ => ?_) (fun _ => ?_) | refine State.objTouch_inv ?_ | assumption | exact rfl | split | (dsimp -proj only; split) | refine inv_set_hold ?_ ?_

theorem State.routeLeave_inv {s : State} {eui : BitVec 64} (ho : Inv s) : Inv (State.routeLeave s eui) := by
  unfold State.routeLeave
  repeat' with_reducible first | exact ho | refine Inv.ite ?_ ?_ | refine Inv.dite (fun _ => ?_) (fun _ => ?_) | refine State.dropRoute_inv ?_ | refine State.putRoute_inv ?_ | assumption | exact rfl | split | (dsimp -proj only; split) | refine inv_set_hold ?_ ?_

theorem State.handOver_inv {s : State} {c : Ctx} {addr : Nat} (ho : Inv s) : Inv (State.handOver s c addr) := by
  unfold State.handOver
  repeat' with_reducible first | exact ho | refine Inv.ite ?_ ?_ | refine Inv.dite (fun _ => ?_) (fun _ => ?_) | refine State.readFrame_inv ?_ | refine State.readFrame_inv_eq (by assumption) ?_ | refine State.toFabric_inv ?_ | refine State.toFabric_inv_eq (by assumption) ?_ | refine State.dropFrames_inv ?_ | refine State.forAll_inv (fun _ _ _ => ?_) ?_ | assumption | exact rfl | split | (dsimp -proj only; split)

theorem State.routeLearn_inv {s : State} {eui : BitVec 64} {addr : BitVec 9} {epoch : BitVec 32} (ho : Inv s) : Inv (State.routeLearn s eui addr epoch) := by
  unfold State.routeLearn
  repeat' with_reducible first | exact ho | refine Inv.ite ?_ ?_ | refine Inv.dite (fun _ => ?_) (fun _ => ?_) | refine State.putRoute_inv ?_ | refine State.raiseEvery_inv ?_ | refine State.bump_inv ?_ | assumption | exact rfl | split | (dsimp -proj only; split) | refine inv_set_hold ?_ ?_

theorem State.toCtx_inv {s : State} {srcKind : Nat} {srcIdx : Nat} {id : Nat} {tclass : Nat} {redirected : Bool} {payload : Bytes} (ho : Inv s) : Inv (State.toCtx s srcKind srcIdx id tclass redirected payload).1 := by
  unfold State.toCtx
  repeat' with_reducible first | exact ho | refine Inv.ite ?_ ?_ | refine Inv.dite (fun _ => ?_) (fun _ => ?_) | refine State.takeIn_inv ?_ | refine State.takeIn_inv_eq (by assumption) ?_ | assumption | exact rfl | split | (dsimp -proj only; split)
theorem State.toCtx_inv_eq {s : State} {srcKind : Nat} {srcIdx : Nat} {id : Nat} {tclass : Nat} {redirected : Bool} {payload : Bytes} {s₁ : State} {xv : _} (he : State.toCtx s srcKind srcIdx id tclass redirected payload = (s₁, xv)) (ho : Inv s) : Inv s₁ := by
  have := State.toCtx_inv (s := s) (srcKind := srcKind) (srcIdx := srcIdx) (id := id) (tclass := tclass) (redirected := redirected) (payload := payload) ho
  rwa [he] at this

theorem State.toBroadcast_inv {s : State} {srcKind : Nat} {srcIdx : Nat} {b : Berth} {payload : Bytes} (ho : Inv s) : Inv (State.toBroadcast s srcKind srcIdx b payload).1 := by
  unfold State.toBroadcast
  repeat' with_reducible first | exact ho | refine Inv.ite ?_ ?_ | refine Inv.dite (fun _ => ?_) (fun _ => ?_) | refine State.takeIn_inv ?_ | refine State.takeIn_inv_eq (by assumption) ?_ | assumption | exact rfl | split | (dsimp -proj only; split)
theorem State.toBroadcast_inv_eq {s : State} {srcKind : Nat} {srcIdx : Nat} {b : Berth} {payload : Bytes} {s₁ : State} {xv : _} (he : State.toBroadcast s srcKind srcIdx b payload = (s₁, xv)) (ho : Inv s) : Inv s₁ := by
  have := State.toBroadcast_inv (s := s) (srcKind := srcKind) (srcIdx := srcIdx) (b := b) (payload := payload) ho
  rwa [he] at this

theorem State.resolve_inv {s : State} {srcKind : Nat} {srcIdx : Nat} {eui : BitVec 64} {tclass : Nat} {ctxSel : Nat} {redirected : Bool} {payload : Bytes} (ho : Inv s) : Inv (State.resolve s srcKind srcIdx eui tclass ctxSel redirected payload).1 := by
  unfold State.resolve
  repeat' with_reducible first | exact ho | refine Inv.ite ?_ ?_ | refine Inv.dite (fun _ => ?_) (fun _ => ?_) | refine State.toCtx_inv ?_ | refine State.toCtx_inv_eq (by assumption) ?_ | refine State.raiseEvery_inv ?_ | refine State.toFabric_inv ?_ | refine State.toFabric_inv_eq (by assumption) ?_ | refine State.takeIn_inv ?_ | refine State.takeIn_inv_eq (by assumption) ?_ | refine State.stick_inv ?_ | refine State.bump_inv ?_ | assumption | exact rfl | split | (dsimp -proj only; split)
theorem State.resolve_inv_eq {s : State} {srcKind : Nat} {srcIdx : Nat} {eui : BitVec 64} {tclass : Nat} {ctxSel : Nat} {redirected : Bool} {payload : Bytes} {s₁ : State} {xv : _} (he : State.resolve s srcKind srcIdx eui tclass ctxSel redirected payload = (s₁, xv)) (ho : Inv s) : Inv s₁ := by
  have := State.resolve_inv (s := s) (srcKind := srcKind) (srcIdx := srcIdx) (eui := eui) (tclass := tclass) (ctxSel := ctxSel) (redirected := redirected) (payload := payload) ho
  rwa [he] at this

theorem State.reHead_inv {s : State} {f : Frame} (h : Inv s) : Inv (s.reHead f) := by
  have h1 := State.setFrame_inv (f := f) h
  unfold State.reHead
  generalize f.header = img
  generalize s.frameAddr f = addr
  exact inv_mem (a := s.setFrame f) rfl (Memory.puts_wf h1.memOk) rfl h1

theorem State.reroute_inv {s : State} (ho : Inv s) : Inv (State.reroute s) := by
  unfold State.reroute
  repeat' with_reducible first | exact ho | refine Inv.ite ?_ ?_ | refine Inv.dite (fun _ => ?_) (fun _ => ?_) | refine State.reHead_inv ?_ | refine State.dropFrames_inv ?_ | refine State.bump_inv ?_ | refine State.forAll_inv (fun _ _ _ => ?_) ?_ | assumption | exact rfl | split | (dsimp -proj only; split)

theorem State.routeJoin_inv {s : State} {r : Route} (ho : Inv s) : Inv (State.routeJoin s r) := by
  unfold State.routeJoin
  repeat' with_reducible first | exact ho | refine Inv.ite ?_ ?_ | refine Inv.dite (fun _ => ?_) (fun _ => ?_) | refine State.putRoute_inv ?_ | assumption | exact rfl | split | (dsimp -proj only; split) | refine inv_set_hold ?_ ?_

end Sys2Proof.Machine
end

