-- ==== Sys2Proof/Laws/OnlyFabricLink.lean ====
section
/-! SUPPORT. The parts of the state that each operation of Machine/FabricLink.lean reaches. -/

namespace Sys2Proof.Machine
open Sys2Proof

set_option linter.all false

theorem State.linkEvent_only {L : List Part} {s₀ : State} {s : State} {l : LinkId} {up : Bool} (hL : reach [.stats, .out, .host, .fab] L = true) (ho : Only L s₀ s) :
    Only L s₀ (State.linkEvent s l up) := by
  unfold State.linkEvent
  repeat' with_reducible first | exact ho | refine Only.ite ?_ ?_ | refine Only.dite (fun _ => ?_) (fun _ => ?_) | refine State.raise_only (sub_reach hL rfl) ?_ | assumption | split | (dsimp -proj only; split)

theorem State.setLink_only {L : List Part} {s₀ : State} {s : State} {l : LinkId} {st : LinkSt} (hL : reach [.stats, .out, .host, .fab] L = true) (ho : Only L s₀ s) :
    Only L s₀ (State.setLink s l st) := by
  unfold State.setLink
  repeat' with_reducible first | exact ho | refine Only.ite ?_ ?_ | refine Only.dite (fun _ => ?_) (fun _ => ?_) | refine State.linkEvent_only (sub_reach hL rfl) ?_ | refine State.modLink_only (sub_reach hL rfl) ?_ | assumption | split | (dsimp -proj only; split)

theorem State.startTraining_only {L : List Part} {s₀ : State} {s : State} {l : LinkId} (hL : reach [.stats, .out, .entropyCtr, .host, .fab] L = true) (ho : Only L s₀ s) :
    Only L s₀ (State.startTraining s l) := by
  unfold State.startTraining
  repeat' with_reducible first | exact ho | refine Only.ite ?_ ?_ | refine Only.dite (fun _ => ?_) (fun _ => ?_) | refine State.draw_only (sub_reach hL rfl) ?_ | refine State.draw_only_eq (by assumption) (sub_reach hL rfl) ?_ | refine State.setLink_only (sub_reach hL rfl) ?_ | refine State.modLink_only (sub_reach hL rfl) ?_ | assumption | split | (dsimp -proj only; split)

theorem State.raiseLink_only {L : List Part} {s₀ : State} {s : State} {l : LinkId} (hL : reach [.stats, .out, .entropyCtr, .host, .fab] L = true) (ho : Only L s₀ s) :
    Only L s₀ (State.raiseLink s l) := by
  unfold State.raiseLink
  repeat' with_reducible first | exact ho | refine Only.ite ?_ ?_ | refine Only.dite (fun _ => ?_) (fun _ => ?_) | refine State.startTraining_only (sub_reach hL rfl) ?_ | assumption | split | (dsimp -proj only; split)

theorem State.linkDown_only {L : List Part} {s₀ : State} {s : State} {l : LinkId} (hL : reach [.stats, .out, .host, .fab] L = true) (ho : Only L s₀ s) :
    Only L s₀ (State.linkDown s l) := by
  unfold State.linkDown
  repeat' with_reducible first | exact ho | refine Only.ite ?_ ?_ | refine Only.dite (fun _ => ?_) (fun _ => ?_) | refine State.setLink_only (sub_reach hL rfl) ?_ | refine State.modLink_only (sub_reach hL rfl) ?_ | assumption | split | (dsimp -proj only; split)

theorem State.takeAck_only {L : List Part} {s₀ : State} {s : State} {l : LinkId} {ack : BitVec 8} {xoff : Bool} (hL : reach [.out, .fab] L = true) (ho : Only L s₀ s) :
    Only L s₀ (State.takeAck s l ack xoff) := by
  unfold State.takeAck
  repeat' with_reducible first | exact ho | refine Only.ite ?_ ?_ | refine Only.dite (fun _ => ?_) (fun _ => ?_) | refine State.flushLink_only (sub_reach hL rfl) ?_ | refine State.modLink_only (sub_reach hL rfl) ?_ | assumption | split | (dsimp -proj only; split)

theorem State.retrainLink_only {L : List Part} {s₀ : State} {s : State} {l : LinkId} (hL : reach [.stats, .out, .entropyCtr, .host, .fab] L = true) (ho : Only L s₀ s) :
    Only L s₀ (State.retrainLink s l) := by
  unfold State.retrainLink
  repeat' with_reducible first | exact ho | refine Only.ite ?_ ?_ | refine Only.dite (fun _ => ?_) (fun _ => ?_) | refine State.startTraining_only (sub_reach hL rfl) ?_ | refine State.modLink_only (sub_reach hL rfl) ?_ | refine State.emit_only (sub_reach hL rfl) ?_ | refine State.bump_only (sub_reach hL rfl) ?_ | assumption | split | (dsimp -proj only; split)

theorem State.replayFrom_only {L : List Part} {s₀ : State} {s : State} {l : LinkId} {seq : BitVec 8} (hL : reach [.stats, .out, .entropyCtr, .host, .fab] L = true) (ho : Only L s₀ s) :
    Only L s₀ (State.replayFrom s l seq) := by
  unfold State.replayFrom
  repeat' with_reducible first | exact ho | refine Only.ite ?_ ?_ | refine Only.dite (fun _ => ?_) (fun _ => ?_) | refine State.retrainLink_only (sub_reach hL rfl) ?_ | refine State.modLink_only (sub_reach hL rfl) ?_ | refine State.emit_only (sub_reach hL rfl) ?_ | refine State.bump_only (sub_reach hL rfl) ?_ | assumption | split | (dsimp -proj only; split)

theorem State.refuseLink_only {L : List Part} {s₀ : State} {s : State} {l : LinkId} {why : Nat} (hL : reach [.stats, .out, .host, .fab] L = true) (ho : Only L s₀ s) :
    Only L s₀ (State.refuseLink s l why) := by
  unfold State.refuseLink
  repeat' with_reducible first | exact ho | refine Only.ite ?_ ?_ | refine Only.dite (fun _ => ?_) (fun _ => ?_) | refine State.setLink_only (sub_reach hL rfl) ?_ | refine State.modLink_only (sub_reach hL rfl) ?_ | assumption | split | (dsimp -proj only; split)

theorem State.reachPeer_only {L : List Part} {s₀ : State} {s : State} (hL : reach [.stats, .out, .fab] L = true) (ho : Only L s₀ s) :
    Only L s₀ (State.reachPeer s) := by
  unfold State.reachPeer
  repeat' with_reducible first | exact ho | refine Only.ite ?_ ?_ | refine Only.dite (fun _ => ?_) (fun _ => ?_) | refine State.broadcast_only (sub_reach hL rfl) ?_ | assumption | split | (dsimp -proj only; split) | refine only_set_fab (sub_reach hL rfl) ?_

theorem State.linkUp_only {L : List Part} {s₀ : State} {s : State} {l : LinkId} {key : Bytes} {lanes : BitVec 2} (hL : reach [.stats, .out, .host, .hold, .fab] L = true) (ho : Only L s₀ s) :
    Only L s₀ (State.linkUp s l key lanes) := by
  unfold State.linkUp
  repeat' with_reducible first | exact ho | refine Only.ite ?_ ?_ | refine Only.dite (fun _ => ?_) (fun _ => ?_) | refine State.reachPeer_only (sub_reach hL rfl) ?_ | refine State.reroute_only (sub_reach hL rfl) ?_ | refine State.flushLink_only (sub_reach hL rfl) ?_ | refine State.setLink_only (sub_reach hL rfl) ?_ | refine State.modLink_only (sub_reach hL rfl) ?_ | refine State.emit_only (sub_reach hL rfl) ?_ | assumption | split | (dsimp -proj only; split)

theorem State.judgeAuth_only {L : List Part} {s₀ : State} {s : State} {l : LinkId} {p : Peer} (hL : reach [.stats, .out, .host, .hold, .fab] L = true) (ho : Only L s₀ s) :
    Only L s₀ (State.judgeAuth s l p) := by
  unfold State.judgeAuth
  repeat' with_reducible first | exact ho | refine Only.ite ?_ ?_ | refine Only.dite (fun _ => ?_) (fun _ => ?_) | refine State.linkUp_only (sub_reach hL rfl) ?_ | refine State.refuseLink_only (sub_reach hL rfl) ?_ | refine State.stick_only (sub_reach hL rfl) ?_ | assumption | split | (dsimp -proj only; split)

theorem State.degrade_only {L : List Part} {s₀ : State} {s : State} {l : LinkId} {lanes : BitVec 2} (hL : reach [.stats, .out, .host, .fab] L = true) (ho : Only L s₀ s) :
    Only L s₀ (State.degrade s l lanes) := by
  unfold State.degrade
  repeat' with_reducible first | exact ho | refine Only.ite ?_ ?_ | refine Only.dite (fun _ => ?_) (fun _ => ?_) | refine State.setLink_only (sub_reach hL rfl) ?_ | refine State.raise_only (sub_reach hL rfl) ?_ | refine State.modLink_only (sub_reach hL rfl) ?_ | refine State.emit_only (sub_reach hL rfl) ?_ | refine State.bump_only (sub_reach hL rfl) ?_ | assumption | split | (dsimp -proj only; split)

theorem State.failLink_only {L : List Part} {s₀ : State} {s : State} {l : LinkId} (hL : reach [.stats, .out, .host, .hold, .fab] L = true) (ho : Only L s₀ s) :
    Only L s₀ (State.failLink s l) := by
  unfold State.failLink
  repeat' with_reducible first | exact ho | refine Only.ite ?_ ?_ | refine Only.dite (fun _ => ?_) (fun _ => ?_) | refine State.reroute_only (sub_reach hL rfl) ?_ | refine State.setLink_only (sub_reach hL rfl) ?_ | refine State.sendTo_only (sub_reach hL rfl) ?_ | refine State.modLink_only (sub_reach hL rfl) ?_ | refine State.stick_only (sub_reach hL rfl) ?_ | refine State.bump_only (sub_reach hL rfl) ?_ | refine State.forAll_only (fun _ _ _ => ?_) ?_ | assumption | split | (dsimp -proj only; split)

end Sys2Proof.Machine
end

