-- ==== Sys2Proof/Laws/InvFabricLink.lean ====
section
/-! SUPPORT. The operations of Machine/FabricLink.lean keep what always holds. -/

namespace Sys2Proof.Machine
open Sys2Proof

set_option linter.all false

theorem State.linkEvent_inv {s : State} {l : LinkId} {up : Bool} (ho : Inv s) : Inv (State.linkEvent s l up) := by
  unfold State.linkEvent
  repeat' with_reducible first | exact ho | refine Inv.ite ?_ ?_ | refine Inv.dite (fun _ => ?_) (fun _ => ?_) | refine State.raise_inv ?_ | assumption | exact rfl | split | (dsimp -proj only; split)

theorem State.setLink_inv {s : State} {l : LinkId} {st : LinkSt} (ho : Inv s) : Inv (State.setLink s l st) := by
  unfold State.setLink
  repeat' with_reducible first | exact ho | refine Inv.ite ?_ ?_ | refine Inv.dite (fun _ => ?_) (fun _ => ?_) | refine State.linkEvent_inv ?_ | refine State.modLink_inv ?_ | assumption | exact rfl | split | (dsimp -proj only; split)

theorem State.startTraining_inv {s : State} {l : LinkId} (ho : Inv s) : Inv (State.startTraining s l) := by
  unfold State.startTraining
  repeat' with_reducible first | exact ho | refine Inv.ite ?_ ?_ | refine Inv.dite (fun _ => ?_) (fun _ => ?_) | refine State.draw_inv ?_ | refine State.draw_inv_eq (by assumption) ?_ | refine State.setLink_inv ?_ | refine State.modLink_inv ?_ | assumption | exact rfl | split | (dsimp -proj only; split)

theorem State.raiseLink_inv {s : State} {l : LinkId} (ho : Inv s) : Inv (State.raiseLink s l) := by
  unfold State.raiseLink
  repeat' with_reducible first | exact ho | refine Inv.ite ?_ ?_ | refine Inv.dite (fun _ => ?_) (fun _ => ?_) | refine State.startTraining_inv ?_ | assumption | exact rfl | split | (dsimp -proj only; split)

theorem State.linkDown_inv {s : State} {l : LinkId} (ho : Inv s) : Inv (State.linkDown s l) := by
  unfold State.linkDown
  repeat' with_reducible first | exact ho | refine Inv.ite ?_ ?_ | refine Inv.dite (fun _ => ?_) (fun _ => ?_) | refine State.setLink_inv ?_ | refine State.modLink_inv ?_ | assumption | exact rfl | split | (dsimp -proj only; split)

theorem State.takeAck_inv {s : State} {l : LinkId} {ack : BitVec 8} {xoff : Bool} (ho : Inv s) : Inv (State.takeAck s l ack xoff) :=
  inv_only (State.takeAck_only (L := [.out, .fab]) (s := s) (l := l) (ack := ack) (xoff := xoff) rfl (Only.refl _ _)) rfl ho

theorem State.retrainLink_inv {s : State} {l : LinkId} (ho : Inv s) : Inv (State.retrainLink s l) := by
  unfold State.retrainLink
  repeat' with_reducible first | exact ho | refine Inv.ite ?_ ?_ | refine Inv.dite (fun _ => ?_) (fun _ => ?_) | refine State.startTraining_inv ?_ | refine State.modLink_inv ?_ | refine State.emit_inv ?_ | refine State.bump_inv ?_ | assumption | exact rfl | split | (dsimp -proj only; split)

theorem State.replayFrom_inv {s : State} {l : LinkId} {seq : BitVec 8} (ho : Inv s) : Inv (State.replayFrom s l seq) := by
  unfold State.replayFrom
  repeat' with_reducible first | exact ho | refine Inv.ite ?_ ?_ | refine Inv.dite (fun _ => ?_) (fun _ => ?_) | refine State.retrainLink_inv ?_ | refine State.modLink_inv ?_ | refine State.emit_inv ?_ | refine State.bump_inv ?_ | assumption | exact rfl | split | (dsimp -proj only; split)

theorem State.refuseLink_inv {s : State} {l : LinkId} {why : Nat} (ho : Inv s) : Inv (State.refuseLink s l why) := by
  unfold State.refuseLink
  repeat' with_reducible first | exact ho | refine Inv.ite ?_ ?_ | refine Inv.dite (fun _ => ?_) (fun _ => ?_) | refine State.setLink_inv ?_ | refine State.modLink_inv ?_ | assumption | exact rfl | split | (dsimp -proj only; split)

theorem State.reachPeer_inv {s : State} (ho : Inv s) : Inv (State.reachPeer s) :=
  inv_only (State.reachPeer_only (L := [.stats, .out, .fab]) (s := s) rfl (Only.refl _ _)) rfl ho

theorem State.linkUp_inv {s : State} {l : LinkId} {key : Bytes} {lanes : BitVec 2} (ho : Inv s) : Inv (State.linkUp s l key lanes) := by
  unfold State.linkUp
  repeat' with_reducible first | exact ho | refine Inv.ite ?_ ?_ | refine Inv.dite (fun _ => ?_) (fun _ => ?_) | refine State.reachPeer_inv ?_ | refine State.reroute_inv ?_ | refine State.flushLink_inv ?_ | refine State.setLink_inv ?_ | refine State.modLink_inv ?_ | refine State.emit_inv ?_ | assumption | exact rfl | split | (dsimp -proj only; split)

theorem State.judgeAuth_inv {s : State} {l : LinkId} {p : Peer} (ho : Inv s) : Inv (State.judgeAuth s l p) := by
  unfold State.judgeAuth
  repeat' with_reducible first | exact ho | refine Inv.ite ?_ ?_ | refine Inv.dite (fun _ => ?_) (fun _ => ?_) | refine State.linkUp_inv ?_ | refine State.refuseLink_inv ?_ | refine State.stick_inv ?_ | assumption | exact rfl | split | (dsimp -proj only; split)

theorem State.degrade_inv {s : State} {l : LinkId} {lanes : BitVec 2} (ho : Inv s) : Inv (State.degrade s l lanes) := by
  unfold State.degrade
  repeat' with_reducible first | exact ho | refine Inv.ite ?_ ?_ | refine Inv.dite (fun _ => ?_) (fun _ => ?_) | refine State.setLink_inv ?_ | refine State.raise_inv ?_ | refine State.modLink_inv ?_ | refine State.emit_inv ?_ | refine State.bump_inv ?_ | assumption | exact rfl | split | (dsimp -proj only; split)

theorem State.failLink_inv {s : State} {l : LinkId} (ho : Inv s) : Inv (State.failLink s l) := by
  unfold State.failLink
  repeat' with_reducible first | exact ho | refine Inv.ite ?_ ?_ | refine Inv.dite (fun _ => ?_) (fun _ => ?_) | refine State.reroute_inv ?_ | refine State.setLink_inv ?_ | refine State.sendTo_inv ?_ | refine State.modLink_inv ?_ | refine State.stick_inv ?_ | refine State.bump_inv ?_ | refine State.forAll_inv (fun _ _ _ => ?_) ?_ | assumption | exact rfl | split | (dsimp -proj only; split)

end Sys2Proof.Machine
end

