-- ==== Sys2Proof/Laws/OnlyFabric.lean ====
section
/-! SUPPORT. The parts of the state that each operation of Machine/Fabric.lean reaches. -/

namespace Sys2Proof.Machine
open Sys2Proof

set_option linter.all false

theorem State.mixedUpdate_only {L : List Part} {s₀ : State} {s : State} (hL : reach [.live] L = true) (ho : Only L s₀ s) :
    Only L s₀ (State.mixedUpdate s) := by
  unfold State.mixedUpdate
  repeat' with_reducible first | exact ho | refine Only.ite ?_ ?_ | refine Only.dite (fun _ => ?_) (fun _ => ?_) | assumption | split | (dsimp -proj only; split) | refine only_set_live (sub_reach hL rfl) ?_

theorem State.epochUpdate_only {L : List Part} {s₀ : State} {s : State} (hL : reach [.live, .fab] L = true) (ho : Only L s₀ s) :
    Only L s₀ (State.epochUpdate s) := by
  unfold State.epochUpdate
  repeat' with_reducible first | exact ho | refine Only.ite ?_ ?_ | refine Only.dite (fun _ => ?_) (fun _ => ?_) | refine State.mixedUpdate_only (sub_reach hL rfl) ?_ | assumption | split | (dsimp -proj only; split) | refine only_set_fab (sub_reach hL rfl) ?_

theorem State.startJoin_only {L : List Part} {s₀ : State} {s : State} {addr : BitVec 9} {dims : Nat × Nat × Nat} (hL : reach [.stats, .out, .entropyCtr, .host, .fab] L = true) (ho : Only L s₀ s) :
    Only L s₀ (State.startJoin s addr dims) := by
  unfold State.startJoin
  repeat' with_reducible first | exact ho | refine Only.ite ?_ ?_ | refine Only.dite (fun _ => ?_) (fun _ => ?_) | refine State.raiseLink_only (sub_reach hL rfl) ?_ | refine State.forAll_only (fun _ _ _ => ?_) ?_ | assumption | split | (dsimp -proj only; split) | refine only_set_fab (sub_reach hL rfl) ?_

theorem State.passOn_only {L : List Part} {s₀ : State} {s : State} {l : LinkId} {p : Pkt} (hL : reach [.stats, .out, .qp, .hold, .fab] L = true) (ho : Only L s₀ s) :
    Only L s₀ (State.passOn s l p) := by
  unfold State.passOn
  repeat' with_reducible first | exact ho | refine Only.ite ?_ ?_ | refine Only.dite (fun _ => ?_) (fun _ => ?_) | refine State.toFabric_only (sub_reach hL rfl) ?_ | refine State.toFabric_only_eq (by assumption) (sub_reach hL rfl) ?_ | refine State.sendTo_only (sub_reach hL rfl) ?_ | refine State.bump_only (sub_reach hL rfl) ?_ | assumption | split | (dsimp -proj only; split)

theorem State.spread_only {L : List Part} {s₀ : State} {s : State} {l : LinkId} {p : Pkt} (hL : reach [.stats, .out, .fab] L = true) (ho : Only L s₀ s) :
    Only L s₀ (State.spread s l p) := by
  unfold State.spread
  repeat' with_reducible first | exact ho | refine Only.ite ?_ ?_ | refine Only.dite (fun _ => ?_) (fun _ => ?_) | refine State.startPhases_only (sub_reach hL rfl) ?_ | refine State.sendTo_only (sub_reach hL rfl) ?_ | assumption | split | (dsimp -proj only; split)

theorem State.rxPacket_only {L : List Part} {s₀ s : State} {l : LinkId} {ptype : Nat} {b : Bytes} {deliver : State → Pkt → State}
    (hL : reach [.stats, .out, .qp, .hold, .fab] L = true) (hd : ∀ a p, Only L s₀ a → Only L s₀ (deliver a p)) (h : Only L s₀ s) :
    Only L s₀ (s.rxPacket l ptype b deliver) := by
  have h1 : ∀ f, Only L s₀ (s.modLink l f) := fun f => State.modLink_only (sub_reach hL rfl) h
  unfold State.rxPacket
  refine Only.ite h (Only.ite (State.bump_only (sub_reach hL rfl) h) ?_)
  dsimp only
  split
  · exact State.bump_only (sub_reach hL rfl) (h1 _)
  · refine Only.ite (State.bump_only (sub_reach hL rfl) (h1 _)) (Only.ite (State.passOn_only (sub_reach hL rfl) (h1 _)) (Only.ite ?_ (hd _ _ (h1 _))))
    exact State.spread_only (sub_reach hL rfl) (hd _ _ (h1 _))

theorem State.advertise_only {L : List Part} {s₀ : State} {s : State} {ids : List (BitVec 64 × BitVec 32)} (hL : reach [.stats, .out, .fab] L = true) (ho : Only L s₀ s) :
    Only L s₀ (State.advertise s ids) := by
  unfold State.advertise
  repeat' with_reducible first | exact ho | refine Only.ite ?_ ?_ | refine Only.dite (fun _ => ?_) (fun _ => ?_) | refine State.broadcast_only (sub_reach hL rfl) ?_ | refine State.forAll_only (fun _ _ _ => ?_) ?_ | assumption | split | (dsimp -proj only; split)

theorem fabricJoinEff_only {L : List Part} {s₀ : State} {r : Req} {s : State} (hL : reach [.stats, .out, .entropyCtr, .host, .fab] L = true) (ho : Only L s₀ s) :
    OnlyEff L s₀ (fabricJoinEff r s) := by
  unfold fabricJoinEff
  repeat' with_reducible first | refine OnlyEff.done ?_ | refine OnlyEff.run ?_ | refine OnlyEff.ite ?_ ?_ | refine OnlyEff.dite (fun _ => ?_) (fun _ => ?_) | exact ho | refine Only.ite ?_ ?_ | refine Only.dite (fun _ => ?_) (fun _ => ?_) | refine State.startJoin_only (sub_reach hL rfl) ?_ | assumption | split | (dsimp -proj only; split)

theorem State.fabricOff_only {L : List Part} {s₀ : State} {s : State} (hL : reach [.stats, .out, .host, .live, .fab] L = true) (ho : Only L s₀ s) :
    Only L s₀ (State.fabricOff s) := by
  unfold State.fabricOff
  repeat' with_reducible first | exact ho | refine Only.ite ?_ ?_ | refine Only.dite (fun _ => ?_) (fun _ => ?_) | refine State.linkDown_only (sub_reach hL rfl) ?_ | refine State.epochUpdate_only (sub_reach hL rfl) ?_ | refine State.forAll_only (fun _ _ _ => ?_) ?_ | assumption | split | (dsimp -proj only; split) | refine only_set_fab (sub_reach hL rfl) ?_

theorem State.joinFails_only {L : List Part} {s₀ : State} {s : State} {st : Status} (hL : reach [.stats, .out, .host, .qp, .mgmt, .boot, .live, .fab] L = true) (ho : Only L s₀ s) :
    Only L s₀ (State.joinFails s st) := by
  unfold State.joinFails
  repeat' with_reducible first | exact ho | refine Only.ite ?_ ?_ | refine Only.dite (fun _ => ?_) (fun _ => ?_) | refine State.fabricOff_only (sub_reach hL rfl) ?_ | refine State.completeRun_only (sub_reach hL rfl) ?_ | assumption | split | (dsimp -proj only; split)

theorem State.joinDone_only {L : List Part} {s₀ : State} {s : State} (hL : reach [.stats, .out, .host, .qp, .mgmt, .boot, .live, .fab] L = true) (ho : Only L s₀ s) :
    Only L s₀ (State.joinDone s) := by
  unfold State.joinDone
  repeat' with_reducible first | exact ho | refine Only.ite ?_ ?_ | refine Only.dite (fun _ => ?_) (fun _ => ?_) | refine State.joinFails_only (sub_reach hL rfl) ?_ | refine State.advertise_only (sub_reach hL rfl) ?_ | refine State.epochUpdate_only (sub_reach hL rfl) ?_ | refine State.completeRun_only (sub_reach hL rfl) ?_ | refine State.dirty_only (sub_reach hL rfl) ?_ | assumption | split | (dsimp -proj only; split) | refine only_set_fab (sub_reach hL rfl) ?_

theorem fabricLeaveEff_only {L : List Part} {s₀ : State} {r : Req} {s : State} (hL : reach [.stats, .out, .fab] L = true) (ho : Only L s₀ s) :
    OnlyEff L s₀ (fabricLeaveEff r s) := by
  unfold fabricLeaveEff
  repeat' with_reducible first | refine OnlyEff.done ?_ | refine OnlyEff.run ?_ | refine OnlyEff.ite ?_ ?_ | refine OnlyEff.dite (fun _ => ?_) (fun _ => ?_) | exact ho | refine Only.ite ?_ ?_ | refine Only.dite (fun _ => ?_) (fun _ => ?_) | refine State.broadcast_only (sub_reach hL rfl) ?_ | assumption | split | (dsimp -proj only; split) | refine only_set_fab (sub_reach hL rfl) ?_

theorem State.frameHere_only {L : List Part} {s₀ : State} {s : State} {l : LinkId} {p : Pkt} (hL : reach [.stats, .evTimes, .out, .host, .qp, .hold, .fab] L = true) (ho : Only L s₀ s) :
    Only L s₀ (State.frameHere s l p) := by
  unfold State.frameHere
  repeat' with_reducible first | exact ho | refine Only.ite ?_ ?_ | refine Only.dite (fun _ => ?_) (fun _ => ?_) | refine State.resolve_only (sub_reach hL rfl) ?_ | refine State.resolve_only_eq (by assumption) (sub_reach hL rfl) ?_ | refine State.toCtx_only (sub_reach hL rfl) ?_ | refine State.toCtx_only_eq (by assumption) (sub_reach hL rfl) ?_ | refine State.toHost_only (sub_reach hL rfl) ?_ | refine State.toHost_only_eq (by assumption) (sub_reach hL rfl) ?_ | refine State.takeIn_only (sub_reach hL rfl) ?_ | refine State.takeIn_only_eq (by assumption) (sub_reach hL rfl) ?_ | refine State.bump_only (sub_reach hL rfl) ?_ | assumption | split | (dsimp -proj only; split)

theorem State.takeLinkstate_only {L : List Part} {s₀ : State} {s : State} {p : Pkt} (hL : reach [.stats, .hold, .fab] L = true) (ho : Only L s₀ s) :
    Only L s₀ (State.takeLinkstate s p) := by
  unfold State.takeLinkstate
  repeat' with_reducible first | exact ho | refine Only.ite ?_ ?_ | refine Only.dite (fun _ => ?_) (fun _ => ?_) | refine State.reroute_only (sub_reach hL rfl) ?_ | assumption | split | (dsimp -proj only; split) | refine only_set_fab (sub_reach hL rfl) ?_

theorem State.putMember_only {L : List Part} {s₀ : State} {s : State} {m : Member} (hL : reach [.live, .fab] L = true) (ho : Only L s₀ s) :
    Only L s₀ (State.putMember s m) := by
  unfold State.putMember
  repeat' with_reducible first | exact ho | refine Only.ite ?_ ?_ | refine Only.dite (fun _ => ?_) (fun _ => ?_) | refine State.epochUpdate_only (sub_reach hL rfl) ?_ | assumption | split | (dsimp -proj only; split) | refine only_set_fab (sub_reach hL rfl) ?_

theorem State.dropMember_only {L : List Part} {s₀ : State} {s : State} {a : BitVec 9} (hL : reach [.stats, .live, .hold, .fab] L = true) (ho : Only L s₀ s) :
    Only L s₀ (State.dropMember s a) := by
  unfold State.dropMember
  repeat' with_reducible first | exact ho | refine Only.ite ?_ ?_ | refine Only.dite (fun _ => ?_) (fun _ => ?_) | refine State.reroute_only (sub_reach hL rfl) ?_ | refine State.epochUpdate_only (sub_reach hL rfl) ?_ | assumption | split | (dsimp -proj only; split) | refine only_set_fab (sub_reach hL rfl) ?_

theorem State.closeFabric_only {L : List Part} {s₀ : State} {s : State} {a : BitVec 9} (hL : reach [.mgmt, .boot] L = true) (ho : Only L s₀ s) :
    Only L s₀ (State.closeFabric s a) := by
  unfold State.closeFabric
  repeat' with_reducible first | exact ho | refine Only.ite ?_ ?_ | refine Only.dite (fun _ => ?_) (fun _ => ?_) | refine State.closeWhere_only (sub_reach hL rfl) ?_ | assumption | split | (dsimp -proj only; split)

theorem State.takeMember_only {L : List Part} {s₀ : State} {s : State} {p : Pkt} (hL : reach [.stats, .out, .host, .qp, .mgmt, .boot, .live, .hold, .fab] L = true) (ho : Only L s₀ s) :
    Only L s₀ (State.takeMember s p) := by
  unfold State.takeMember
  repeat' with_reducible first | exact ho | refine Only.ite ?_ ?_ | refine Only.dite (fun _ => ?_) (fun _ => ?_) | refine State.closeFabric_only (sub_reach hL rfl) ?_ | refine State.dropMember_only (sub_reach hL rfl) ?_ | refine State.putMember_only (sub_reach hL rfl) ?_ | refine State.joinFails_only (sub_reach hL rfl) ?_ | refine State.advertise_only (sub_reach hL rfl) ?_ | refine State.broadcast_only (sub_reach hL rfl) ?_ | refine State.dropRoute_only (sub_reach hL rfl) ?_ | refine State.forAll_only (fun _ _ _ => ?_) ?_ | assumption | split | (dsimp -proj only; split)

theorem State.askMember_only {L : List Part} {s₀ : State} {s : State} {a : BitVec 9} {msg : Bytes} (hL : reach [.stats, .out, .fab] L = true) (ho : Only L s₀ s) :
    Only L s₀ (State.askMember s a msg) := by
  unfold State.askMember
  repeat' with_reducible first | exact ho | refine Only.ite ?_ ?_ | refine Only.dite (fun _ => ?_) (fun _ => ?_) | refine State.sendTo_only (sub_reach hL rfl) ?_ | assumption | split | (dsimp -proj only; split)

theorem State.rollEnds_only {L : List Part} {s₀ : State} {s : State} {a : BitVec 9} {ok : Bool} (hL : reach [.stats, .sec] L = true) (ho : Only L s₀ s) :
    Only L s₀ (State.rollEnds s a ok) := by
  unfold State.rollEnds
  repeat' with_reducible first | exact ho | refine Only.ite ?_ ?_ | refine Only.dite (fun _ => ?_) (fun _ => ?_) | refine State.report_only (sub_reach hL rfl) ?_ | refine State.bump_only (sub_reach hL rfl) ?_ | assumption | split | (dsimp -proj only; split) | refine only_set_sec (sub_reach hL rfl) ?_

theorem State.rollResponse_only {L : List Part} {s₀ : State} {s : State} {x : MemberRoll} {b : Bytes} (hL : reach [.stats, .out, .sec, .fab] L = true) (ho : Only L s₀ s) :
    Only L s₀ (State.rollResponse s x b) := by
  unfold State.rollResponse
  repeat' with_reducible first | exact ho | refine Only.ite ?_ ?_ | refine Only.dite (fun _ => ?_) (fun _ => ?_) | refine State.rollEnds_only (sub_reach hL rfl) ?_ | refine State.askMember_only (sub_reach hL rfl) ?_ | assumption | split | (dsimp -proj only; split) | refine only_set_sec (sub_reach hL rfl) ?_

theorem State.rollMembers_only {L : List Part} {s₀ : State} {s : State} (hL : reach [.stats, .out, .entropyCtr, .sec, .fab] L = true) (ho : Only L s₀ s) :
    Only L s₀ (State.rollMembers s) := by
  unfold State.rollMembers
  repeat' with_reducible first | exact ho | refine Only.ite ?_ ?_ | refine Only.dite (fun _ => ?_) (fun _ => ?_) | refine State.askMember_only (sub_reach hL rfl) ?_ | refine State.draw_only (sub_reach hL rfl) ?_ | refine State.draw_only_eq (by assumption) (sub_reach hL rfl) ?_ | refine State.report_only (sub_reach hL rfl) ?_ | refine State.forAll_only (fun _ _ _ => ?_) ?_ | assumption | split | (dsimp -proj only; split) | refine only_set_sec (sub_reach hL rfl) ?_

theorem State.rollTimeouts_only {L : List Part} {s₀ : State} {s : State} (hL : reach [.stats, .sec] L = true) (ho : Only L s₀ s) :
    Only L s₀ (State.rollTimeouts s) := by
  unfold State.rollTimeouts
  repeat' with_reducible first | exact ho | refine Only.ite ?_ ?_ | refine Only.dite (fun _ => ?_) (fun _ => ?_) | refine State.rollEnds_only (sub_reach hL rfl) ?_ | refine State.forAll_only (fun _ _ _ => ?_) ?_ | assumption | split | (dsimp -proj only; split)

end Sys2Proof.Machine
end

