-- ==== Sys2Proof/Laws/InvFabric.lean ====
section
/-! SUPPORT. The operations of Machine/Fabric.lean keep what always holds. -/

namespace Sys2Proof.Machine
open Sys2Proof

set_option linter.all false

theorem State.epochUpdate_inv {s : State} (ho : Inv s) : Inv (State.epochUpdate s) :=
  inv_only (State.epochUpdate_only (L := [.live, .fab]) (s := s) rfl (Only.refl _ _)) rfl ho

theorem State.startJoin_inv {s : State} {addr : BitVec 9} {dims : Nat × Nat × Nat} (ho : Inv s) : Inv (State.startJoin s addr dims) := by
  unfold State.startJoin
  repeat' with_reducible first | exact ho | refine Inv.ite ?_ ?_ | refine Inv.dite (fun _ => ?_) (fun _ => ?_) | refine State.raiseLink_inv ?_ | refine State.forAll_inv (fun _ _ _ => ?_) ?_ | assumption | exact rfl | split | (dsimp -proj only; split) | refine inv_set_fab ?_

theorem State.passOn_inv {s : State} {l : LinkId} {p : Pkt} (ho : Inv s) : Inv (State.passOn s l p) := by
  unfold State.passOn
  repeat' with_reducible first | exact ho | refine Inv.ite ?_ ?_ | refine Inv.dite (fun _ => ?_) (fun _ => ?_) | refine State.toFabric_inv ?_ | refine State.toFabric_inv_eq (by assumption) ?_ | refine State.sendTo_inv ?_ | refine State.bump_inv ?_ | assumption | exact rfl | split | (dsimp -proj only; split)

theorem State.spread_inv {s : State} {l : LinkId} {p : Pkt} (ho : Inv s) : Inv (State.spread s l p) :=
  inv_only (State.spread_only (L := [.stats, .out, .fab]) (s := s) (l := l) (p := p) rfl (Only.refl _ _)) rfl ho

theorem State.rxPacket_inv {s : State} {l : LinkId} {ptype : Nat} {b : Bytes} {deliver : State → Pkt → State}
    (hd : ∀ a p, Inv a → Inv (deliver a p)) (h : Inv s) :
    Inv (s.rxPacket l ptype b deliver) := by
  have h1 : ∀ f, Inv (s.modLink l f) := fun f => State.modLink_inv h
  unfold State.rxPacket
  refine Inv.ite h (Inv.ite (State.bump_inv h) ?_)
  dsimp only
  split
  · exact State.bump_inv (h1 _)
  · refine Inv.ite (State.bump_inv (h1 _)) (Inv.ite (State.passOn_inv (h1 _)) (Inv.ite ?_ (hd _ _ (h1 _))))
    exact State.spread_inv (hd _ _ (h1 _))

theorem State.advertise_inv {s : State} {ids : List (BitVec 64 × BitVec 32)} (ho : Inv s) : Inv (State.advertise s ids) :=
  inv_only (State.advertise_only (L := [.stats, .out, .fab]) (s := s) (ids := ids) rfl (Only.refl _ _)) rfl ho

theorem fabricJoinEff_inv {r : Req} {s : State} (ho : Inv s) : InvEff (fabricJoinEff r s) := by
  unfold fabricJoinEff
  repeat' with_reducible first | refine InvEff.done ?_ | refine InvEff.run ?_ | refine InvEff.ite ?_ ?_ | refine InvEff.dite (fun _ => ?_) (fun _ => ?_) | exact ho | refine Inv.ite ?_ ?_ | refine Inv.dite (fun _ => ?_) (fun _ => ?_) | refine State.startJoin_inv ?_ | assumption | exact rfl | split | (dsimp -proj only; split)

theorem State.fabricOff_inv {s : State} (ho : Inv s) : Inv (State.fabricOff s) := by
  unfold State.fabricOff
  repeat' with_reducible first | exact ho | refine Inv.ite ?_ ?_ | refine Inv.dite (fun _ => ?_) (fun _ => ?_) | refine State.linkDown_inv ?_ | refine State.epochUpdate_inv ?_ | refine State.forAll_inv (fun _ _ _ => ?_) ?_ | assumption | exact rfl | split | (dsimp -proj only; split) | refine inv_set_fab ?_

theorem State.joinFails_inv {s : State} {st : Status} (ho : Inv s) : Inv (State.joinFails s st) := by
  unfold State.joinFails
  repeat' with_reducible first | exact ho | refine Inv.ite ?_ ?_ | refine Inv.dite (fun _ => ?_) (fun _ => ?_) | refine State.fabricOff_inv ?_ | refine State.completeRun_inv ?_ | assumption | exact rfl | split | (dsimp -proj only; split)

theorem State.joinDone_inv {s : State} (ho : Inv s) : Inv (State.joinDone s) := by
  unfold State.joinDone
  repeat' with_reducible first | exact ho | refine Inv.ite ?_ ?_ | refine Inv.dite (fun _ => ?_) (fun _ => ?_) | refine State.joinFails_inv ?_ | refine State.advertise_inv ?_ | refine State.epochUpdate_inv ?_ | refine State.completeRun_inv ?_ | refine State.dirty_inv ?_ | assumption | exact rfl | split | (dsimp -proj only; split) | refine inv_set_fab ?_

theorem fabricLeaveEff_inv {r : Req} {s : State} (ho : Inv s) : InvEff (fabricLeaveEff r s) :=
  inv_only (fabricLeaveEff_only (L := [.stats, .out, .fab]) (r := r) (s := s) rfl (Only.refl _ _)) rfl ho

theorem State.frameHere_inv {s : State} {l : LinkId} {p : Pkt} (ho : Inv s) : Inv (State.frameHere s l p) := by
  unfold State.frameHere
  repeat' with_reducible first | exact ho | refine Inv.ite ?_ ?_ | refine Inv.dite (fun _ => ?_) (fun _ => ?_) | refine State.resolve_inv ?_ | refine State.resolve_inv_eq (by assumption) ?_ | refine State.toCtx_inv ?_ | refine State.toCtx_inv_eq (by assumption) ?_ | refine State.toHost_inv ?_ | refine State.toHost_inv_eq (by assumption) ?_ | refine State.takeIn_inv ?_ | refine State.takeIn_inv_eq (by assumption) ?_ | refine State.bump_inv ?_ | assumption | exact rfl | split | (dsimp -proj only; split)

theorem State.takeLinkstate_inv {s : State} {p : Pkt} (ho : Inv s) : Inv (State.takeLinkstate s p) := by
  unfold State.takeLinkstate
  repeat' with_reducible first | exact ho | refine Inv.ite ?_ ?_ | refine Inv.dite (fun _ => ?_) (fun _ => ?_) | refine State.reroute_inv ?_ | assumption | exact rfl | split | (dsimp -proj only; split) | refine inv_set_fab ?_

theorem State.putMember_inv {s : State} {m : Member} (ho : Inv s) : Inv (State.putMember s m) :=
  inv_only (State.putMember_only (L := [.live, .fab]) (s := s) (m := m) rfl (Only.refl _ _)) rfl ho

theorem State.dropMember_inv {s : State} {a : BitVec 9} (ho : Inv s) : Inv (State.dropMember s a) := by
  unfold State.dropMember
  repeat' with_reducible first | exact ho | refine Inv.ite ?_ ?_ | refine Inv.dite (fun _ => ?_) (fun _ => ?_) | refine State.reroute_inv ?_ | refine State.epochUpdate_inv ?_ | assumption | exact rfl | split | (dsimp -proj only; split) | refine inv_set_fab ?_

theorem State.closeFabric_inv {s : State} {a : BitVec 9} (ho : Inv s) : Inv (State.closeFabric s a) :=
  inv_only (State.closeFabric_only (L := [.mgmt, .boot]) (s := s) (a := a) rfl (Only.refl _ _)) rfl ho

theorem State.takeMember_inv {s : State} {p : Pkt} (ho : Inv s) : Inv (State.takeMember s p) := by
  unfold State.takeMember
  repeat' with_reducible first | exact ho | refine Inv.ite ?_ ?_ | refine Inv.dite (fun _ => ?_) (fun _ => ?_) | refine State.closeFabric_inv ?_ | refine State.dropMember_inv ?_ | refine State.putMember_inv ?_ | refine State.joinFails_inv ?_ | refine State.advertise_inv ?_ | refine State.broadcast_inv ?_ | refine State.dropRoute_inv ?_ | refine State.forAll_inv (fun _ _ _ => ?_) ?_ | assumption | exact rfl | split | (dsimp -proj only; split)

theorem State.rollResponse_inv {s : State} {x : MemberRoll} {b : Bytes} (ho : Inv s) : Inv (State.rollResponse s x b) :=
  inv_only (State.rollResponse_only (L := [.stats, .out, .sec, .fab]) (s := s) (x := x) (b := b) rfl (Only.refl _ _)) rfl ho

theorem State.rollTimeouts_inv {s : State} (ho : Inv s) : Inv (State.rollTimeouts s) :=
  inv_only (State.rollTimeouts_only (L := [.stats, .sec]) (s := s) rfl (Only.refl _ _)) rfl ho

end Sys2Proof.Machine
end

