-- ==== Sys2Proof/Laws/OnlyEth.lean ====
section
/-! SUPPORT. The parts of the state that each operation of Machine/Eth.lean reaches. -/

namespace Sys2Proof.Machine
open Sys2Proof

set_option linter.all false

theorem State.startPort_only {L : List Part} {s₀ : State} {s : State} {p : EthId} (hL : reach [.fields, .pend, .eth] L = true) (ho : Only L s₀ s) :
    Only L s₀ (State.startPort s p) := by
  unfold State.startPort
  repeat' with_reducible first | exact ho | refine Only.ite ?_ ?_ | refine Only.dite (fun _ => ?_) (fun _ => ?_) | refine State.releaseAt_only (sub_reach hL rfl) ?_ | refine State.modEth_only (sub_reach hL rfl) ?_ | assumption | split | (dsimp -proj only; split)

theorem State.ethEvent_only {L : List Part} {s₀ : State} {s : State} {p : EthId} {up : Bool} (hL : reach [.stats, .out, .host, .fab] L = true) (ho : Only L s₀ s) :
    Only L s₀ (State.ethEvent s p up) := by
  unfold State.ethEvent
  repeat' with_reducible first | exact ho | refine Only.ite ?_ ?_ | refine Only.dite (fun _ => ?_) (fun _ => ?_) | refine State.raise_only (sub_reach hL rfl) ?_ | assumption | split | (dsimp -proj only; split)

theorem State.portLeavesUp_only {L : List Part} {s₀ : State} {s : State} {p : EthId} (hL : reach [.stats, .out, .host, .eth, .fab] L = true) (ho : Only L s₀ s) :
    Only L s₀ (State.portLeavesUp s p) := by
  unfold State.portLeavesUp
  repeat' with_reducible first | exact ho | refine Only.ite ?_ ?_ | refine Only.dite (fun _ => ?_) (fun _ => ?_) | refine State.ethEvent_only (sub_reach hL rfl) ?_ | refine State.modEth_only (sub_reach hL rfl) ?_ | refine State.stick_only (sub_reach hL rfl) ?_ | assumption | split | (dsimp -proj only; split)

theorem State.portDown_only {L : List Part} {s₀ : State} {s : State} {p : EthId} (hL : reach [.stats, .out, .host, .eth, .fab] L = true) (ho : Only L s₀ s) :
    Only L s₀ (State.portDown s p) := by
  unfold State.portDown
  repeat' with_reducible first | exact ho | refine Only.ite ?_ ?_ | refine Only.dite (fun _ => ?_) (fun _ => ?_) | refine State.portLeavesUp_only (sub_reach hL rfl) ?_ | refine State.modEth_only (sub_reach hL rfl) ?_ | assumption | split | (dsimp -proj only; split)

theorem State.backhaul_only {L : List Part} {s₀ : State} {s : State} {p : EthId} {b : Bytes} (hL : reach [.stats, .evTimes, .out, .host, .qp, .hold, .fab] L = true) (ho : Only L s₀ s) :
    Only L s₀ (State.backhaul s p b) := by
  unfold State.backhaul
  repeat' with_reducible first | exact ho | refine Only.ite ?_ ?_ | refine Only.dite (fun _ => ?_) (fun _ => ?_) | refine State.resolve_only (sub_reach hL rfl) ?_ | refine State.resolve_only_eq (by assumption) (sub_reach hL rfl) ?_ | refine State.toBroadcast_only (sub_reach hL rfl) ?_ | refine State.toBroadcast_only_eq (by assumption) (sub_reach hL rfl) ?_ | refine State.toCtx_only (sub_reach hL rfl) ?_ | refine State.toCtx_only_eq (by assumption) (sub_reach hL rfl) ?_ | assumption | split | (dsimp -proj only; split)

theorem State.ethIngress_only {L : List Part} {s₀ : State} {s : State} {p : EthId} {b : Bytes} (hL : reach [.stats, .evTimes, .out, .host, .qp, .hold, .fab] L = true) (ho : Only L s₀ s) :
    Only L s₀ (State.ethIngress s p b) := by
  unfold State.ethIngress
  repeat' with_reducible first | exact ho | refine Only.ite ?_ ?_ | refine Only.dite (fun _ => ?_) (fun _ => ?_) | refine State.backhaul_only (sub_reach hL rfl) ?_ | refine State.toHost_only (sub_reach hL rfl) ?_ | refine State.toHost_only_eq (by assumption) (sub_reach hL rfl) ?_ | refine State.bump_only (sub_reach hL rfl) ?_ | assumption | split | (dsimp -proj only; split)

theorem State.ethSend_only {L : List Part} {s₀ : State} {s : State} {p : EthId} (hL : reach [.stats, .evTimes, .out, .host, .hold, .fab] L = true) (ho : Only L s₀ s) :
    Only L s₀ (State.ethSend s p) := by
  unfold State.ethSend
  repeat' with_reducible first | exact ho | refine Only.ite ?_ ?_ | refine Only.dite (fun _ => ?_) (fun _ => ?_) | refine State.readFrame_only (sub_reach hL rfl) ?_ | refine State.readFrame_only_eq (by assumption) (sub_reach hL rfl) ?_ | refine State.dropFrames_only (sub_reach hL rfl) ?_ | refine State.emit_only (sub_reach hL rfl) ?_ | refine State.bump_only (sub_reach hL rfl) ?_ | assumption | split | (dsimp -proj only; split)

theorem State.linkSend_only {L : List Part} {s₀ : State} {s : State} {l : LinkId} (hL : reach [.stats, .evTimes, .out, .host, .hold, .fab] L = true) (ho : Only L s₀ s) :
    Only L s₀ (State.linkSend s l) := by
  unfold State.linkSend
  repeat' with_reducible first | exact ho | refine Only.ite ?_ ?_ | refine Only.dite (fun _ => ?_) (fun _ => ?_) | refine State.flushLink_only (sub_reach hL rfl) ?_ | refine State.readFrame_only (sub_reach hL rfl) ?_ | refine State.readFrame_only_eq (by assumption) (sub_reach hL rfl) ?_ | refine State.dropFrames_only (sub_reach hL rfl) ?_ | refine State.putPkt_only (sub_reach hL rfl) ?_ | refine State.modLink_only (sub_reach hL rfl) ?_ | assumption | split | (dsimp -proj only; split)

end Sys2Proof.Machine
end

