-- ==== Sys2Proof/Laws/InvEth.lean ====
section
/-! SUPPORT. The operations of Machine/Eth.lean keep what always holds. -/

namespace Sys2Proof.Machine
open Sys2Proof

set_option linter.all false

theorem State.startPort_inv {s : State} {p : EthId} (ho : Inv s) : Inv (State.startPort s p) :=
  inv_only (State.startPort_only (L := [.fields, .pend, .eth]) (s := s) (p := p) rfl (Only.refl _ _)) rfl ho

theorem State.ethEvent_inv {s : State} {p : EthId} {up : Bool} (ho : Inv s) : Inv (State.ethEvent s p up) := by
  unfold State.ethEvent
  repeat' with_reducible first | exact ho | refine Inv.ite ?_ ?_ | refine Inv.dite (fun _ => ?_) (fun _ => ?_) | refine State.raise_inv ?_ | assumption | exact rfl | split | (dsimp -proj only; split)

theorem State.portLeavesUp_inv {s : State} {p : EthId} (ho : Inv s) : Inv (State.portLeavesUp s p) := by
  unfold State.portLeavesUp
  repeat' with_reducible first | exact ho | refine Inv.ite ?_ ?_ | refine Inv.dite (fun _ => ?_) (fun _ => ?_) | refine State.ethEvent_inv ?_ | refine State.modEth_inv ?_ | refine State.stick_inv ?_ | assumption | exact rfl | split | (dsimp -proj only; split)

theorem State.portDown_inv {s : State} {p : EthId} (ho : Inv s) : Inv (State.portDown s p) := by
  unfold State.portDown
  repeat' with_reducible first | exact ho | refine Inv.ite ?_ ?_ | refine Inv.dite (fun _ => ?_) (fun _ => ?_) | refine State.portLeavesUp_inv ?_ | refine State.modEth_inv ?_ | assumption | exact rfl | split | (dsimp -proj only; split)

theorem State.backhaul_inv {s : State} {p : EthId} {b : Bytes} (ho : Inv s) : Inv (State.backhaul s p b) := by
  unfold State.backhaul
  repeat' with_reducible first | exact ho | refine Inv.ite ?_ ?_ | refine Inv.dite (fun _ => ?_) (fun _ => ?_) | refine State.resolve_inv ?_ | refine State.resolve_inv_eq (by assumption) ?_ | refine State.toBroadcast_inv ?_ | refine State.toBroadcast_inv_eq (by assumption) ?_ | refine State.toCtx_inv ?_ | refine State.toCtx_inv_eq (by assumption) ?_ | assumption | exact rfl | split | (dsimp -proj only; split)

theorem State.ethIngress_inv {s : State} {p : EthId} {b : Bytes} (ho : Inv s) : Inv (State.ethIngress s p b) := by
  unfold State.ethIngress
  repeat' with_reducible first | exact ho | refine Inv.ite ?_ ?_ | refine Inv.dite (fun _ => ?_) (fun _ => ?_) | refine State.backhaul_inv ?_ | refine State.toHost_inv ?_ | refine State.toHost_inv_eq (by assumption) ?_ | refine State.bump_inv ?_ | assumption | exact rfl | split | (dsimp -proj only; split)

theorem State.ethSend_inv {s : State} {p : EthId} (ho : Inv s) : Inv (State.ethSend s p) := by
  unfold State.ethSend
  repeat' with_reducible first | exact ho | refine Inv.ite ?_ ?_ | refine Inv.dite (fun _ => ?_) (fun _ => ?_) | refine State.readFrame_inv ?_ | refine State.readFrame_inv_eq (by assumption) ?_ | refine State.dropFrames_inv ?_ | refine State.emit_inv ?_ | refine State.bump_inv ?_ | assumption | exact rfl | split | (dsimp -proj only; split)

theorem State.linkSend_inv {s : State} {l : LinkId} (ho : Inv s) : Inv (State.linkSend s l) := by
  unfold State.linkSend
  repeat' with_reducible first | exact ho | refine Inv.ite ?_ ?_ | refine Inv.dite (fun _ => ?_) (fun _ => ?_) | refine State.flushLink_inv ?_ | refine State.readFrame_inv ?_ | refine State.readFrame_inv_eq (by assumption) ?_ | refine State.dropFrames_inv ?_ | refine State.putPkt_inv ?_ | refine State.modLink_inv ?_ | assumption | exact rfl | split | (dsimp -proj only; split)

end Sys2Proof.Machine
end

