-- ==== Sys2Proof/Laws/OnlyContext.lean ====
section
/-! SUPPORT. The parts of the state that each operation of Machine/Context.lean reaches. -/

namespace Sys2Proof.Machine
open Sys2Proof

set_option linter.all false

theorem State.ctxTo_only {L : List Part} {s₀ : State} {s : State} {id : Nat} {st : CtxSt} (hL : reach [.mgmt, .ctxs] L = true) (ho : Only L s₀ s) :
    Only L s₀ (State.ctxTo s id st) := by
  unfold State.ctxTo
  repeat' with_reducible first | exact ho | refine Only.ite ?_ ?_ | refine Only.dite (fun _ => ?_) (fun _ => ?_) | refine State.setCtx_only (sub_reach hL rfl) ?_ | refine State.objTouch_only (sub_reach hL rfl) ?_ | assumption | split | (dsimp -proj only; split)

theorem State.freeCtx_only {L : List Part} {s₀ : State} {s : State} {c : Ctx} (hL : reach [.mgmt, .line, .ctxs, .hold] L = true) (ho : Only L s₀ s) :
    Only L s₀ (State.freeCtx s c) := by
  unfold State.freeCtx
  repeat' with_reducible first | exact ho | refine Only.ite ?_ ?_ | refine Only.dite (fun _ => ?_) (fun _ => ?_) | refine State.routeLeave_only (sub_reach hL rfl) ?_ | refine State.dropFrames_only (sub_reach hL rfl) ?_ | refine State.modLine_only (sub_reach hL rfl) ?_ | refine State.objTouch_only (sub_reach hL rfl) ?_ | assumption | split | (dsimp -proj only; split) | refine only_set_ctxs_hold (sub_reach hL rfl) ?_

theorem State.askOwners_only {L : List Part} {s₀ : State} {s : State} {eui : BitVec 64} {b : Berth} (hL : reach [.stats, .out, .freeCtr, .owns, .fab] L = true) (ho : Only L s₀ s) :
    Only L s₀ (State.askOwners s eui b) := by
  unfold State.askOwners
  repeat' with_reducible first | exact ho | refine Only.ite ?_ ?_ | refine Only.dite (fun _ => ?_) (fun _ => ?_) | refine State.broadcast_only (sub_reach hL rfl) ?_ | refine State.free_only (sub_reach hL rfl) ?_ | refine State.free_only_eq (by assumption) (sub_reach hL rfl) ?_ | assumption | split | (dsimp -proj only; split) | refine only_set_owns (sub_reach hL rfl) ?_

theorem State.loseTo_only {L : List Part} {s₀ : State} {s : State} {eui : BitVec 64} {addr : Nat} (hL : reach [.stats, .evTimes, .out, .host, .qp, .mgmt, .line, .ctxs, .owns, .hold, .fab] L = true) (ho : Only L s₀ s) :
    Only L s₀ (State.loseTo s eui addr) := by
  unfold State.loseTo
  repeat' with_reducible first | exact ho | refine Only.ite ?_ ?_ | refine Only.dite (fun _ => ?_) (fun _ => ?_) | refine State.handOver_only (sub_reach hL rfl) ?_ | refine State.freeCtx_only (sub_reach hL rfl) ?_ | refine State.putRoute_only (sub_reach hL rfl) ?_ | refine State.ctxTo_only (sub_reach hL rfl) ?_ | refine State.modCtx_only (sub_reach hL rfl) ?_ | refine State.modLine_only (sub_reach hL rfl) ?_ | refine State.forAll_only (fun _ _ _ => ?_) ?_ | assumption | split | (dsimp -proj only; split) | refine only_set_owns (sub_reach hL rfl) ?_

theorem State.takeAdvert_only {L : List Part} {s₀ : State} {s : State} {eui : BitVec 64} {e : BitVec 32} {addr : Nat} (hL : reach [.stats, .evTimes, .out, .host, .qp, .mgmt, .line, .ctxs, .owns, .hold, .fab] L = true) (ho : Only L s₀ s) :
    Only L s₀ (State.takeAdvert s eui e addr) := by
  unfold State.takeAdvert
  repeat' with_reducible first | exact ho | refine Only.ite ?_ ?_ | refine Only.dite (fun _ => ?_) (fun _ => ?_) | refine State.routeLearn_only (sub_reach hL rfl) ?_ | refine State.loseTo_only (sub_reach hL rfl) ?_ | refine State.raise_only (sub_reach hL rfl) ?_ | assumption | split | (dsimp -proj only; split)

end Sys2Proof.Machine
end

