-- ==== Sys2Proof/Laws/InvContext.lean ====
section
/-! SUPPORT. The operations of Machine/Context.lean keep what always holds. -/

namespace Sys2Proof.Machine
open Sys2Proof

set_option linter.all false

theorem State.ctxTo_inv {s : State} {id : Nat} {st : CtxSt} (ho : Inv s) : Inv (State.ctxTo s id st) :=
  inv_only (State.ctxTo_only (L := [.mgmt, .ctxs]) (s := s) (id := id) (st := st) rfl (Only.refl _ _)) rfl ho

theorem State.freeCtx_inv {s : State} {c : Ctx} (ho : Inv s) : Inv (State.freeCtx s c) := by
  unfold State.freeCtx
  repeat' with_reducible first | exact ho | refine Inv.ite ?_ ?_ | refine Inv.dite (fun _ => ?_) (fun _ => ?_) | refine State.routeLeave_inv ?_ | refine State.dropFrames_inv ?_ | refine State.modLine_inv ?_ | refine State.objTouch_inv ?_ | assumption | exact rfl | split | (dsimp -proj only; split) | refine inv_set_ctxs_hold ?_ ?_

theorem State.askOwners_inv {s : State} {eui : BitVec 64} {b : Berth} (ho : Inv s) : Inv (State.askOwners s eui b) :=
  inv_only (State.askOwners_only (L := [.stats, .out, .freeCtr, .owns, .fab]) (s := s) (eui := eui) (b := b) rfl (Only.refl _ _)) rfl ho

theorem State.loseTo_inv {s : State} {eui : BitVec 64} {addr : Nat} (ho : Inv s) : Inv (State.loseTo s eui addr) := by
  unfold State.loseTo
  repeat' with_reducible first | exact ho | refine Inv.ite ?_ ?_ | refine Inv.dite (fun _ => ?_) (fun _ => ?_) | refine State.handOver_inv ?_ | refine State.freeCtx_inv ?_ | refine State.putRoute_inv ?_ | refine State.ctxTo_inv ?_ | refine State.modCtx_inv ?_ | refine State.modLine_inv ?_ | refine State.forAll_inv (fun _ _ _ => ?_) ?_ | assumption | exact rfl | split | (dsimp -proj only; split) | refine inv_set_owns ?_

theorem State.takeAdvert_inv {s : State} {eui : BitVec 64} {e : BitVec 32} {addr : Nat} (ho : Inv s) : Inv (State.takeAdvert s eui e addr) := by
  unfold State.takeAdvert
  repeat' with_reducible first | exact ho | refine Inv.ite ?_ ?_ | refine Inv.dite (fun _ => ?_) (fun _ => ?_) | refine State.routeLearn_inv ?_ | refine State.loseTo_inv ?_ | refine State.raise_inv ?_ | assumption | exact rfl | split | (dsimp -proj only; split)

end Sys2Proof.Machine
end

