-- ==== Sys2Proof/Laws/OnlyLine.lean ====
section
/-! SUPPORT. The parts of the state that each operation of Machine/Line.lean reaches. -/

namespace Sys2Proof.Machine
open Sys2Proof

set_option linter.all false

theorem State.sendFrame_only {L : List Part} {s₀ : State} {s : State} {b : Berth} {f : FrameCtl} {nSym : Nat} {payload : Bytes} {ref : Option Nat} (hL : reach [.out, .berth] L = true) (ho : Only L s₀ s) :
    Only L s₀ (State.sendFrame s b f nSym payload ref) := by
  unfold State.sendFrame
  repeat' with_reducible first | exact ho | refine Only.ite ?_ ?_ | refine Only.dite (fun _ => ?_) (fun _ => ?_) | refine State.emit_only (sub_reach hL rfl) ?_ | refine State.modBerth_only (sub_reach hL rfl) ?_ | assumption | split | (dsimp -proj only; split)

theorem State.sendShort_only {L : List Part} {s₀ : State} {s : State} {b : Berth} {f : FrameCtl} {payload : Bytes} (hL : reach [.out, .berth] L = true) (ho : Only L s₀ s) :
    Only L s₀ (State.sendShort s b f payload) := by
  unfold State.sendShort
  repeat' with_reducible first | exact ho | refine Only.ite ?_ ?_ | refine Only.dite (fun _ => ?_) (fun _ => ?_) | refine State.sendFrame_only (sub_reach hL rfl) ?_ | assumption | split | (dsimp -proj only; split)

theorem State.sendSealed_only {L : List Part} {s₀ : State} {s : State} {b : Berth} {f : FrameCtl} {key : Bytes} {plain : Bytes} (hL : reach [.out, .berth] L = true) (ho : Only L s₀ s) :
    Only L s₀ (State.sendSealed s b f key plain) := by
  unfold State.sendSealed
  repeat' with_reducible first | exact ho | refine Only.ite ?_ ?_ | refine Only.dite (fun _ => ?_) (fun _ => ?_) | refine State.sendShort_only (sub_reach hL rfl) ?_ | assumption | split | (dsimp -proj only; split)

theorem State.msgFc_only {L : List Part} {s₀ s : State} {b : Berth} {ctx ftype : Nat} {fc : FrameCtl} {k : Bytes} {s₁ : State}
    (he : s.msgFc b ctx ftype = some (fc, k, s₁)) (hL : reach [.line, .ctxs] L = true) (h : Only L s₀ s) : Only L s₀ s₁ := by
  unfold State.msgFc at he
  dsimp only at he
  split at he
  · obtain ⟨_, _, hx⟩ := Option.map_eq_some_iff.mp he
    cases hx
    exact State.modLine_only (sub_reach hL rfl) h
  · split at he
    · split at he
      · obtain ⟨_, _, hx⟩ := Option.map_eq_some_iff.mp he
        cases hx
        exact State.modCtx_only (sub_reach hL rfl) h
      · cases he
    · cases he

theorem State.sendAck_only {L : List Part} {s₀ : State} {s : State} {b : Berth} {side : Bool} {station : Nat} {gi : Nat} (hL : reach [.out, .berth, .line, .ctxs] L = true) (ho : Only L s₀ s) :
    Only L s₀ (State.sendAck s b side station gi) := by
  unfold State.sendAck
  repeat' with_reducible first | exact ho | refine Only.ite ?_ ?_ | refine Only.dite (fun _ => ?_) (fun _ => ?_) | refine State.msgFc_only (by assumption) (sub_reach hL rfl) ?_ | refine State.sendSealed_only (sub_reach hL rfl) ?_ | refine State.modLine_only (sub_reach hL rfl) ?_ | assumption | split | (dsimp -proj only; split)

theorem State.nonce16_only {L : List Part} {s₀ : State} {s : State} (hL : reach [.entropyCtr] L = true) (ho : Only L s₀ s) :
    Only L s₀ (State.nonce16 s).2 := by
  unfold State.nonce16
  repeat' with_reducible first | exact ho | refine Only.ite ?_ ?_ | refine Only.dite (fun _ => ?_) (fun _ => ?_) | refine State.draw_only (sub_reach hL rfl) ?_ | refine State.draw_only_eq (by assumption) (sub_reach hL rfl) ?_ | assumption | split | (dsimp -proj only; split)
theorem State.nonce16_only_eq {L : List Part} {s₀ : State} {s : State} {s₁ : State} {xv : _} (he : State.nonce16 s = (xv, s₁)) (hL : reach [.entropyCtr] L = true) (ho : Only L s₀ s) :
    Only L s₀ s₁ := by
  have := State.nonce16_only (s := s) hL ho
  rwa [he] at this

theorem State.queueMsg_only {L : List Part} {s₀ : State} {s : State} {b : Berth} {ctx : Nat} {plain : Bytes} (hL : reach [.line] L = true) (ho : Only L s₀ s) :
    Only L s₀ (State.queueMsg s b ctx plain) := by
  unfold State.queueMsg
  repeat' with_reducible first | exact ho | refine Only.ite ?_ ?_ | refine Only.dite (fun _ => ?_) (fun _ => ?_) | refine State.modLine_only (sub_reach hL rfl) ?_ | assumption | split | (dsimp -proj only; split)

theorem State.lineMode_only {L : List Part} {s₀ : State} {s : State} {b : Berth} {side : Bool} {station : Nat} (hL : reach [.freeCtr] L = true) (ho : Only L s₀ s) :
    Only L s₀ (State.lineMode s b side station).2 := by
  unfold State.lineMode
  repeat' with_reducible first | exact ho | refine Only.ite ?_ ?_ | refine Only.dite (fun _ => ?_) (fun _ => ?_) | refine State.free_only (sub_reach hL rfl) ?_ | refine State.free_only_eq (by assumption) (sub_reach hL rfl) ?_ | assumption | split | (dsimp -proj only; split)
theorem State.lineMode_only_eq {L : List Part} {s₀ : State} {s : State} {b : Berth} {side : Bool} {station : Nat} {s₁ : State} {xv : _} (he : State.lineMode s b side station = (xv, s₁)) (hL : reach [.freeCtr] L = true) (ho : Only L s₀ s) :
    Only L s₀ s₁ := by
  have := State.lineMode_only (s := s) (b := b) (side := side) (station := station) hL ho
  rwa [he] at this

theorem State.hopKey_only {L : List Part} {s₀ s : State} {b : Berth} {h : HopPlan} {f : Frame} {x : Bytes × Nat × BitVec 16 × Nat × State}
    (he : s.hopKey b h f = some x) (hL : reach [.line, .ctxs, .mesh] L = true) (hs : Only L s₀ s) : Only L s₀ x.2.2.2.2 := by
  unfold State.hopKey at he
  dsimp only at he
  repeat' split at he
  all_goals first
    | cases he; done
    | (obtain ⟨_, _, hx⟩ := Option.map_eq_some_iff.mp he; cases hx
       first
         | exact State.modLine_only (sub_reach hL rfl) hs
         | exact State.modMesh_only (sub_reach hL rfl) hs
         | exact State.modCtx_only (sub_reach hL rfl) hs)

theorem State.newMeshHdr_only {L : List Part} {s₀ s : State} {b : Berth} {h : HopPlan} {f : Frame} {x : MeshHdr × Bytes × State}
    (he : s.newMeshHdr b h f = some x) (hL : reach [.line, .ctxs] L = true) (hs : Only L s₀ s) : Only L s₀ x.2.2 := by
  unfold State.newMeshHdr at he
  dsimp only at he
  repeat' split at he
  all_goals first
    | cases he; done
    | (obtain ⟨_, _, hx⟩ := Option.map_eq_some_iff.mp he; cases hx
       first
         | exact State.modLine_only (sub_reach hL rfl) hs
         | exact State.modCtx_only (sub_reach hL rfl) hs)

theorem State.buildFrame_only {L : List Part} {s₀ s : State} {b : Berth} {h : HopPlan} {f : Frame} {data : Bytes}
    {x : FrameCtl × Nat × Bytes × Frame × State} (he : s.buildFrame b h f data = some x)
    (hL : reach [.freeCtr, .line, .ctxs, .mesh] L = true) (hs : Only L s₀ s) : Only L s₀ x.2.2.2.2 := by
  unfold State.buildFrame at he
  dsimp only at he
  split at he
  · cases he
    exact State.lineMode_only (sub_reach hL rfl) hs
  · obtain ⟨y, hy, hx⟩ := Option.bind_eq_some_iff.mp he
    obtain ⟨z, hz, hw⟩ := Option.map_eq_some_iff.mp hx
    cases hw
    refine State.lineMode_only (sub_reach hL rfl) (State.hopKey_only hz (sub_reach hL rfl) ?_)
    split at hy
    · obtain ⟨w, hw, hv⟩ := Option.map_eq_some_iff.mp hy
      cases hv
      exact State.newMeshHdr_only hw (sub_reach hL rfl) hs
    · cases hy
      exact hs

theorem State.countSent_only {L : List Part} {s₀ : State} {s : State} {f : Frame} {g : Frame} (hL : reach [.ctxs] L = true) (ho : Only L s₀ s) :
    Only L s₀ (State.countSent s f g) := by
  unfold State.countSent
  repeat' with_reducible first | exact ho | refine Only.ite ?_ ?_ | refine Only.dite (fun _ => ?_) (fun _ => ?_) | refine State.modCtx_only (sub_reach hL rfl) ?_ | assumption | split | (dsimp -proj only; split)

theorem State.afterSend_only {L : List Part} {s₀ : State} {s : State} {f : Frame} (hL : reach [.hold] L = true) (ho : Only L s₀ s) :
    Only L s₀ (State.afterSend s f) := by
  unfold State.afterSend
  repeat' with_reducible first | exact ho | refine Only.ite ?_ ?_ | refine Only.dite (fun _ => ?_) (fun _ => ?_) | refine State.setFrame_only (sub_reach hL rfl) ?_ | assumption | split | (dsimp -proj only; split)

theorem State.startOne_only {L : List Part} {s₀ s : State} {b : Berth} {a : Alloc} {t0 : Nat} {side : Bool} {l : List Frame}
    (hL : reach [.stats, .evTimes, .out, .freeCtr, .host, .berth, .line, .ctxs, .mesh, .hold, .fab] L = true) (h : Only L s₀ s) : Only L s₀ (s.startOne b a t0 side l) := by
  induction l generalizing s with
  | nil => exact h
  | cons f rest ih =>
    unfold State.startOne
    split
    · exact ih h
    · split
      · rename_i hr
        exact ih (State.readFrame_only_eq hr (sub_reach hL rfl) h)
      · rename_i hr
        have h1 := State.readFrame_only_eq hr (sub_reach hL rfl) h
        split
        · exact ih h
        · rename_i hb
          have h2 := State.buildFrame_only hb (sub_reach hL rfl) h1
          exact Only.ite (State.afterSend_only (sub_reach hL rfl) (State.countSent_only (sub_reach hL rfl) (State.sendFrame_only (sub_reach hL rfl) h2))) (ih h)

theorem State.sendMsg_only {L : List Part} {s₀ s : State} {b : Berth} {a : Alloc} {t0 ctx : Nat} {plain : Bytes} {s₁ : State}
    (he : s.sendMsg b a t0 ctx plain = some s₁) (hL : reach [.out, .freeCtr, .berth, .line, .ctxs] L = true) (h : Only L s₀ s) : Only L s₀ s₁ := by
  unfold State.sendMsg at he
  obtain ⟨⟨fc, k, s2⟩, hm, hx⟩ := Option.bind_eq_some_iff.mp he
  dsimp only at hx
  split at hx
  · cases hx
    exact State.sendFrame_only (sub_reach hL rfl) (State.lineMode_only (sub_reach hL rfl) (State.msgFc_only hm (sub_reach hL rfl) h))
  · cases hx

theorem State.startFwd_only {L : List Part} {s₀ s : State} {b : Berth} {a : Alloc} {t0 target : Nat} {relayedOnly : Bool} {s₁ : State}
    (he : s.startFwd b a t0 target relayedOnly = some s₁) (hL : reach [.out, .freeCtr, .berth, .mesh] L = true) (h : Only L s₀ s) : Only L s₀ s₁ := by
  unfold State.startFwd at he
  dsimp only at he
  obtain ⟨f, _, hx⟩ := Option.bind_eq_some_iff.mp he
  obtain ⟨x, _, hy⟩ := Option.bind_eq_some_iff.mp hx
  split at hy
  · cases hy
    exact State.sendFrame_only (sub_reach hL rfl) (State.modMesh_only (sub_reach hL rfl) (State.lineMode_only (sub_reach hL rfl) h))
  · cases hy

theorem State.startNext_only {L : List Part} {s₀ s : State} {b : Berth} (hL : reach [.stats, .evTimes, .out, .freeCtr, .host, .berth, .line, .ctxs, .mesh, .hold, .fab] L = true) (h : Only L s₀ s) :
    Only L s₀ (s.startNext b) := by
  unfold State.startNext
  split
  · exact h
  · refine Only.ite h ?_
    split
    · exact h
    · dsimp only
      split
      · rename_i hs
        obtain ⟨x, _, hx⟩ := Option.bind_eq_some_iff.mp hs
        exact State.sendMsg_only hx (sub_reach hL rfl) (State.modLine_only (sub_reach hL rfl) h)
      · split
        · rename_i hf
          split at hf
          · exact State.startFwd_only hf (sub_reach hL rfl) h
          · cases hf
        · exact Only.ite (State.startOne_only (sub_reach hL rfl) h) h

end Sys2Proof.Machine
end

