-- ==== Sys2Proof/Laws/InvLine.lean ====
section
/-! SUPPORT. The operations of Machine/Line.lean keep what always holds. -/

namespace Sys2Proof.Machine
open Sys2Proof

set_option linter.all false

theorem State.sendFrame_inv {s : State} {b : Berth} {f : FrameCtl} {nSym : Nat} {payload : Bytes} {ref : Option Nat} (ho : Inv s) : Inv (State.sendFrame s b f nSym payload ref) :=
  inv_only (State.sendFrame_only (L := [.out, .berth]) (s := s) (b := b) (f := f) (nSym := nSym) (payload := payload) (ref := ref) rfl (Only.refl _ _)) rfl ho

theorem State.sendSealed_inv {s : State} {b : Berth} {f : FrameCtl} {key : Bytes} {plain : Bytes} (ho : Inv s) : Inv (State.sendSealed s b f key plain) :=
  inv_only (State.sendSealed_only (L := [.out, .berth]) (s := s) (b := b) (f := f) (key := key) (plain := plain) rfl (Only.refl _ _)) rfl ho

theorem State.msgFc_inv {s : State} {b : Berth} {ctx ftype : Nat} {fc : FrameCtl} {k : Bytes} {s₁ : State}
    (he : s.msgFc b ctx ftype = some (fc, k, s₁)) (h : Inv s) : Inv s₁ :=
  inv_only (State.msgFc_only (L := [.line, .ctxs]) he rfl (Only.refl _ _)) rfl h

theorem State.sendAck_inv {s : State} {b : Berth} {side : Bool} {station : Nat} {gi : Nat} (ho : Inv s) : Inv (State.sendAck s b side station gi) :=
  inv_only (State.sendAck_only (L := [.out, .berth, .line, .ctxs]) (s := s) (b := b) (side := side) (station := station) (gi := gi) rfl (Only.refl _ _)) rfl ho

theorem State.nonce16_inv {s : State} (ho : Inv s) : Inv (State.nonce16 s).2 :=
  inv_only (State.nonce16_only (L := [.entropyCtr]) (s := s) rfl (Only.refl _ _)) rfl ho
theorem State.nonce16_inv_eq {s : State} {s₁ : State} {xv : _} (he : State.nonce16 s = (xv, s₁)) (ho : Inv s) : Inv s₁ :=
  inv_only (State.nonce16_only_eq (L := [.entropyCtr]) (s := s) (he := he) rfl (Only.refl _ _)) rfl ho

theorem State.queueMsg_inv {s : State} {b : Berth} {ctx : Nat} {plain : Bytes} (ho : Inv s) : Inv (State.queueMsg s b ctx plain) :=
  inv_only (State.queueMsg_only (L := [.line]) (s := s) (b := b) (ctx := ctx) (plain := plain) rfl (Only.refl _ _)) rfl ho

theorem State.buildFrame_inv {s : State} {b : Berth} {h : HopPlan} {f : Frame} {data : Bytes}
    {x : FrameCtl × Nat × Bytes × Frame × State} (he : s.buildFrame b h f data = some x)
    (hs : Inv s) : Inv x.2.2.2.2 :=
  inv_only (State.buildFrame_only (L := [.freeCtr, .line, .ctxs, .mesh]) he rfl (Only.refl _ _)) rfl hs

theorem State.countSent_inv {s : State} {f : Frame} {g : Frame} (ho : Inv s) : Inv (State.countSent s f g) :=
  inv_only (State.countSent_only (L := [.ctxs]) (s := s) (f := f) (g := g) rfl (Only.refl _ _)) rfl ho

theorem State.afterSend_inv {s : State} {f : Frame} (ho : Inv s) : Inv (State.afterSend s f) := by
  unfold State.afterSend
  repeat' with_reducible first | exact ho | refine Inv.ite ?_ ?_ | refine Inv.dite (fun _ => ?_) (fun _ => ?_) | refine State.setFrame_inv ?_ | assumption | exact rfl | split | (dsimp -proj only; split)

theorem State.startOne_inv {s : State} {b : Berth} {a : Alloc} {t0 : Nat} {side : Bool} {l : List Frame}
    (h : Inv s) : Inv (s.startOne b a t0 side l) := by
  induction l generalizing s with
  | nil => exact h
  | cons f rest ih =>
    unfold State.startOne
    split
    · exact ih h
    · split
      · rename_i hr
        exact ih (State.readFrame_inv_eq hr h)
      · rename_i hr
        have h1 := State.readFrame_inv_eq hr h
        split
        · exact ih h
        · rename_i hb
          have h2 := State.buildFrame_inv hb h1
          exact Inv.ite (State.afterSend_inv (State.countSent_inv (State.sendFrame_inv h2))) (ih h)

theorem State.sendMsg_inv {s : State} {b : Berth} {a : Alloc} {t0 ctx : Nat} {plain : Bytes} {s₁ : State}
    (he : s.sendMsg b a t0 ctx plain = some s₁) (h : Inv s) : Inv s₁ :=
  inv_only (State.sendMsg_only (L := [.out, .freeCtr, .berth, .line, .ctxs]) he rfl (Only.refl _ _)) rfl h

theorem State.startFwd_inv {s : State} {b : Berth} {a : Alloc} {t0 target : Nat} {relayedOnly : Bool} {s₁ : State}
    (he : s.startFwd b a t0 target relayedOnly = some s₁) (h : Inv s) : Inv s₁ :=
  inv_only (State.startFwd_only (L := [.out, .freeCtr, .berth, .mesh]) he rfl (Only.refl _ _)) rfl h

theorem State.startNext_inv {s : State} {b : Berth} (h : Inv s) :
    Inv (s.startNext b) := by
  unfold State.startNext
  split
  · exact h
  · refine Inv.ite h ?_
    split
    · exact h
    · dsimp only
      split
      · rename_i hs
        obtain ⟨x, _, hx⟩ := Option.bind_eq_some_iff.mp hs
        exact State.sendMsg_inv hx (State.modLine_inv h)
      · split
        · rename_i hf
          split at hf
          · exact State.startFwd_inv hf h
          · cases hf
        · exact Inv.ite (State.startOne_inv h) h

end Sys2Proof.Machine
end

