-- ==== Sys2Proof/Laws/OnlyMesh.lean ====
section
/-! SUPPORT. The parts of the state that each operation of Machine/Mesh.lean reaches. -/

namespace Sys2Proof.Machine
open Sys2Proof

set_option linter.all false

theorem State.noteLink_only {L : List Part} {s₀ : State} {s : State} {b : Berth} {r : LinkRep} (hL : reach [.mesh] L = true) (ho : Only L s₀ s) :
    Only L s₀ (State.noteLink s b r) := by
  unfold State.noteLink
  repeat' with_reducible first | exact ho | refine Only.ite ?_ ?_ | refine Only.dite (fun _ => ?_) (fun _ => ?_) | refine State.modMesh_only (sub_reach hL rfl) ?_ | assumption | split | (dsimp -proj only; split)

theorem State.stDeliver_only {L : List Part} {s₀ : State} {s : State} {b : Berth} {tclass : Nat} {data : Bytes} (hL : reach [.stats, .qp, .hold] L = true) (ho : Only L s₀ s) :
    Only L s₀ (State.stDeliver s b tclass data) := by
  unfold State.stDeliver
  repeat' with_reducible first | exact ho | refine Only.ite ?_ ?_ | refine Only.dite (fun _ => ?_) (fun _ => ?_) | refine State.toHost_only (sub_reach hL rfl) ?_ | refine State.toHost_only_eq (by assumption) (sub_reach hL rfl) ?_ | assumption | split | (dsimp -proj only; split)

theorem State.routeFollows_only {L : List Part} {s₀ : State} {s : State} {b : Berth} {r : StRoute} (hL : reach [.mgmt, .hold] L = true) (ho : Only L s₀ s) :
    Only L s₀ (State.routeFollows s b r) := by
  unfold State.routeFollows
  repeat' with_reducible first | exact ho | refine Only.ite ?_ ?_ | refine Only.dite (fun _ => ?_) (fun _ => ?_) | refine State.putRoute_only (sub_reach hL rfl) ?_ | assumption | split | (dsimp -proj only; split)

theorem State.recompute_only {L : List Part} {s₀ : State} {s0 : State} {b : Berth} (hL : reach [.fields, .pend, .stats, .mgmt, .line, .mesh, .hold] L = true) (ho : Only L s₀ s0) :
    Only L s₀ (State.recompute s0 b) := by
  unfold State.recompute
  repeat' with_reducible first | exact ho | refine Only.ite ?_ ?_ | refine Only.dite (fun _ => ?_) (fun _ => ?_) | refine State.routeFollows_only (sub_reach hL rfl) ?_ | refine State.queueMsg_only (sub_reach hL rfl) ?_ | refine State.modMesh_only (sub_reach hL rfl) ?_ | refine State.releaseAt_only (sub_reach hL rfl) ?_ | refine State.report_only (sub_reach hL rfl) ?_ | refine State.bump_only (sub_reach hL rfl) ?_ | refine State.forAll_only (fun _ _ _ => ?_) ?_ | assumption | split | (dsimp -proj only; split)

theorem State.chooseRelays_only {L : List Part} {s₀ : State} {s : State} {b : Berth} (hL : reach [.stats, .mesh] L = true) (ho : Only L s₀ s) :
    Only L s₀ (State.chooseRelays s b) := by
  unfold State.chooseRelays
  repeat' with_reducible first | exact ho | refine Only.ite ?_ ?_ | refine Only.dite (fun _ => ?_) (fun _ => ?_) | refine State.modMesh_only (sub_reach hL rfl) ?_ | refine State.report_only (sub_reach hL rfl) ?_ | refine State.bump_only (sub_reach hL rfl) ?_ | assumption | split | (dsimp -proj only; split)

theorem State.sendRelayMap_only {L : List Part} {s₀ : State} {s : State} {b : Berth} (hL : reach [.out, .berth, .mesh] L = true) (ho : Only L s₀ s) :
    Only L s₀ (State.sendRelayMap s b) := by
  unfold State.sendRelayMap
  repeat' with_reducible first | exact ho | refine Only.ite ?_ ?_ | refine Only.dite (fun _ => ?_) (fun _ => ?_) | refine State.modMesh_only (sub_reach hL rfl) ?_ | refine State.sendFrame_only (sub_reach hL rfl) ?_ | assumption | split | (dsimp -proj only; split)

theorem State.stFinal_only {L : List Part} {s₀ : State} {s : State} {b : Berth} {h : MeshHdr} {ct : Bytes} (hL : reach [.stats, .qp, .line, .hold] L = true) (ho : Only L s₀ s) :
    Only L s₀ (State.stFinal s b h ct) := by
  unfold State.stFinal
  repeat' with_reducible first | exact ho | refine Only.ite ?_ ?_ | refine Only.dite (fun _ => ?_) (fun _ => ?_) | refine State.stDeliver_only (sub_reach hL rfl) ?_ | refine State.bump_only (sub_reach hL rfl) ?_ | refine State.modLine_only (sub_reach hL rfl) ?_ | assumption | split | (dsimp -proj only; split)

theorem State.forward_only {L : List Part} {s₀ : State} {s : State} {b : Berth} {h : MeshHdr} {next : Nat} {ct : Bytes} (hL : reach [.stats, .mesh] L = true) (ho : Only L s₀ s) :
    Only L s₀ (State.forward s b h next ct) := by
  unfold State.forward
  repeat' with_reducible first | exact ho | refine Only.ite ?_ ?_ | refine Only.dite (fun _ => ?_) (fun _ => ?_) | refine State.modMesh_only (sub_reach hL rfl) ?_ | refine State.bump_only (sub_reach hL rfl) ?_ | assumption | split | (dsimp -proj only; split)

theorem State.hopStep_only {L : List Part} {s₀ : State} {s : State} {b : Berth} {h : MeshHdr} {ct : Bytes} (hL : reach [.stats, .qp, .line, .mesh, .hold] L = true) (ho : Only L s₀ s) :
    Only L s₀ (State.hopStep s b h ct) := by
  unfold State.hopStep
  repeat' with_reducible first | exact ho | refine Only.ite ?_ ?_ | refine Only.dite (fun _ => ?_) (fun _ => ?_) | refine State.forward_only (sub_reach hL rfl) ?_ | refine State.stFinal_only (sub_reach hL rfl) ?_ | refine State.modMesh_only (sub_reach hL rfl) ?_ | refine State.bump_only (sub_reach hL rfl) ?_ | assumption | split | (dsimp -proj only; split)

end Sys2Proof.Machine
end

