-- ==== Sys2Proof/Laws/InvMesh.lean ====
section
/-! SUPPORT. The operations of Machine/Mesh.lean keep what always holds. -/

namespace Sys2Proof.Machine
open Sys2Proof

set_option linter.all false

theorem State.stDeliver_inv {s : State} {b : Berth} {tclass : Nat} {data : Bytes} (ho : Inv s) : Inv (State.stDeliver s b tclass data) := by
  unfold State.stDeliver
  repeat' with_reducible first | exact ho | refine Inv.ite ?_ ?_ | refine Inv.dite (fun _ => ?_) (fun _ => ?_) | refine State.toHost_inv ?_ | refine State.toHost_inv_eq (by assumption) ?_ | assumption | exact rfl | split | (dsimp -proj only; split)

theorem State.routeFollows_inv {s : State} {b : Berth} {r : StRoute} (ho : Inv s) : Inv (State.routeFollows s b r) := by
  unfold State.routeFollows
  repeat' with_reducible first | exact ho | refine Inv.ite ?_ ?_ | refine Inv.dite (fun _ => ?_) (fun _ => ?_) | refine State.putRoute_inv ?_ | assumption | exact rfl | split | (dsimp -proj only; split)

theorem State.recompute_inv {s0 : State} {b : Berth} (ho : Inv s0) : Inv (State.recompute s0 b) := by
  unfold State.recompute
  repeat' with_reducible first | exact ho | refine Inv.ite ?_ ?_ | refine Inv.dite (fun _ => ?_) (fun _ => ?_) | refine State.routeFollows_inv ?_ | refine State.queueMsg_inv ?_ | refine State.modMesh_inv ?_ | refine State.releaseAt_inv ?_ | refine State.report_inv ?_ | refine State.bump_inv ?_ | refine State.forAll_inv (fun _ _ _ => ?_) ?_ | assumption | exact rfl | split | (dsimp -proj only; split)

theorem State.chooseRelays_inv {s : State} {b : Berth} (ho : Inv s) : Inv (State.chooseRelays s b) :=
  inv_only (State.chooseRelays_only (L := [.stats, .mesh]) (s := s) (b := b) rfl (Only.refl _ _)) rfl ho

theorem State.sendRelayMap_inv {s : State} {b : Berth} (ho : Inv s) : Inv (State.sendRelayMap s b) :=
  inv_only (State.sendRelayMap_only (L := [.out, .berth, .mesh]) (s := s) (b := b) rfl (Only.refl _ _)) rfl ho

theorem State.stFinal_inv {s : State} {b : Berth} {h : MeshHdr} {ct : Bytes} (ho : Inv s) : Inv (State.stFinal s b h ct) := by
  unfold State.stFinal
  repeat' with_reducible first | exact ho | refine Inv.ite ?_ ?_ | refine Inv.dite (fun _ => ?_) (fun _ => ?_) | refine State.stDeliver_inv ?_ | refine State.bump_inv ?_ | refine State.modLine_inv ?_ | assumption | exact rfl | split | (dsimp -proj only; split)

theorem State.forward_inv {s : State} {b : Berth} {h : MeshHdr} {next : Nat} {ct : Bytes} (ho : Inv s) : Inv (State.forward s b h next ct) :=
  inv_only (State.forward_only (L := [.stats, .mesh]) (s := s) (b := b) (h := h) (next := next) (ct := ct) rfl (Only.refl _ _)) rfl ho

theorem State.hopStep_inv {s : State} {b : Berth} {h : MeshHdr} {ct : Bytes} (ho : Inv s) : Inv (State.hopStep s b h ct) := by
  unfold State.hopStep
  repeat' with_reducible first | exact ho | refine Inv.ite ?_ ?_ | refine Inv.dite (fun _ => ?_) (fun _ => ?_) | refine State.forward_inv ?_ | refine State.stFinal_inv ?_ | refine State.modMesh_inv ?_ | refine State.bump_inv ?_ | assumption | exact rfl | split | (dsimp -proj only; split)

end Sys2Proof.Machine
end

