-- ==== Sys2Proof/Laws/OnlyReceive.lean ====
section
/-! SUPPORT. The parts of the state that each operation of Machine/Receive.lean reaches. -/

namespace Sys2Proof.Machine
open Sys2Proof

set_option linter.all false

theorem State.backToQueue_only {L : List Part} {s₀ : State} {s : State} {b : Berth} (hL : reach [.berth, .hold] L = true) (ho : Only L s₀ s) :
    Only L s₀ (State.backToQueue s b) := by
  unfold State.backToQueue
  repeat' with_reducible first | exact ho | refine Only.ite ?_ ?_ | refine Only.dite (fun _ => ?_) (fun _ => ?_) | refine State.setFrame_only (sub_reach hL rfl) ?_ | refine State.modBerth_only (sub_reach hL rfl) ?_ | assumption | split | (dsimp -proj only; split)

theorem State.abortTx_only {L : List Part} {s₀ : State} {s : State} {b : Berth} (hL : reach [.out, .berth, .hold] L = true) (ho : Only L s₀ s) :
    Only L s₀ (State.abortTx s b) := by
  unfold State.abortTx
  repeat' with_reducible first | exact ho | refine Only.ite ?_ ?_ | refine Only.dite (fun _ => ?_) (fun _ => ?_) | refine State.backToQueue_only (sub_reach hL rfl) ?_ | refine State.emit_only (sub_reach hL rfl) ?_ | refine State.modBerth_only (sub_reach hL rfl) ?_ | assumption | split | (dsimp -proj only; split)

theorem State.storeSoft_only {L : List Part} {s₀ : State} {s : State} {b : Berth} {ctx : Option Nat} {f : FrameCtl} {cw : Nat} {llrs : List Int} (hL : reach [.stats, .ctxs, .hold] L = true) (ho : Only L s₀ s) :
    Only L s₀ (State.storeSoft s b ctx f cw llrs) := by
  unfold State.storeSoft
  repeat' with_reducible first | exact ho | refine Only.ite ?_ ?_ | refine Only.dite (fun _ => ?_) (fun _ => ?_) | refine State.modCtx_only (sub_reach hL rfl) ?_ | refine State.addPend_only (sub_reach hL rfl) ?_ | refine State.bump_only (sub_reach hL rfl) ?_ | assumption | split | (dsimp -proj only; split) | refine only_set_hold (sub_reach hL rfl) ?_

theorem State.measureLink_only {L : List Part} {s₀ : State} {s : State} {b : Berth} {side : Bool} {f : FrameCtl} {bits : Nat} {ok : Bool} (hL : reach [.mesh] L = true) (ho : Only L s₀ s) :
    Only L s₀ (State.measureLink s b side f bits ok) := by
  unfold State.measureLink
  repeat' with_reducible first | exact ho | refine Only.ite ?_ ?_ | refine Only.dite (fun _ => ?_) (fun _ => ?_) | refine State.noteLink_only (sub_reach hL rfl) ?_ | refine State.modMesh_only (sub_reach hL rfl) ?_ | assumption | split | (dsimp -proj only; split)

theorem State.oweAck_only {L : List Part} {s₀ : State} {s : State} {b : Berth} {side : Bool} {f : FrameCtl} {delivered : Bool} {cwOk : Nat} (hL : reach [.line] L = true) (ho : Only L s₀ s) :
    Only L s₀ (State.oweAck s b side f delivered cwOk) := by
  unfold State.oweAck
  repeat' with_reducible first | exact ho | refine Only.ite ?_ ?_ | refine Only.dite (fun _ => ?_) (fun _ => ?_) | refine State.modLine_only (sub_reach hL rfl) ?_ | assumption | split | (dsimp -proj only; split)

theorem State.heardFrom_only {L : List Part} {s₀ : State} {s : State} {b : Berth} {station : Nat} (hL : reach [.mgmt, .ctxs, .mesh] L = true) (ho : Only L s₀ s) :
    Only L s₀ (State.heardFrom s b station) := by
  unfold State.heardFrom
  repeat' with_reducible first | exact ho | refine Only.ite ?_ ?_ | refine Only.dite (fun _ => ?_) (fun _ => ?_) | refine State.ctxTo_only (sub_reach hL rfl) ?_ | refine State.modMesh_only (sub_reach hL rfl) ?_ | refine State.forAll_only (fun _ _ _ => ?_) ?_ | assumption | split | (dsimp -proj only; split) | refine only_set_ctxs (sub_reach hL rfl) ?_

theorem State.coFinal_only {L : List Part} {s₀ : State} {s : State} {b : Berth} {h : MeshHdr} {ct : Bytes} (hL : reach [.stats, .qp, .mgmt, .ctxs, .mesh, .hold] L = true) (ho : Only L s₀ s) :
    Only L s₀ (State.coFinal s b h ct) := by
  unfold State.coFinal
  repeat' with_reducible first | exact ho | refine Only.ite ?_ ?_ | refine Only.dite (fun _ => ?_) (fun _ => ?_) | refine State.uplink_only (sub_reach hL rfl) ?_ | refine State.uplink_only_eq (by assumption) (sub_reach hL rfl) ?_ | refine State.heardFrom_only (sub_reach hL rfl) ?_ | refine State.modCtx_only (sub_reach hL rfl) ?_ | refine State.bump_only (sub_reach hL rfl) ?_ | assumption | split | (dsimp -proj only; split)

theorem State.coData_only {L : List Part} {s₀ : State} {s : State} {b : Berth} {c : Ctx} {plain : Bytes} (hL : reach [.stats, .qp, .mgmt, .ctxs, .mesh, .hold] L = true) (ho : Only L s₀ s) :
    Only L s₀ (State.coData s b c plain) := by
  unfold State.coData
  repeat' with_reducible first | exact ho | refine Only.ite ?_ ?_ | refine Only.dite (fun _ => ?_) (fun _ => ?_) | refine State.coFinal_only (sub_reach hL rfl) ?_ | refine State.uplink_only (sub_reach hL rfl) ?_ | refine State.uplink_only_eq (by assumption) (sub_reach hL rfl) ?_ | refine State.bump_only (sub_reach hL rfl) ?_ | assumption | split | (dsimp -proj only; split)

theorem State.coFrame_only {L : List Part} {s₀ : State} {s : State} {b : Berth} {f : FrameCtl} {payload : Bytes} (hL : reach [.stats, .qp, .mgmt, .line, .ctxs, .mesh, .hold] L = true) (ho : Only L s₀ s) :
    Only L s₀ (State.coFrame s b f payload) := by
  unfold State.coFrame
  repeat' with_reducible first | exact ho | refine Only.ite ?_ ?_ | refine Only.dite (fun _ => ?_) (fun _ => ?_) | refine State.coData_only (sub_reach hL rfl) ?_ | refine State.heardFrom_only (sub_reach hL rfl) ?_ | refine State.clearSoft_only (sub_reach hL rfl) ?_ | refine State.oweAck_only (sub_reach hL rfl) ?_ | refine State.modCtx_only (sub_reach hL rfl) ?_ | refine State.bump_only (sub_reach hL rfl) ?_ | assumption | split | (dsimp -proj only; split)

theorem State.stFrame_only {L : List Part} {s₀ : State} {s : State} {b : Berth} {f : FrameCtl} {payload : Bytes} (hL : reach [.stats, .qp, .line, .hold] L = true) (ho : Only L s₀ s) :
    Only L s₀ (State.stFrame s b f payload) := by
  unfold State.stFrame
  repeat' with_reducible first | exact ho | refine Only.ite ?_ ?_ | refine Only.dite (fun _ => ?_) (fun _ => ?_) | refine State.stDeliver_only (sub_reach hL rfl) ?_ | refine State.oweAck_only (sub_reach hL rfl) ?_ | refine State.bump_only (sub_reach hL rfl) ?_ | refine State.modLine_only (sub_reach hL rfl) ?_ | assumption | split | (dsimp -proj only; split)

theorem State.frameOver_only {L : List Part} {s₀ : State} {s : State} {b : Berth} {r : RxFrame} {f : FrameCtl} (hL : reach [.stats, .out, .qp, .mgmt, .berth, .line, .ctxs, .mesh, .hold] L = true) (ho : Only L s₀ s) :
    Only L s₀ (State.frameOver s b r f) := by
  unfold State.frameOver
  repeat' with_reducible first | exact ho | refine Only.ite ?_ ?_ | refine Only.dite (fun _ => ?_) (fun _ => ?_) | refine State.stFrame_only (sub_reach hL rfl) ?_ | refine State.coFrame_only (sub_reach hL rfl) ?_ | refine State.oweAck_only (sub_reach hL rfl) ?_ | refine State.measureLink_only (sub_reach hL rfl) ?_ | refine State.sendAck_only (sub_reach hL rfl) ?_ | refine State.modBerth_only (sub_reach hL rfl) ?_ | assumption | split | (dsimp -proj only; split)

theorem State.checkOver_only {L : List Part} {s₀ : State} {s : State} {b : Berth} (hL : reach [.stats, .out, .qp, .mgmt, .berth, .line, .ctxs, .mesh, .hold] L = true) (ho : Only L s₀ s) :
    Only L s₀ (State.checkOver s b) := by
  unfold State.checkOver
  repeat' with_reducible first | exact ho | refine Only.ite ?_ ?_ | refine Only.dite (fun _ => ?_) (fun _ => ?_) | refine State.frameOver_only (sub_reach hL rfl) ?_ | assumption | split | (dsimp -proj only; split)

theorem State.failCw_only {L : List Part} {s₀ : State} {s : State} {b : Berth} {cw : Nat} {llrs : List Int} (hL : reach [.stats, .out, .qp, .mgmt, .berth, .line, .ctxs, .mesh, .hold] L = true) (ho : Only L s₀ s) :
    Only L s₀ (State.failCw s b cw llrs) := by
  unfold State.failCw
  repeat' with_reducible first | exact ho | refine Only.ite ?_ ?_ | refine Only.dite (fun _ => ?_) (fun _ => ?_) | refine State.checkOver_only (sub_reach hL rfl) ?_ | refine State.storeSoft_only (sub_reach hL rfl) ?_ | refine State.modBerth_only (sub_reach hL rfl) ?_ | assumption | split | (dsimp -proj only; split)

theorem State.symbolIn_only {L : List Part} {s₀ : State} {s : State} {b : Berth} {w : Nat} (hL : reach [.stats, .out, .qp, .mgmt, .berth, .line, .ctxs, .mesh, .hold] L = true) (ho : Only L s₀ s) :
    Only L s₀ (State.symbolIn s b w) := by
  unfold State.symbolIn
  repeat' with_reducible first | exact ho | refine Only.ite ?_ ?_ | refine Only.dite (fun _ => ?_) (fun _ => ?_) | refine State.checkOver_only (sub_reach hL rfl) ?_ | refine State.modBerth_only (sub_reach hL rfl) ?_ | assumption | split | (dsimp -proj only; split)

theorem State.eraseSymbol_only {L : List Part} {s₀ : State} {s : State} {b : Berth} {sym : Nat} (hL : reach [.stats, .out, .qp, .mgmt, .berth, .line, .ctxs, .mesh, .hold] L = true) (ho : Only L s₀ s) :
    Only L s₀ (State.eraseSymbol s b sym) := by
  unfold State.eraseSymbol
  repeat' with_reducible first | exact ho | refine Only.ite ?_ ?_ | refine Only.dite (fun _ => ?_) (fun _ => ?_) | refine State.symbolIn_only (sub_reach hL rfl) ?_ | refine State.modBerth_only (sub_reach hL rfl) ?_ | assumption | split | (dsimp -proj only; split)

theorem State.fetchSoft_only {L : List Part} {s₀ : State} {s : State} {b : Berth} {ctx : Nat} {f : FrameCtl} (hL : reach [.stats, .ctxs, .hold] L = true) (ho : Only L s₀ s) :
    Only L s₀ (State.fetchSoft s b ctx f) := by
  unfold State.fetchSoft
  repeat' with_reducible first | exact ho | refine Only.ite ?_ ?_ | refine Only.dite (fun _ => ?_) (fun _ => ?_) | refine State.clearSoft_only (sub_reach hL rfl) ?_ | refine State.addPend_only (sub_reach hL rfl) ?_ | refine State.bump_only (sub_reach hL rfl) ?_ | refine State.forAll_only (fun _ _ _ => ?_) ?_ | assumption | split | (dsimp -proj only; split)

theorem State.txBoundary_only {L : List Part} {s₀ : State} {s : State} {b : Berth} (hL : reach [.stats, .evTimes, .out, .freeCtr, .host, .berth, .line, .ctxs, .mesh, .hold, .fab] L = true) (ho : Only L s₀ s) :
    Only L s₀ (State.txBoundary s b) := by
  unfold State.txBoundary
  repeat' with_reducible first | exact ho | refine Only.ite ?_ ?_ | refine Only.dite (fun _ => ?_) (fun _ => ?_) | refine State.startNext_only (sub_reach hL rfl) ?_ | refine State.dropFrames_only (sub_reach hL rfl) ?_ | refine State.abortTx_only (sub_reach hL rfl) ?_ | refine State.emit_only (sub_reach hL rfl) ?_ | refine State.modBerth_only (sub_reach hL rfl) ?_ | assumption | split | (dsimp -proj only; split)

end Sys2Proof.Machine
end

