-- ==== Sys2Proof/Laws/InvReceive.lean ====
section
/-! SUPPORT. The operations of Machine/Receive.lean keep what always holds. -/

namespace Sys2Proof.Machine
open Sys2Proof

set_option linter.all false

theorem State.backToQueue_inv {s : State} {b : Berth} (ho : Inv s) : Inv (State.backToQueue s b) := by
  unfold State.backToQueue
  repeat' with_reducible first | exact ho | refine Inv.ite ?_ ?_ | refine Inv.dite (fun _ => ?_) (fun _ => ?_) | refine State.setFrame_inv ?_ | refine State.modBerth_inv ?_ | assumption | exact rfl | split | (dsimp -proj only; split)

theorem State.abortTx_inv {s : State} {b : Berth} (ho : Inv s) : Inv (State.abortTx s b) := by
  unfold State.abortTx
  repeat' with_reducible first | exact ho | refine Inv.ite ?_ ?_ | refine Inv.dite (fun _ => ?_) (fun _ => ?_) | refine State.backToQueue_inv ?_ | refine State.emit_inv ?_ | refine State.modBerth_inv ?_ | assumption | exact rfl | split | (dsimp -proj only; split)

theorem State.storeSoft_inv {s : State} {b : Berth} {ctx : Option Nat} {f : FrameCtl} {cw : Nat} {llrs : List Int} (h : Inv s) :
    Inv (s.storeSoft b ctx f cw llrs) := by
  have hb : ∀ k, Inv (s.bump k) := fun k => State.bump_inv h
  unfold State.storeSoft
  split
  · exact h
  · refine Inv.ite h ?_
    extract_lets own free oldest pick m st d img s1 hd s2
    refine Inv.ite (hb _) ?_
    clear_value img
    have h1 : Inv s1 := Inv.ite (hb _) h
    have h2 : Inv s2 := inv_mem (a := s1) rfl (Memory.puts_wf h1.memOk) rfl h1
    exact State.addPend_inv (State.bump_inv
      (State.modCtx_inv h2))

theorem State.measureLink_inv {s : State} {b : Berth} {side : Bool} {f : FrameCtl} {bits : Nat} {ok : Bool} (ho : Inv s) : Inv (State.measureLink s b side f bits ok) :=
  inv_only (State.measureLink_only (L := [.mesh]) (s := s) (b := b) (side := side) (f := f) (bits := bits) (ok := ok) rfl (Only.refl _ _)) rfl ho

theorem State.oweAck_inv {s : State} {b : Berth} {side : Bool} {f : FrameCtl} {delivered : Bool} {cwOk : Nat} (ho : Inv s) : Inv (State.oweAck s b side f delivered cwOk) :=
  inv_only (State.oweAck_only (L := [.line]) (s := s) (b := b) (side := side) (f := f) (delivered := delivered) (cwOk := cwOk) rfl (Only.refl _ _)) rfl ho

theorem State.heardFrom_inv {s : State} {b : Berth} {station : Nat} (ho : Inv s) : Inv (State.heardFrom s b station) :=
  inv_only (State.heardFrom_only (L := [.mgmt, .ctxs, .mesh]) (s := s) (b := b) (station := station) rfl (Only.refl _ _)) rfl ho

theorem State.coFinal_inv {s : State} {b : Berth} {h : MeshHdr} {ct : Bytes} (ho : Inv s) : Inv (State.coFinal s b h ct) := by
  unfold State.coFinal
  repeat' with_reducible first | exact ho | refine Inv.ite ?_ ?_ | refine Inv.dite (fun _ => ?_) (fun _ => ?_) | refine State.uplink_inv ?_ | refine State.uplink_inv_eq (by assumption) ?_ | refine State.heardFrom_inv ?_ | refine State.modCtx_inv ?_ | refine State.bump_inv ?_ | assumption | exact rfl | split | (dsimp -proj only; split)

theorem State.coData_inv {s : State} {b : Berth} {c : Ctx} {plain : Bytes} (ho : Inv s) : Inv (State.coData s b c plain) := by
  unfold State.coData
  repeat' with_reducible first | exact ho | refine Inv.ite ?_ ?_ | refine Inv.dite (fun _ => ?_) (fun _ => ?_) | refine State.coFinal_inv ?_ | refine State.uplink_inv ?_ | refine State.uplink_inv_eq (by assumption) ?_ | refine State.bump_inv ?_ | assumption | exact rfl | split | (dsimp -proj only; split)

theorem State.coFrame_inv {s : State} {b : Berth} {f : FrameCtl} {payload : Bytes} (ho : Inv s) : Inv (State.coFrame s b f payload) := by
  unfold State.coFrame
  repeat' with_reducible first | exact ho | refine Inv.ite ?_ ?_ | refine Inv.dite (fun _ => ?_) (fun _ => ?_) | refine State.coData_inv ?_ | refine State.heardFrom_inv ?_ | refine State.clearSoft_inv ?_ | refine State.oweAck_inv ?_ | refine State.modCtx_inv ?_ | refine State.bump_inv ?_ | assumption | exact rfl | split | (dsimp -proj only; split)

theorem State.stFrame_inv {s : State} {b : Berth} {f : FrameCtl} {payload : Bytes} (ho : Inv s) : Inv (State.stFrame s b f payload) := by
  unfold State.stFrame
  repeat' with_reducible first | exact ho | refine Inv.ite ?_ ?_ | refine Inv.dite (fun _ => ?_) (fun _ => ?_) | refine State.stDeliver_inv ?_ | refine State.oweAck_inv ?_ | refine State.bump_inv ?_ | refine State.modLine_inv ?_ | assumption | exact rfl | split | (dsimp -proj only; split)

theorem State.frameOver_inv {s : State} {b : Berth} {r : RxFrame} {f : FrameCtl} (ho : Inv s) : Inv (State.frameOver s b r f) := by
  unfold State.frameOver
  repeat' with_reducible first | exact ho | refine Inv.ite ?_ ?_ | refine Inv.dite (fun _ => ?_) (fun _ => ?_) | refine State.stFrame_inv ?_ | refine State.coFrame_inv ?_ | refine State.oweAck_inv ?_ | refine State.measureLink_inv ?_ | refine State.sendAck_inv ?_ | refine State.modBerth_inv ?_ | assumption | exact rfl | split | (dsimp -proj only; split)

theorem State.checkOver_inv {s : State} {b : Berth} (ho : Inv s) : Inv (State.checkOver s b) := by
  unfold State.checkOver
  repeat' with_reducible first | exact ho | refine Inv.ite ?_ ?_ | refine Inv.dite (fun _ => ?_) (fun _ => ?_) | refine State.frameOver_inv ?_ | assumption | exact rfl | split | (dsimp -proj only; split)

theorem State.failCw_inv {s : State} {b : Berth} {cw : Nat} {llrs : List Int} (ho : Inv s) : Inv (State.failCw s b cw llrs) := by
  unfold State.failCw
  repeat' with_reducible first | exact ho | refine Inv.ite ?_ ?_ | refine Inv.dite (fun _ => ?_) (fun _ => ?_) | refine State.checkOver_inv ?_ | refine State.storeSoft_inv ?_ | refine State.modBerth_inv ?_ | assumption | exact rfl | split | (dsimp -proj only; split)

theorem State.symbolIn_inv {s : State} {b : Berth} {w : Nat} (ho : Inv s) : Inv (State.symbolIn s b w) := by
  unfold State.symbolIn
  repeat' with_reducible first | exact ho | refine Inv.ite ?_ ?_ | refine Inv.dite (fun _ => ?_) (fun _ => ?_) | refine State.checkOver_inv ?_ | refine State.modBerth_inv ?_ | assumption | exact rfl | split | (dsimp -proj only; split)

theorem State.eraseSymbol_inv {s : State} {b : Berth} {sym : Nat} (ho : Inv s) : Inv (State.eraseSymbol s b sym) := by
  unfold State.eraseSymbol
  repeat' with_reducible first | exact ho | refine Inv.ite ?_ ?_ | refine Inv.dite (fun _ => ?_) (fun _ => ?_) | refine State.symbolIn_inv ?_ | refine State.modBerth_inv ?_ | assumption | exact rfl | split | (dsimp -proj only; split)

theorem State.fetchSoft_inv {s : State} {b : Berth} {ctx : Nat} {f : FrameCtl} (ho : Inv s) : Inv (State.fetchSoft s b ctx f) := by
  unfold State.fetchSoft
  repeat' with_reducible first | exact ho | refine Inv.ite ?_ ?_ | refine Inv.dite (fun _ => ?_) (fun _ => ?_) | refine State.clearSoft_inv ?_ | refine State.addPend_inv ?_ | refine State.bump_inv ?_ | refine State.forAll_inv (fun _ _ _ => ?_) ?_ | assumption | exact rfl | split | (dsimp -proj only; split)

theorem State.txBoundary_inv {s : State} {b : Berth} (ho : Inv s) : Inv (State.txBoundary s b) := by
  unfold State.txBoundary
  repeat' with_reducible first | exact ho | refine Inv.ite ?_ ?_ | refine Inv.dite (fun _ => ?_) (fun _ => ?_) | refine State.startNext_inv ?_ | refine State.dropFrames_inv ?_ | refine State.abortTx_inv ?_ | refine State.emit_inv ?_ | refine State.modBerth_inv ?_ | assumption | exact rfl | split | (dsimp -proj only; split)

end Sys2Proof.Machine
end

