-- ==== Sys2Proof/Laws/OnlySense.lean ====
section
/-! SUPPORT. The parts of the state that each operation of Machine/Sense.lean reaches. -/

namespace Sys2Proof.Machine
open Sys2Proof

set_option linter.all false

theorem State.loopStep_only {L : List Part} {s₀ : State} {s : State} {j : LoopId} (hL : reach [.fields, .pend, .stats, .out, .loop] L = true) (ho : Only L s₀ s) :
    Only L s₀ (State.loopStep s j) := by
  unfold State.loopStep
  repeat' with_reducible first | exact ho | refine Only.ite ?_ ?_ | refine Only.dite (fun _ => ?_) (fun _ => ?_) | refine State.modLoop_only (sub_reach hL rfl) ?_ | refine State.releaseAt_only (sub_reach hL rfl) ?_ | refine State.emit_only (sub_reach hL rfl) ?_ | refine State.bump_only (sub_reach hL rfl) ?_ | assumption | split | (dsimp -proj only; split)

theorem State.calEnds_only {L : List Part} {s₀ : State} {s : State} {n : SensId} {st : Status} (hL : reach [.stats, .out, .host, .qp, .mgmt, .boot, .fab, .sense] L = true) (ho : Only L s₀ s) :
    Only L s₀ (State.calEnds s n st) := by
  unfold State.calEnds
  repeat' with_reducible first | exact ho | refine Only.ite ?_ ?_ | refine Only.dite (fun _ => ?_) (fun _ => ?_) | refine State.modSense_only (sub_reach hL rfl) ?_ | refine State.completeRun_only (sub_reach hL rfl) ?_ | refine State.stick_only (sub_reach hL rfl) ?_ | assumption | split | (dsimp -proj only; split) | refine only_set_mgmt (sub_reach hL rfl) ?_

theorem State.senseBreak_only {L : List Part} {s₀ : State} {s : State} {n : SensId} {cause : Nat} (hL : reach [.stats, .out, .host, .qp, .mgmt, .boot, .fab, .sense] L = true) (ho : Only L s₀ s) :
    Only L s₀ (State.senseBreak s n cause) := by
  unfold State.senseBreak
  repeat' with_reducible first | exact ho | refine Only.ite ?_ ?_ | refine Only.dite (fun _ => ?_) (fun _ => ?_) | refine State.calEnds_only (sub_reach hL rfl) ?_ | refine State.modSense_only (sub_reach hL rfl) ?_ | refine State.raise_only (sub_reach hL rfl) ?_ | refine State.emit_only (sub_reach hL rfl) ?_ | refine State.stick_only (sub_reach hL rfl) ?_ | refine State.bump_only (sub_reach hL rfl) ?_ | assumption | split | (dsimp -proj only; split)

theorem State.outputSettings_only {L : List Part} {s₀ : State} {s : State} {n : SensId} (hL : reach [.fields, .pend, .sense] L = true) (ho : Only L s₀ s) :
    Only L s₀ (State.outputSettings s n) := by
  unfold State.outputSettings
  repeat' with_reducible first | exact ho | refine Only.ite ?_ ?_ | refine Only.dite (fun _ => ?_) (fun _ => ?_) | refine State.modSense_only (sub_reach hL rfl) ?_ | refine State.releaseAt_only (sub_reach hL rfl) ?_ | assumption | split | (dsimp -proj only; split)

theorem State.filterReset_only {L : List Part} {s₀ : State} {s : State} {n : SensId} (hL : reach [.stats, .evTimes, .out, .host, .fab, .sense] L = true) (ho : Only L s₀ s) :
    Only L s₀ (State.filterReset s n) := by
  unfold State.filterReset
  repeat' with_reducible first | exact ho | refine Only.ite ?_ ?_ | refine Only.dite (fun _ => ?_) (fun _ => ?_) | refine State.raiseEvery_only (sub_reach hL rfl) ?_ | refine State.modSense_only (sub_reach hL rfl) ?_ | refine State.bump_only (sub_reach hL rfl) ?_ | assumption | split | (dsimp -proj only; split)

theorem State.countOutput_only {L : List Part} {s₀ : State} {s : State} {n : SensId} {erased : Bool} {late : Bool} {gap : Bool} (hL : reach [.stats] L = true) (ho : Only L s₀ s) :
    Only L s₀ (State.countOutput s n erased late gap) := by
  unfold State.countOutput
  repeat' with_reducible first | exact ho | refine Only.ite ?_ ?_ | refine Only.dite (fun _ => ?_) (fun _ => ?_) | refine State.bump_only (sub_reach hL rfl) ?_ | assumption | split | (dsimp -proj only; split)

theorem State.loopsServed_only {L : List Part} {s₀ : State} {s : State} {n : SensId} {kind : Nat} (hL : reach [.loop] L = true) (ho : Only L s₀ s) :
    Only L s₀ (State.loopsServed s n kind) := by
  unfold State.loopsServed
  repeat' with_reducible first | exact ho | refine Only.ite ?_ ?_ | refine Only.dite (fun _ => ?_) (fun _ => ?_) | refine State.modLoop_only (sub_reach hL rfl) ?_ | refine State.forAll_only (fun _ _ _ => ?_) ?_ | assumption | split | (dsimp -proj only; split)

theorem sensorCalEff_only {L : List Part} {s₀ : State} {r : Req} {s : State} (hL : reach [.boot, .sense] L = true) (ho : Only L s₀ s) :
    OnlyEff L s₀ (sensorCalEff r s) := by
  unfold sensorCalEff
  repeat' with_reducible first | refine OnlyEff.done ?_ | refine OnlyEff.run ?_ | refine OnlyEff.ite ?_ ?_ | refine OnlyEff.dite (fun _ => ?_) (fun _ => ?_) | exact ho | refine Only.ite ?_ ?_ | refine Only.dite (fun _ => ?_) (fun _ => ?_) | refine State.modSense_only (sub_reach hL rfl) ?_ | refine State.forAll_only (fun _ _ _ => ?_) ?_ | refine State.dirty_only (sub_reach hL rfl) ?_ | assumption | split | (dsimp -proj only; split)

theorem loopForceEff_only {L : List Part} {s₀ : State} {r : Req} {s : State} (hL : reach [.loop] L = true) (ho : Only L s₀ s) :
    OnlyEff L s₀ (loopForceEff r s) := by
  unfold loopForceEff
  repeat' with_reducible first | refine OnlyEff.done ?_ | refine OnlyEff.run ?_ | refine OnlyEff.ite ?_ ?_ | refine OnlyEff.dite (fun _ => ?_) (fun _ => ?_) | exact ho | refine Only.ite ?_ ?_ | refine Only.dite (fun _ => ?_) (fun _ => ?_) | refine State.modLoop_only (sub_reach hL rfl) ?_ | assumption | split | (dsimp -proj only; split)

end Sys2Proof.Machine
end

