-- ==== Sys2Proof/Laws/InvSense.lean ====
section
/-! SUPPORT. The operations of Machine/Sense.lean keep what always holds. -/

namespace Sys2Proof.Machine
open Sys2Proof

set_option linter.all false

theorem State.calEnds_inv {s : State} {n : SensId} {st : Status} (ho : Inv s) : Inv (State.calEnds s n st) := by
  unfold State.calEnds
  repeat' with_reducible first | exact ho | refine Inv.ite ?_ ?_ | refine Inv.dite (fun _ => ?_) (fun _ => ?_) | refine State.modSense_inv ?_ | refine State.completeRun_inv ?_ | refine State.stick_inv ?_ | assumption | exact rfl | split | (dsimp -proj only; split) | refine inv_set_mgmt ?_

theorem State.senseBreak_inv {s : State} {n : SensId} {cause : Nat} (ho : Inv s) : Inv (State.senseBreak s n cause) := by
  unfold State.senseBreak
  repeat' with_reducible first | exact ho | refine Inv.ite ?_ ?_ | refine Inv.dite (fun _ => ?_) (fun _ => ?_) | refine State.calEnds_inv ?_ | refine State.modSense_inv ?_ | refine State.raise_inv ?_ | refine State.emit_inv ?_ | refine State.stick_inv ?_ | refine State.bump_inv ?_ | assumption | exact rfl | split | (dsimp -proj only; split)

theorem State.outputSettings_inv {s : State} {n : SensId} (ho : Inv s) : Inv (State.outputSettings s n) :=
  inv_only (State.outputSettings_only (L := [.fields, .pend, .sense]) (s := s) (n := n) rfl (Only.refl _ _)) rfl ho

theorem State.filterReset_inv {s : State} {n : SensId} (ho : Inv s) : Inv (State.filterReset s n) := by
  unfold State.filterReset
  repeat' with_reducible first | exact ho | refine Inv.ite ?_ ?_ | refine Inv.dite (fun _ => ?_) (fun _ => ?_) | refine State.raiseEvery_inv ?_ | refine State.modSense_inv ?_ | refine State.bump_inv ?_ | assumption | exact rfl | split | (dsimp -proj only; split)

theorem State.countOutput_inv {s : State} {n : SensId} {erased : Bool} {late : Bool} {gap : Bool} (ho : Inv s) : Inv (State.countOutput s n erased late gap) :=
  inv_only (State.countOutput_only (L := [.stats]) (s := s) (n := n) (erased := erased) (late := late) (gap := gap) rfl (Only.refl _ _)) rfl ho

theorem State.loopsServed_inv {s : State} {n : SensId} {kind : Nat} (ho : Inv s) : Inv (State.loopsServed s n kind) :=
  inv_only (State.loopsServed_only (L := [.loop]) (s := s) (n := n) (kind := kind) rfl (Only.refl _ _)) rfl ho

theorem sensorCalEff_inv {r : Req} {s : State} (ho : Inv s) : InvEff (sensorCalEff r s) :=
  inv_only (sensorCalEff_only (L := [.boot, .sense]) (r := r) (s := s) rfl (Only.refl _ _)) rfl ho

theorem loopForceEff_inv {r : Req} {s : State} (ho : Inv s) : InvEff (loopForceEff r s) :=
  inv_only (loopForceEff_only (L := [.loop]) (r := r) (s := s) rfl (Only.refl _ _)) rfl ho

end Sys2Proof.Machine
end

