-- ==== Sys2Proof/Laws/OnlyStore.lean ====
section
/-! SUPPORT. The parts of the state that each operation of Machine/Store.lean reaches. -/

namespace Sys2Proof.Machine
open Sys2Proof

set_option linter.all false

theorem State.retireTrigger_only {L : List Part} {s₀ : State} {s : State} {m : Chan} (hL : reach [.hold] L = true) (ho : Only L s₀ s) :
    Only L s₀ (State.retireTrigger s m) := by
  unfold State.retireTrigger
  repeat' with_reducible first | exact ho | refine Only.ite ?_ ?_ | refine Only.dite (fun _ => ?_) (fun _ => ?_) | refine State.modChan_only (sub_reach hL rfl) ?_ | assumption | split | (dsimp -proj only; split)

theorem State.storeWatchdog_only {L : List Part} {s₀ : State} {s : State} {m : Chan} (hL : reach [.hold] L = true) (ho : Only L s₀ s) :
    Only L s₀ (State.storeWatchdog s m) := by
  unfold State.storeWatchdog
  repeat' with_reducible first | exact ho | refine Only.ite ?_ ?_ | refine Only.dite (fun _ => ?_) (fun _ => ?_) | refine State.retireTrigger_only (sub_reach hL rfl) ?_ | refine State.modChan_only (sub_reach hL rfl) ?_ | assumption | split | (dsimp -proj only; split)

theorem State.countCe_only {L : List Part} {s₀ : State} {s : State} {m : Chan} {n : Nat} (hL : reach [.stats, .hold] L = true) (ho : Only L s₀ s) :
    Only L s₀ (State.countCe s m n) := by
  unfold State.countCe
  repeat' with_reducible first | exact ho | refine Only.ite ?_ ?_ | refine Only.dite (fun _ => ?_) (fun _ => ?_) | refine State.retireTrigger_only (sub_reach hL rfl) ?_ | refine State.modChan_only (sub_reach hL rfl) ?_ | refine State.bump_only (sub_reach hL rfl) ?_ | assumption | split | (dsimp -proj only; split)

theorem State.countUe_only {L : List Part} {s₀ : State} {s : State} {m : Chan} {n : Nat} (hL : reach [.stats, .evTimes, .out, .host, .hold, .fab] L = true) (ho : Only L s₀ s) :
    Only L s₀ (State.countUe s m n) := by
  unfold State.countUe
  repeat' with_reducible first | exact ho | refine Only.ite ?_ ?_ | refine Only.dite (fun _ => ?_) (fun _ => ?_) | refine State.raiseKey_only (sub_reach hL rfl) ?_ | refine State.retireTrigger_only (sub_reach hL rfl) ?_ | refine State.modChan_only (sub_reach hL rfl) ?_ | refine State.stick_only (sub_reach hL rfl) ?_ | refine State.bump_only (sub_reach hL rfl) ?_ | assumption | split | (dsimp -proj only; split)

theorem State.wordLost_only {L : List Part} {s₀ : State} {s : State} {item : StoreItem} (hL : reach [.stats, .out, .host, .mgmt, .boot, .line, .ctxs, .hold, .fab] L = true) (ho : Only L s₀ s) :
    Only L s₀ (State.wordLost s item) := by
  unfold State.wordLost
  repeat' with_reducible first | exact ho | refine Only.ite ?_ ?_ | refine Only.dite (fun _ => ?_) (fun _ => ?_) | refine State.freeCtx_only (sub_reach hL rfl) ?_ | refine State.dropRoute_only (sub_reach hL rfl) ?_ | refine State.raise_only (sub_reach hL rfl) ?_ | assumption | split | (dsimp -proj only; split) | refine only_set_boot (sub_reach hL rfl) ?_

theorem State.badCopy_only {L : List Part} {s₀ : State} {s : State} {m : Chan} {item : StoreItem} {other : OtherCopy} {block : Nat} (hL : reach [.stats, .out, .host, .mgmt, .boot, .line, .ctxs, .hold, .fab] L = true) (ho : Only L s₀ s) :
    Only L s₀ (State.badCopy s m item other block) := by
  unfold State.badCopy
  repeat' with_reducible first | exact ho | refine Only.ite ?_ ?_ | refine Only.dite (fun _ => ?_) (fun _ => ?_) | refine State.wordLost_only (sub_reach hL rfl) ?_ | refine State.raise_only (sub_reach hL rfl) ?_ | refine State.bump_only (sub_reach hL rfl) ?_ | assumption | split | (dsimp -proj only; split)

theorem State.badWord_only {L : List Part} {s₀ : State} {s : State} {m : Chan} {block : Nat} {item : StoreItem} (hL : reach [.stats, .out, .host, .mgmt, .boot, .line, .ctxs, .hold, .fab] L = true) (ho : Only L s₀ s) :
    Only L s₀ (State.badWord s m block item) := by
  unfold State.badWord
  repeat' with_reducible first | exact ho | refine Only.ite ?_ ?_ | refine Only.dite (fun _ => ?_) (fun _ => ?_) | refine State.badCopy_only (sub_reach hL rfl) ?_ | refine State.dropFrames_only (sub_reach hL rfl) ?_ | refine State.clearSoft_only (sub_reach hL rfl) ?_ | refine State.bump_only (sub_reach hL rfl) ?_ | assumption | split | (dsimp -proj only; split) | refine only_set_hold (sub_reach hL rfl) ?_

theorem State.readWord_only {L : List Part} {s₀ : State} {s : State} {a : StoreAccess} (hL : reach [.stats, .evTimes, .out, .host, .mgmt, .boot, .line, .ctxs, .hold, .fab] L = true) (ho : Only L s₀ s) :
    Only L s₀ (State.readWord s a) := by
  unfold State.readWord
  repeat' with_reducible first | exact ho | refine Only.ite ?_ ?_ | refine Only.dite (fun _ => ?_) (fun _ => ?_) | refine State.badWord_only (sub_reach hL rfl) ?_ | refine State.countUe_only (sub_reach hL rfl) ?_ | refine State.countCe_only (sub_reach hL rfl) ?_ | assumption | split | (dsimp -proj only; split)

theorem State.chanRound_only {L : List Part} {s₀ : State} {s : State} {m : Chan} {cap : Nat} (hL : reach [.hold] L = true) (ho : Only L s₀ s) :
    Only L s₀ (State.chanRound s m cap) := by
  unfold State.chanRound
  repeat' with_reducible first | exact ho | refine Only.ite ?_ ?_ | refine Only.dite (fun _ => ?_) (fun _ => ?_) | refine State.modChan_only (sub_reach hL rfl) ?_ | assumption | split | (dsimp -proj only; split)

theorem State.latchUtil_only {L : List Part} {s₀ : State} {s : State} {m : Chan} (hL : reach [.stats, .hold] L = true) (ho : Only L s₀ s) :
    Only L s₀ (State.latchUtil s m) := by
  unfold State.latchUtil
  repeat' with_reducible first | exact ho | refine Only.ite ?_ ?_ | refine Only.dite (fun _ => ?_) (fun _ => ?_) | refine State.modChan_only (sub_reach hL rfl) ?_ | refine State.report_only (sub_reach hL rfl) ?_ | refine State.forAll_only (fun _ _ _ => ?_) ?_ | assumption | split | (dsimp -proj only; split)

theorem State.retireNow_only {L : List Part} {s₀ : State} {s : State} {m : Chan} (hL : reach [.stats, .out, .host, .qp, .mgmt, .sec, .boot, .hold, .fab] L = true) (ho : Only L s₀ s) :
    Only L s₀ (State.retireNow s m) := by
  unfold State.retireNow
  repeat' with_reducible first | exact ho | refine Only.ite ?_ ?_ | refine Only.dite (fun _ => ?_) (fun _ => ?_) | refine State.maskChan_only (sub_reach hL rfl) ?_ | refine State.completeRun_only (sub_reach hL rfl) ?_ | refine State.modChan_only (sub_reach hL rfl) ?_ | refine State.raise_only (sub_reach hL rfl) ?_ | refine State.emit_only (sub_reach hL rfl) ?_ | refine State.stick_only (sub_reach hL rfl) ?_ | refine State.bump_only (sub_reach hL rfl) ?_ | assumption | split | (dsimp -proj only; split) | refine only_set_hold (sub_reach hL rfl) ?_

theorem State.dropResident_only {L : List Part} {s₀ : State} {s : State} {m : Chan} (hL : reach [.stats, .hold] L = true) (ho : Only L s₀ s) :
    Only L s₀ (State.dropResident s m) := by
  unfold State.dropResident
  repeat' with_reducible first | exact ho | refine Only.ite ?_ ?_ | refine Only.dite (fun _ => ?_) (fun _ => ?_) | refine State.dropFrames_only (sub_reach hL rfl) ?_ | refine State.bump_only (sub_reach hL rfl) ?_ | assumption | split | (dsimp -proj only; split)

theorem storeRetireEff_only {L : List Part} {s₀ : State} {r : Req} {s : State} (hL : reach [.hold] L = true) (ho : Only L s₀ s) :
    OnlyEff L s₀ (storeRetireEff r s) := by
  unfold storeRetireEff
  repeat' with_reducible first | refine OnlyEff.done ?_ | refine OnlyEff.run ?_ | refine OnlyEff.ite ?_ ?_ | refine OnlyEff.dite (fun _ => ?_) (fun _ => ?_) | exact ho | refine Only.ite ?_ ?_ | refine Only.dite (fun _ => ?_) (fun _ => ?_) | refine State.modChan_only (sub_reach hL rfl) ?_ | assumption | split | (dsimp -proj only; split) | refine only_set_hold (sub_reach hL rfl) ?_

theorem State.capStart_only {L : List Part} {s₀ : State} {s : State} (hL : reach [.hold] L = true) (ho : Only L s₀ s) :
    Only L s₀ (State.capStart s) := by
  unfold State.capStart
  repeat' with_reducible first | exact ho | refine Only.ite ?_ ?_ | refine Only.dite (fun _ => ?_) (fun _ => ?_) | assumption | split | (dsimp -proj only; split) | refine only_set_hold (sub_reach hL rfl) ?_

theorem State.capStream_only {L : List Part} {s₀ s : State} {x : Nat × List (Option (List Int))} (hL : reach [.stats, .hold] L = true) (h : Only L s₀ s) :
    Only L s₀ (s.capStream x) := by
  unfold State.capStream
  dsimp only
  refine State.bump_only (sub_reach hL rfl) (State.bump_only (sub_reach hL rfl) ?_)
  generalize (piecesOf 8 _ _).zipIdx = l
  induction l generalizing s with
  | nil => exact h
  | cons y l ih => exact ih (only_set_hold (sub_reach hL rfl) h)

theorem captureArmEff_only {L : List Part} {s₀ : State} {r : Req} {s : State} (hL : reach [.hold] L = true) (ho : Only L s₀ s) :
    OnlyEff L s₀ (captureArmEff r s) := by
  unfold captureArmEff
  repeat' with_reducible first | refine OnlyEff.done ?_ | refine OnlyEff.run ?_ | refine OnlyEff.ite ?_ ?_ | refine OnlyEff.dite (fun _ => ?_) (fun _ => ?_) | exact ho | refine Only.ite ?_ ?_ | refine Only.dite (fun _ => ?_) (fun _ => ?_) | refine State.capStart_only (sub_reach hL rfl) ?_ | assumption | split | (dsimp -proj only; split) | refine only_set_hold (sub_reach hL rfl) ?_

end Sys2Proof.Machine
end

