-- ==== Sys2Proof/Laws/InvStore.lean ====
section
/-! SUPPORT. The operations of Machine/Store.lean keep what always holds. -/

namespace Sys2Proof.Machine
open Sys2Proof

set_option linter.all false

theorem State.retireTrigger_inv {s : State} {m : Chan} (ho : Inv s) : Inv (State.retireTrigger s m) := by
  unfold State.retireTrigger
  repeat' with_reducible first | exact ho | refine Inv.ite ?_ ?_ | refine Inv.dite (fun _ => ?_) (fun _ => ?_) | refine State.modChan_inv ?_ | assumption | exact rfl | split | (dsimp -proj only; split)

theorem State.storeWatchdog_inv {s : State} {m : Chan} (ho : Inv s) : Inv (State.storeWatchdog s m) := by
  unfold State.storeWatchdog
  repeat' with_reducible first | exact ho | refine Inv.ite ?_ ?_ | refine Inv.dite (fun _ => ?_) (fun _ => ?_) | refine State.retireTrigger_inv ?_ | refine State.modChan_inv ?_ | assumption | exact rfl | split | (dsimp -proj only; split)

theorem State.countCe_inv {s : State} {m : Chan} {n : Nat} (ho : Inv s) : Inv (State.countCe s m n) := by
  unfold State.countCe
  repeat' with_reducible first | exact ho | refine Inv.ite ?_ ?_ | refine Inv.dite (fun _ => ?_) (fun _ => ?_) | refine State.retireTrigger_inv ?_ | refine State.modChan_inv ?_ | refine State.bump_inv ?_ | assumption | exact rfl | split | (dsimp -proj only; split)

theorem State.countUe_inv {s : State} {m : Chan} {n : Nat} (ho : Inv s) : Inv (State.countUe s m n) := by
  unfold State.countUe
  repeat' with_reducible first | exact ho | refine Inv.ite ?_ ?_ | refine Inv.dite (fun _ => ?_) (fun _ => ?_) | refine State.raiseKey_inv ?_ | refine State.retireTrigger_inv ?_ | refine State.modChan_inv ?_ | refine State.stick_inv ?_ | refine State.bump_inv ?_ | assumption | exact rfl | split | (dsimp -proj only; split)

theorem State.wordLost_inv {s : State} {item : StoreItem} (ho : Inv s) : Inv (State.wordLost s item) := by
  unfold State.wordLost
  repeat' with_reducible first | exact ho | refine Inv.ite ?_ ?_ | refine Inv.dite (fun _ => ?_) (fun _ => ?_) | refine State.freeCtx_inv ?_ | refine State.dropRoute_inv ?_ | refine State.raise_inv ?_ | assumption | exact rfl | split | (dsimp -proj only; split) | refine inv_set_boot ?_

theorem State.badCopy_inv {s : State} {m : Chan} {item : StoreItem} {other : OtherCopy} {block : Nat} (ho : Inv s) : Inv (State.badCopy s m item other block) := by
  unfold State.badCopy
  repeat' with_reducible first | exact ho | refine Inv.ite ?_ ?_ | refine Inv.dite (fun _ => ?_) (fun _ => ?_) | refine State.wordLost_inv ?_ | refine State.raise_inv ?_ | refine State.bump_inv ?_ | assumption | exact rfl | split | (dsimp -proj only; split)

theorem State.badWord_inv {s : State} {m : Chan} {block : Nat} {item : StoreItem} (ho : Inv s) : Inv (State.badWord s m block item) := by
  unfold State.badWord
  repeat' with_reducible first | exact ho | refine Inv.ite ?_ ?_ | refine Inv.dite (fun _ => ?_) (fun _ => ?_) | refine State.badCopy_inv ?_ | refine State.dropFrames_inv ?_ | refine State.clearSoft_inv ?_ | refine State.bump_inv ?_ | assumption | exact rfl | split | (dsimp -proj only; split) | refine inv_set_hold ?_ ?_

theorem State.readWord_inv {s : State} {a : StoreAccess} (ho : Inv s) : Inv (State.readWord s a) := by
  unfold State.readWord
  repeat' with_reducible first | exact ho | refine Inv.ite ?_ ?_ | refine Inv.dite (fun _ => ?_) (fun _ => ?_) | refine State.badWord_inv ?_ | refine State.countUe_inv ?_ | refine State.countCe_inv ?_ | assumption | exact rfl | split | (dsimp -proj only; split)

theorem State.chanRound_inv {s : State} {m : Chan} {cap : Nat} (ho : Inv s) : Inv (State.chanRound s m cap) := by
  unfold State.chanRound
  repeat' with_reducible first | exact ho | refine Inv.ite ?_ ?_ | refine Inv.dite (fun _ => ?_) (fun _ => ?_) | refine State.modChan_inv ?_ | assumption | exact rfl | split | (dsimp -proj only; split)

theorem State.latchUtil_inv {s : State} {m : Chan} (ho : Inv s) : Inv (State.latchUtil s m) := by
  unfold State.latchUtil
  repeat' with_reducible first | exact ho | refine Inv.ite ?_ ?_ | refine Inv.dite (fun _ => ?_) (fun _ => ?_) | refine State.modChan_inv ?_ | refine State.report_inv ?_ | refine State.forAll_inv (fun _ _ _ => ?_) ?_ | assumption | exact rfl | split | (dsimp -proj only; split)

theorem State.retireNow_inv {s : State} {m : Chan} (ho : Inv s) : Inv (State.retireNow s m) := by
  unfold State.retireNow
  repeat' with_reducible first | exact ho | refine Inv.ite ?_ ?_ | refine Inv.dite (fun _ => ?_) (fun _ => ?_) | refine State.maskChan_inv ?_ | refine State.completeRun_inv ?_ | refine State.modChan_inv ?_ | refine State.raise_inv ?_ | refine State.emit_inv ?_ | refine State.stick_inv ?_ | refine State.bump_inv ?_ | assumption | exact rfl | split | (dsimp -proj only; split) | refine inv_set_hold ?_ ?_

theorem State.dropResident_inv {s : State} {m : Chan} (ho : Inv s) : Inv (State.dropResident s m) := by
  unfold State.dropResident
  repeat' with_reducible first | exact ho | refine Inv.ite ?_ ?_ | refine Inv.dite (fun _ => ?_) (fun _ => ?_) | refine State.dropFrames_inv ?_ | refine State.bump_inv ?_ | assumption | exact rfl | split | (dsimp -proj only; split)

theorem storeRetireEff_inv {r : Req} {s : State} (ho : Inv s) : InvEff (storeRetireEff r s) := by
  unfold storeRetireEff
  repeat' with_reducible first | refine InvEff.done ?_ | refine InvEff.run ?_ | refine InvEff.ite ?_ ?_ | refine InvEff.dite (fun _ => ?_) (fun _ => ?_) | exact ho | refine Inv.ite ?_ ?_ | refine Inv.dite (fun _ => ?_) (fun _ => ?_) | refine State.modChan_inv ?_ | assumption | exact rfl | split | (dsimp -proj only; split) | refine inv_set_hold ?_ ?_

theorem State.capStart_inv {s : State} (ho : Inv s) : Inv (State.capStart s) := by
  unfold State.capStart
  repeat' with_reducible first | exact ho | refine Inv.ite ?_ ?_ | refine Inv.dite (fun _ => ?_) (fun _ => ?_) | assumption | exact rfl | split | (dsimp -proj only; split) | refine inv_set_hold ?_ ?_

theorem State.capStream_inv {s : State} {x : Nat × List (Option (List Int))} (h : Inv s) :
    Inv (s.capStream x) := by
  unfold State.capStream
  dsimp only
  refine State.bump_inv (State.bump_inv ?_)
  generalize (piecesOf 8 _ _).zipIdx = l
  induction l generalizing s with
  | nil => exact h
  | cons y l ih => exact ih (inv_set_hold rfl h)

theorem captureArmEff_inv {r : Req} {s : State} (ho : Inv s) : InvEff (captureArmEff r s) := by
  unfold captureArmEff
  repeat' with_reducible first | refine InvEff.done ?_ | refine InvEff.run ?_ | refine InvEff.ite ?_ ?_ | refine InvEff.dite (fun _ => ?_) (fun _ => ?_) | exact ho | refine Inv.ite ?_ ?_ | refine Inv.dite (fun _ => ?_) (fun _ => ?_) | refine State.capStart_inv ?_ | assumption | exact rfl | split | (dsimp -proj only; split) | refine inv_set_hold ?_ ?_

end Sys2Proof.Machine
end

