-- ==== Sys2Proof/Laws/OnlyBringup.lean ====
section
/-! SUPPORT. The parts of the state that each operation of Machine/Bringup.lean reaches. -/

namespace Sys2Proof.Machine
open Sys2Proof

set_option linter.all false

theorem State.loadUc_only {L : List Part} {s₀ : State} {s : State} {b : Berth} (hL : reach [.stats, .berth] L = true) (ho : Only L s₀ s) :
    Only L s₀ (State.loadUc s b) := by
  unfold State.loadUc
  repeat' with_reducible first | exact ho | refine Only.ite ?_ ?_ | refine Only.dite (fun _ => ?_) (fun _ => ?_) | refine State.report_only (sub_reach hL rfl) ?_ | refine State.modBerth_only (sub_reach hL rfl) ?_ | assumption | split | (dsimp -proj only; split)

theorem State.openChans_only {L : List Part} {s₀ : State} {s : State} {k : DomId} (hL : reach [.hold] L = true) (ho : Only L s₀ s) :
    Only L s₀ (State.openChans s k) := by
  unfold State.openChans
  repeat' with_reducible first | exact ho | refine Only.ite ?_ ?_ | refine Only.dite (fun _ => ?_) (fun _ => ?_) | refine State.modChan_only (sub_reach hL rfl) ?_ | refine State.forAll_only (fun _ _ _ => ?_) ?_ | assumption | split | (dsimp -proj only; split)

theorem State.domReady_only {L : List Part} {s₀ : State} {s : State} {k : DomId} (hL : reach [.fields, .pend, .stats, .out, .entropyCtr, .host, .mgmt, .live, .berth, .line, .ctxs, .hold, .eth, .fab, .sense] L = true) (ho : Only L s₀ s) :
    Only L s₀ (State.domReady s k) := by
  unfold State.domReady
  repeat' with_reducible first | exact ho | refine Only.ite ?_ ?_ | refine Only.dite (fun _ => ?_) (fun _ => ?_) | refine State.openChans_only (sub_reach hL rfl) ?_ | refine State.loadUc_only (sub_reach hL rfl) ?_ | refine State.modSense_only (sub_reach hL rfl) ?_ | refine State.raiseLink_only (sub_reach hL rfl) ?_ | refine State.startPort_only (sub_reach hL rfl) ?_ | refine State.berthReturns_only (sub_reach hL rfl) ?_ | refine State.modLine_only (sub_reach hL rfl) ?_ | refine State.forAll_only (fun _ _ _ => ?_) ?_ | assumption | split | (dsimp -proj only; split) | refine only_set_live (sub_reach hL rfl) ?_ | refine only_set_hold (sub_reach hL rfl) ?_

theorem State.bootFault5_only {L : List Part} {s₀ : State} {s : State} (hL : reach [.stats, .out, .dom, .host, .mgmt, .boot, .berth] L = true) (ho : Only L s₀ s) :
    Only L s₀ (State.bootFault5 s) := by
  unfold State.bootFault5
  repeat' with_reducible first | exact ho | refine Only.ite ?_ ?_ | refine Only.dite (fun _ => ?_) (fun _ => ?_) | refine State.stopBoot_only (sub_reach hL rfl) ?_ | assumption | split | (dsimp -proj only; split)

theorem State.settleReturns_only {L : List Part} {s₀ : State} {s : State} (hL : reach [.stats, .out, .host, .qp, .mgmt, .boot, .fab] L = true) (ho : Only L s₀ s) :
    Only L s₀ (State.settleReturns s) := by
  unfold State.settleReturns
  repeat' with_reducible first | exact ho | refine Only.ite ?_ ?_ | refine Only.dite (fun _ => ?_) (fun _ => ?_) | refine State.completeRun_only (sub_reach hL rfl) ?_ | refine State.forAll_only (fun _ _ _ => ?_) ?_ | assumption | split | (dsimp -proj only; split)

theorem State.eraseItem_only {L : List Part} {s₀ : State} {s : State} {k : DomId} {item : UnitItem} (hL : reach [.stats, .out, .qp, .mgmt, .berth, .line, .ctxs, .mesh, .hold] L = true) (ho : Only L s₀ s) :
    Only L s₀ (State.eraseItem s k item) := by
  unfold State.eraseItem
  repeat' with_reducible first | exact ho | refine Only.ite ?_ ?_ | refine Only.dite (fun _ => ?_) (fun _ => ?_) | refine State.storeWatchdog_only (sub_reach hL rfl) ?_ | refine State.eraseSymbol_only (sub_reach hL rfl) ?_ | refine State.failCw_only (sub_reach hL rfl) ?_ | refine State.abortTx_only (sub_reach hL rfl) ?_ | refine State.modBerth_only (sub_reach hL rfl) ?_ | assumption | split | (dsimp -proj only; split)

theorem State.stepLoops_only {L : List Part} {s₀ : State} {s : State} (hL : reach [.fields, .pend, .stats, .out, .loop] L = true) (ho : Only L s₀ s) :
    Only L s₀ (State.stepLoops s) := by
  unfold State.stepLoops
  repeat' with_reducible first | exact ho | refine Only.ite ?_ ?_ | refine Only.dite (fun _ => ?_) (fun _ => ?_) | refine State.loopStep_only (sub_reach hL rfl) ?_ | refine State.forAll_only (fun _ _ _ => ?_) ?_ | assumption | split | (dsimp -proj only; split)

theorem State.faultPowered_only {L : List Part} {s₀ : State} {s : State} {k : DomId} (hL : reach [.stats, .out, .dom, .host, .qp, .mgmt, .boot, .berth, .line, .ctxs, .hold, .fab] L = true) (ho : Only L s₀ s) :
    Only L s₀ (State.faultPowered s k) := by
  unfold State.faultPowered
  repeat' with_reducible first | exact ho | refine Only.ite ?_ ?_ | refine Only.dite (fun _ => ?_) (fun _ => ?_) | refine State.clusterFault_only (sub_reach hL rfl) ?_ | assumption | split | (dsimp -proj only; split)

theorem State.pmbPoll_only {L : List Part} {s₀ : State} {s : State} {x : Nat × Option (BitVec 16)} (hL : reach [.stats, .out] L = true) (ho : Only L s₀ s) :
    Only L s₀ (State.pmbPoll s x) := by
  unfold State.pmbPoll
  repeat' with_reducible first | exact ho | refine Only.ite ?_ ?_ | refine Only.dite (fun _ => ?_) (fun _ => ?_) | refine State.emit_only (sub_reach hL rfl) ?_ | refine State.bump_only (sub_reach hL rfl) ?_ | refine State.statSet_only (sub_reach hL rfl) ?_ | assumption | split | (dsimp -proj only; split)

end Sys2Proof.Machine
end

