-- ==== Sys2Proof/Laws/InvBringup.lean ====
section
/-! SUPPORT. The operations of Machine/Bringup.lean keep what always holds. -/

namespace Sys2Proof.Machine
open Sys2Proof

set_option linter.all false

theorem State.loadUc_inv {s : State} {b : Berth} (ho : Inv s) : Inv (State.loadUc s b) :=
  inv_only (State.loadUc_only (L := [.stats, .berth]) (s := s) (b := b) rfl (Only.refl _ _)) rfl ho

theorem State.openChans_inv {s : State} {k : DomId} (ho : Inv s) : Inv (State.openChans s k) := by
  unfold State.openChans
  repeat' with_reducible first | exact ho | refine Inv.ite ?_ ?_ | refine Inv.dite (fun _ => ?_) (fun _ => ?_) | refine State.modChan_inv ?_ | refine State.forAll_inv (fun _ _ _ => ?_) ?_ | assumption | exact rfl | split | (dsimp -proj only; split)

theorem State.domReady_inv {s : State} {k : DomId} (ho : Inv s) : Inv (State.domReady s k) := by
  unfold State.domReady
  repeat' with_reducible first | exact ho | refine Inv.ite ?_ ?_ | refine Inv.dite (fun _ => ?_) (fun _ => ?_) | refine State.openChans_inv ?_ | refine State.loadUc_inv ?_ | refine State.modSense_inv ?_ | refine State.raiseLink_inv ?_ | refine State.startPort_inv ?_ | refine State.berthReturns_inv ?_ | refine State.modLine_inv ?_ | refine State.forAll_inv (fun _ _ _ => ?_) ?_ | assumption | exact rfl | split | (dsimp -proj only; split) | refine inv_set_live ?_ | refine inv_set_hold ?_ ?_

theorem State.bootFault5_inv {s : State} (ho : Inv s) : Inv (State.bootFault5 s) := by
  unfold State.bootFault5
  repeat' with_reducible first | exact ho | refine Inv.ite ?_ ?_ | refine Inv.dite (fun _ => ?_) (fun _ => ?_) | refine State.stopBoot_inv ?_ | assumption | exact rfl | split | (dsimp -proj only; split)

theorem State.settleReturns_inv {s : State} (ho : Inv s) : Inv (State.settleReturns s) := by
  unfold State.settleReturns
  repeat' with_reducible first | exact ho | refine Inv.ite ?_ ?_ | refine Inv.dite (fun _ => ?_) (fun _ => ?_) | refine State.completeRun_inv ?_ | refine State.forAll_inv (fun _ _ _ => ?_) ?_ | assumption | exact rfl | split | (dsimp -proj only; split)

theorem State.eraseItem_inv {s : State} {k : DomId} {item : UnitItem} (ho : Inv s) : Inv (State.eraseItem s k item) := by
  unfold State.eraseItem
  repeat' with_reducible first | exact ho | refine Inv.ite ?_ ?_ | refine Inv.dite (fun _ => ?_) (fun _ => ?_) | refine State.storeWatchdog_inv ?_ | refine State.eraseSymbol_inv ?_ | refine State.failCw_inv ?_ | refine State.abortTx_inv ?_ | refine State.modBerth_inv ?_ | assumption | exact rfl | split | (dsimp -proj only; split)

theorem State.stepLoops_inv {s : State} (ho : Inv s) : Inv (State.stepLoops s) :=
  inv_only (State.stepLoops_only (L := [.fields, .pend, .stats, .out, .loop]) (s := s) rfl (Only.refl _ _)) rfl ho

theorem State.faultPowered_inv {s : State} {k : DomId} (ho : Inv s) : Inv (State.faultPowered s k) := by
  unfold State.faultPowered
  repeat' with_reducible first | exact ho | refine Inv.ite ?_ ?_ | refine Inv.dite (fun _ => ?_) (fun _ => ?_) | refine State.clusterFault_inv ?_ | assumption | exact rfl | split | (dsimp -proj only; split)

end Sys2Proof.Machine
end

