-- ==== Sys2Proof/Laws/OnlyClock.lean ====
section
/-! SUPPORT. The parts of the state that each operation of Machine/Clock.lean reaches. -/

namespace Sys2Proof.Machine
open Sys2Proof

set_option linter.all false

theorem State.clkHist_only {L : List Part} {s₀ : State} {s : State} {x : Stat} (hL : reach [.stats, .out, .host] L = true) (ho : Only L s₀ s) :
    Only L s₀ (State.clkHist s x) := by
  unfold State.clkHist
  repeat' with_reducible first | exact ho | refine Only.ite ?_ ?_ | refine Only.dite (fun _ => ?_) (fun _ => ?_) | refine State.cause_only (sub_reach hL rfl) ?_ | refine State.stick_only (sub_reach hL rfl) ?_ | assumption | split | (dsimp -proj only; split)

theorem State.holdOutputs_only {L : List Part} {s₀ : State} {s : State} (hL : reach [.out, .live] L = true) (ho : Only L s₀ s) :
    Only L s₀ (State.holdOutputs s) := by
  unfold State.holdOutputs
  repeat' with_reducible first | exact ho | refine Only.ite ?_ ?_ | refine Only.dite (fun _ => ?_) (fun _ => ?_) | refine State.emit_only (sub_reach hL rfl) ?_ | assumption | split | (dsimp -proj only; split) | refine only_set_live (sub_reach hL rfl) ?_

theorem State.clkEnter_only {L : List Part} {s₀ : State} {s : State} {st : ClkSt} (hL : reach [.stats, .out, .host, .live, .fab, .clk] L = true) (ho : Only L s₀ s) :
    Only L s₀ (State.clkEnter s st) := by
  unfold State.clkEnter
  repeat' with_reducible first | exact ho | refine Only.ite ?_ ?_ | refine Only.dite (fun _ => ?_) (fun _ => ?_) | refine State.holdOutputs_only (sub_reach hL rfl) ?_ | refine State.clkHist_only (sub_reach hL rfl) ?_ | refine State.raise_only (sub_reach hL rfl) ?_ | refine State.bump_only (sub_reach hL rfl) ?_ | assumption | split | (dsimp -proj only; split) | refine only_set_clk (sub_reach hL rfl) ?_

theorem State.clkJudge_only {L : List Part} {s₀ : State} {s : State} (hL : reach [.stats, .out, .host, .live, .fab, .clk] L = true) (ho : Only L s₀ s) :
    Only L s₀ (State.clkJudge s) := by
  unfold State.clkJudge
  repeat' with_reducible first | exact ho | refine Only.ite ?_ ?_ | refine Only.dite (fun _ => ?_) (fun _ => ?_) | refine State.modClk_only (sub_reach hL rfl) ?_ | refine State.clkEnter_only (sub_reach hL rfl) ?_ | assumption | split | (dsimp -proj only; split)

theorem State.esmcEvents_only {L : List Part} {s₀ : State} {s : State} (hL : reach [.out, .eth] L = true) (ho : Only L s₀ s) :
    Only L s₀ (State.esmcEvents s) := by
  unfold State.esmcEvents
  repeat' with_reducible first | exact ho | refine Only.ite ?_ ?_ | refine Only.dite (fun _ => ?_) (fun _ => ?_) | refine State.modEth_only (sub_reach hL rfl) ?_ | refine State.emit_only (sub_reach hL rfl) ?_ | refine State.forAll_only (fun _ _ _ => ?_) ?_ | assumption | split | (dsimp -proj only; split)

theorem State.refSwitched_only {L : List Part} {s₀ : State} {s : State} {i : InputId} (hL : reach [.stats, .out, .host, .fab] L = true) (ho : Only L s₀ s) :
    Only L s₀ (State.refSwitched s i) := by
  unfold State.refSwitched
  repeat' with_reducible first | exact ho | refine Only.ite ?_ ?_ | refine Only.dite (fun _ => ?_) (fun _ => ?_) | refine State.clkHist_only (sub_reach hL rfl) ?_ | refine State.raise_only (sub_reach hL rfl) ?_ | refine State.bump_only (sub_reach hL rfl) ?_ | assumption | split | (dsimp -proj only; split)

theorem State.clkSelect_only {L : List Part} {s₀ : State} {s : State} (hL : reach [.stats, .out, .host, .live, .eth, .fab, .clk] L = true) (ho : Only L s₀ s) :
    Only L s₀ (State.clkSelect s) := by
  unfold State.clkSelect
  repeat' with_reducible first | exact ho | refine Only.ite ?_ ?_ | refine Only.dite (fun _ => ?_) (fun _ => ?_) | refine State.refSwitched_only (sub_reach hL rfl) ?_ | refine State.esmcEvents_only (sub_reach hL rfl) ?_ | refine State.clkJudge_only (sub_reach hL rfl) ?_ | refine State.modClk_only (sub_reach hL rfl) ?_ | refine State.clkHist_only (sub_reach hL rfl) ?_ | assumption | split | (dsimp -proj only; split)

theorem State.modIn_only {L : List Part} {s₀ : State} {s : State} {i : InputId} {f : ClkIn → ClkIn} (hL : reach [.clk] L = true) (ho : Only L s₀ s) :
    Only L s₀ (State.modIn s i f) := by
  unfold State.modIn
  repeat' with_reducible first | exact ho | refine Only.ite ?_ ?_ | refine Only.dite (fun _ => ?_) (fun _ => ?_) | refine State.modClk_only (sub_reach hL rfl) ?_ | assumption | split | (dsimp -proj only; split)

theorem State.setReason_only {L : List Part} {s₀ : State} {s : State} {i : InputId} {c : Nat} (hL : reach [.stats, .clk] L = true) (ho : Only L s₀ s) :
    Only L s₀ (State.setReason s i c) := by
  unfold State.setReason
  repeat' with_reducible first | exact ho | refine Only.ite ?_ ?_ | refine Only.dite (fun _ => ?_) (fun _ => ?_) | refine State.modIn_only (sub_reach hL rfl) ?_ | refine State.bump_only (sub_reach hL rfl) ?_ | assumption | split | (dsimp -proj only; split)

theorem State.clearReason_only {L : List Part} {s₀ : State} {s : State} {i : InputId} {c : Nat} (hL : reach [.clk] L = true) (ho : Only L s₀ s) :
    Only L s₀ (State.clearReason s i c) := by
  unfold State.clearReason
  repeat' with_reducible first | exact ho | refine Only.ite ?_ ?_ | refine Only.dite (fun _ => ?_) (fun _ => ?_) | refine State.modIn_only (sub_reach hL rfl) ?_ | assumption | split | (dsimp -proj only; split)

theorem State.putReason_only {L : List Part} {s₀ : State} {s : State} {i : InputId} {c : Nat} {on : Bool} (hL : reach [.stats, .clk] L = true) (ho : Only L s₀ s) :
    Only L s₀ (State.putReason s i c on) := by
  unfold State.putReason
  repeat' with_reducible first | exact ho | refine Only.ite ?_ ?_ | refine Only.dite (fun _ => ?_) (fun _ => ?_) | refine State.clearReason_only (sub_reach hL rfl) ?_ | refine State.setReason_only (sub_reach hL rfl) ?_ | assumption | split | (dsimp -proj only; split)

theorem State.setRank_only {L : List Part} {s₀ : State} {s : State} {i : InputId} {r : Nat} (hL : reach [.stats, .clk] L = true) (ho : Only L s₀ s) :
    Only L s₀ (State.setRank s i r) := by
  unfold State.setRank
  repeat' with_reducible first | exact ho | refine Only.ite ?_ ?_ | refine Only.dite (fun _ => ?_) (fun _ => ?_) | refine State.putReason_only (sub_reach hL rfl) ?_ | refine State.modIn_only (sub_reach hL rfl) ?_ | assumption | split | (dsimp -proj only; split)

theorem State.setCodes_only {L : List Part} {s₀ : State} {s : State} {i : InputId} {ssm : Nat} {enh : Nat} (hL : reach [.stats, .clk] L = true) (ho : Only L s₀ s) :
    Only L s₀ (State.setCodes s i ssm enh) := by
  unfold State.setCodes
  repeat' with_reducible first | exact ho | refine Only.ite ?_ ?_ | refine Only.dite (fun _ => ?_) (fun _ => ?_) | refine State.setRank_only (sub_reach hL rfl) ?_ | refine State.bump_only (sub_reach hL rfl) ?_ | assumption | split | (dsimp -proj only; split)

theorem State.judgeDrift_only {L : List Part} {s₀ : State} {s : State} {i : InputId} {pm : Option Int} {pt : Option Int} (hL : reach [.stats, .out, .host, .fab, .clk] L = true) (ho : Only L s₀ s) :
    Only L s₀ (State.judgeDrift s i pm pt) := by
  unfold State.judgeDrift
  repeat' with_reducible first | exact ho | refine Only.ite ?_ ?_ | refine Only.dite (fun _ => ?_) (fun _ => ?_) | refine State.clearReason_only (sub_reach hL rfl) ?_ | refine State.setReason_only (sub_reach hL rfl) ?_ | refine State.modIn_only (sub_reach hL rfl) ?_ | refine State.clkHist_only (sub_reach hL rfl) ?_ | refine State.raise_only (sub_reach hL rfl) ?_ | assumption | split | (dsimp -proj only; split)

theorem State.judgePair_only {L : List Part} {s₀ : State} {s : State} {i : InputId} {j : InputId} (hL : reach [.stats, .out, .host, .fab, .clk] L = true) (ho : Only L s₀ s) :
    Only L s₀ (State.judgePair s i j) := by
  unfold State.judgePair
  repeat' with_reducible first | exact ho | refine Only.ite ?_ ?_ | refine Only.dite (fun _ => ?_) (fun _ => ?_) | refine State.modClk_only (sub_reach hL rfl) ?_ | refine State.clkHist_only (sub_reach hL rfl) ?_ | refine State.raise_only (sub_reach hL rfl) ?_ | assumption | split | (dsimp -proj only; split)

theorem State.clkTick_only {L : List Part} {s₀ : State} {s : State} (hL : reach [.clk] L = true) (ho : Only L s₀ s) :
    Only L s₀ (State.clkTick s) := by
  unfold State.clkTick
  repeat' with_reducible first | exact ho | refine Only.ite ?_ ?_ | refine Only.dite (fun _ => ?_) (fun _ => ?_) | refine State.modClk_only (sub_reach hL rfl) ?_ | assumption | split | (dsimp -proj only; split)

theorem State.clkErr_only {L : List Part} {s₀ : State} {s : State} (hL : reach [.clk] L = true) (ho : Only L s₀ s) :
    Only L s₀ (State.clkErr s) := by
  unfold State.clkErr
  repeat' with_reducible first | exact ho | refine Only.ite ?_ ?_ | refine Only.dite (fun _ => ?_) (fun _ => ?_) | refine State.modClk_only (sub_reach hL rfl) ?_ | assumption | split | (dsimp -proj only; split)

theorem State.clkStep_only {L : List Part} {s₀ : State} {s : State} (hL : reach [.out, .live, .clk] L = true) (ho : Only L s₀ s) :
    Only L s₀ (State.clkStep s) := by
  unfold State.clkStep
  repeat' with_reducible first | exact ho | refine Only.ite ?_ ?_ | refine Only.dite (fun _ => ?_) (fun _ => ?_) | refine State.modIn_only (sub_reach hL rfl) ?_ | refine State.modClk_only (sub_reach hL rfl) ?_ | refine State.holdOutputs_only (sub_reach hL rfl) ?_ | assumption | split | (dsimp -proj only; split)

theorem State.takeMeas_only {L : List Part} {s₀ : State} {s : State} {m : InputMeas} (hL : reach [.stats, .clk] L = true) (ho : Only L s₀ s) :
    Only L s₀ (State.takeMeas s m) := by
  unfold State.takeMeas
  repeat' with_reducible first | exact ho | refine Only.ite ?_ ?_ | refine Only.dite (fun _ => ?_) (fun _ => ?_) | refine State.setRank_only (sub_reach hL rfl) ?_ | refine State.putReason_only (sub_reach hL rfl) ?_ | refine State.modIn_only (sub_reach hL rfl) ?_ | assumption | split | (dsimp -proj only; split)

theorem State.modRef_only {L : List Part} {s₀ : State} {s : State} {r : Fin 2} {f : RefTod → RefTod} (hL : reach [.clk] L = true) (ho : Only L s₀ s) :
    Only L s₀ (State.modRef s r f) := by
  unfold State.modRef
  repeat' with_reducible first | exact ho | refine Only.ite ?_ ?_ | refine Only.dite (fun _ => ?_) (fun _ => ?_) | refine State.modClk_only (sub_reach hL rfl) ?_ | assumption | split | (dsimp -proj only; split)

theorem State.todMissed_only {L : List Part} {s₀ : State} {s : State} {r : Fin 2} (hL : reach [.stats, .clk] L = true) (ho : Only L s₀ s) :
    Only L s₀ (State.todMissed s r) := by
  unfold State.todMissed
  repeat' with_reducible first | exact ho | refine Only.ite ?_ ?_ | refine Only.dite (fun _ => ?_) (fun _ => ?_) | refine State.modRef_only (sub_reach hL rfl) ?_ | refine State.setRank_only (sub_reach hL rfl) ?_ | refine State.setReason_only (sub_reach hL rfl) ?_ | assumption | split | (dsimp -proj only; split)

theorem clockForceEff_only {L : List Part} {s₀ : State} {r : Req} {s : State} (hL : reach [.stats, .out, .host, .live, .eth, .fab, .clk] L = true) (h : Only L s₀ s) :
    OnlyEff L s₀ (clockForceEff r s) := by
  have hf : ∀ f, Only L s₀ (s.modClk f).clkSelect := fun f => State.clkSelect_only (sub_reach hL rfl) (State.modClk_only (sub_reach hL rfl) h)
  unfold clockForceEff
  generalize bitsAt r.body 0 8 = act
  generalize bitsAt r.body 8 8 = inp
  refine OnlyEff.ite h (OnlyEff.ite h (OnlyEff.ite h (OnlyEff.dite (fun _ => ?_) (fun _ => h))))
  dsimp only
  repeat' split
  all_goals first | exact h | exact hf _

end Sys2Proof.Machine
end

