-- ==== Sys2Proof/Laws/InvClock.lean ====
section
/-! SUPPORT. The operations of Machine/Clock.lean keep what always holds. -/

namespace Sys2Proof.Machine
open Sys2Proof

set_option linter.all false

theorem State.clkHist_inv {s : State} {x : Stat} (ho : Inv s) : Inv (State.clkHist s x) := by
  unfold State.clkHist
  repeat' with_reducible first | exact ho | refine Inv.ite ?_ ?_ | refine Inv.dite (fun _ => ?_) (fun _ => ?_) | refine State.cause_inv ?_ | refine State.stick_inv ?_ | assumption | exact rfl | split | (dsimp -proj only; split)

theorem State.holdOutputs_inv {s : State} (ho : Inv s) : Inv (State.holdOutputs s) :=
  inv_only (State.holdOutputs_only (L := [.out, .live]) (s := s) rfl (Only.refl _ _)) rfl ho

theorem State.clkEnter_inv {s : State} {st : ClkSt} (ho : Inv s) : Inv (State.clkEnter s st) := by
  unfold State.clkEnter
  repeat' with_reducible first | exact ho | refine Inv.ite ?_ ?_ | refine Inv.dite (fun _ => ?_) (fun _ => ?_) | refine State.holdOutputs_inv ?_ | refine State.clkHist_inv ?_ | refine State.raise_inv ?_ | refine State.bump_inv ?_ | assumption | exact rfl | split | (dsimp -proj only; split) | refine inv_set_clk ?_

theorem State.clkJudge_inv {s : State} (ho : Inv s) : Inv (State.clkJudge s) := by
  unfold State.clkJudge
  repeat' with_reducible first | exact ho | refine Inv.ite ?_ ?_ | refine Inv.dite (fun _ => ?_) (fun _ => ?_) | refine State.modClk_inv ?_ | refine State.clkEnter_inv ?_ | assumption | exact rfl | split | (dsimp -proj only; split)

theorem State.esmcEvents_inv {s : State} (ho : Inv s) : Inv (State.esmcEvents s) :=
  inv_only (State.esmcEvents_only (L := [.out, .eth]) (s := s) rfl (Only.refl _ _)) rfl ho

theorem State.refSwitched_inv {s : State} {i : InputId} (ho : Inv s) : Inv (State.refSwitched s i) := by
  unfold State.refSwitched
  repeat' with_reducible first | exact ho | refine Inv.ite ?_ ?_ | refine Inv.dite (fun _ => ?_) (fun _ => ?_) | refine State.clkHist_inv ?_ | refine State.raise_inv ?_ | refine State.bump_inv ?_ | assumption | exact rfl | split | (dsimp -proj only; split)

theorem State.clkSelect_inv {s : State} (ho : Inv s) : Inv (State.clkSelect s) := by
  unfold State.clkSelect
  repeat' with_reducible first | exact ho | refine Inv.ite ?_ ?_ | refine Inv.dite (fun _ => ?_) (fun _ => ?_) | refine State.refSwitched_inv ?_ | refine State.esmcEvents_inv ?_ | refine State.clkJudge_inv ?_ | refine State.modClk_inv ?_ | refine State.clkHist_inv ?_ | assumption | exact rfl | split | (dsimp -proj only; split)

theorem State.modIn_inv {s : State} {i : InputId} {f : ClkIn → ClkIn} (ho : Inv s) : Inv (State.modIn s i f) :=
  inv_only (State.modIn_only (L := [.clk]) (s := s) (i := i) (f := f) rfl (Only.refl _ _)) rfl ho

theorem State.setReason_inv {s : State} {i : InputId} {c : Nat} (ho : Inv s) : Inv (State.setReason s i c) :=
  inv_only (State.setReason_only (L := [.stats, .clk]) (s := s) (i := i) (c := c) rfl (Only.refl _ _)) rfl ho

theorem State.clearReason_inv {s : State} {i : InputId} {c : Nat} (ho : Inv s) : Inv (State.clearReason s i c) :=
  inv_only (State.clearReason_only (L := [.clk]) (s := s) (i := i) (c := c) rfl (Only.refl _ _)) rfl ho

theorem State.putReason_inv {s : State} {i : InputId} {c : Nat} {on : Bool} (ho : Inv s) : Inv (State.putReason s i c on) :=
  inv_only (State.putReason_only (L := [.stats, .clk]) (s := s) (i := i) (c := c) (on := on) rfl (Only.refl _ _)) rfl ho

theorem State.setRank_inv {s : State} {i : InputId} {r : Nat} (ho : Inv s) : Inv (State.setRank s i r) :=
  inv_only (State.setRank_only (L := [.stats, .clk]) (s := s) (i := i) (r := r) rfl (Only.refl _ _)) rfl ho

theorem State.setCodes_inv {s : State} {i : InputId} {ssm : Nat} {enh : Nat} (ho : Inv s) : Inv (State.setCodes s i ssm enh) :=
  inv_only (State.setCodes_only (L := [.stats, .clk]) (s := s) (i := i) (ssm := ssm) (enh := enh) rfl (Only.refl _ _)) rfl ho

theorem State.judgeDrift_inv {s : State} {i : InputId} {pm : Option Int} {pt : Option Int} (ho : Inv s) : Inv (State.judgeDrift s i pm pt) := by
  unfold State.judgeDrift
  repeat' with_reducible first | exact ho | refine Inv.ite ?_ ?_ | refine Inv.dite (fun _ => ?_) (fun _ => ?_) | refine State.clearReason_inv ?_ | refine State.setReason_inv ?_ | refine State.modIn_inv ?_ | refine State.clkHist_inv ?_ | refine State.raise_inv ?_ | assumption | exact rfl | split | (dsimp -proj only; split)

theorem State.judgePair_inv {s : State} {i : InputId} {j : InputId} (ho : Inv s) : Inv (State.judgePair s i j) := by
  unfold State.judgePair
  repeat' with_reducible first | exact ho | refine Inv.ite ?_ ?_ | refine Inv.dite (fun _ => ?_) (fun _ => ?_) | refine State.modClk_inv ?_ | refine State.clkHist_inv ?_ | refine State.raise_inv ?_ | assumption | exact rfl | split | (dsimp -proj only; split)

theorem State.clkTick_inv {s : State} (ho : Inv s) : Inv (State.clkTick s) :=
  inv_only (State.clkTick_only (L := [.clk]) (s := s) rfl (Only.refl _ _)) rfl ho

theorem State.clkErr_inv {s : State} (ho : Inv s) : Inv (State.clkErr s) :=
  inv_only (State.clkErr_only (L := [.clk]) (s := s) rfl (Only.refl _ _)) rfl ho

theorem State.clkStep_inv {s : State} (ho : Inv s) : Inv (State.clkStep s) :=
  inv_only (State.clkStep_only (L := [.out, .live, .clk]) (s := s) rfl (Only.refl _ _)) rfl ho

theorem State.takeMeas_inv {s : State} {m : InputMeas} (ho : Inv s) : Inv (State.takeMeas s m) :=
  inv_only (State.takeMeas_only (L := [.stats, .clk]) (s := s) (m := m) rfl (Only.refl _ _)) rfl ho

theorem State.modRef_inv {s : State} {r : Fin 2} {f : RefTod → RefTod} (ho : Inv s) : Inv (State.modRef s r f) :=
  inv_only (State.modRef_only (L := [.clk]) (s := s) (r := r) (f := f) rfl (Only.refl _ _)) rfl ho

theorem State.todMissed_inv {s : State} {r : Fin 2} (ho : Inv s) : Inv (State.todMissed s r) :=
  inv_only (State.todMissed_only (L := [.stats, .clk]) (s := s) (r := r) rfl (Only.refl _ _)) rfl ho

theorem clockForceEff_inv {r : Req} {s : State} (h : Inv s) :
    InvEff (clockForceEff r s) := by
  have hf : ∀ f, Inv (s.modClk f).clkSelect := fun f => State.clkSelect_inv (State.modClk_inv h)
  unfold clockForceEff
  generalize bitsAt r.body 0 8 = act
  generalize bitsAt r.body 8 8 = inp
  refine InvEff.ite h (InvEff.ite h (InvEff.ite h (InvEff.dite (fun _ => ?_) (fun _ => h))))
  dsimp only
  repeat' split
  all_goals first | exact h | exact hf _

end Sys2Proof.Machine
end

