-- ==== Sys2Proof/Laws/OnlyUart.lean ====
section
/-! SUPPORT. The parts of the state that each operation of Machine/Uart.lean reaches. -/

namespace Sys2Proof.Machine
open Sys2Proof

set_option linter.all false

theorem State.uartModeSet_only {L : List Part} {s₀ : State} {s : State} {p : UartId} {v : Int} (hL : reach [.fields, .mgmt, .boot, .clk, .uart] L = true) (ho : Only L s₀ s) :
    Only L s₀ (State.uartModeSet s p v) := by
  unfold State.uartModeSet
  repeat' with_reducible first | exact ho | refine Only.ite ?_ ?_ | refine Only.dite (fun _ => ?_) (fun _ => ?_) | refine State.modUart_only (sub_reach hL rfl) ?_ | refine State.closeWhere_only (sub_reach hL rfl) ?_ | refine State.modClk_only (sub_reach hL rfl) ?_ | refine State.fset_only (sub_reach hL rfl) ?_ | assumption | split | (dsimp -proj only; split)

theorem State.receive_only {L : List Part} {s₀ : State} {s : State} {src : Src} {b : Bytes} (hL : reach [.stats, .out, .host, .qp, .mgmt, .fab] L = true) (ho : Only L s₀ s) :
    Only L s₀ (State.receive s src b) := by
  unfold State.receive
  repeat' with_reducible first | exact ho | refine Only.ite ?_ ?_ | refine Only.dite (fun _ => ?_) (fun _ => ?_) | refine State.answer_only (sub_reach hL rfl) ?_ | refine State.bump_only (sub_reach hL rfl) ?_ | assumption | split | (dsimp -proj only; split) | refine only_set_mgmt (sub_reach hL rfl) ?_

theorem State.uartQueue_only {L : List Part} {s₀ : State} {s : State} {p : UartId} {val : BitVec 32} (hL : reach [.stats, .uart] L = true) (ho : Only L s₀ s) :
    Only L s₀ (State.uartQueue s p val) := by
  unfold State.uartQueue
  repeat' with_reducible first | exact ho | refine Only.ite ?_ ?_ | refine Only.dite (fun _ => ?_) (fun _ => ?_) | refine State.modUart_only (sub_reach hL rfl) ?_ | refine State.bump_only (sub_reach hL rfl) ?_ | assumption | split | (dsimp -proj only; split)

theorem State.uartIdle_only {L : List Part} {s₀ : State} {s : State} {p : UartId} (hL : reach [.fields, .pend] L = true) (ho : Only L s₀ s) :
    Only L s₀ (State.uartIdle s p) := by
  unfold State.uartIdle
  repeat' with_reducible first | exact ho | refine Only.ite ?_ ?_ | refine Only.dite (fun _ => ?_) (fun _ => ?_) | refine State.releaseAt_only (sub_reach hL rfl) ?_ | assumption | split | (dsimp -proj only; split)

theorem State.uartErr_only {L : List Part} {s₀ : State} {s : State} {p : UartId} (hL : reach [.stats, .out, .host] L = true) (ho : Only L s₀ s) :
    Only L s₀ (State.uartErr s p) := by
  unfold State.uartErr
  repeat' with_reducible first | exact ho | refine Only.ite ?_ ?_ | refine Only.dite (fun _ => ?_) (fun _ => ?_) | refine State.cause_only (sub_reach hL rfl) ?_ | refine State.stick_only (sub_reach hL rfl) ?_ | assumption | split | (dsimp -proj only; split)

theorem State.uartPush_only {L : List Part} {s₀ : State} {s : State} {p : UartId} {c : Byte} {fe : Bool} {pe : Bool} (hL : reach [.stats, .out, .host, .uart] L = true) (ho : Only L s₀ s) :
    Only L s₀ (State.uartPush s p c fe pe) := by
  unfold State.uartPush
  repeat' with_reducible first | exact ho | refine Only.ite ?_ ?_ | refine Only.dite (fun _ => ?_) (fun _ => ?_) | refine State.uartErr_only (sub_reach hL rfl) ?_ | refine State.modUart_only (sub_reach hL rfl) ?_ | refine State.cause_only (sub_reach hL rfl) ?_ | refine State.bump_only (sub_reach hL rfl) ?_ | assumption | split | (dsimp -proj only; split)

theorem State.flagSeen_only {L : List Part} {s₀ : State} {s : State} {p : UartId} {c : Byte} (hL : reach [.mgmt] L = true) (ho : Only L s₀ s) :
    Only L s₀ (State.flagSeen s p c) := by
  unfold State.flagSeen
  repeat' with_reducible first | exact ho | refine Only.ite ?_ ?_ | refine Only.dite (fun _ => ?_) (fun _ => ?_) | assumption | split | (dsimp -proj only; split) | refine only_set_mgmt (sub_reach hL rfl) ?_

end Sys2Proof.Machine
end

