-- ==== Sys2Proof/Laws/InvUart.lean ====
section
/-! SUPPORT. The operations of Machine/Uart.lean keep what always holds. -/

namespace Sys2Proof.Machine
open Sys2Proof

set_option linter.all false

theorem State.uartModeSet_inv {s : State} {p : UartId} {v : Int} (ho : Inv s) : Inv (State.uartModeSet s p v) :=
  inv_only (State.uartModeSet_only (L := [.fields, .mgmt, .boot, .clk, .uart]) (s := s) (p := p) (v := v) rfl (Only.refl _ _)) rfl ho

theorem State.receive_inv {s : State} {src : Src} {b : Bytes} (ho : Inv s) : Inv (State.receive s src b) := by
  unfold State.receive
  repeat' with_reducible first | exact ho | refine Inv.ite ?_ ?_ | refine Inv.dite (fun _ => ?_) (fun _ => ?_) | refine State.answer_inv ?_ | refine State.bump_inv ?_ | assumption | exact rfl | split | (dsimp -proj only; split) | refine inv_set_mgmt ?_

theorem State.uartQueue_inv {s : State} {p : UartId} {val : BitVec 32} (ho : Inv s) : Inv (State.uartQueue s p val) :=
  inv_only (State.uartQueue_only (L := [.stats, .uart]) (s := s) (p := p) (val := val) rfl (Only.refl _ _)) rfl ho

theorem State.uartIdle_inv {s : State} {p : UartId} (ho : Inv s) : Inv (State.uartIdle s p) :=
  inv_only (State.uartIdle_only (L := [.fields, .pend]) (s := s) (p := p) rfl (Only.refl _ _)) rfl ho

theorem State.uartErr_inv {s : State} {p : UartId} (ho : Inv s) : Inv (State.uartErr s p) := by
  unfold State.uartErr
  repeat' with_reducible first | exact ho | refine Inv.ite ?_ ?_ | refine Inv.dite (fun _ => ?_) (fun _ => ?_) | refine State.cause_inv ?_ | refine State.stick_inv ?_ | assumption | exact rfl | split | (dsimp -proj only; split)

theorem State.uartPush_inv {s : State} {p : UartId} {c : Byte} {fe : Bool} {pe : Bool} (ho : Inv s) : Inv (State.uartPush s p c fe pe) := by
  unfold State.uartPush
  repeat' with_reducible first | exact ho | refine Inv.ite ?_ ?_ | refine Inv.dite (fun _ => ?_) (fun _ => ?_) | refine State.uartErr_inv ?_ | refine State.modUart_inv ?_ | refine State.cause_inv ?_ | refine State.bump_inv ?_ | assumption | exact rfl | split | (dsimp -proj only; split)

theorem State.flagSeen_inv {s : State} {p : UartId} {c : Byte} (ho : Inv s) : Inv (State.flagSeen s p c) :=
  inv_only (State.flagSeen_only (L := [.mgmt]) (s := s) (p := p) (c := c) rfl (Only.refl _ _)) rfl ho

end Sys2Proof.Machine
end

