-- ==== Sys2Proof/Laws/OnlyHost.lean ====
section
/-! SUPPORT. The parts of the state that each operation of Machine/Host.lean reaches. -/

namespace Sys2Proof.Machine
open Sys2Proof

set_option linter.all false

theorem State.loseHost_only {L : List Part} {s₀ : State} {s : State} {cause : Nat} (hL : reach [.stats, .out, .host, .qp, .mgmt, .boot, .fab] L = true) (ho : Only L s₀ s) :
    Only L s₀ (State.loseHost s cause) := by
  unfold State.loseHost
  repeat' with_reducible first | exact ho | refine Only.ite ?_ ?_ | refine Only.dite (fun _ => ?_) (fun _ => ?_) | refine State.closeWhere_only (sub_reach hL rfl) ?_ | refine State.raise_only (sub_reach hL rfl) ?_ | refine State.stick_only (sub_reach hL rfl) ?_ | refine State.bump_only (sub_reach hL rfl) ?_ | assumption | split | (dsimp -proj only; split) | refine only_set_host_qp_mgmt (sub_reach hL rfl) ?_

theorem State.resetPcie_only {L : List Part} {s₀ : State} {s : State} {link : Bool} (hL : reach [.host] L = true) (ho : Only L s₀ s) :
    Only L s₀ (State.resetPcie s link) := by
  unfold State.resetPcie
  repeat' with_reducible first | exact ho | refine Only.ite ?_ ?_ | refine Only.dite (fun _ => ?_) (fun _ => ?_) | assumption | split | (dsimp -proj only; split) | refine only_set_host (sub_reach hL rfl) ?_

theorem State.enterD3_only {L : List Part} {s₀ : State} {s : State} (hL : reach [.stats, .out, .host, .qp, .mgmt, .boot, .fab] L = true) (ho : Only L s₀ s) :
    Only L s₀ (State.enterD3 s) := by
  unfold State.enterD3
  repeat' with_reducible first | exact ho | refine Only.ite ?_ ?_ | refine Only.dite (fun _ => ?_) (fun _ => ?_) | refine State.loseHost_only (sub_reach hL rfl) ?_ | assumption | split | (dsimp -proj only; split) | refine only_set_host (sub_reach hL rfl) ?_

theorem State.hostReturn_only {L : List Part} {s₀ : State} {s : State} (hL : reach [.stats, .out, .host, .fab] L = true) (ho : Only L s₀ s) :
    Only L s₀ (State.hostReturn s) := by
  unfold State.hostReturn
  repeat' with_reducible first | exact ho | refine Only.ite ?_ ?_ | refine Only.dite (fun _ => ?_) (fun _ => ?_) | refine State.notify_only (sub_reach hL rfl) ?_ | assumption | split | (dsimp -proj only; split) | refine only_set_host (sub_reach hL rfl) ?_

theorem State.enableQp_only {L : List Part} {s₀ : State} {s : State} {q : QpId} (hL : reach [.stats, .out, .host, .qp, .fab] L = true) (ho : Only L s₀ s) :
    Only L s₀ (State.enableQp s q) := by
  unfold State.enableQp
  repeat' with_reducible first | exact ho | refine Only.ite ?_ ?_ | refine Only.dite (fun _ => ?_) (fun _ => ?_) | refine State.qpError_only (sub_reach hL rfl) ?_ | refine State.hostReturn_only (sub_reach hL rfl) ?_ | refine State.setQp_only (sub_reach hL rfl) ?_ | assumption | split | (dsimp -proj only; split) | refine only_set_host (sub_reach hL rfl) ?_

theorem State.reSteer_only {L : List Part} {s₀ : State} {s : State} {q : QpId} (hL : reach [.stats, .hold] L = true) (ho : Only L s₀ s) :
    Only L s₀ (State.reSteer s q) := by
  unfold State.reSteer
  repeat' with_reducible first | exact ho | refine Only.ite ?_ ?_ | refine Only.dite (fun _ => ?_) (fun _ => ?_) | refine State.reHead_only (sub_reach hL rfl) ?_ | refine State.dropFrames_only (sub_reach hL rfl) ?_ | refine State.bump_only (sub_reach hL rfl) ?_ | refine State.forAll_only (fun _ _ _ => ?_) ?_ | assumption | split | (dsimp -proj only; split)

theorem State.disableQp_only {L : List Part} {s₀ : State} {s : State} {q : QpId} (hL : reach [.stats, .qp, .hold] L = true) (ho : Only L s₀ s) :
    Only L s₀ (State.disableQp s q) := by
  unfold State.disableQp
  repeat' with_reducible first | exact ho | refine Only.ite ?_ ?_ | refine Only.dite (fun _ => ?_) (fun _ => ?_) | refine State.reSteer_only (sub_reach hL rfl) ?_ | refine State.qpSettle_only (sub_reach hL rfl) ?_ | refine State.setQp_only (sub_reach hL rfl) ?_ | assumption | split | (dsimp -proj only; split)

theorem State.writeCfg_only {L : List Part} {s₀ : State} {s : State} {q : QpId} {v : BitVec 32} (hL : reach [.stats, .out, .host, .qp, .hold, .fab] L = true) (ho : Only L s₀ s) :
    Only L s₀ (State.writeCfg s q v) := by
  unfold State.writeCfg
  repeat' with_reducible first | exact ho | refine Only.ite ?_ ?_ | refine Only.dite (fun _ => ?_) (fun _ => ?_) | refine State.disableQp_only (sub_reach hL rfl) ?_ | refine State.enableQp_only (sub_reach hL rfl) ?_ | refine State.modQp_only (sub_reach hL rfl) ?_ | assumption | split | (dsimp -proj only; split)

theorem State.dropBell_only {L : List Part} {s₀ : State} {s : State} (hL : reach [.stats] L = true) (ho : Only L s₀ s) :
    Only L s₀ (State.dropBell s) := by
  unfold State.dropBell
  repeat' with_reducible first | exact ho | refine Only.ite ?_ ?_ | refine Only.dite (fun _ => ?_) (fun _ => ?_) | refine State.bump_only (sub_reach hL rfl) ?_ | assumption | split | (dsimp -proj only; split)

theorem State.badBell_only {L : List Part} {s₀ : State} {s : State} {q : QpId} (hL : reach [.stats, .out, .host, .qp] L = true) (ho : Only L s₀ s) :
    Only L s₀ (State.badBell s q) := by
  unfold State.badBell
  repeat' with_reducible first | exact ho | refine Only.ite ?_ ?_ | refine Only.dite (fun _ => ?_) (fun _ => ?_) | refine State.qpError_only (sub_reach hL rfl) ?_ | refine State.bump_only (sub_reach hL rfl) ?_ | assumption | split | (dsimp -proj only; split)

theorem State.sqBell_only {L : List Part} {s₀ : State} {s : State} {q : QpId} {v : BitVec 32} (hL : reach [.stats, .out, .host, .qp] L = true) (ho : Only L s₀ s) :
    Only L s₀ (State.sqBell s q v) := by
  unfold State.sqBell
  repeat' with_reducible first | exact ho | refine Only.ite ?_ ?_ | refine Only.dite (fun _ => ?_) (fun _ => ?_) | refine State.badBell_only (sub_reach hL rfl) ?_ | refine State.dropBell_only (sub_reach hL rfl) ?_ | refine State.setQp_only (sub_reach hL rfl) ?_ | assumption | split | (dsimp -proj only; split)

theorem State.cqBell_only {L : List Part} {s₀ : State} {s : State} {q : QpId} {v : BitVec 32} (hL : reach [.stats, .out, .host, .qp] L = true) (ho : Only L s₀ s) :
    Only L s₀ (State.cqBell s q v) := by
  unfold State.cqBell
  repeat' with_reducible first | exact ho | refine Only.ite ?_ ?_ | refine Only.dite (fun _ => ?_) (fun _ => ?_) | refine State.badBell_only (sub_reach hL rfl) ?_ | refine State.dropBell_only (sub_reach hL rfl) ?_ | refine State.setQp_only (sub_reach hL rfl) ?_ | assumption | split | (dsimp -proj only; split)

theorem State.beat_only {L : List Part} {s₀ : State} {s : State} {v : BitVec 32} (hL : reach [.host] L = true) (ho : Only L s₀ s) :
    Only L s₀ (State.beat s v) := by
  unfold State.beat
  repeat' with_reducible first | exact ho | refine Only.ite ?_ ?_ | refine Only.dite (fun _ => ?_) (fun _ => ?_) | assumption | split | (dsimp -proj only; split) | refine only_set_host (sub_reach hL rfl) ?_

theorem State.writeIntEnable_only {L : List Part} {s₀ : State} {s : State} {v : BitVec 32} (hL : reach [.out, .host] L = true) (ho : Only L s₀ s) :
    Only L s₀ (State.writeIntEnable s v) := by
  unfold State.writeIntEnable
  repeat' with_reducible first | exact ho | refine Only.ite ?_ ?_ | refine Only.dite (fun _ => ?_) (fun _ => ?_) | refine State.msix_only (sub_reach hL rfl) ?_ | refine State.forAll_only (fun _ _ _ => ?_) ?_ | assumption | split | (dsimp -proj only; split) | refine only_set_host (sub_reach hL rfl) ?_

theorem State.setMsix_only {L : List Part} {s₀ : State} {s : State} {v : Fin 512} {m : Msix} (hL : reach [.host] L = true) (ho : Only L s₀ s) :
    Only L s₀ (State.setMsix s v m) := by
  unfold State.setMsix
  repeat' with_reducible first | exact ho | refine Only.ite ?_ ?_ | refine Only.dite (fun _ => ?_) (fun _ => ?_) | assumption | split | (dsimp -proj only; split) | refine only_set_host (sub_reach hL rfl) ?_

theorem State.sendPending_only {L : List Part} {s₀ : State} {s : State} {v : Fin 512} (hL : reach [.out, .host] L = true) (ho : Only L s₀ s) :
    Only L s₀ (State.sendPending s v) := by
  unfold State.sendPending
  repeat' with_reducible first | exact ho | refine Only.ite ?_ ?_ | refine Only.dite (fun _ => ?_) (fun _ => ?_) | refine State.setMsix_only (sub_reach hL rfl) ?_ | refine State.msix_only (sub_reach hL rfl) ?_ | assumption | split | (dsimp -proj only; split)

theorem State.maskVec_only {L : List Part} {s₀ : State} {s : State} {v : Fin 512} {mask : Bool} (hL : reach [.out, .host] L = true) (ho : Only L s₀ s) :
    Only L s₀ (State.maskVec s v mask) := by
  unfold State.maskVec
  repeat' with_reducible first | exact ho | refine Only.ite ?_ ?_ | refine Only.dite (fun _ => ?_) (fun _ => ?_) | refine State.sendPending_only (sub_reach hL rfl) ?_ | refine State.setMsix_only (sub_reach hL rfl) ?_ | assumption | split | (dsimp -proj only; split)

theorem State.dmaEnded_only {L : List Part} {s₀ : State} {s : State} (hL : reach [.host] L = true) (ho : Only L s₀ s) :
    Only L s₀ (State.dmaEnded s) := by
  unfold State.dmaEnded
  repeat' with_reducible first | exact ho | refine Only.ite ?_ ?_ | refine Only.dite (fun _ => ?_) (fun _ => ?_) | assumption | split | (dsimp -proj only; split) | refine only_set_host (sub_reach hL rfl) ?_

theorem State.fetchEntry_only {L : List Part} {s₀ : State} {s : State} {q : QpId} {e : Bytes} (hL : reach [.out, .freeCtr, .host, .qp] L = true) (ho : Only L s₀ s) :
    Only L s₀ (State.fetchEntry s q e) := by
  unfold State.fetchEntry
  repeat' with_reducible first | exact ho | refine Only.ite ?_ ?_ | refine Only.dite (fun _ => ?_) (fun _ => ?_) | refine State.dmaEnded_only (sub_reach hL rfl) ?_ | refine State.free_only (sub_reach hL rfl) ?_ | refine State.free_only_eq (by assumption) (sub_reach hL rfl) ?_ | refine State.cqWrite_only (sub_reach hL rfl) ?_ | refine State.modQp_only (sub_reach hL rfl) ?_ | refine State.setQp_only (sub_reach hL rfl) ?_ | refine State.emit_only (sub_reach hL rfl) ?_ | assumption | split | (dsimp -proj only; split)

theorem State.fetchQp_only {L : List Part} {s₀ : State} {s : State} {q : QpId} {es : List Bytes} (hL : reach [.out, .freeCtr, .host, .qp] L = true) (ho : Only L s₀ s) :
    Only L s₀ (State.fetchQp s q es) := by
  unfold State.fetchQp
  repeat' with_reducible first | exact ho | refine Only.ite ?_ ?_ | refine Only.dite (fun _ => ?_) (fun _ => ?_) | refine State.fetchEntry_only (sub_reach hL rfl) ?_ | refine State.forAll_only (fun _ _ _ => ?_) ?_ | assumption | split | (dsimp -proj only; split)

theorem State.writeEvents_only {L : List Part} {s₀ : State} {s : State} (hL : reach [.out, .host, .qp] L = true) (ho : Only L s₀ s) :
    Only L s₀ (State.writeEvents s) := by
  unfold State.writeEvents
  repeat' with_reducible first | exact ho | refine Only.ite ?_ ?_ | refine Only.dite (fun _ => ?_) (fun _ => ?_) | refine State.cqWrite_only (sub_reach hL rfl) ?_ | refine State.forAll_only (fun _ _ _ => ?_) ?_ | assumption | split | (dsimp -proj only; split) | refine only_set_host (sub_reach hL rfl) ?_

theorem State.dmaTimedOut_only {L : List Part} {s₀ : State} {s : State} (hL : reach [.stats, .out, .host, .qp, .mgmt, .boot, .fab] L = true) (ho : Only L s₀ s) :
    Only L s₀ (State.dmaTimedOut s) := by
  unfold State.dmaTimedOut
  repeat' with_reducible first | exact ho | refine Only.ite ?_ ?_ | refine Only.dite (fun _ => ?_) (fun _ => ?_) | refine State.loseHost_only (sub_reach hL rfl) ?_ | refine State.bump_only (sub_reach hL rfl) ?_ | assumption | split | (dsimp -proj only; split) | refine only_set_host (sub_reach hL rfl) ?_

theorem State.txAdmit_only {L : List Part} {s₀ : State} {s : State} {e : Bytes} {payload : Bytes} (hL : reach [.stats, .evTimes, .out, .host, .qp, .hold, .fab] L = true) (ho : Only L s₀ s) :
    Only L s₀ (State.txAdmit s e payload).1 := by
  unfold State.txAdmit
  repeat' with_reducible first | exact ho | refine Only.ite ?_ ?_ | refine Only.dite (fun _ => ?_) (fun _ => ?_) | refine State.resolve_only (sub_reach hL rfl) ?_ | refine State.resolve_only_eq (by assumption) (sub_reach hL rfl) ?_ | refine State.toBroadcast_only (sub_reach hL rfl) ?_ | refine State.toBroadcast_only_eq (by assumption) (sub_reach hL rfl) ?_ | refine State.toCtx_only (sub_reach hL rfl) ?_ | refine State.toCtx_only_eq (by assumption) (sub_reach hL rfl) ?_ | refine State.toFabric_only (sub_reach hL rfl) ?_ | refine State.toFabric_only_eq (by assumption) (sub_reach hL rfl) ?_ | refine State.takeIn_only (sub_reach hL rfl) ?_ | refine State.takeIn_only_eq (by assumption) (sub_reach hL rfl) ?_ | assumption | split | (dsimp -proj only; split)
theorem State.txAdmit_only_eq {L : List Part} {s₀ : State} {s : State} {e : Bytes} {payload : Bytes} {s₁ : State} {xv : _} (he : State.txAdmit s e payload = (s₁, xv)) (hL : reach [.stats, .evTimes, .out, .host, .qp, .hold, .fab] L = true) (ho : Only L s₀ s) :
    Only L s₀ s₁ := by
  have := State.txAdmit_only (s := s) (e := e) (payload := payload) hL ho
  rwa [he] at this

theorem State.txDone_only {L : List Part} {s₀ : State} {s : State} {q : QpId} {e : Bytes} {st : Status} {ctx : Nat} (hL : reach [.out, .host, .qp] L = true) (ho : Only L s₀ s) :
    Only L s₀ (State.txDone s q e st ctx) := by
  unfold State.txDone
  repeat' with_reducible first | exact ho | refine Only.ite ?_ ?_ | refine Only.dite (fun _ => ?_) (fun _ => ?_) | refine State.qpSettle_only (sub_reach hL rfl) ?_ | refine State.cqWrite_only (sub_reach hL rfl) ?_ | refine State.modQp_only (sub_reach hL rfl) ?_ | assumption | split | (dsimp -proj only; split)

theorem State.fillBufs_only {L : List Part} {s₀ s : State} {q : QpId} {f : Frame} {sel : Nat} {first : Bool} {l : List (RxBuf × Nat)} {data : Bytes}
    (hL : reach [.out, .host, .qp] L = true) (h : Only L s₀ s) : Only L s₀ (s.fillBufs q f sel first l data) := by
  induction l generalizing s first data with
  | nil => exact h
  | cons x r ih =>
    unfold State.fillBufs
    exact ih (State.cqWrite_only (sub_reach hL rfl) (State.emit_only (sub_reach hL rfl) (State.modQp_only (sub_reach hL rfl) h)))

theorem State.clearBits_only {L : List Part} {s₀ : State} {s : State} {v : BitVec 32} {i : Nat} {l : List (Nat × Stat)} (hL : reach [.stats] L = true) (ho : Only L s₀ s) :
    Only L s₀ (State.clearBits s v i l) := by
  unfold State.clearBits
  repeat' with_reducible first | exact ho | refine Only.ite ?_ ?_ | refine Only.dite (fun _ => ?_) (fun _ => ?_) | refine State.statSet_only (sub_reach hL rfl) ?_ | refine State.forAll_only (fun _ _ _ => ?_) ?_ | assumption | split | (dsimp -proj only; split)

theorem State.writeQp_only {L : List Part} {s₀ : State} {s : State} {q : QpId} {off : Nat} {v : BitVec 32} (hL : reach [.stats, .out, .host, .qp, .hold, .fab] L = true) (ho : Only L s₀ s) :
    Only L s₀ (State.writeQp s q off v) := by
  unfold State.writeQp
  repeat' with_reducible first | exact ho | refine Only.ite ?_ ?_ | refine Only.dite (fun _ => ?_) (fun _ => ?_) | refine State.writeCfg_only (sub_reach hL rfl) ?_ | refine State.modQp_only (sub_reach hL rfl) ?_ | assumption | split | (dsimp -proj only; split)

theorem State.writeWdog_only {L : List Part} {s₀ : State} {s : State} {v : BitVec 32} (hL : reach [.host] L = true) (ho : Only L s₀ s) :
    Only L s₀ (State.writeWdog s v) := by
  unfold State.writeWdog
  repeat' with_reducible first | exact ho | refine Only.ite ?_ ?_ | refine Only.dite (fun _ => ?_) (fun _ => ?_) | assumption | split | (dsimp -proj only; split) | refine only_set_host (sub_reach hL rfl) ?_

theorem State.writeBar0_only {L : List Part} {s₀ : State} {s : State} {off : Nat} {v : BitVec 32} (hL : reach [.stats, .out, .host, .qp, .hold, .fab, .uart] L = true) (ho : Only L s₀ s) :
    Only L s₀ (State.writeBar0 s off v) := by
  unfold State.writeBar0
  repeat' with_reducible first | exact ho | refine Only.ite ?_ ?_ | refine Only.dite (fun _ => ?_) (fun _ => ?_) | refine State.uartQueue_only (sub_reach hL rfl) ?_ | refine State.writeWdog_only (sub_reach hL rfl) ?_ | refine State.writeQp_only (sub_reach hL rfl) ?_ | refine State.clearBits_only (sub_reach hL rfl) ?_ | refine State.writeIntEnable_only (sub_reach hL rfl) ?_ | refine State.beat_only (sub_reach hL rfl) ?_ | assumption | split | (dsimp -proj only; split) | refine only_set_host (sub_reach hL rfl) ?_

theorem State.writeBar0Wide_only {L : List Part} {s₀ : State} {s : State} {off : Nat} {v : BitVec 64} (hL : reach [.stats, .out, .host, .qp, .hold, .fab, .uart] L = true) (ho : Only L s₀ s) :
    Only L s₀ (State.writeBar0Wide s off v) := by
  unfold State.writeBar0Wide
  repeat' with_reducible first | exact ho | refine Only.ite ?_ ?_ | refine Only.dite (fun _ => ?_) (fun _ => ?_) | refine State.writeBar0_only (sub_reach hL rfl) ?_ | assumption | split | (dsimp -proj only; split)

theorem State.writeBar2_only {L : List Part} {s₀ : State} {s : State} {off : Nat} {v : BitVec 32} (hL : reach [.stats, .out, .host, .qp] L = true) (ho : Only L s₀ s) :
    Only L s₀ (State.writeBar2 s off v) := by
  unfold State.writeBar2
  repeat' with_reducible first | exact ho | refine Only.ite ?_ ?_ | refine Only.dite (fun _ => ?_) (fun _ => ?_) | refine State.cqBell_only (sub_reach hL rfl) ?_ | refine State.sqBell_only (sub_reach hL rfl) ?_ | assumption | split | (dsimp -proj only; split)

theorem State.writeBar4_only {L : List Part} {s₀ s : State} {off : Nat} {v : BitVec 32} (hL : reach [.out, .host] L = true) (h : Only L s₀ s) :
    Only L s₀ (s.writeBar4 off v) := by
  have hm : ∀ k e, Only L s₀ (s.setMsix k e) := fun _ _ => State.setMsix_only (sub_reach hL rfl) h
  unfold State.writeBar4
  dsimp only
  exact Only.ite h (Only.ite (hm _ _) (Only.ite (hm _ _) (Only.ite (hm _ _) (State.maskVec_only (sub_reach hL rfl) h))))

theorem State.writeConfig_only {L : List Part} {s₀ : State} {s : State} {v : BitVec 32} (hL : reach [.stats, .out, .host, .qp, .mgmt, .boot, .fab] L = true) (ho : Only L s₀ s) :
    Only L s₀ (State.writeConfig s v) := by
  unfold State.writeConfig
  repeat' with_reducible first | exact ho | refine Only.ite ?_ ?_ | refine Only.dite (fun _ => ?_) (fun _ => ?_) | refine State.sendPending_only (sub_reach hL rfl) ?_ | refine State.enterD3_only (sub_reach hL rfl) ?_ | refine State.forAll_only (fun _ _ _ => ?_) ?_ | assumption | split | (dsimp -proj only; split) | refine only_set_host (sub_reach hL rfl) ?_

end Sys2Proof.Machine
end

