-- ==== Sys2Proof/Laws/InvHost.lean ====
section
/-! SUPPORT. The operations of Machine/Host.lean keep what always holds. -/

namespace Sys2Proof.Machine
open Sys2Proof

set_option linter.all false

theorem State.loseHost_inv {s : State} {cause : Nat} (ho : Inv s) : Inv (State.loseHost s cause) := by
  unfold State.loseHost
  repeat' with_reducible first | exact ho | refine Inv.ite ?_ ?_ | refine Inv.dite (fun _ => ?_) (fun _ => ?_) | refine State.closeWhere_inv ?_ | refine State.raise_inv ?_ | refine State.stick_inv ?_ | refine State.bump_inv ?_ | assumption | exact rfl | split | (dsimp -proj only; split) | refine inv_set_host_qp_mgmt ?_ ?_

theorem State.resetPcie_inv {s : State} {link : Bool} (ho : Inv s) : Inv (State.resetPcie s link) := by
  unfold State.resetPcie
  repeat' with_reducible first | exact ho | refine Inv.ite ?_ ?_ | refine Inv.dite (fun _ => ?_) (fun _ => ?_) | assumption | exact rfl | split | (dsimp -proj only; split) | refine inv_set_host ?_ ?_

theorem State.enterD3_inv {s : State} (ho : Inv s) : Inv (State.enterD3 s) := by
  unfold State.enterD3
  repeat' with_reducible first | exact ho | refine Inv.ite ?_ ?_ | refine Inv.dite (fun _ => ?_) (fun _ => ?_) | refine State.loseHost_inv ?_ | assumption | exact rfl | split | (dsimp -proj only; split) | refine inv_set_host ?_ ?_

theorem State.hostReturn_inv {s : State} (ho : Inv s) : Inv (State.hostReturn s) := by
  unfold State.hostReturn
  repeat' with_reducible first | exact ho | refine Inv.ite ?_ ?_ | refine Inv.dite (fun _ => ?_) (fun _ => ?_) | refine State.notify_inv ?_ | assumption | exact rfl | split | (dsimp -proj only; split) | refine inv_set_host ?_ ?_

theorem State.enableQp_inv {s : State} {q : QpId} (ho : Inv s) : Inv (State.enableQp s q) := by
  unfold State.enableQp
  repeat' with_reducible first | exact ho | refine Inv.ite ?_ ?_ | refine Inv.dite (fun _ => ?_) (fun _ => ?_) | refine State.qpError_inv ?_ | refine State.hostReturn_inv ?_ | refine State.setQp_inv ?_ | assumption | exact rfl | split | (dsimp -proj only; split) | refine inv_set_host ?_ ?_

theorem State.reSteer_inv {s : State} {q : QpId} (ho : Inv s) : Inv (State.reSteer s q) := by
  unfold State.reSteer
  repeat' with_reducible first | exact ho | refine Inv.ite ?_ ?_ | refine Inv.dite (fun _ => ?_) (fun _ => ?_) | refine State.reHead_inv ?_ | refine State.dropFrames_inv ?_ | refine State.bump_inv ?_ | refine State.forAll_inv (fun _ _ _ => ?_) ?_ | assumption | exact rfl | split | (dsimp -proj only; split)

theorem State.disableQp_inv {s : State} {q : QpId} (ho : Inv s) : Inv (State.disableQp s q) := by
  unfold State.disableQp
  repeat' with_reducible first | exact ho | refine Inv.ite ?_ ?_ | refine Inv.dite (fun _ => ?_) (fun _ => ?_) | refine State.reSteer_inv ?_ | refine State.qpSettle_inv ?_ | refine State.setQp_inv ?_ | assumption | exact rfl | split | (dsimp -proj only; split)

theorem State.writeCfg_inv {s : State} {q : QpId} {v : BitVec 32} (ho : Inv s) : Inv (State.writeCfg s q v) := by
  unfold State.writeCfg
  repeat' with_reducible first | exact ho | refine Inv.ite ?_ ?_ | refine Inv.dite (fun _ => ?_) (fun _ => ?_) | refine State.disableQp_inv ?_ | refine State.enableQp_inv ?_ | refine State.modQp_inv ?_ | assumption | exact rfl | split | (dsimp -proj only; split)

theorem State.dropBell_inv {s : State} (ho : Inv s) : Inv (State.dropBell s) :=
  inv_only (State.dropBell_only (L := [.stats]) (s := s) rfl (Only.refl _ _)) rfl ho

theorem State.badBell_inv {s : State} {q : QpId} (ho : Inv s) : Inv (State.badBell s q) := by
  unfold State.badBell
  repeat' with_reducible first | exact ho | refine Inv.ite ?_ ?_ | refine Inv.dite (fun _ => ?_) (fun _ => ?_) | refine State.qpError_inv ?_ | refine State.bump_inv ?_ | assumption | exact rfl | split | (dsimp -proj only; split)

theorem State.sqBell_inv {s : State} {q : QpId} {v : BitVec 32} (ho : Inv s) : Inv (State.sqBell s q v) := by
  unfold State.sqBell
  repeat' with_reducible first | exact ho | refine Inv.ite ?_ ?_ | refine Inv.dite (fun _ => ?_) (fun _ => ?_) | refine State.badBell_inv ?_ | refine State.dropBell_inv ?_ | refine State.setQp_inv ?_ | assumption | exact rfl | split | (dsimp -proj only; split)

theorem State.cqBell_inv {s : State} {q : QpId} {v : BitVec 32} (ho : Inv s) : Inv (State.cqBell s q v) := by
  unfold State.cqBell
  repeat' with_reducible first | exact ho | refine Inv.ite ?_ ?_ | refine Inv.dite (fun _ => ?_) (fun _ => ?_) | refine State.badBell_inv ?_ | refine State.dropBell_inv ?_ | refine State.setQp_inv ?_ | assumption | exact rfl | split | (dsimp -proj only; split)

theorem State.beat_inv {s : State} {v : BitVec 32} (ho : Inv s) : Inv (State.beat s v) := by
  unfold State.beat
  repeat' with_reducible first | exact ho | refine Inv.ite ?_ ?_ | refine Inv.dite (fun _ => ?_) (fun _ => ?_) | assumption | exact rfl | split | (dsimp -proj only; split) | refine inv_set_host ?_ ?_

theorem State.writeIntEnable_inv {s : State} {v : BitVec 32} (ho : Inv s) : Inv (State.writeIntEnable s v) := by
  unfold State.writeIntEnable
  repeat' with_reducible first | exact ho | refine Inv.ite ?_ ?_ | refine Inv.dite (fun _ => ?_) (fun _ => ?_) | refine State.msix_inv ?_ | refine State.forAll_inv (fun _ _ _ => ?_) ?_ | assumption | exact rfl | split | (dsimp -proj only; split) | refine inv_set_host ?_ ?_

theorem State.setMsix_inv {s : State} {v : Fin 512} {m : Msix} (ho : Inv s) : Inv (State.setMsix s v m) := by
  unfold State.setMsix
  repeat' with_reducible first | exact ho | refine Inv.ite ?_ ?_ | refine Inv.dite (fun _ => ?_) (fun _ => ?_) | assumption | exact rfl | split | (dsimp -proj only; split) | refine inv_set_host ?_ ?_

theorem State.sendPending_inv {s : State} {v : Fin 512} (ho : Inv s) : Inv (State.sendPending s v) := by
  unfold State.sendPending
  repeat' with_reducible first | exact ho | refine Inv.ite ?_ ?_ | refine Inv.dite (fun _ => ?_) (fun _ => ?_) | refine State.setMsix_inv ?_ | refine State.msix_inv ?_ | assumption | exact rfl | split | (dsimp -proj only; split)

theorem State.maskVec_inv {s : State} {v : Fin 512} {mask : Bool} (ho : Inv s) : Inv (State.maskVec s v mask) := by
  unfold State.maskVec
  repeat' with_reducible first | exact ho | refine Inv.ite ?_ ?_ | refine Inv.dite (fun _ => ?_) (fun _ => ?_) | refine State.sendPending_inv ?_ | refine State.setMsix_inv ?_ | assumption | exact rfl | split | (dsimp -proj only; split)

theorem State.dmaEnded_inv {s : State} (ho : Inv s) : Inv (State.dmaEnded s) := by
  unfold State.dmaEnded
  repeat' with_reducible first | exact ho | refine Inv.ite ?_ ?_ | refine Inv.dite (fun _ => ?_) (fun _ => ?_) | assumption | exact rfl | split | (dsimp -proj only; split) | refine inv_set_host ?_ ?_

theorem State.fetchEntry_inv {s : State} {q : QpId} {e : Bytes} (ho : Inv s) : Inv (State.fetchEntry s q e) := by
  unfold State.fetchEntry
  repeat' with_reducible first | exact ho | refine Inv.ite ?_ ?_ | refine Inv.dite (fun _ => ?_) (fun _ => ?_) | refine State.dmaEnded_inv ?_ | refine State.free_inv ?_ | refine State.free_inv_eq (by assumption) ?_ | refine State.cqWrite_inv ?_ | refine State.modQp_inv ?_ | refine State.setQp_inv ?_ | refine State.emit_inv ?_ | assumption | exact rfl | split | (dsimp -proj only; split)

theorem State.fetchQp_inv {s : State} {q : QpId} {es : List Bytes} (ho : Inv s) : Inv (State.fetchQp s q es) := by
  unfold State.fetchQp
  repeat' with_reducible first | exact ho | refine Inv.ite ?_ ?_ | refine Inv.dite (fun _ => ?_) (fun _ => ?_) | refine State.fetchEntry_inv ?_ | refine State.forAll_inv (fun _ _ _ => ?_) ?_ | assumption | exact rfl | split | (dsimp -proj only; split)

theorem State.writeEvents_inv {s : State} (h : Inv s) : Inv s.writeEvents := by
  unfold State.writeEvents
  refine State.forAll_inv (fun a _ ha => ?_) h
  dsimp only
  refine Inv.ite ?_ ha
  split
  · exact State.cqWrite_inv (inv_set_host rfl ha)
  · split
    · rename_i hr
      refine State.cqWrite_inv ⟨ha.secOn, ha.memOk, ?_⟩
      have := ha.heldLe
      rw [hr] at this
      exact Nat.le_of_succ_le this
    · exact ha

theorem State.dmaTimedOut_inv {s : State} (ho : Inv s) : Inv (State.dmaTimedOut s) := by
  unfold State.dmaTimedOut
  repeat' with_reducible first | exact ho | refine Inv.ite ?_ ?_ | refine Inv.dite (fun _ => ?_) (fun _ => ?_) | refine State.loseHost_inv ?_ | refine State.bump_inv ?_ | assumption | exact rfl | split | (dsimp -proj only; split) | refine inv_set_host ?_ ?_

theorem State.txAdmit_inv {s : State} {e : Bytes} {payload : Bytes} (ho : Inv s) : Inv (State.txAdmit s e payload).1 := by
  unfold State.txAdmit
  repeat' with_reducible first | exact ho | refine Inv.ite ?_ ?_ | refine Inv.dite (fun _ => ?_) (fun _ => ?_) | refine State.resolve_inv ?_ | refine State.resolve_inv_eq (by assumption) ?_ | refine State.toBroadcast_inv ?_ | refine State.toBroadcast_inv_eq (by assumption) ?_ | refine State.toCtx_inv ?_ | refine State.toCtx_inv_eq (by assumption) ?_ | refine State.toFabric_inv ?_ | refine State.toFabric_inv_eq (by assumption) ?_ | refine State.takeIn_inv ?_ | refine State.takeIn_inv_eq (by assumption) ?_ | assumption | exact rfl | split | (dsimp -proj only; split)
theorem State.txAdmit_inv_eq {s : State} {e : Bytes} {payload : Bytes} {s₁ : State} {xv : _} (he : State.txAdmit s e payload = (s₁, xv)) (ho : Inv s) : Inv s₁ := by
  have := State.txAdmit_inv (s := s) (e := e) (payload := payload) ho
  rwa [he] at this

theorem State.txDone_inv {s : State} {q : QpId} {e : Bytes} {st : Status} {ctx : Nat} (ho : Inv s) : Inv (State.txDone s q e st ctx) := by
  unfold State.txDone
  repeat' with_reducible first | exact ho | refine Inv.ite ?_ ?_ | refine Inv.dite (fun _ => ?_) (fun _ => ?_) | refine State.qpSettle_inv ?_ | refine State.cqWrite_inv ?_ | refine State.modQp_inv ?_ | assumption | exact rfl | split | (dsimp -proj only; split)

theorem State.fillBufs_inv {s : State} {q : QpId} {f : Frame} {sel : Nat} {first : Bool} {l : List (RxBuf × Nat)} {data : Bytes}
    (h : Inv s) : Inv (s.fillBufs q f sel first l data) := by
  induction l generalizing s first data with
  | nil => exact h
  | cons x r ih =>
    unfold State.fillBufs
    exact ih (State.cqWrite_inv (State.emit_inv (State.modQp_inv h)))

theorem State.clearBits_inv {s : State} {v : BitVec 32} {i : Nat} {l : List (Nat × Stat)} (ho : Inv s) : Inv (State.clearBits s v i l) :=
  inv_only (State.clearBits_only (L := [.stats]) (s := s) (v := v) (i := i) (l := l) rfl (Only.refl _ _)) rfl ho

theorem State.writeQp_inv {s : State} {q : QpId} {off : Nat} {v : BitVec 32} (ho : Inv s) : Inv (State.writeQp s q off v) := by
  unfold State.writeQp
  repeat' with_reducible first | exact ho | refine Inv.ite ?_ ?_ | refine Inv.dite (fun _ => ?_) (fun _ => ?_) | refine State.writeCfg_inv ?_ | refine State.modQp_inv ?_ | assumption | exact rfl | split | (dsimp -proj only; split)

theorem State.writeWdog_inv {s : State} {v : BitVec 32} (ho : Inv s) : Inv (State.writeWdog s v) := by
  unfold State.writeWdog
  repeat' with_reducible first | exact ho | refine Inv.ite ?_ ?_ | refine Inv.dite (fun _ => ?_) (fun _ => ?_) | assumption | exact rfl | split | (dsimp -proj only; split) | refine inv_set_host ?_ ?_

theorem State.writeBar0_inv {s : State} {off : Nat} {v : BitVec 32} (ho : Inv s) : Inv (State.writeBar0 s off v) := by
  unfold State.writeBar0
  repeat' with_reducible first | exact ho | refine Inv.ite ?_ ?_ | refine Inv.dite (fun _ => ?_) (fun _ => ?_) | refine State.uartQueue_inv ?_ | refine State.writeWdog_inv ?_ | refine State.writeQp_inv ?_ | refine State.clearBits_inv ?_ | refine State.writeIntEnable_inv ?_ | refine State.beat_inv ?_ | assumption | exact rfl | split | (dsimp -proj only; split) | refine inv_set_host ?_ ?_

theorem State.writeBar0Wide_inv {s : State} {off : Nat} {v : BitVec 64} (ho : Inv s) : Inv (State.writeBar0Wide s off v) := by
  unfold State.writeBar0Wide
  repeat' with_reducible first | exact ho | refine Inv.ite ?_ ?_ | refine Inv.dite (fun _ => ?_) (fun _ => ?_) | refine State.writeBar0_inv ?_ | assumption | exact rfl | split | (dsimp -proj only; split)

theorem State.writeBar2_inv {s : State} {off : Nat} {v : BitVec 32} (ho : Inv s) : Inv (State.writeBar2 s off v) := by
  unfold State.writeBar2
  repeat' with_reducible first | exact ho | refine Inv.ite ?_ ?_ | refine Inv.dite (fun _ => ?_) (fun _ => ?_) | refine State.cqBell_inv ?_ | refine State.sqBell_inv ?_ | assumption | exact rfl | split | (dsimp -proj only; split)

theorem State.writeBar4_inv {s : State} {off : Nat} {v : BitVec 32} (h : Inv s) :
    Inv (s.writeBar4 off v) := by
  have hm : ∀ k e, Inv (s.setMsix k e) := fun _ _ => State.setMsix_inv h
  unfold State.writeBar4
  dsimp only
  exact Inv.ite h (Inv.ite (hm _ _) (Inv.ite (hm _ _) (Inv.ite (hm _ _) (State.maskVec_inv h))))

theorem State.writeConfig_inv {s : State} {v : BitVec 32} (ho : Inv s) : Inv (State.writeConfig s v) := by
  unfold State.writeConfig
  repeat' with_reducible first | exact ho | refine Inv.ite ?_ ?_ | refine Inv.dite (fun _ => ?_) (fun _ => ?_) | refine State.sendPending_inv ?_ | refine State.enterD3_inv ?_ | refine State.forAll_inv (fun _ _ _ => ?_) ?_ | assumption | exact rfl | split | (dsimp -proj only; split) | refine inv_set_host ?_ ?_

end Sys2Proof.Machine
end

