-- ==== Sys2Proof/Laws/OnlyLive.lean ====
section
/-! SUPPORT. The parts of the state that each operation of Machine/Live.lean reaches. -/

namespace Sys2Proof.Machine
open Sys2Proof

set_option linter.all false

theorem State.writeDir_only {L : List Part} {s₀ : State} {s : State} {f : BootDir → BootDir} (hL : reach [.out, .boot] L = true) (ho : Only L s₀ s) :
    Only L s₀ (State.writeDir s f) := by
  unfold State.writeDir
  repeat' with_reducible first | exact ho | refine Only.ite ?_ ?_ | refine Only.dite (fun _ => ?_) (fun _ => ?_) | refine State.emit_only (sub_reach hL rfl) ?_ | assumption | split | (dsimp -proj only; split) | refine only_set_boot (sub_reach hL rfl) ?_

theorem State.nextTry_only {L : List Part} {s₀ : State} {s : State} (hL : reach [.out, .boot] L = true) (ho : Only L s₀ s) :
    Only L s₀ (State.nextTry s) := by
  unfold State.nextTry
  repeat' with_reducible first | exact ho | refine Only.ite ?_ ?_ | refine Only.dite (fun _ => ?_) (fun _ => ?_) | refine State.writeDir_only (sub_reach hL rfl) ?_ | assumption | split | (dsimp -proj only; split) | refine only_set_boot (sub_reach hL rfl) ?_

theorem State.skipInvalid_only {L : List Part} {s₀ : State} {s : State} (hL : reach [.out, .boot] L = true) (ho : Only L s₀ s) :
    Only L s₀ (State.skipInvalid s) := by
  unfold State.skipInvalid
  repeat' with_reducible first | exact ho | refine Only.ite ?_ ?_ | refine Only.dite (fun _ => ?_) (fun _ => ?_) | refine State.nextTry_only (sub_reach hL rfl) ?_ | assumption | split | (dsimp -proj only; split)

theorem State.chooseSlot_only {L : List Part} {s₀ : State} {s : State} (hL : reach [.out, .boot] L = true) (ho : Only L s₀ s) :
    Only L s₀ (State.chooseSlot s) := by
  unfold State.chooseSlot
  repeat' with_reducible first | exact ho | refine Only.ite ?_ ?_ | refine Only.dite (fun _ => ?_) (fun _ => ?_) | refine State.skipInvalid_only (sub_reach hL rfl) ?_ | refine State.writeDir_only (sub_reach hL rfl) ?_ | assumption | split | (dsimp -proj only; split) | refine only_set_boot (sub_reach hL rfl) ?_

theorem State.unmark_only {L : List Part} {s₀ : State} {s : State} {g : Region} {x : Rsp} (hL : reach [.stats, .out, .host, .qp, .mgmt, .boot, .region, .fab] L = true) (ho : Only L s₀ s) :
    Only L s₀ (State.unmark s g x) := by
  unfold State.unmark
  repeat' with_reducible first | exact ho | refine Only.ite ?_ ?_ | refine Only.dite (fun _ => ?_) (fun _ => ?_) | refine State.setRegion_only (sub_reach hL rfl) ?_ | refine State.completeRun_only (sub_reach hL rfl) ?_ | assumption | split | (dsimp -proj only; split)

theorem State.returnBerths_only {L : List Part} {s₀ : State} {s : State} {g : Region} {x : Rsp} (hL : reach [.stats, .out, .dom, .host, .qp, .mgmt, .boot, .region, .berth, .line, .ctxs, .fab] L = true) (ho : Only L s₀ s) :
    Only L s₀ (State.returnBerths s g x) := by
  unfold State.returnBerths
  repeat' with_reducible first | exact ho | refine Only.ite ?_ ?_ | refine Only.dite (fun _ => ?_) (fun _ => ?_) | refine State.berthReturns_only (sub_reach hL rfl) ?_ | refine State.unmark_only (sub_reach hL rfl) ?_ | refine State.startRamp_only (sub_reach hL rfl) ?_ | refine State.modLine_only (sub_reach hL rfl) ?_ | refine State.forAll_only (fun _ _ _ => ?_) ?_ | assumption | split | (dsimp -proj only; split)

theorem State.returnLinks_only {L : List Part} {s₀ : State} {s : State} {x : Rsp} (hL : reach [.fields, .pend, .stats, .out, .entropyCtr, .host, .qp, .mgmt, .boot, .region, .eth, .fab] L = true) (ho : Only L s₀ s) :
    Only L s₀ (State.returnLinks s x) := by
  unfold State.returnLinks
  repeat' with_reducible first | exact ho | refine Only.ite ?_ ?_ | refine Only.dite (fun _ => ?_) (fun _ => ?_) | refine State.startJoin_only (sub_reach hL rfl) ?_ | refine State.raiseLink_only (sub_reach hL rfl) ?_ | refine State.startPort_only (sub_reach hL rfl) ?_ | refine State.unmark_only (sub_reach hL rfl) ?_ | refine State.forAll_only (fun _ _ _ => ?_) ?_ | assumption | split | (dsimp -proj only; split)

theorem State.returnMgmt_only {L : List Part} {s₀ : State} {s : State} {x : Rsp} (hL : reach [.stats, .out, .entropyCtr, .dom, .host, .qp, .mgmt, .boot, .region, .live, .berth, .eth, .fab, .clk, .sense, .loop] L = true) (ho : Only L s₀ s) :
    Only L s₀ (State.returnMgmt s x) := by
  unfold State.returnMgmt
  repeat' with_reducible first | exact ho | refine Only.ite ?_ ?_ | refine Only.dite (fun _ => ?_) (fun _ => ?_) | refine State.servedOwn_only (sub_reach hL rfl) ?_ | refine State.modLoop_only (sub_reach hL rfl) ?_ | refine State.modSense_only (sub_reach hL rfl) ?_ | refine State.clkSelect_only (sub_reach hL rfl) ?_ | refine State.startJoin_only (sub_reach hL rfl) ?_ | refine State.unmark_only (sub_reach hL rfl) ?_ | refine State.forAll_only (fun _ _ _ => ?_) ?_ | assumption | split | (dsimp -proj only; split) | refine only_set_live (sub_reach hL rfl) ?_

theorem State.returnRegion_only {L : List Part} {s₀ : State} {s : State} {g : Region} {x : Rsp} (hL : reach [.fields, .pend, .stats, .out, .entropyCtr, .dom, .host, .qp, .mgmt, .boot, .region, .live, .berth, .line, .ctxs, .eth, .fab, .clk, .sense, .loop] L = true) (ho : Only L s₀ s) :
    Only L s₀ (State.returnRegion s g x) := by
  unfold State.returnRegion
  repeat' with_reducible first | exact ho | refine Only.ite ?_ ?_ | refine Only.dite (fun _ => ?_) (fun _ => ?_) | refine State.returnMgmt_only (sub_reach hL rfl) ?_ | refine State.returnLinks_only (sub_reach hL rfl) ?_ | refine State.returnBerths_only (sub_reach hL rfl) ?_ | refine State.unmark_only (sub_reach hL rfl) ?_ | assumption | split | (dsimp -proj only; split)

theorem State.bringUp_only {L : List Part} {s₀ : State} {s : State} {k : DomId} (hL : reach [.fields, .pend, .stats, .out, .entropyCtr, .dom, .host, .mgmt, .live, .berth, .line, .ctxs, .hold, .eth, .fab, .sense] L = true) (ho : Only L s₀ s) :
    Only L s₀ (State.bringUp s k) := by
  unfold State.bringUp
  repeat' with_reducible first | exact ho | refine Only.ite ?_ ?_ | refine Only.dite (fun _ => ?_) (fun _ => ?_) | refine State.domReady_only (sub_reach hL rfl) ?_ | refine State.ownBringUp_only (sub_reach hL rfl) ?_ | assumption | split | (dsimp -proj only; split)

theorem State.recordedJoin_only {L : List Part} {s₀ : State} {s : State} (hL : reach [.stats, .out, .entropyCtr, .host, .fab] L = true) (ho : Only L s₀ s) :
    Only L s₀ (State.recordedJoin s) := by
  unfold State.recordedJoin
  repeat' with_reducible first | exact ho | refine Only.ite ?_ ?_ | refine Only.dite (fun _ => ?_) (fun _ => ?_) | refine State.startJoin_only (sub_reach hL rfl) ?_ | assumption | split | (dsimp -proj only; split)

theorem State.serviceUp_only {L : List Part} {s₀ s : State} (hL : reach [.fields, .pend, .stats, .out, .entropyCtr, .dom, .host, .mgmt, .live, .berth, .line, .ctxs, .hold, .eth, .fab, .sense] L = true) (h : Only L s₀ s) :
    Only L s₀ s.serviceUp := by
  have hb : ∀ a d, Only L s₀ a → Only L s₀ (State.bringUp a d) := fun a d ha => State.bringUp_only (sub_reach hL rfl) ha
  have h1 : Only L s₀ (([pdEth, pdFab, pdSense].foldl State.bringUp s).recordedJoin) :=
    State.recordedJoin_only (sub_reach hL rfl) (hb _ _ (hb _ _ (hb _ _ h)))
  unfold State.serviceUp
  dsimp only
  generalize ([pdEth, pdFab, pdSense].foldl State.bringUp s).recordedJoin = s1 at h1 ⊢
  refine only_set_live (sub_reach hL rfl) (Only.ite (State.forAll_only (fun a b ha => ?_) h1) h1)
  exact hb _ _ ha

theorem State.dropPcie_only {L : List Part} {s₀ : State} {s : State} {cause : Nat} (hL : reach [.stats, .out, .host, .qp, .mgmt, .boot, .fab] L = true) (ho : Only L s₀ s) :
    Only L s₀ (State.dropPcie s cause) := by
  unfold State.dropPcie
  repeat' with_reducible first | exact ho | refine Only.ite ?_ ?_ | refine Only.dite (fun _ => ?_) (fun _ => ?_) | refine State.resetPcie_only (sub_reach hL rfl) ?_ | refine State.loseHost_only (sub_reach hL rfl) ?_ | assumption | split | (dsimp -proj only; split) | refine only_set_host (sub_reach hL rfl) ?_

theorem berthSwapEff_only {L : List Part} {s₀ : State} {r : Req} {bankFail : BitVec 32} {s : State} (hL : reach [.stats, .out, .berth] L = true) (ho : Only L s₀ s) :
    OnlyEff L s₀ (berthSwapEff r bankFail s) := by
  unfold berthSwapEff
  repeat' with_reducible first | refine OnlyEff.done ?_ | refine OnlyEff.run ?_ | refine OnlyEff.ite ?_ ?_ | refine OnlyEff.dite (fun _ => ?_) (fun _ => ?_) | exact ho | refine Only.ite ?_ ?_ | refine Only.dite (fun _ => ?_) (fun _ => ?_) | refine State.emit_only (sub_reach hL rfl) ?_ | refine State.bump_only (sub_reach hL rfl) ?_ | refine State.modBerth_only (sub_reach hL rfl) ?_ | refine State.forAll_only (fun _ _ _ => ?_) ?_ | assumption | split | (dsimp -proj only; split)

theorem State.startRestart_only {L : List Part} {s₀ : State} {s : State} (hL : reach [.stats, .out, .host, .mgmt, .boot, .live, .eth, .fab, .clk] L = true) (ho : Only L s₀ s) :
    Only L s₀ (State.startRestart s) := by
  unfold State.startRestart
  repeat' with_reducible first | exact ho | refine Only.ite ?_ ?_ | refine Only.dite (fun _ => ?_) (fun _ => ?_) | refine State.broadcast_only (sub_reach hL rfl) ?_ | refine State.closeWhere_only (sub_reach hL rfl) ?_ | refine State.clkSelect_only (sub_reach hL rfl) ?_ | refine State.chooseSlot_only (sub_reach hL rfl) ?_ | assumption | split | (dsimp -proj only; split) | refine only_set_live (sub_reach hL rfl) ?_

theorem State.markDrained_only {L : List Part} {s₀ : State} {s : State} {r : Region} {ms : Nat} {done : Bool} (hL : reach [.region] L = true) (ho : Only L s₀ s) :
    Only L s₀ (State.markDrained s r ms done) := by
  unfold State.markDrained
  repeat' with_reducible first | exact ho | refine Only.ite ?_ ?_ | refine Only.dite (fun _ => ?_) (fun _ => ?_) | refine State.setRegion_only (sub_reach hL rfl) ?_ | assumption | split | (dsimp -proj only; split)

theorem State.drainBerths_only {L : List Part} {s₀ : State} {s : State} {r : Region} {ms : Nat} (hL : reach [.mgmt, .region, .berth, .line, .ctxs] L = true) (ho : Only L s₀ s) :
    Only L s₀ (State.drainBerths s r ms).1 := by
  unfold State.drainBerths
  repeat' with_reducible first | exact ho | refine Only.ite ?_ ?_ | refine Only.dite (fun _ => ?_) (fun _ => ?_) | refine State.markDrained_only (sub_reach hL rfl) ?_ | refine State.silence_only (sub_reach hL rfl) ?_ | refine State.modLine_only (sub_reach hL rfl) ?_ | refine State.holdCtxs_only (sub_reach hL rfl) ?_ | refine State.forAll_only (fun _ _ _ => ?_) ?_ | assumption | split | (dsimp -proj only; split)
theorem State.drainBerths_only_eq {L : List Part} {s₀ : State} {s : State} {r : Region} {ms : Nat} {s₁ : State} {xv : _} (he : State.drainBerths s r ms = (s₁, xv)) (hL : reach [.mgmt, .region, .berth, .line, .ctxs] L = true) (ho : Only L s₀ s) :
    Only L s₀ s₁ := by
  have := State.drainBerths_only (s := s) (r := r) (ms := ms) hL ho
  rwa [he] at this

theorem State.drainLinks_only {L : List Part} {s₀ : State} {s : State} {ms : Nat} (hL : reach [.stats, .out, .host, .qp, .mgmt, .boot, .region, .eth, .fab] L = true) (ho : Only L s₀ s) :
    Only L s₀ (State.drainLinks s ms) := by
  unfold State.drainLinks
  repeat' with_reducible first | exact ho | refine Only.ite ?_ ?_ | refine Only.dite (fun _ => ?_) (fun _ => ?_) | refine State.markDrained_only (sub_reach hL rfl) ?_ | refine State.dropPcie_only (sub_reach hL rfl) ?_ | refine State.linkDown_only (sub_reach hL rfl) ?_ | refine State.portDown_only (sub_reach hL rfl) ?_ | refine State.forAll_only (fun _ _ _ => ?_) ?_ | assumption | split | (dsimp -proj only; split)

theorem regionDrainEff_only {L : List Part} {s₀ : State} {r : Req} {s : State} (hL : reach [.stats, .out, .host, .qp, .mgmt, .boot, .region, .live, .berth, .line, .ctxs, .eth, .fab, .clk] L = true) (ho : Only L s₀ s) :
    OnlyEff L s₀ (regionDrainEff r s) := by
  unfold regionDrainEff
  repeat' with_reducible first | refine OnlyEff.done ?_ | refine OnlyEff.run ?_ | refine OnlyEff.ite ?_ ?_ | refine OnlyEff.dite (fun _ => ?_) (fun _ => ?_) | exact ho | refine Only.ite ?_ ?_ | refine Only.dite (fun _ => ?_) (fun _ => ?_) | refine State.drainLinks_only (sub_reach hL rfl) ?_ | refine State.drainBerths_only (sub_reach hL rfl) ?_ | refine State.drainBerths_only_eq (by assumption) (sub_reach hL rfl) ?_ | refine State.markDrained_only (sub_reach hL rfl) ?_ | refine State.startRestart_only (sub_reach hL rfl) ?_ | assumption | split | (dsimp -proj only; split)

theorem regionReturnEff_only {L : List Part} {s₀ : State} {r : Req} {s : State} (hL : reach [.fields, .pend, .stats, .out, .entropyCtr, .dom, .host, .qp, .mgmt, .boot, .region, .live, .berth, .line, .ctxs, .eth, .fab, .clk, .sense, .loop] L = true) (ho : Only L s₀ s) :
    OnlyEff L s₀ (regionReturnEff r s) := by
  unfold regionReturnEff
  repeat' with_reducible first | refine OnlyEff.done ?_ | refine OnlyEff.run ?_ | refine OnlyEff.ite ?_ ?_ | refine OnlyEff.dite (fun _ => ?_) (fun _ => ?_) | exact ho | refine Only.ite ?_ ?_ | refine Only.dite (fun _ => ?_) (fun _ => ?_) | refine State.returnRegion_only (sub_reach hL rfl) ?_ | assumption | split | (dsimp -proj only; split)

end Sys2Proof.Machine
end

