-- ==== Sys2Proof/Laws/InvLive.lean ====
section
/-! SUPPORT. The operations of Machine/Live.lean keep what always holds. -/

namespace Sys2Proof.Machine
open Sys2Proof

set_option linter.all false

theorem State.writeDir_inv {s : State} {f : BootDir → BootDir} (ho : Inv s) : Inv (State.writeDir s f) :=
  inv_only (State.writeDir_only (L := [.out, .boot]) (s := s) (f := f) rfl (Only.refl _ _)) rfl ho

theorem State.nextTry_inv {s : State} (ho : Inv s) : Inv (State.nextTry s) :=
  inv_only (State.nextTry_only (L := [.out, .boot]) (s := s) rfl (Only.refl _ _)) rfl ho

theorem State.skipInvalid_inv {s : State} (ho : Inv s) : Inv (State.skipInvalid s) :=
  inv_only (State.skipInvalid_only (L := [.out, .boot]) (s := s) rfl (Only.refl _ _)) rfl ho

theorem State.chooseSlot_inv {s : State} (ho : Inv s) : Inv (State.chooseSlot s) :=
  inv_only (State.chooseSlot_only (L := [.out, .boot]) (s := s) rfl (Only.refl _ _)) rfl ho

theorem State.unmark_inv {s : State} {g : Region} {x : Rsp} (ho : Inv s) : Inv (State.unmark s g x) := by
  unfold State.unmark
  repeat' with_reducible first | exact ho | refine Inv.ite ?_ ?_ | refine Inv.dite (fun _ => ?_) (fun _ => ?_) | refine State.setRegion_inv ?_ | refine State.completeRun_inv ?_ | assumption | exact rfl | split | (dsimp -proj only; split)

theorem State.returnBerths_inv {s : State} {g : Region} {x : Rsp} (ho : Inv s) : Inv (State.returnBerths s g x) := by
  unfold State.returnBerths
  repeat' with_reducible first | exact ho | refine Inv.ite ?_ ?_ | refine Inv.dite (fun _ => ?_) (fun _ => ?_) | refine State.berthReturns_inv ?_ | refine State.unmark_inv ?_ | refine State.startRamp_inv ?_ | refine State.modLine_inv ?_ | refine State.forAll_inv (fun _ _ _ => ?_) ?_ | assumption | exact rfl | split | (dsimp -proj only; split)

theorem State.returnLinks_inv {s : State} {x : Rsp} (ho : Inv s) : Inv (State.returnLinks s x) := by
  unfold State.returnLinks
  repeat' with_reducible first | exact ho | refine Inv.ite ?_ ?_ | refine Inv.dite (fun _ => ?_) (fun _ => ?_) | refine State.startJoin_inv ?_ | refine State.raiseLink_inv ?_ | refine State.startPort_inv ?_ | refine State.unmark_inv ?_ | refine State.forAll_inv (fun _ _ _ => ?_) ?_ | assumption | exact rfl | split | (dsimp -proj only; split)

theorem State.returnMgmt_inv {s : State} {x : Rsp} (ho : Inv s) : Inv (State.returnMgmt s x) := by
  unfold State.returnMgmt
  repeat' with_reducible first | exact ho | refine Inv.ite ?_ ?_ | refine Inv.dite (fun _ => ?_) (fun _ => ?_) | refine State.servedOwn_inv ?_ | refine State.modLoop_inv ?_ | refine State.modSense_inv ?_ | refine State.clkSelect_inv ?_ | refine State.startJoin_inv ?_ | refine State.unmark_inv ?_ | refine State.forAll_inv (fun _ _ _ => ?_) ?_ | assumption | exact rfl | split | (dsimp -proj only; split) | refine inv_set_live ?_

theorem State.returnRegion_inv {s : State} {g : Region} {x : Rsp} (ho : Inv s) : Inv (State.returnRegion s g x) := by
  unfold State.returnRegion
  repeat' with_reducible first | exact ho | refine Inv.ite ?_ ?_ | refine Inv.dite (fun _ => ?_) (fun _ => ?_) | refine State.returnMgmt_inv ?_ | refine State.returnLinks_inv ?_ | refine State.returnBerths_inv ?_ | refine State.unmark_inv ?_ | assumption | exact rfl | split | (dsimp -proj only; split)

theorem State.bringUp_inv {s : State} {k : DomId} (ho : Inv s) : Inv (State.bringUp s k) := by
  unfold State.bringUp
  repeat' with_reducible first | exact ho | refine Inv.ite ?_ ?_ | refine Inv.dite (fun _ => ?_) (fun _ => ?_) | refine State.domReady_inv ?_ | refine State.ownBringUp_inv ?_ | assumption | exact rfl | split | (dsimp -proj only; split)

theorem State.recordedJoin_inv {s : State} (ho : Inv s) : Inv (State.recordedJoin s) := by
  unfold State.recordedJoin
  repeat' with_reducible first | exact ho | refine Inv.ite ?_ ?_ | refine Inv.dite (fun _ => ?_) (fun _ => ?_) | refine State.startJoin_inv ?_ | assumption | exact rfl | split | (dsimp -proj only; split)

theorem State.serviceUp_inv {s : State} (h : Inv s) :
    Inv s.serviceUp := by
  have hb : ∀ a d, Inv a → Inv (State.bringUp a d) := fun a d ha => State.bringUp_inv ha
  have h1 : Inv (([pdEth, pdFab, pdSense].foldl State.bringUp s).recordedJoin) :=
    State.recordedJoin_inv (hb _ _ (hb _ _ (hb _ _ h)))
  unfold State.serviceUp
  dsimp only
  generalize ([pdEth, pdFab, pdSense].foldl State.bringUp s).recordedJoin = s1 at h1 ⊢
  refine inv_set_live (Inv.ite (State.forAll_inv (fun a b ha => ?_) h1) h1)
  exact hb _ _ ha

theorem State.dropPcie_inv {s : State} {cause : Nat} (ho : Inv s) : Inv (State.dropPcie s cause) := by
  unfold State.dropPcie
  repeat' with_reducible first | exact ho | refine Inv.ite ?_ ?_ | refine Inv.dite (fun _ => ?_) (fun _ => ?_) | refine State.resetPcie_inv ?_ | refine State.loseHost_inv ?_ | assumption | exact rfl | split | (dsimp -proj only; split) | refine inv_set_host ?_ ?_

theorem berthSwapEff_inv {r : Req} {bankFail : BitVec 32} {s : State} (ho : Inv s) : InvEff (berthSwapEff r bankFail s) :=
  inv_only (berthSwapEff_only (L := [.stats, .out, .berth]) (r := r) (bankFail := bankFail) (s := s) rfl (Only.refl _ _)) rfl ho

theorem State.startRestart_inv {s : State} (ho : Inv s) : Inv (State.startRestart s) := by
  unfold State.startRestart
  repeat' with_reducible first | exact ho | refine Inv.ite ?_ ?_ | refine Inv.dite (fun _ => ?_) (fun _ => ?_) | refine State.broadcast_inv ?_ | refine State.closeWhere_inv ?_ | refine State.clkSelect_inv ?_ | refine State.chooseSlot_inv ?_ | assumption | exact rfl | split | (dsimp -proj only; split) | refine inv_set_live ?_

theorem State.markDrained_inv {s : State} {r : Region} {ms : Nat} {done : Bool} (ho : Inv s) : Inv (State.markDrained s r ms done) :=
  inv_only (State.markDrained_only (L := [.region]) (s := s) (r := r) (ms := ms) (done := done) rfl (Only.refl _ _)) rfl ho

theorem State.drainBerths_inv {s : State} {r : Region} {ms : Nat} (ho : Inv s) : Inv (State.drainBerths s r ms).1 :=
  inv_only (State.drainBerths_only (L := [.mgmt, .region, .berth, .line, .ctxs]) (s := s) (r := r) (ms := ms) rfl (Only.refl _ _)) rfl ho
theorem State.drainBerths_inv_eq {s : State} {r : Region} {ms : Nat} {s₁ : State} {xv : _} (he : State.drainBerths s r ms = (s₁, xv)) (ho : Inv s) : Inv s₁ :=
  inv_only (State.drainBerths_only_eq (L := [.mgmt, .region, .berth, .line, .ctxs]) (s := s) (r := r) (ms := ms) (he := he) rfl (Only.refl _ _)) rfl ho

theorem State.drainLinks_inv {s : State} {ms : Nat} (ho : Inv s) : Inv (State.drainLinks s ms) := by
  unfold State.drainLinks
  repeat' with_reducible first | exact ho | refine Inv.ite ?_ ?_ | refine Inv.dite (fun _ => ?_) (fun _ => ?_) | refine State.markDrained_inv ?_ | refine State.dropPcie_inv ?_ | refine State.linkDown_inv ?_ | refine State.portDown_inv ?_ | refine State.forAll_inv (fun _ _ _ => ?_) ?_ | assumption | exact rfl | split | (dsimp -proj only; split)

theorem regionDrainEff_inv {r : Req} {s : State} (ho : Inv s) : InvEff (regionDrainEff r s) := by
  unfold regionDrainEff
  repeat' with_reducible first | refine InvEff.done ?_ | refine InvEff.run ?_ | refine InvEff.ite ?_ ?_ | refine InvEff.dite (fun _ => ?_) (fun _ => ?_) | exact ho | refine Inv.ite ?_ ?_ | refine Inv.dite (fun _ => ?_) (fun _ => ?_) | refine State.drainLinks_inv ?_ | refine State.drainBerths_inv ?_ | refine State.drainBerths_inv_eq (by assumption) ?_ | refine State.markDrained_inv ?_ | refine State.startRestart_inv ?_ | assumption | exact rfl | split | (dsimp -proj only; split)

theorem regionReturnEff_inv {r : Req} {s : State} (ho : Inv s) : InvEff (regionReturnEff r s) := by
  unfold regionReturnEff
  repeat' with_reducible first | refine InvEff.done ?_ | refine InvEff.run ?_ | refine InvEff.ite ?_ ?_ | refine InvEff.dite (fun _ => ?_) (fun _ => ?_) | exact ho | refine Inv.ite ?_ ?_ | refine Inv.dite (fun _ => ?_) (fun _ => ?_) | refine State.returnRegion_inv ?_ | assumption | exact rfl | split | (dsimp -proj only; split)

end Sys2Proof.Machine
end

