-- ==== Sys2Proof/Laws/OnlyBoot.lean ====
section
/-! SUPPORT. The parts of the state that each operation of Machine/Boot.lean reaches. -/

namespace Sys2Proof.Machine
open Sys2Proof

set_option linter.all false

theorem State.imageFails_only {L : List Part} {s₀ : State} {s : State} {v : Verdict} (hL : reach [.stats, .out, .host, .boot, .fab] L = true) (ho : Only L s₀ s) :
    Only L s₀ (State.imageFails s v) := by
  unfold State.imageFails
  repeat' with_reducible first | exact ho | refine Only.ite ?_ ?_ | refine Only.dite (fun _ => ?_) (fun _ => ?_) | refine State.raise_only (sub_reach hL rfl) ?_ | refine State.bump_only (sub_reach hL rfl) ?_ | assumption | split | (dsimp -proj only; split) | refine only_set_boot (sub_reach hL rfl) ?_

theorem State.porState_only {L : List Part} {s₀ s : State} {low : Bool} (hL : reach [.fields, .pend, .stats, .evTimes, .dom, .die, .avs, .host, .qp, .mgmt, .sec, .boot, .region, .live, .berth, .line, .ctxs, .owns, .mesh, .hold, .eth, .fab, .clk, .sense, .senseBlank, .loop, .chk, .uart] L = true) (h : Only L s₀ s) :
    Only L s₀ (s.porState low) := by
  intro p hp
  cases p <;> first | exact h _ hp | exact absurd (not_reach hL hp) (by decide)

theorem State.starter_only {L : List Part} {s₀ : State} {s : State} {otpOk : Bool} {supplyOk : Bool} (hL : reach [.stats, .out, .dom, .host, .mgmt, .boot, .berth] L = true) (ho : Only L s₀ s) :
    Only L s₀ (State.starter s otpOk supplyOk) := by
  unfold State.starter
  repeat' with_reducible first | exact ho | refine Only.ite ?_ ?_ | refine Only.dite (fun _ => ?_) (fun _ => ?_) | refine State.stopBoot_only (sub_reach hL rfl) ?_ | refine State.ownBringUp_only (sub_reach hL rfl) ?_ | assumption | split | (dsimp -proj only; split)

theorem State.hostLoads_only {L : List Part} {s₀ : State} {s : State} (hL : reach [.stats, .out, .dom, .host, .mgmt, .boot, .berth] L = true) (ho : Only L s₀ s) :
    Only L s₀ (State.hostLoads s) := by
  unfold State.hostLoads
  repeat' with_reducible first | exact ho | refine Only.ite ?_ ?_ | refine Only.dite (fun _ => ?_) (fun _ => ?_) | refine State.ownBringUp_only (sub_reach hL rfl) ?_ | assumption | split | (dsimp -proj only; split) | refine only_set_boot (sub_reach hL rfl) ?_

theorem State.trySettle_only {L : List Part} {s₀ : State} {s : State} (hL : reach [.stats, .out, .dom, .host, .mgmt, .boot, .berth] L = true) (ho : Only L s₀ s) :
    Only L s₀ (State.trySettle s) := by
  unfold State.trySettle
  repeat' with_reducible first | exact ho | refine Only.ite ?_ ?_ | refine Only.dite (fun _ => ?_) (fun _ => ?_) | refine State.hostLoads_only (sub_reach hL rfl) ?_ | assumption | split | (dsimp -proj only; split)

theorem State.firmwareStarts_only {L : List Part} {s₀ : State} {s : State} {slot : Bool} {i : ImgInfo} (hL : reach [.stats, .out, .dom, .host, .mgmt, .boot, .live, .berth, .fab] L = true) (ho : Only L s₀ s) :
    Only L s₀ (State.firmwareStarts s slot i) := by
  unfold State.firmwareStarts
  repeat' with_reducible first | exact ho | refine Only.ite ?_ ?_ | refine Only.dite (fun _ => ?_) (fun _ => ?_) | refine State.epochUpdate_only (sub_reach hL rfl) ?_ | refine State.ownBringUp_only (sub_reach hL rfl) ?_ | assumption | split | (dsimp -proj only; split) | refine only_set_boot (sub_reach hL rfl) ?_

theorem State.slotFails_only {L : List Part} {s₀ : State} {s : State} {slot : Bool} {v : Verdict} (hL : reach [.stats, .out, .dom, .host, .mgmt, .boot, .berth, .fab] L = true) (ho : Only L s₀ s) :
    Only L s₀ (State.slotFails s slot v) := by
  unfold State.slotFails
  repeat' with_reducible first | exact ho | refine Only.ite ?_ ?_ | refine Only.dite (fun _ => ?_) (fun _ => ?_) | refine State.skipInvalid_only (sub_reach hL rfl) ?_ | refine State.nextTry_only (sub_reach hL rfl) ?_ | refine State.writeDir_only (sub_reach hL rfl) ?_ | refine State.trySettle_only (sub_reach hL rfl) ?_ | refine State.imageFails_only (sub_reach hL rfl) ?_ | assumption | split | (dsimp -proj only; split) | refine only_set_boot (sub_reach hL rfl) ?_

theorem State.startFlash_only {L : List Part} {s₀ : State} {s : State} {uc : Bool} {slot : Bool} (hL : reach [.out, .boot] L = true) (ho : Only L s₀ s) :
    Only L s₀ (State.startFlash s uc slot) := by
  unfold State.startFlash
  repeat' with_reducible first | exact ho | refine Only.ite ?_ ?_ | refine Only.dite (fun _ => ?_) (fun _ => ?_) | refine State.writeDir_only (sub_reach hL rfl) ?_ | refine State.emit_only (sub_reach hL rfl) ?_ | assumption | split | (dsimp -proj only; split) | refine only_set_boot (sub_reach hL rfl) ?_

theorem State.stageEnds_only {L : List Part} {s₀ : State} {s : State} {uc : Bool} {img : Bytes} (hL : reach [.stats, .out, .host, .boot, .fab] L = true) (ho : Only L s₀ s) :
    OnlyEff L s₀ (State.stageEnds s uc img) := by
  unfold State.stageEnds
  repeat' with_reducible first | refine OnlyEff.done ?_ | refine OnlyEff.run ?_ | refine OnlyEff.ite ?_ ?_ | refine OnlyEff.dite (fun _ => ?_) (fun _ => ?_) | exact ho | refine Only.ite ?_ ?_ | refine Only.dite (fun _ => ?_) (fun _ => ?_) | refine State.startFlash_only (sub_reach hL rfl) ?_ | refine State.imageFails_only (sub_reach hL rfl) ?_ | assumption | split | (dsimp -proj only; split) | refine only_set_boot (sub_reach hL rfl) ?_

theorem fwStageEff_only {L : List Part} {s₀ : State} {r : Req} {s : State} (hL : reach [.stats, .out, .host, .boot, .fab] L = true) (ho : Only L s₀ s) :
    OnlyEff L s₀ (fwStageEff r s) := by
  unfold fwStageEff
  repeat' with_reducible first | refine OnlyEff.done ?_ | refine OnlyEff.run ?_ | refine OnlyEff.ite ?_ ?_ | refine OnlyEff.dite (fun _ => ?_) (fun _ => ?_) | exact ho | refine Only.ite ?_ ?_ | refine Only.dite (fun _ => ?_) (fun _ => ?_) | refine State.stageEnds_only (sub_reach hL rfl) ?_ | assumption | split | (dsimp -proj only; split) | refine only_set_boot (sub_reach hL rfl) ?_

theorem State.commitHost_only {L : List Part} {s₀ : State} {s : State} (hL : reach [.stats, .out, .dom, .host, .mgmt, .boot, .live, .berth, .fab] L = true) (ho : Only L s₀ s) :
    OnlyEff L s₀ (State.commitHost s) := by
  unfold State.commitHost
  repeat' with_reducible first | refine OnlyEff.done ?_ | refine OnlyEff.run ?_ | refine OnlyEff.ite ?_ ?_ | refine OnlyEff.dite (fun _ => ?_) (fun _ => ?_) | exact ho | refine Only.ite ?_ ?_ | refine Only.dite (fun _ => ?_) (fun _ => ?_) | refine State.startFlash_only (sub_reach hL rfl) ?_ | refine State.firmwareStarts_only (sub_reach hL rfl) ?_ | assumption | split | (dsimp -proj only; split)

theorem commitFw_only {L : List Part} {s₀ : State} {action : Nat} {fuses : Bool} {other : Option (Nat × Nat)} {s : State} (hL : reach [.out, .sec, .boot] L = true) (ho : Only L s₀ s) :
    OnlyEff L s₀ (commitFw action fuses other s) := by
  unfold commitFw
  repeat' with_reducible first | refine OnlyEff.done ?_ | refine OnlyEff.run ?_ | refine OnlyEff.ite ?_ ?_ | refine OnlyEff.dite (fun _ => ?_) (fun _ => ?_) | exact ho | refine Only.ite ?_ ?_ | refine Only.dite (fun _ => ?_) (fun _ => ?_) | refine State.writeDir_only (sub_reach hL rfl) ?_ | refine State.emit_only (sub_reach hL rfl) ?_ | assumption | split | (dsimp -proj only; split) | refine only_set_boot (sub_reach hL rfl) ?_ | refine only_set_sec (sub_reach hL rfl) ?_

theorem commitUc_only {L : List Part} {s₀ s : State} {action : Nat} (hL : reach [.out, .boot] L = true) (h : Only L s₀ s) :
    OnlyEff L s₀ (commitUc action s) := by
  unfold commitUc
  dsimp only
  split
  · split
    · refine OnlyEff.ite h (OnlyEff.done (only_set_boot (sub_reach hL rfl) h))
    · exact h
  · split
    · exact OnlyEff.done (State.writeDir_only (sub_reach hL rfl) h)
    · exact h
  · exact OnlyEff.ite (OnlyEff.done (only_set_boot (sub_reach hL rfl) (State.writeDir_only (sub_reach hL rfl) h))) h

theorem fwCommitEff_only {L : List Part} {s₀ : State} {r : Req} {other : Option (Nat × Nat)} {s : State} (hL : reach [.stats, .out, .dom, .host, .mgmt, .sec, .boot, .live, .berth, .fab] L = true) (ho : Only L s₀ s) :
    OnlyEff L s₀ (fwCommitEff r other s) := by
  unfold fwCommitEff
  repeat' with_reducible first | refine OnlyEff.done ?_ | refine OnlyEff.run ?_ | refine OnlyEff.ite ?_ ?_ | refine OnlyEff.dite (fun _ => ?_) (fun _ => ?_) | exact ho | refine Only.ite ?_ ?_ | refine Only.dite (fun _ => ?_) (fun _ => ?_) | refine commitUc_only (sub_reach hL rfl) ?_ | refine commitFw_only (sub_reach hL rfl) ?_ | refine State.commitHost_only (sub_reach hL rfl) ?_ | assumption | split | (dsimp -proj only; split)

theorem State.runFw_only {L : List Part} {s₀ : State} {s : State} {slot : Bool} {i : ImgInfo} (hL : reach [.boot, .live, .fab] L = true) (ho : Only L s₀ s) :
    Only L s₀ (State.runFw s slot i) := by
  unfold State.runFw
  repeat' with_reducible first | exact ho | refine Only.ite ?_ ?_ | refine Only.dite (fun _ => ?_) (fun _ => ?_) | refine State.epochUpdate_only (sub_reach hL rfl) ?_ | assumption | split | (dsimp -proj only; split) | refine only_set_boot (sub_reach hL rfl) ?_

theorem State.fwSlotFails_only {L : List Part} {s₀ : State} {s : State} {slot : Bool} {act : Bool} {v : Verdict} (hL : reach [.stats, .out, .host, .boot, .fab] L = true) (ho : Only L s₀ s) :
    Only L s₀ (State.fwSlotFails s slot act v) := by
  unfold State.fwSlotFails
  repeat' with_reducible first | exact ho | refine Only.ite ?_ ?_ | refine Only.dite (fun _ => ?_) (fun _ => ?_) | refine State.writeDir_only (sub_reach hL rfl) ?_ | refine State.imageFails_only (sub_reach hL rfl) ?_ | assumption | split | (dsimp -proj only; split) | refine only_set_boot (sub_reach hL rfl) ?_

theorem State.pickFw_only {L : List Part} {s₀ : State} {s : State} {img : Bytes} {alt : Bytes} (hL : reach [.stats, .out, .host, .boot, .live, .fab] L = true) (ho : Only L s₀ s) :
    Only L s₀ (State.pickFw s img alt).2 := by
  unfold State.pickFw
  repeat' with_reducible first | exact ho | refine Only.ite ?_ ?_ | refine Only.dite (fun _ => ?_) (fun _ => ?_) | refine State.fwSlotFails_only (sub_reach hL rfl) ?_ | refine State.runFw_only (sub_reach hL rfl) ?_ | refine State.imageFails_only (sub_reach hL rfl) ?_ | assumption | split | (dsimp -proj only; split)
theorem State.pickFw_only_eq {L : List Part} {s₀ : State} {s : State} {img : Bytes} {alt : Bytes} {s₁ : State} {xv : _} (he : State.pickFw s img alt = (xv, s₁)) (hL : reach [.stats, .out, .host, .boot, .live, .fab] L = true) (ho : Only L s₀ s) :
    Only L s₀ s₁ := by
  have := State.pickFw_only (s := s) (img := img) (alt := alt) hL ho
  rwa [he] at this

theorem State.writeRecord_only {L : List Part} {s₀ : State} {s : State} (hL : reach [.out, .boot] L = true) (ho : Only L s₀ s) :
    Only L s₀ (State.writeRecord s) := by
  unfold State.writeRecord
  repeat' with_reducible first | exact ho | refine Only.ite ?_ ?_ | refine Only.dite (fun _ => ?_) (fun _ => ?_) | refine State.emit_only (sub_reach hL rfl) ?_ | assumption | split | (dsimp -proj only; split) | refine only_set_boot (sub_reach hL rfl) ?_

theorem State.authDone_only {L : List Part} {s₀ : State} {s : State} (hL : reach [.out, .boot] L = true) (ho : Only L s₀ s) :
    Only L s₀ (State.authDone s) := by
  unfold State.authDone
  repeat' with_reducible first | exact ho | refine Only.ite ?_ ?_ | refine Only.dite (fun _ => ?_) (fun _ => ?_) | refine State.emit_only (sub_reach hL rfl) ?_ | assumption | split | (dsimp -proj only; split) | refine only_set_boot (sub_reach hL rfl) ?_

theorem State.applyRecord_only {L : List Part} {s₀ : State} {s : State} {r : CfgRec} (hL : reach [.fields, .mgmt, .sec, .boot, .hold, .fab, .clk, .sense, .uart] L = true) (ho : Only L s₀ s) :
    Only L s₀ (State.applyRecord s r) := by
  unfold State.applyRecord
  repeat' with_reducible first | exact ho | refine Only.ite ?_ ?_ | refine Only.dite (fun _ => ?_) (fun _ => ?_) | refine State.uartModeSet_only (sub_reach hL rfl) ?_ | refine State.modSense_only (sub_reach hL rfl) ?_ | refine State.forAll_only (fun _ _ _ => ?_) ?_ | refine State.fset_only (sub_reach hL rfl) ?_ | assumption | split | (dsimp -proj only; split) | refine only_set_sec_fab (sub_reach hL rfl) ?_ | refine only_set_hold (sub_reach hL rfl) ?_

end Sys2Proof.Machine
end

