-- ==== Sys2Proof/Laws/InvBoot.lean ====
section
/-! SUPPORT. The operations of Machine/Boot.lean keep what always holds. -/

namespace Sys2Proof.Machine
open Sys2Proof

set_option linter.all false

theorem State.imageFails_inv {s : State} {v : Verdict} (ho : Inv s) : Inv (State.imageFails s v) := by
  unfold State.imageFails
  repeat' with_reducible first | exact ho | refine Inv.ite ?_ ?_ | refine Inv.dite (fun _ => ?_) (fun _ => ?_) | refine State.raise_inv ?_ | refine State.bump_inv ?_ | assumption | exact rfl | split | (dsimp -proj only; split) | refine inv_set_boot ?_

theorem State.porState_inv {s : State} {low : Bool} (h : Inv s) : Inv (s.porState low) :=
  inv_same (a := State.reset) rfl rfl rfl State.reset_inv

theorem State.starter_inv {s : State} {otpOk : Bool} {supplyOk : Bool} (ho : Inv s) : Inv (State.starter s otpOk supplyOk) := by
  unfold State.starter
  repeat' with_reducible first | exact ho | refine Inv.ite ?_ ?_ | refine Inv.dite (fun _ => ?_) (fun _ => ?_) | refine State.stopBoot_inv ?_ | refine State.ownBringUp_inv ?_ | assumption | exact rfl | split | (dsimp -proj only; split)

theorem State.hostLoads_inv {s : State} (ho : Inv s) : Inv (State.hostLoads s) := by
  unfold State.hostLoads
  repeat' with_reducible first | exact ho | refine Inv.ite ?_ ?_ | refine Inv.dite (fun _ => ?_) (fun _ => ?_) | refine State.ownBringUp_inv ?_ | assumption | exact rfl | split | (dsimp -proj only; split) | refine inv_set_boot ?_

theorem State.trySettle_inv {s : State} (ho : Inv s) : Inv (State.trySettle s) := by
  unfold State.trySettle
  repeat' with_reducible first | exact ho | refine Inv.ite ?_ ?_ | refine Inv.dite (fun _ => ?_) (fun _ => ?_) | refine State.hostLoads_inv ?_ | assumption | exact rfl | split | (dsimp -proj only; split)

theorem State.firmwareStarts_inv {s : State} {slot : Bool} {i : ImgInfo} (ho : Inv s) : Inv (State.firmwareStarts s slot i) := by
  unfold State.firmwareStarts
  repeat' with_reducible first | exact ho | refine Inv.ite ?_ ?_ | refine Inv.dite (fun _ => ?_) (fun _ => ?_) | refine State.epochUpdate_inv ?_ | refine State.ownBringUp_inv ?_ | assumption | exact rfl | split | (dsimp -proj only; split) | refine inv_set_boot ?_

theorem State.slotFails_inv {s : State} {slot : Bool} {v : Verdict} (ho : Inv s) : Inv (State.slotFails s slot v) := by
  unfold State.slotFails
  repeat' with_reducible first | exact ho | refine Inv.ite ?_ ?_ | refine Inv.dite (fun _ => ?_) (fun _ => ?_) | refine State.skipInvalid_inv ?_ | refine State.nextTry_inv ?_ | refine State.writeDir_inv ?_ | refine State.trySettle_inv ?_ | refine State.imageFails_inv ?_ | assumption | exact rfl | split | (dsimp -proj only; split) | refine inv_set_boot ?_

theorem State.startFlash_inv {s : State} {uc : Bool} {slot : Bool} (ho : Inv s) : Inv (State.startFlash s uc slot) :=
  inv_only (State.startFlash_only (L := [.out, .boot]) (s := s) (uc := uc) (slot := slot) rfl (Only.refl _ _)) rfl ho

theorem State.stageEnds_inv {s : State} {uc : Bool} {img : Bytes} (ho : Inv s) : InvEff (State.stageEnds s uc img) := by
  unfold State.stageEnds
  repeat' with_reducible first | refine InvEff.done ?_ | refine InvEff.run ?_ | refine InvEff.ite ?_ ?_ | refine InvEff.dite (fun _ => ?_) (fun _ => ?_) | exact ho | refine Inv.ite ?_ ?_ | refine Inv.dite (fun _ => ?_) (fun _ => ?_) | refine State.startFlash_inv ?_ | refine State.imageFails_inv ?_ | assumption | exact rfl | split | (dsimp -proj only; split) | refine inv_set_boot ?_

theorem fwStageEff_inv {r : Req} {s : State} (ho : Inv s) : InvEff (fwStageEff r s) := by
  unfold fwStageEff
  repeat' with_reducible first | refine InvEff.done ?_ | refine InvEff.run ?_ | refine InvEff.ite ?_ ?_ | refine InvEff.dite (fun _ => ?_) (fun _ => ?_) | exact ho | refine Inv.ite ?_ ?_ | refine Inv.dite (fun _ => ?_) (fun _ => ?_) | refine State.stageEnds_inv ?_ | assumption | exact rfl | split | (dsimp -proj only; split) | refine inv_set_boot ?_

theorem State.commitHost_inv {s : State} (ho : Inv s) : InvEff (State.commitHost s) := by
  unfold State.commitHost
  repeat' with_reducible first | refine InvEff.done ?_ | refine InvEff.run ?_ | refine InvEff.ite ?_ ?_ | refine InvEff.dite (fun _ => ?_) (fun _ => ?_) | exact ho | refine Inv.ite ?_ ?_ | refine Inv.dite (fun _ => ?_) (fun _ => ?_) | refine State.startFlash_inv ?_ | refine State.firmwareStarts_inv ?_ | assumption | exact rfl | split | (dsimp -proj only; split)

theorem commitFw_inv {action : Nat} {fuses : Bool} {other : Option (Nat × Nat)} {s : State} (ho : Inv s) : InvEff (commitFw action fuses other s) :=
  inv_only (commitFw_only (L := [.out, .sec, .boot]) (action := action) (fuses := fuses) (other := other) (s := s) rfl (Only.refl _ _)) rfl ho

theorem commitUc_inv {action : Nat} {s : State} (ho : Inv s) : InvEff (commitUc action s) :=
  inv_only (commitUc_only (L := [.out, .boot]) (action := action) (s := s) rfl (Only.refl _ _)) rfl ho

theorem fwCommitEff_inv {r : Req} {other : Option (Nat × Nat)} {s : State} (ho : Inv s) : InvEff (fwCommitEff r other s) := by
  unfold fwCommitEff
  repeat' with_reducible first | refine InvEff.done ?_ | refine InvEff.run ?_ | refine InvEff.ite ?_ ?_ | refine InvEff.dite (fun _ => ?_) (fun _ => ?_) | exact ho | refine Inv.ite ?_ ?_ | refine Inv.dite (fun _ => ?_) (fun _ => ?_) | refine commitUc_inv ?_ | refine commitFw_inv ?_ | refine State.commitHost_inv ?_ | assumption | exact rfl | split | (dsimp -proj only; split)

theorem State.runFw_inv {s : State} {slot : Bool} {i : ImgInfo} (ho : Inv s) : Inv (State.runFw s slot i) :=
  inv_only (State.runFw_only (L := [.boot, .live, .fab]) (s := s) (slot := slot) (i := i) rfl (Only.refl _ _)) rfl ho

theorem State.fwSlotFails_inv {s : State} {slot : Bool} {act : Bool} {v : Verdict} (ho : Inv s) : Inv (State.fwSlotFails s slot act v) := by
  unfold State.fwSlotFails
  repeat' with_reducible first | exact ho | refine Inv.ite ?_ ?_ | refine Inv.dite (fun _ => ?_) (fun _ => ?_) | refine State.writeDir_inv ?_ | refine State.imageFails_inv ?_ | assumption | exact rfl | split | (dsimp -proj only; split) | refine inv_set_boot ?_

theorem State.pickFw_inv {s : State} {img : Bytes} {alt : Bytes} (ho : Inv s) : Inv (State.pickFw s img alt).2 := by
  unfold State.pickFw
  repeat' with_reducible first | exact ho | refine Inv.ite ?_ ?_ | refine Inv.dite (fun _ => ?_) (fun _ => ?_) | refine State.fwSlotFails_inv ?_ | refine State.runFw_inv ?_ | refine State.imageFails_inv ?_ | assumption | exact rfl | split | (dsimp -proj only; split)
theorem State.pickFw_inv_eq {s : State} {img : Bytes} {alt : Bytes} {s₁ : State} {xv : _} (he : State.pickFw s img alt = (xv, s₁)) (ho : Inv s) : Inv s₁ := by
  have := State.pickFw_inv (s := s) (img := img) (alt := alt) ho
  rwa [he] at this

theorem State.writeRecord_inv {s : State} (ho : Inv s) : Inv (State.writeRecord s) :=
  inv_only (State.writeRecord_only (L := [.out, .boot]) (s := s) rfl (Only.refl _ _)) rfl ho

theorem State.authDone_inv {s : State} (ho : Inv s) : Inv (State.authDone s) :=
  inv_only (State.authDone_only (L := [.out, .boot]) (s := s) rfl (Only.refl _ _)) rfl ho

theorem State.applyRecord_inv {s : State} {r : CfgRec} (ho : Inv s) : Inv (State.applyRecord s r) := by
  unfold State.applyRecord
  repeat' with_reducible first | exact ho | refine Inv.ite ?_ ?_ | refine Inv.dite (fun _ => ?_) (fun _ => ?_) | refine State.uartModeSet_inv ?_ | refine State.modSense_inv ?_ | refine State.forAll_inv (fun _ _ _ => ?_) ?_ | refine State.fset_inv ?_ | assumption | exact rfl | split | (dsimp -proj only; split) | refine inv_set_sec_fab ?_ | refine inv_set_hold ?_ ?_

end Sys2Proof.Machine
end

