-- ==== Sys2Proof/Laws/OnlyCancel.lean ====
section
/-! SUPPORT. The parts of the state that each operation of Machine/Cancel.lean reaches. -/

namespace Sys2Proof.Machine
open Sys2Proof

set_option linter.all false

theorem State.fallback_only {L : List Part} {s₀ : State} {s : State} {b : Berth} (hL : reach [.stats, .out, .host, .berth, .fab] L = true) (ho : Only L s₀ s) :
    Only L s₀ (State.fallback s b) := by
  unfold State.fallback
  repeat' with_reducible first | exact ho | refine Only.ite ?_ ?_ | refine Only.dite (fun _ => ?_) (fun _ => ?_) | refine State.raise_only (sub_reach hL rfl) ?_ | refine State.stick_only (sub_reach hL rfl) ?_ | refine State.bump_only (sub_reach hL rfl) ?_ | refine State.modBerth_only (sub_reach hL rfl) ?_ | assumption | split | (dsimp -proj only; split)

theorem State.diverge_only {L : List Part} {s₀ : State} {s : State} {b : Berth} {excess : Int} {rxDue : Bool} {toBoundary : Nat} (hL : reach [.stats, .out, .host, .berth, .fab] L = true) (ho : Only L s₀ s) :
    Only L s₀ (State.diverge s b excess rxDue toBoundary) := by
  unfold State.diverge
  repeat' with_reducible first | exact ho | refine Only.ite ?_ ?_ | refine Only.dite (fun _ => ?_) (fun _ => ?_) | refine State.raise_only (sub_reach hL rfl) ?_ | refine State.stick_only (sub_reach hL rfl) ?_ | refine State.bump_only (sub_reach hL rfl) ?_ | refine State.modBerth_only (sub_reach hL rfl) ?_ | assumption | split | (dsimp -proj only; split)

end Sys2Proof.Machine
end

