-- ==== Sys2Proof/Laws/InvCancel.lean ====
section
/-! SUPPORT. The operations of Machine/Cancel.lean keep what always holds. -/

namespace Sys2Proof.Machine
open Sys2Proof

set_option linter.all false

theorem State.fallback_inv {s : State} {b : Berth} (ho : Inv s) : Inv (State.fallback s b) := by
  unfold State.fallback
  repeat' with_reducible first | exact ho | refine Inv.ite ?_ ?_ | refine Inv.dite (fun _ => ?_) (fun _ => ?_) | refine State.raise_inv ?_ | refine State.stick_inv ?_ | refine State.bump_inv ?_ | refine State.modBerth_inv ?_ | assumption | exact rfl | split | (dsimp -proj only; split)

theorem State.diverge_inv {s : State} {b : Berth} {excess : Int} {rxDue : Bool} {toBoundary : Nat} (ho : Inv s) : Inv (State.diverge s b excess rxDue toBoundary) := by
  unfold State.diverge
  repeat' with_reducible first | exact ho | refine Inv.ite ?_ ?_ | refine Inv.dite (fun _ => ?_) (fun _ => ?_) | refine State.raise_inv ?_ | refine State.stick_inv ?_ | refine State.bump_inv ?_ | refine State.modBerth_inv ?_ | assumption | exact rfl | split | (dsimp -proj only; split)

end Sys2Proof.Machine
end

