-- ==== Sys2Proof/Laws/OnlyCheck.lean ====
section
/-! SUPPORT. The parts of the state that each operation of Machine/Check.lean reaches. -/

namespace Sys2Proof.Machine
open Sys2Proof

set_option linter.all false

theorem State.chkStart_only {L : List Part} {s₀ : State} {s : State} {u : ChkId} (hL : reach [.stats, .chk] L = true) (ho : Only L s₀ s) :
    Only L s₀ (State.chkStart s u) := by
  unfold State.chkStart
  repeat' with_reducible first | exact ho | refine Only.ite ?_ ?_ | refine Only.dite (fun _ => ?_) (fun _ => ?_) | refine State.modChk_only (sub_reach hL rfl) ?_ | refine State.statSet_only (sub_reach hL rfl) ?_ | assumption | split | (dsimp -proj only; split)

theorem State.chkBoundary_only {L : List Part} {s₀ : State} {s : State} {u : ChkId} (hL : reach [.fields, .pend, .stats, .chk] L = true) (ho : Only L s₀ s) :
    Only L s₀ (State.chkBoundary s u) := by
  unfold State.chkBoundary
  repeat' with_reducible first | exact ho | refine Only.ite ?_ ?_ | refine Only.dite (fun _ => ?_) (fun _ => ?_) | refine State.chkStart_only (sub_reach hL rfl) ?_ | refine State.releaseAt_only (sub_reach hL rfl) ?_ | assumption | split | (dsimp -proj only; split)

theorem State.chkRestartNow_only {L : List Part} {s₀ : State} {s : State} {u : ChkId} (hL : reach [.fields, .pend, .stats, .chk] L = true) (ho : Only L s₀ s) :
    Only L s₀ (State.chkRestartNow s u) := by
  unfold State.chkRestartNow
  repeat' with_reducible first | exact ho | refine Only.ite ?_ ?_ | refine Only.dite (fun _ => ?_) (fun _ => ?_) | refine State.chkBoundary_only (sub_reach hL rfl) ?_ | refine State.chkStart_only (sub_reach hL rfl) ?_ | assumption | split | (dsimp -proj only; split)

theorem State.chkMismatch_only {L : List Part} {s₀ : State} {s : State} {u : ChkId} {tag : Nat} (hL : reach [.stats, .evTimes, .out, .host, .fab, .chk] L = true) (ho : Only L s₀ s) :
    Only L s₀ (State.chkMismatch s u tag) := by
  unfold State.chkMismatch
  repeat' with_reducible first | exact ho | refine Only.ite ?_ ?_ | refine Only.dite (fun _ => ?_) (fun _ => ?_) | refine State.raiseEvery_only (sub_reach hL rfl) ?_ | refine State.modChk_only (sub_reach hL rfl) ?_ | refine State.cause_only (sub_reach hL rfl) ?_ | refine State.stick_only (sub_reach hL rfl) ?_ | refine State.bump_only (sub_reach hL rfl) ?_ | assumption | split | (dsimp -proj only; split)

end Sys2Proof.Machine
end

