-- ==== Sys2Proof/Laws/InvCheck.lean ====
section
/-! SUPPORT. The operations of Machine/Check.lean keep what always holds. -/

namespace Sys2Proof.Machine
open Sys2Proof

set_option linter.all false

theorem State.chkBoundary_inv {s : State} {u : ChkId} (ho : Inv s) : Inv (State.chkBoundary s u) :=
  inv_only (State.chkBoundary_only (L := [.fields, .pend, .stats, .chk]) (s := s) (u := u) rfl (Only.refl _ _)) rfl ho

theorem State.chkRestartNow_inv {s : State} {u : ChkId} (ho : Inv s) : Inv (State.chkRestartNow s u) :=
  inv_only (State.chkRestartNow_only (L := [.fields, .pend, .stats, .chk]) (s := s) (u := u) rfl (Only.refl _ _)) rfl ho

theorem State.chkMismatch_inv {s : State} {u : ChkId} {tag : Nat} (ho : Inv s) : Inv (State.chkMismatch s u tag) := by
  unfold State.chkMismatch
  repeat' with_reducible first | exact ho | refine Inv.ite ?_ ?_ | refine Inv.dite (fun _ => ?_) (fun _ => ?_) | refine State.raiseEvery_inv ?_ | refine State.modChk_inv ?_ | refine State.cause_inv ?_ | refine State.stick_inv ?_ | refine State.bump_inv ?_ | assumption | exact rfl | split | (dsimp -proj only; split)

end Sys2Proof.Machine
end

