-- ==== Sys2Proof/Laws/OnlyCoding.lean ====
section
/-! SUPPORT. The parts of the state that each operation of Machine/Coding.lean reaches. -/

namespace Sys2Proof.Machine
open Sys2Proof

set_option linter.all false

theorem State.updateBackoff_only {L : List Part} {s₀ : State} {s : State} {b : Berth} (hL : reach [.stats] L = true) (ho : Only L s₀ s) :
    Only L s₀ (State.updateBackoff s b) := by
  unfold State.updateBackoff
  repeat' with_reducible first | exact ho | refine Only.ite ?_ ?_ | refine Only.dite (fun _ => ?_) (fun _ => ?_) | refine State.report_only (sub_reach hL rfl) ?_ | assumption | split | (dsimp -proj only; split)

end Sys2Proof.Machine
end

