-- ==== Sys2Proof/Laws/InvCoding.lean ====
section
/-! SUPPORT. The operations of Machine/Coding.lean keep what always holds. -/

namespace Sys2Proof.Machine
open Sys2Proof

set_option linter.all false

theorem State.updateBackoff_inv {s : State} {b : Berth} (ho : Inv s) : Inv (State.updateBackoff s b) :=
  inv_only (State.updateBackoff_only (L := [.stats]) (s := s) (b := b) rfl (Only.refl _ _)) rfl ho

end Sys2Proof.Machine
end

