-- ==== Sys2Proof/Laws/OnlyDomain.lean ====
section
/-! SUPPORT. The parts of the state that each operation of Machine/Domain.lean reaches. -/

namespace Sys2Proof.Machine
open Sys2Proof

set_option linter.all false

theorem State.clash_only {L : List Part} {s₀ : State} {s : State} {b : Berth} (hL : reach [.stats, .out, .host, .fab] L = true) (ho : Only L s₀ s) :
    Only L s₀ (State.clash s b) := by
  unfold State.clash
  repeat' with_reducible first | exact ho | refine Only.ite ?_ ?_ | refine Only.dite (fun _ => ?_) (fun _ => ?_) | refine State.raise_only (sub_reach hL rfl) ?_ | refine State.stick_only (sub_reach hL rfl) ?_ | assumption | split | (dsimp -proj only; split)

theorem State.withKDom_only {L : List Part} {s₀ : State} {s : State} {b : Berth} (hL : reach [.entropyCtr, .line] L = true) (ho : Only L s₀ s) :
    Only L s₀ (State.withKDom s b) := by
  unfold State.withKDom
  repeat' with_reducible first | exact ho | refine Only.ite ?_ ?_ | refine Only.dite (fun _ => ?_) (fun _ => ?_) | refine State.draw_only (sub_reach hL rfl) ?_ | refine State.draw_only_eq (by assumption) (sub_reach hL rfl) ?_ | refine State.modLine_only (sub_reach hL rfl) ?_ | assumption | split | (dsimp -proj only; split)

theorem State.queueRekey_only {L : List Part} {s₀ : State} {s : State} {b : Berth} {c : Ctx} (hL : reach [.entropyCtr, .line, .ctxs] L = true) (ho : Only L s₀ s) :
    Only L s₀ (State.queueRekey s b c) := by
  unfold State.queueRekey
  repeat' with_reducible first | exact ho | refine Only.ite ?_ ?_ | refine Only.dite (fun _ => ?_) (fun _ => ?_) | refine State.queueMsg_only (sub_reach hL rfl) ?_ | refine State.nonce16_only (sub_reach hL rfl) ?_ | refine State.nonce16_only_eq (by assumption) (sub_reach hL rfl) ?_ | assumption | split | (dsimp -proj only; split) | refine only_set_ctxs (sub_reach hL rfl) ?_

theorem State.startRoll_only {L : List Part} {s₀ : State} {s : State} {b : Berth} (hL : reach [.entropyCtr, .line, .ctxs] L = true) (ho : Only L s₀ s) :
    Only L s₀ (State.startRoll s b) := by
  unfold State.startRoll
  repeat' with_reducible first | exact ho | refine Only.ite ?_ ?_ | refine Only.dite (fun _ => ?_) (fun _ => ?_) | refine State.queueRekey_only (sub_reach hL rfl) ?_ | refine State.draw_only (sub_reach hL rfl) ?_ | refine State.draw_only_eq (by assumption) (sub_reach hL rfl) ?_ | refine State.modLine_only (sub_reach hL rfl) ?_ | refine State.forAll_only (fun _ _ _ => ?_) ?_ | assumption | split | (dsimp -proj only; split)

theorem State.switchKeys_only {L : List Part} {s₀ : State} {s : State} {b : Berth} (hL : reach [.line] L = true) (ho : Only L s₀ s) :
    Only L s₀ (State.switchKeys s b) := by
  unfold State.switchKeys
  repeat' with_reducible first | exact ho | refine Only.ite ?_ ?_ | refine Only.dite (fun _ => ?_) (fun _ => ?_) | refine State.modLine_only (sub_reach hL rfl) ?_ | assumption | split | (dsimp -proj only; split)

theorem State.retireKeys_only {L : List Part} {s₀ : State} {s : State} {b : Berth} (hL : reach [.mgmt, .line, .ctxs] L = true) (ho : Only L s₀ s) :
    Only L s₀ (State.retireKeys s b) := by
  unfold State.retireKeys
  repeat' with_reducible first | exact ho | refine Only.ite ?_ ?_ | refine Only.dite (fun _ => ?_) (fun _ => ?_) | refine State.ctxTo_only (sub_reach hL rfl) ?_ | refine State.modLine_only (sub_reach hL rfl) ?_ | refine State.forAll_only (fun _ _ _ => ?_) ?_ | assumption | split | (dsimp -proj only; split) | refine only_set_ctxs (sub_reach hL rfl) ?_

theorem State.newRefs_only {L : List Part} {s₀ : State} {before : State} {s : State} {b : Berth} (hL : reach [.berth] L = true) (ho : Only L s₀ before) (ho1 : Only L s₀ s) :
    Only L s₀ (State.newRefs before s b) := by
  unfold State.newRefs
  repeat' with_reducible first | exact ho | exact ho1 | refine Only.ite ?_ ?_ | refine Only.dite (fun _ => ?_) (fun _ => ?_) | refine State.modBerth_only (sub_reach hL rfl) ?_ | refine State.forAll_only (fun _ _ _ => ?_) ?_ | assumption | split | (dsimp -proj only; split)

theorem State.applyWaiting_only {L : List Part} {s₀ : State} {s : State} {b : Berth} {all : Bool} (hL : reach [.fields, .pend, .stats, .mgmt, .berth, .line, .ctxs] L = true) (ho : Only L s₀ s) :
    Only L s₀ (State.applyWaiting s b all) := by
  unfold State.applyWaiting
  repeat' with_reducible first | exact ho | refine Only.ite ?_ ?_ | refine Only.dite (fun _ => ?_) (fun _ => ?_) | refine State.newRefs_only (sub_reach hL rfl) ?_ ?_ | refine State.release_only (sub_reach hL rfl) ?_ | refine State.resumeCtxs_only (sub_reach hL rfl) ?_ | refine State.updateBackoff_only (sub_reach hL rfl) ?_ | refine State.silence_only (sub_reach hL rfl) ?_ | refine State.modBerth_only (sub_reach hL rfl) ?_ | refine State.holdCtxs_only (sub_reach hL rfl) ?_ | assumption | split | (dsimp -proj only; split)

theorem State.boundarySettings_only {L : List Part} {s₀ : State} {s : State} {b : Berth} (hL : reach [.fields, .pend, .stats, .mgmt, .berth, .line, .ctxs] L = true) (ho : Only L s₀ s) :
    Only L s₀ (State.boundarySettings s b) := by
  unfold State.boundarySettings
  repeat' with_reducible first | exact ho | refine Only.ite ?_ ?_ | refine Only.dite (fun _ => ?_) (fun _ => ?_) | refine State.applyWaiting_only (sub_reach hL rfl) ?_ | assumption | split | (dsimp -proj only; split)

theorem State.ageSoft_only {L : List Part} {s₀ : State} {s : State} {b : Berth} (hL : reach [.berth, .ctxs] L = true) (ho : Only L s₀ s) :
    Only L s₀ (State.ageSoft s b) := by
  unfold State.ageSoft
  repeat' with_reducible first | exact ho | refine Only.ite ?_ ?_ | refine Only.dite (fun _ => ?_) (fun _ => ?_) | refine State.modBerth_only (sub_reach hL rfl) ?_ | assumption | split | (dsimp -proj only; split) | refine only_set_ctxs (sub_reach hL rfl) ?_

theorem State.drainBerth_only {L : List Part} {s₀ : State} {s : State} {b : Berth} (hL : reach [.stats, .out, .host, .qp, .mgmt, .boot, .region, .berth, .line, .ctxs, .fab] L = true) (ho : Only L s₀ s) :
    Only L s₀ (State.drainBerth s b) := by
  unfold State.drainBerth
  repeat' with_reducible first | exact ho | refine Only.ite ?_ ?_ | refine Only.dite (fun _ => ?_) (fun _ => ?_) | refine State.completeRun_only (sub_reach hL rfl) ?_ | refine State.silence_only (sub_reach hL rfl) ?_ | refine State.modLine_only (sub_reach hL rfl) ?_ | refine State.holdCtxs_only (sub_reach hL rfl) ?_ | assumption | split | (dsimp -proj only; split) | refine only_set_region (sub_reach hL rfl) ?_

theorem State.boundary_only {L : List Part} {s₀ : State} {s : State} {b : Berth} (hL : reach [.fields, .pend, .stats, .out, .host, .qp, .mgmt, .boot, .region, .berth, .line, .ctxs, .fab] L = true) (ho : Only L s₀ s) :
    Only L s₀ (State.boundary s b) := by
  unfold State.boundary
  repeat' with_reducible first | exact ho | refine Only.ite ?_ ?_ | refine Only.dite (fun _ => ?_) (fun _ => ?_) | refine State.drainBerth_only (sub_reach hL rfl) ?_ | refine State.ageSoft_only (sub_reach hL rfl) ?_ | refine State.boundarySettings_only (sub_reach hL rfl) ?_ | refine State.retireKeys_only (sub_reach hL rfl) ?_ | refine State.switchKeys_only (sub_reach hL rfl) ?_ | refine State.raise_only (sub_reach hL rfl) ?_ | refine State.modLine_only (sub_reach hL rfl) ?_ | assumption | split | (dsimp -proj only; split)

theorem State.sendBeacon_only {L : List Part} {s₀ : State} {s : State} {b : Berth} (hL : reach [.stats, .out, .berth] L = true) (ho : Only L s₀ s) :
    Only L s₀ (State.sendBeacon s b) := by
  unfold State.sendBeacon
  repeat' with_reducible first | exact ho | refine Only.ite ?_ ?_ | refine Only.dite (fun _ => ?_) (fun _ => ?_) | refine State.sendFrame_only (sub_reach hL rfl) ?_ | refine State.bump_only (sub_reach hL rfl) ?_ | assumption | split | (dsimp -proj only; split)

theorem State.doSwap_only {L : List Part} {s₀ : State} {s : State} {b : Berth} (hL : reach [.stats, .out, .host, .berth, .fab] L = true) (ho : Only L s₀ s) :
    Only L s₀ (State.doSwap s b) := by
  unfold State.doSwap
  repeat' with_reducible first | exact ho | refine Only.ite ?_ ?_ | refine Only.dite (fun _ => ?_) (fun _ => ?_) | refine State.report_only (sub_reach hL rfl) ?_ | refine State.raise_only (sub_reach hL rfl) ?_ | refine State.bump_only (sub_reach hL rfl) ?_ | refine State.modBerth_only (sub_reach hL rfl) ?_ | assumption | split | (dsimp -proj only; split)

theorem State.pinCtxs_only {L : List Part} {s₀ : State} {s : State} {b : Berth} (hL : reach [.stats, .hold] L = true) (ho : Only L s₀ s) :
    Only L s₀ (State.pinCtxs s b) := by
  unfold State.pinCtxs
  repeat' with_reducible first | exact ho | refine Only.ite ?_ ?_ | refine Only.dite (fun _ => ?_) (fun _ => ?_) | refine State.cacheUse_only (sub_reach hL rfl) ?_ | refine State.forAll_only (fun _ _ _ => ?_) ?_ | assumption | split | (dsimp -proj only; split) | refine only_set_hold (sub_reach hL rfl) ?_

theorem State.expireJoins_only {L : List Part} {s₀ : State} {s : State} {b : Berth} (hL : reach [.line] L = true) (ho : Only L s₀ s) :
    Only L s₀ (State.expireJoins s b) := by
  unfold State.expireJoins
  repeat' with_reducible first | exact ho | refine Only.ite ?_ ?_ | refine Only.dite (fun _ => ?_) (fun _ => ?_) | refine State.modLine_only (sub_reach hL rfl) ?_ | assumption | split | (dsimp -proj only; split)

theorem State.openPeriod_only {L : List Part} {s₀ : State} {s : State} {b : Berth} {plan : List Alloc} (hL : reach [.fields, .pend, .stats, .out, .host, .mgmt, .berth, .line, .mesh, .hold, .fab] L = true) (ho : Only L s₀ s) :
    Only L s₀ (State.openPeriod s b plan) := by
  unfold State.openPeriod
  repeat' with_reducible first | exact ho | refine Only.ite ?_ ?_ | refine Only.dite (fun _ => ?_) (fun _ => ?_) | refine State.chooseRelays_only (sub_reach hL rfl) ?_ | refine State.recompute_only (sub_reach hL rfl) ?_ | refine State.expireJoins_only (sub_reach hL rfl) ?_ | refine State.pinCtxs_only (sub_reach hL rfl) ?_ | refine State.doSwap_only (sub_reach hL rfl) ?_ | refine State.sendBeacon_only (sub_reach hL rfl) ?_ | refine State.modLine_only (sub_reach hL rfl) ?_ | refine State.modBerth_only (sub_reach hL rfl) ?_ | assumption | split | (dsimp -proj only; split)

theorem State.missAcks_only {L : List Part} {s₀ : State} {s : State} {b : Berth} (hL : reach [.line, .mesh, .hold] L = true) (ho : Only L s₀ s) :
    Only L s₀ (State.missAcks s b) := by
  unfold State.missAcks
  repeat' with_reducible first | exact ho | refine Only.ite ?_ ?_ | refine Only.dite (fun _ => ?_) (fun _ => ?_) | refine State.modMesh_only (sub_reach hL rfl) ?_ | refine State.modLine_only (sub_reach hL rfl) ?_ | assumption | split | (dsimp -proj only; split) | refine only_set_hold (sub_reach hL rfl) ?_

theorem State.sendJoinProof_only {L : List Part} {s₀ : State} {s : State} {b : Berth} (hL : reach [.out, .berth] L = true) (ho : Only L s₀ s) :
    Only L s₀ (State.sendJoinProof s b) := by
  unfold State.sendJoinProof
  repeat' with_reducible first | exact ho | refine Only.ite ?_ ?_ | refine Only.dite (fun _ => ?_) (fun _ => ?_) | refine State.sendShort_only (sub_reach hL rfl) ?_ | assumption | split | (dsimp -proj only; split)

theorem State.sendTtReq_only {L : List Part} {s₀ : State} {s : State} {b : Berth} (hL : reach [.out, .berth, .line, .ctxs] L = true) (ho : Only L s₀ s) :
    Only L s₀ (State.sendTtReq s b) := by
  unfold State.sendTtReq
  repeat' with_reducible first | exact ho | refine Only.ite ?_ ?_ | refine Only.dite (fun _ => ?_) (fun _ => ?_) | refine State.msgFc_only (by assumption) (sub_reach hL rfl) ?_ | refine State.sendSealed_only (sub_reach hL rfl) ?_ | refine State.modLine_only (sub_reach hL rfl) ?_ | assumption | split | (dsimp -proj only; split)

theorem State.drawBelow_only {L : List Part} {s₀ : State} {s : State} {n : Nat} (hL : reach [.entropyCtr] L = true) (ho : Only L s₀ s) :
    Only L s₀ (State.drawBelow s n).2 := by
  unfold State.drawBelow
  repeat' with_reducible first | exact ho | refine Only.ite ?_ ?_ | refine Only.dite (fun _ => ?_) (fun _ => ?_) | refine State.draw_only (sub_reach hL rfl) ?_ | refine State.draw_only_eq (by assumption) (sub_reach hL rfl) ?_ | assumption | split | (dsimp -proj only; split)
theorem State.drawBelow_only_eq {L : List Part} {s₀ : State} {s : State} {n : Nat} {s₁ : State} {xv : _} (he : State.drawBelow s n = (xv, s₁)) (hL : reach [.entropyCtr] L = true) (ho : Only L s₀ s) :
    Only L s₀ s₁ := by
  have := State.drawBelow_only (s := s) (n := n) hL ho
  rwa [he] at this

theorem State.sendJoinReq_only {L : List Part} {s₀ : State} {s : State} {b : Berth} (hL : reach [.out, .entropyCtr, .freeCtr, .berth, .line] L = true) (ho : Only L s₀ s) :
    Only L s₀ (State.sendJoinReq s b) := by
  unfold State.sendJoinReq
  repeat' with_reducible first | exact ho | refine Only.ite ?_ ?_ | refine Only.dite (fun _ => ?_) (fun _ => ?_) | refine State.nonce16_only (sub_reach hL rfl) ?_ | refine State.nonce16_only_eq (by assumption) (sub_reach hL rfl) ?_ | refine State.free_only (sub_reach hL rfl) ?_ | refine State.free_only_eq (by assumption) (sub_reach hL rfl) ?_ | refine State.sendShort_only (sub_reach hL rfl) ?_ | refine State.modLine_only (sub_reach hL rfl) ?_ | assumption | split | (dsimp -proj only; split)

theorem State.startContention_only {L : List Part} {s₀ s : State} {b : Berth} {a : Alloc} {t0 : Nat} (hL : reach [.stats, .evTimes, .out, .freeCtr, .host, .berth, .line, .ctxs, .mesh, .hold, .fab] L = true) (h : Only L s₀ s) :
    Only L s₀ (s.startContention b a t0) := by
  unfold State.startContention
  dsimp only
  split
  · rename_i hs
    obtain ⟨x, _, hx⟩ := Option.bind_eq_some_iff.mp hs
    exact State.startFwd_only hx (sub_reach hL rfl) h
  · exact State.startOne_only (sub_reach hL rfl) h

theorem State.takeAckEntry_only {L : List Part} {s₀ : State} {s : State} {b : Berth} {side : Bool} {station : Nat} {e : AckEntry} (hL : reach [.line, .ctxs, .mesh, .hold] L = true) (ho : Only L s₀ s) :
    Only L s₀ (State.takeAckEntry s b side station e) := by
  unfold State.takeAckEntry
  repeat' with_reducible first | exact ho | refine Only.ite ?_ ?_ | refine Only.dite (fun _ => ?_) (fun _ => ?_) | refine State.dropFrames_only (sub_reach hL rfl) ?_ | refine State.modMesh_only (sub_reach hL rfl) ?_ | refine State.modCtx_only (sub_reach hL rfl) ?_ | refine State.setFrame_only (sub_reach hL rfl) ?_ | refine State.modLine_only (sub_reach hL rfl) ?_ | assumption | split | (dsimp -proj only; split)

theorem State.stPeriod_only {L : List Part} {s₀ : State} {s : State} {b : Berth} (hL : reach [.fields, .pend, .stats, .out, .host, .qp, .mgmt, .boot, .region, .berth, .line, .ctxs, .mesh, .fab] L = true) (ho : Only L s₀ s) :
    Only L s₀ (State.stPeriod s b) := by
  unfold State.stPeriod
  repeat' with_reducible first | exact ho | refine Only.ite ?_ ?_ | refine Only.dite (fun _ => ?_) (fun _ => ?_) | refine State.doSwap_only (sub_reach hL rfl) ?_ | refine State.drainBerth_only (sub_reach hL rfl) ?_ | refine State.boundarySettings_only (sub_reach hL rfl) ?_ | refine State.queueMsg_only (sub_reach hL rfl) ?_ | refine State.modMesh_only (sub_reach hL rfl) ?_ | refine State.modLine_only (sub_reach hL rfl) ?_ | assumption | split | (dsimp -proj only; split)

end Sys2Proof.Machine
end

