-- ==== Sys2Proof/Laws/InvDomain.lean ====
section
/-! SUPPORT. The operations of Machine/Domain.lean keep what always holds. -/

namespace Sys2Proof.Machine
open Sys2Proof

set_option linter.all false

theorem State.clash_inv {s : State} {b : Berth} (ho : Inv s) : Inv (State.clash s b) := by
  unfold State.clash
  repeat' with_reducible first | exact ho | refine Inv.ite ?_ ?_ | refine Inv.dite (fun _ => ?_) (fun _ => ?_) | refine State.raise_inv ?_ | refine State.stick_inv ?_ | assumption | exact rfl | split | (dsimp -proj only; split)

theorem State.withKDom_inv {s : State} {b : Berth} (ho : Inv s) : Inv (State.withKDom s b) :=
  inv_only (State.withKDom_only (L := [.entropyCtr, .line]) (s := s) (b := b) rfl (Only.refl _ _)) rfl ho

theorem State.queueRekey_inv {s : State} {b : Berth} {c : Ctx} (ho : Inv s) : Inv (State.queueRekey s b c) :=
  inv_only (State.queueRekey_only (L := [.entropyCtr, .line, .ctxs]) (s := s) (b := b) (c := c) rfl (Only.refl _ _)) rfl ho

theorem State.startRoll_inv {s : State} {b : Berth} (ho : Inv s) : Inv (State.startRoll s b) :=
  inv_only (State.startRoll_only (L := [.entropyCtr, .line, .ctxs]) (s := s) (b := b) rfl (Only.refl _ _)) rfl ho

theorem State.switchKeys_inv {s : State} {b : Berth} (ho : Inv s) : Inv (State.switchKeys s b) :=
  inv_only (State.switchKeys_only (L := [.line]) (s := s) (b := b) rfl (Only.refl _ _)) rfl ho

theorem State.retireKeys_inv {s : State} {b : Berth} (ho : Inv s) : Inv (State.retireKeys s b) :=
  inv_only (State.retireKeys_only (L := [.mgmt, .line, .ctxs]) (s := s) (b := b) rfl (Only.refl _ _)) rfl ho

theorem State.newRefs_inv {before : State} {s : State} {b : Berth} (ho : Inv before) (ho1 : Inv s) : Inv (State.newRefs before s b) := by
  unfold State.newRefs
  repeat' with_reducible first | exact ho | exact ho1 | refine Inv.ite ?_ ?_ | refine Inv.dite (fun _ => ?_) (fun _ => ?_) | refine State.modBerth_inv ?_ | refine State.forAll_inv (fun _ _ _ => ?_) ?_ | assumption | exact rfl | split | (dsimp -proj only; split)

theorem State.applyWaiting_inv {s : State} {b : Berth} {all : Bool} (ho : Inv s) : Inv (State.applyWaiting s b all) :=
  inv_only (State.applyWaiting_only (L := [.fields, .pend, .stats, .mgmt, .berth, .line, .ctxs]) (s := s) (b := b) (all := all) rfl (Only.refl _ _)) rfl ho

theorem State.boundarySettings_inv {s : State} {b : Berth} (ho : Inv s) : Inv (State.boundarySettings s b) :=
  inv_only (State.boundarySettings_only (L := [.fields, .pend, .stats, .mgmt, .berth, .line, .ctxs]) (s := s) (b := b) rfl (Only.refl _ _)) rfl ho

theorem State.ageSoft_inv {s : State} {b : Berth} (ho : Inv s) : Inv (State.ageSoft s b) :=
  inv_only (State.ageSoft_only (L := [.berth, .ctxs]) (s := s) (b := b) rfl (Only.refl _ _)) rfl ho

theorem State.drainBerth_inv {s : State} {b : Berth} (ho : Inv s) : Inv (State.drainBerth s b) := by
  unfold State.drainBerth
  repeat' with_reducible first | exact ho | refine Inv.ite ?_ ?_ | refine Inv.dite (fun _ => ?_) (fun _ => ?_) | refine State.completeRun_inv ?_ | refine State.silence_inv ?_ | refine State.modLine_inv ?_ | refine State.holdCtxs_inv ?_ | assumption | exact rfl | split | (dsimp -proj only; split) | refine inv_set_region ?_

theorem State.boundary_inv {s : State} {b : Berth} (ho : Inv s) : Inv (State.boundary s b) := by
  unfold State.boundary
  repeat' with_reducible first | exact ho | refine Inv.ite ?_ ?_ | refine Inv.dite (fun _ => ?_) (fun _ => ?_) | refine State.drainBerth_inv ?_ | refine State.ageSoft_inv ?_ | refine State.boundarySettings_inv ?_ | refine State.retireKeys_inv ?_ | refine State.switchKeys_inv ?_ | refine State.raise_inv ?_ | refine State.modLine_inv ?_ | assumption | exact rfl | split | (dsimp -proj only; split)

theorem State.sendBeacon_inv {s : State} {b : Berth} (ho : Inv s) : Inv (State.sendBeacon s b) :=
  inv_only (State.sendBeacon_only (L := [.stats, .out, .berth]) (s := s) (b := b) rfl (Only.refl _ _)) rfl ho

theorem State.doSwap_inv {s : State} {b : Berth} (ho : Inv s) : Inv (State.doSwap s b) := by
  unfold State.doSwap
  repeat' with_reducible first | exact ho | refine Inv.ite ?_ ?_ | refine Inv.dite (fun _ => ?_) (fun _ => ?_) | refine State.report_inv ?_ | refine State.raise_inv ?_ | refine State.bump_inv ?_ | refine State.modBerth_inv ?_ | assumption | exact rfl | split | (dsimp -proj only; split)

theorem State.pinCtxs_inv {s : State} {b : Berth} (ho : Inv s) : Inv (State.pinCtxs s b) := by
  unfold State.pinCtxs
  repeat' with_reducible first | exact ho | refine Inv.ite ?_ ?_ | refine Inv.dite (fun _ => ?_) (fun _ => ?_) | refine State.cacheUse_inv ?_ | refine State.forAll_inv (fun _ _ _ => ?_) ?_ | assumption | exact rfl | split | (dsimp -proj only; split) | refine inv_set_hold ?_ ?_

theorem State.expireJoins_inv {s : State} {b : Berth} (ho : Inv s) : Inv (State.expireJoins s b) :=
  inv_only (State.expireJoins_only (L := [.line]) (s := s) (b := b) rfl (Only.refl _ _)) rfl ho

theorem State.openPeriod_inv {s : State} {b : Berth} {plan : List Alloc} (ho : Inv s) : Inv (State.openPeriod s b plan) := by
  unfold State.openPeriod
  repeat' with_reducible first | exact ho | refine Inv.ite ?_ ?_ | refine Inv.dite (fun _ => ?_) (fun _ => ?_) | refine State.chooseRelays_inv ?_ | refine State.recompute_inv ?_ | refine State.expireJoins_inv ?_ | refine State.pinCtxs_inv ?_ | refine State.doSwap_inv ?_ | refine State.sendBeacon_inv ?_ | refine State.modLine_inv ?_ | refine State.modBerth_inv ?_ | assumption | exact rfl | split | (dsimp -proj only; split)

theorem State.missAcks_inv {s : State} {b : Berth} (ho : Inv s) : Inv (State.missAcks s b) := by
  unfold State.missAcks
  repeat' with_reducible first | exact ho | refine Inv.ite ?_ ?_ | refine Inv.dite (fun _ => ?_) (fun _ => ?_) | refine State.modMesh_inv ?_ | refine State.modLine_inv ?_ | assumption | exact rfl | split | (dsimp -proj only; split) | refine inv_set_hold ?_ ?_

theorem State.sendJoinProof_inv {s : State} {b : Berth} (ho : Inv s) : Inv (State.sendJoinProof s b) :=
  inv_only (State.sendJoinProof_only (L := [.out, .berth]) (s := s) (b := b) rfl (Only.refl _ _)) rfl ho

theorem State.sendTtReq_inv {s : State} {b : Berth} (ho : Inv s) : Inv (State.sendTtReq s b) :=
  inv_only (State.sendTtReq_only (L := [.out, .berth, .line, .ctxs]) (s := s) (b := b) rfl (Only.refl _ _)) rfl ho

theorem State.drawBelow_inv {s : State} {n : Nat} (ho : Inv s) : Inv (State.drawBelow s n).2 :=
  inv_only (State.drawBelow_only (L := [.entropyCtr]) (s := s) (n := n) rfl (Only.refl _ _)) rfl ho
theorem State.drawBelow_inv_eq {s : State} {n : Nat} {s₁ : State} {xv : _} (he : State.drawBelow s n = (xv, s₁)) (ho : Inv s) : Inv s₁ :=
  inv_only (State.drawBelow_only_eq (L := [.entropyCtr]) (s := s) (n := n) (he := he) rfl (Only.refl _ _)) rfl ho

theorem State.sendJoinReq_inv {s : State} {b : Berth} (ho : Inv s) : Inv (State.sendJoinReq s b) :=
  inv_only (State.sendJoinReq_only (L := [.out, .entropyCtr, .freeCtr, .berth, .line]) (s := s) (b := b) rfl (Only.refl _ _)) rfl ho

theorem State.startContention_inv {s : State} {b : Berth} {a : Alloc} {t0 : Nat} (h : Inv s) :
    Inv (s.startContention b a t0) := by
  unfold State.startContention
  dsimp only
  split
  · rename_i hs
    obtain ⟨x, _, hx⟩ := Option.bind_eq_some_iff.mp hs
    exact State.startFwd_inv hx h
  · exact State.startOne_inv h

theorem State.takeAckEntry_inv {s : State} {b : Berth} {side : Bool} {station : Nat} {e : AckEntry} (ho : Inv s) : Inv (State.takeAckEntry s b side station e) := by
  unfold State.takeAckEntry
  repeat' with_reducible first | exact ho | refine Inv.ite ?_ ?_ | refine Inv.dite (fun _ => ?_) (fun _ => ?_) | refine State.dropFrames_inv ?_ | refine State.modMesh_inv ?_ | refine State.modCtx_inv ?_ | refine State.setFrame_inv ?_ | refine State.modLine_inv ?_ | assumption | exact rfl | split | (dsimp -proj only; split)

theorem State.stPeriod_inv {s : State} {b : Berth} (ho : Inv s) : Inv (State.stPeriod s b) := by
  unfold State.stPeriod
  repeat' with_reducible first | exact ho | refine Inv.ite ?_ ?_ | refine Inv.dite (fun _ => ?_) (fun _ => ?_) | refine State.doSwap_inv ?_ | refine State.drainBerth_inv ?_ | refine State.boundarySettings_inv ?_ | refine State.queueMsg_inv ?_ | refine State.modMesh_inv ?_ | refine State.modLine_inv ?_ | assumption | exact rfl | split | (dsimp -proj only; split)

end Sys2Proof.Machine
end

