-- ==== Sys2Proof/Laws/OnlyJoin.lean ====
section
/-! SUPPORT. The parts of the state that each operation of Machine/Join.lean reaches. -/

namespace Sys2Proof.Machine
open Sys2Proof

set_option linter.all false

theorem State.freeJoining_only {L : List Part} {s₀ : State} {s : State} {b : Berth} {eui : BitVec 64} (hL : reach [.mgmt, .line, .ctxs, .hold] L = true) (ho : Only L s₀ s) :
    Only L s₀ (State.freeJoining s b eui) := by
  unfold State.freeJoining
  repeat' with_reducible first | exact ho | refine Only.ite ?_ ?_ | refine Only.dite (fun _ => ?_) (fun _ => ?_) | refine State.freeCtx_only (sub_reach hL rfl) ?_ | refine State.forAll_only (fun _ _ _ => ?_) ?_ | assumption | split | (dsimp -proj only; split)

theorem State.endJoin_only {L : List Part} {s₀ : State} {s : State} {b : Berth} {eui : BitVec 64} (hL : reach [.mgmt, .line, .ctxs, .hold] L = true) (ho : Only L s₀ s) :
    Only L s₀ (State.endJoin s b eui) := by
  unfold State.endJoin
  repeat' with_reducible first | exact ho | refine Only.ite ?_ ?_ | refine Only.dite (fun _ => ?_) (fun _ => ?_) | refine State.freeJoining_only (sub_reach hL rfl) ?_ | refine State.modLine_only (sub_reach hL rfl) ?_ | assumption | split | (dsimp -proj only; split)

theorem State.addJoin_only {L : List Part} {s₀ : State} {s : State} {b : Berth} {j : Join} (hL : reach [.line] L = true) (ho : Only L s₀ s) :
    Only L s₀ (State.addJoin s b j) := by
  unfold State.addJoin
  repeat' with_reducible first | exact ho | refine Only.ite ?_ ?_ | refine Only.dite (fun _ => ?_) (fun _ => ?_) | refine State.modLine_only (sub_reach hL rfl) ?_ | assumption | split | (dsimp -proj only; split)

theorem State.makeJoining_only {L : List Part} {s₀ : State} {s : State} {b : Berth} {j : Join} (hL : reach [.mgmt, .ctxs] L = true) (ho : Only L s₀ s) :
    Only L s₀ (State.makeJoining s b j) := by
  unfold State.makeJoining
  repeat' with_reducible first | exact ho | refine Only.ite ?_ ?_ | refine Only.dite (fun _ => ?_) (fun _ => ?_) | refine State.setCtx_only (sub_reach hL rfl) ?_ | refine State.forAll_only (fun _ _ _ => ?_) ?_ | refine State.objTouch_only (sub_reach hL rfl) ?_ | assumption | split | (dsimp -proj only; split)

theorem State.sendClear_only {L : List Part} {s₀ : State} {s : State} {b : Berth} {p : Bytes} (hL : reach [.out, .berth] L = true) (ho : Only L s₀ s) :
    Only L s₀ (State.sendClear s b p) := by
  unfold State.sendClear
  repeat' with_reducible first | exact ho | refine Only.ite ?_ ?_ | refine Only.dite (fun _ => ?_) (fun _ => ?_) | refine State.sendShort_only (sub_reach hL rfl) ?_ | assumption | split | (dsimp -proj only; split)

theorem State.sendJoinMsg_only {L : List Part} {s₀ : State} {s : State} {b : Berth} {j : Join} (hL : reach [.out, .mgmt, .berth, .line, .ctxs] L = true) (ho : Only L s₀ s) :
    Only L s₀ (State.sendJoinMsg s b j) := by
  unfold State.sendJoinMsg
  repeat' with_reducible first | exact ho | refine Only.ite ?_ ?_ | refine Only.dite (fun _ => ?_) (fun _ => ?_) | refine State.sendClear_only (sub_reach hL rfl) ?_ | refine State.makeJoining_only (sub_reach hL rfl) ?_ | refine State.modLine_only (sub_reach hL rfl) ?_ | assumption | split | (dsimp -proj only; split)

theorem State.joinFailed_only {L : List Part} {s₀ : State} {s : State} {b : Berth} {eui : BitVec 64} (hL : reach [.stats, .out, .host, .line, .fab] L = true) (ho : Only L s₀ s) :
    Only L s₀ (State.joinFailed s b eui) := by
  unfold State.joinFailed
  repeat' with_reducible first | exact ho | refine Only.ite ?_ ?_ | refine Only.dite (fun _ => ?_) (fun _ => ?_) | refine State.raise_only (sub_reach hL rfl) ?_ | refine State.bump_only (sub_reach hL rfl) ?_ | refine State.modLine_only (sub_reach hL rfl) ?_ | assumption | split | (dsimp -proj only; split)

theorem State.moveFrames_only {L : List Part} {s₀ : State} {s : State} {old : List Ctx} {j : Join} {b : Berth} (hL : reach [.hold] L = true) (ho : Only L s₀ s) :
    Only L s₀ (State.moveFrames s old j b) := by
  unfold State.moveFrames
  repeat' with_reducible first | exact ho | refine Only.ite ?_ ?_ | refine Only.dite (fun _ => ?_) (fun _ => ?_) | refine State.reHead_only (sub_reach hL rfl) ?_ | refine State.forAll_only (fun _ _ _ => ?_) ?_ | assumption | split | (dsimp -proj only; split)

theorem State.proofGood_only {L : List Part} {s₀ : State} {s0 : State} {b : Berth} {j : Join} {root : Bytes} (hL : reach [.stats, .out, .freeCtr, .host, .mgmt, .line, .ctxs, .owns, .hold, .fab] L = true) (ho : Only L s₀ s0) :
    Only L s₀ (State.proofGood s0 b j root) := by
  unfold State.proofGood
  repeat' with_reducible first | exact ho | refine Only.ite ?_ ?_ | refine Only.dite (fun _ => ?_) (fun _ => ?_) | refine State.moveFrames_only (sub_reach hL rfl) ?_ | refine State.endJoin_only (sub_reach hL rfl) ?_ | refine State.askOwners_only (sub_reach hL rfl) ?_ | refine State.ctxTo_only (sub_reach hL rfl) ?_ | refine State.raise_only (sub_reach hL rfl) ?_ | refine State.modLine_only (sub_reach hL rfl) ?_ | refine State.forAll_only (fun _ _ _ => ?_) ?_ | assumption | split | (dsimp -proj only; split) | refine only_set_ctxs (sub_reach hL rfl) ?_

end Sys2Proof.Machine
end

