-- ==== Sys2Proof/Laws/InvJoin.lean ====
section
/-! SUPPORT. The operations of Machine/Join.lean keep what always holds. -/

namespace Sys2Proof.Machine
open Sys2Proof

set_option linter.all false

theorem State.freeJoining_inv {s : State} {b : Berth} {eui : BitVec 64} (ho : Inv s) : Inv (State.freeJoining s b eui) := by
  unfold State.freeJoining
  repeat' with_reducible first | exact ho | refine Inv.ite ?_ ?_ | refine Inv.dite (fun _ => ?_) (fun _ => ?_) | refine State.freeCtx_inv ?_ | refine State.forAll_inv (fun _ _ _ => ?_) ?_ | assumption | exact rfl | split | (dsimp -proj only; split)

theorem State.endJoin_inv {s : State} {b : Berth} {eui : BitVec 64} (ho : Inv s) : Inv (State.endJoin s b eui) := by
  unfold State.endJoin
  repeat' with_reducible first | exact ho | refine Inv.ite ?_ ?_ | refine Inv.dite (fun _ => ?_) (fun _ => ?_) | refine State.freeJoining_inv ?_ | refine State.modLine_inv ?_ | assumption | exact rfl | split | (dsimp -proj only; split)

theorem State.addJoin_inv {s : State} {b : Berth} {j : Join} (ho : Inv s) : Inv (State.addJoin s b j) :=
  inv_only (State.addJoin_only (L := [.line]) (s := s) (b := b) (j := j) rfl (Only.refl _ _)) rfl ho

theorem State.joinFailed_inv {s : State} {b : Berth} {eui : BitVec 64} (ho : Inv s) : Inv (State.joinFailed s b eui) := by
  unfold State.joinFailed
  repeat' with_reducible first | exact ho | refine Inv.ite ?_ ?_ | refine Inv.dite (fun _ => ?_) (fun _ => ?_) | refine State.raise_inv ?_ | refine State.bump_inv ?_ | refine State.modLine_inv ?_ | assumption | exact rfl | split | (dsimp -proj only; split)

theorem State.moveFrames_inv {s : State} {old : List Ctx} {j : Join} {b : Berth} (ho : Inv s) : Inv (State.moveFrames s old j b) := by
  unfold State.moveFrames
  repeat' with_reducible first | exact ho | refine Inv.ite ?_ ?_ | refine Inv.dite (fun _ => ?_) (fun _ => ?_) | refine State.reHead_inv ?_ | refine State.forAll_inv (fun _ _ _ => ?_) ?_ | assumption | exact rfl | split | (dsimp -proj only; split)

theorem State.proofGood_inv {s0 : State} {b : Berth} {j : Join} {root : Bytes} (ho : Inv s0) : Inv (State.proofGood s0 b j root) := by
  unfold State.proofGood
  repeat' with_reducible first | exact ho | refine Inv.ite ?_ ?_ | refine Inv.dite (fun _ => ?_) (fun _ => ?_) | refine State.moveFrames_inv ?_ | refine State.endJoin_inv ?_ | refine State.askOwners_inv ?_ | refine State.ctxTo_inv ?_ | refine State.raise_inv ?_ | refine State.modLine_inv ?_ | refine State.forAll_inv (fun _ _ _ => ?_) ?_ | assumption | exact rfl | split | (dsimp -proj only; split) | refine inv_set_ctxs ?_

end Sys2Proof.Machine
end

