-- ==== Sys2Proof/Laws/OnlyKeys.lean ====
section
/-! SUPPORT. The parts of the state that each operation of Machine/Keys.lean reaches. -/

namespace Sys2Proof.Machine
open Sys2Proof

set_option linter.all false

theorem State.closeRole_only {L : List Part} {s₀ : State} {s : State} {role : Role} {but : BitVec 16} (hL : reach [.mgmt, .boot] L = true) (ho : Only L s₀ s) :
    Only L s₀ (State.closeRole s role but) := by
  unfold State.closeRole
  repeat' with_reducible first | exact ho | refine Only.ite ?_ ?_ | refine Only.dite (fun _ => ?_) (fun _ => ?_) | refine State.closeWhere_only (sub_reach hL rfl) ?_ | assumption | split | (dsimp -proj only; split) | refine only_set_mgmt (sub_reach hL rfl) ?_

theorem keyInstallEff_only {L : List Part} {s₀ : State} {r : Req} {s : State} (hL : reach [.mgmt, .sec, .boot] L = true) (ho : Only L s₀ s) :
    OnlyEff L s₀ (keyInstallEff r s) := by
  unfold keyInstallEff
  repeat' with_reducible first | refine OnlyEff.done ?_ | refine OnlyEff.run ?_ | refine OnlyEff.ite ?_ ?_ | refine OnlyEff.dite (fun _ => ?_) (fun _ => ?_) | exact ho | refine Only.ite ?_ ?_ | refine Only.dite (fun _ => ?_) (fun _ => ?_) | refine State.closeRole_only (sub_reach hL rfl) ?_ | refine State.dirty_only (sub_reach hL rfl) ?_ | assumption | split | (dsimp -proj only; split) | refine only_set_sec (sub_reach hL rfl) ?_

theorem keyRollEff_only {L : List Part} {s₀ : State} {r : Req} {s : State} (hL : reach [.stats, .out, .entropyCtr, .sec, .line, .ctxs, .fab] L = true) (ho : Only L s₀ s) :
    OnlyEff L s₀ (keyRollEff r s) := by
  unfold keyRollEff
  repeat' with_reducible first | refine OnlyEff.done ?_ | refine OnlyEff.run ?_ | refine OnlyEff.ite ?_ ?_ | refine OnlyEff.dite (fun _ => ?_) (fun _ => ?_) | exact ho | refine Only.ite ?_ ?_ | refine Only.dite (fun _ => ?_) (fun _ => ?_) | refine State.rollMembers_only (sub_reach hL rfl) ?_ | refine State.startRoll_only (sub_reach hL rfl) ?_ | refine State.forAll_only (fun _ _ _ => ?_) ?_ | assumption | split | (dsimp -proj only; split)

theorem State.spendIndex_only {L : List Part} {s₀ s : State} (hL : reach [.stats, .out, .host, .sec, .fab] L = true) (h : Only L s₀ s) :
    Only L s₀ s.spendIndex.2 := by
  unfold State.spendIndex
  dsimp only
  cases s.sec.attIndex with
  | some i => exact only_set_sec (sub_reach hL rfl) h
  | none => exact only_set_sec (sub_reach hL rfl) (State.raise_only (sub_reach hL rfl) (State.emit_only (sub_reach hL rfl) (only_set_sec (sub_reach hL rfl) h)))
theorem State.spendIndex_only_eq {L : List Part} {s₀ s s₁ : State} {x : Nat} (he : s.spendIndex = (x, s₁)) (hL : reach [.stats, .out, .host, .sec, .fab] L = true)
    (h : Only L s₀ s) : Only L s₀ s₁ := by
  have := State.spendIndex_only hL h
  rwa [he] at this

theorem attestEff_only {L : List Part} {s₀ : State} {r : Req} {s : State} (hL : reach [.stats, .out, .host, .sec, .fab] L = true) (ho : Only L s₀ s) :
    Only L s₀ (attestEff r s).2 := by
  unfold attestEff
  repeat' with_reducible first | exact ho | refine Only.ite ?_ ?_ | refine Only.dite (fun _ => ?_) (fun _ => ?_) | refine State.spendIndex_only (sub_reach hL rfl) ?_ | refine State.spendIndex_only_eq (by assumption) (sub_reach hL rfl) ?_ | refine State.raise_only (sub_reach hL rfl) ?_ | assumption | split | (dsimp -proj only; split) | refine only_set_sec (sub_reach hL rfl) ?_
theorem attestEff_only_eq {L : List Part} {s₀ : State} {r : Req} {s : State} {s₁ : State} {xv : _} (he : attestEff r s = (xv, s₁)) (hL : reach [.stats, .out, .host, .sec, .fab] L = true) (ho : Only L s₀ s) :
    Only L s₀ s₁ := by
  have := attestEff_only (r := r) (s := s) hL ho
  rwa [he] at this

theorem State.startEnroll_only {L : List Part} {s₀ : State} {s : State} (hL : reach [.out, .entropyCtr, .sec] L = true) (ho : Only L s₀ s) :
    Only L s₀ (State.startEnroll s).2 := by
  unfold State.startEnroll
  repeat' with_reducible first | exact ho | refine Only.ite ?_ ?_ | refine Only.dite (fun _ => ?_) (fun _ => ?_) | refine State.draw_only (sub_reach hL rfl) ?_ | refine State.draw_only_eq (by assumption) (sub_reach hL rfl) ?_ | refine State.emit_only (sub_reach hL rfl) ?_ | assumption | split | (dsimp -proj only; split) | refine only_set_sec (sub_reach hL rfl) ?_
theorem State.startEnroll_only_eq {L : List Part} {s₀ : State} {s : State} {s₁ : State} {xv : _} (he : State.startEnroll s = (xv, s₁)) (hL : reach [.out, .entropyCtr, .sec] L = true) (ho : Only L s₀ s) :
    Only L s₀ s₁ := by
  have := State.startEnroll_only (s := s) hL ho
  rwa [he] at this

end Sys2Proof.Machine
end

