-- ==== Sys2Proof/Laws/InvKeys.lean ====
section
/-! SUPPORT. The operations of Machine/Keys.lean keep what always holds. -/

namespace Sys2Proof.Machine
open Sys2Proof

set_option linter.all false

theorem keyInstallEff_inv {r : Req} {s : State} (ho : Inv s) : InvEff (keyInstallEff r s) :=
  inv_only (keyInstallEff_only (L := [.mgmt, .sec, .boot]) (r := r) (s := s) rfl (Only.refl _ _)) rfl ho

theorem keyRollEff_inv {r : Req} {s : State} (ho : Inv s) : InvEff (keyRollEff r s) :=
  inv_only (keyRollEff_only (L := [.stats, .out, .entropyCtr, .sec, .line, .ctxs, .fab]) (r := r) (s := s) rfl (Only.refl _ _)) rfl ho

theorem State.spendIndex_inv {s : State} (h : Inv s) : Inv s.spendIndex.2 := by
  unfold State.spendIndex
  dsimp only
  cases s.sec.attIndex with
  | some i => exact inv_set_sec h
  | none =>
    dsimp only
    refine inv_set_sec (State.raise_inv (State.emit_inv ?_))
    exact inv_set_sec h
theorem State.spendIndex_inv_eq {s s₁ : State} {x : Nat} (he : s.spendIndex = (x, s₁)) (h : Inv s) : Inv s₁ := by
  have := State.spendIndex_inv h
  rwa [he] at this

theorem attestEff_inv {r : Req} {s : State} (ho : Inv s) : Inv (attestEff r s).2 := by
  unfold attestEff
  repeat' with_reducible first | exact ho | refine Inv.ite ?_ ?_ | refine Inv.dite (fun _ => ?_) (fun _ => ?_) | refine State.spendIndex_inv ?_ | refine State.spendIndex_inv_eq (by assumption) ?_ | refine State.raise_inv ?_ | assumption | exact rfl | split | (dsimp -proj only; split) | refine inv_set_sec ?_
theorem attestEff_inv_eq {r : Req} {s : State} {s₁ : State} {xv : _} (he : attestEff r s = (xv, s₁)) (ho : Inv s) : Inv s₁ := by
  have := attestEff_inv (r := r) (s := s) ho
  rwa [he] at this

theorem State.startEnroll_inv {s : State} (ho : Inv s) : Inv (State.startEnroll s).2 :=
  inv_only (State.startEnroll_only (L := [.out, .entropyCtr, .sec]) (s := s) rfl (Only.refl _ _)) rfl ho
theorem State.startEnroll_inv_eq {s : State} {s₁ : State} {xv : _} (he : State.startEnroll s = (xv, s₁)) (ho : Inv s) : Inv s₁ :=
  inv_only (State.startEnroll_only_eq (L := [.out, .entropyCtr, .sec]) (s := s) (he := he) rfl (Only.refl _ _)) rfl ho

end Sys2Proof.Machine
end

