-- ==== Sys2Proof/Laws/OnlyFlags.lean ====
section
/-! SUPPORT. The parts of the state that each operation of Machine/Flags.lean reaches. -/

namespace Sys2Proof.Machine
open Sys2Proof

set_option linter.all false

theorem State.clearHist_only {L : List Part} {s₀ : State} {s : State} {c : Cls} {i : Nat} (hL : reach [.stats] L = true) (ho : Only L s₀ s) :
    Only L s₀ (State.clearHist s c i) := by
  unfold State.clearHist
  repeat' with_reducible first | exact ho | refine Only.ite ?_ ?_ | refine Only.dite (fun _ => ?_) (fun _ => ?_) | refine State.statSet_only (sub_reach hL rfl) ?_ | refine State.forAll_only (fun _ _ _ => ?_) ?_ | assumption | split | (dsimp -proj only; split)

end Sys2Proof.Machine
end

