-- ==== Sys2Proof/Laws/OnlyManage.lean ====
section
/-! SUPPORT. The parts of the state that each operation of Machine/Manage.lean reaches. -/

namespace Sys2Proof.Machine
open Sys2Proof

set_option linter.all false

theorem objGetEff_only {L : List Part} {s₀ : State} {r : Req} {s : State} (hL : reach [] L = true) (ho : Only L s₀ s) :
    Only L s₀ (objGetEff r s).2 := by
  unfold objGetEff
  repeat' with_reducible first | exact ho | refine Only.ite ?_ ?_ | refine Only.dite (fun _ => ?_) (fun _ => ?_) | assumption | split | (dsimp -proj only; split)
theorem objGetEff_only_eq {L : List Part} {s₀ : State} {r : Req} {s : State} {s₁ : State} {xv : _} (he : objGetEff r s = (xv, s₁)) (hL : reach [] L = true) (ho : Only L s₀ s) :
    Only L s₀ s₁ := by
  have := objGetEff_only (r := r) (s := s) hL ho
  rwa [he] at this

theorem State.restartSlackMin_only {L : List Part} {s₀ : State} {s : State} {c : Cls} {i : Nat} (hL : reach [.stats] L = true) (ho : Only L s₀ s) :
    Only L s₀ (State.restartSlackMin s c i) := by
  unfold State.restartSlackMin
  repeat' with_reducible first | exact ho | refine Only.ite ?_ ?_ | refine Only.dite (fun _ => ?_) (fun _ => ?_) | refine State.statSet_only (sub_reach hL rfl) ?_ | assumption | split | (dsimp -proj only; split)

theorem statsReadEff_only {L : List Part} {s₀ : State} {r : Req} {x : Session} {s : State} (hL : reach [.stats] L = true) (ho : Only L s₀ s) :
    Only L s₀ (statsReadEff r x s).2 := by
  unfold statsReadEff
  repeat' with_reducible first | exact ho | refine Only.ite ?_ ?_ | refine Only.dite (fun _ => ?_) (fun _ => ?_) | refine State.restartSlackMin_only (sub_reach hL rfl) ?_ | refine State.clearHist_only (sub_reach hL rfl) ?_ | assumption | split | (dsimp -proj only; split)
theorem statsReadEff_only_eq {L : List Part} {s₀ : State} {r : Req} {x : Session} {s : State} {s₁ : State} {xv : _} (he : statsReadEff r x s = (xv, s₁)) (hL : reach [.stats] L = true) (ho : Only L s₀ s) :
    Only L s₀ s₁ := by
  have := statsReadEff_only (r := r) (x := x) (s := s) hL ho
  rwa [he] at this

theorem State.pinRoute_only {L : List Part} {s₀ : State} {s : State} {p : Route} (hL : reach [.mgmt, .hold] L = true) (ho : Only L s₀ s) :
    Only L s₀ (State.pinRoute s p) := by
  unfold State.pinRoute
  repeat' with_reducible first | exact ho | refine Only.ite ?_ ?_ | refine Only.dite (fun _ => ?_) (fun _ => ?_) | refine State.putRoute_only (sub_reach hL rfl) ?_ | refine State.objTouch_only (sub_reach hL rfl) ?_ | assumption | split | (dsimp -proj only; split) | refine only_set_hold (sub_reach hL rfl) ?_

theorem State.unpinRoute_only {L : List Part} {s₀ s : State} {eui : BitVec 64} {s₁ : State} (he : s.unpinRoute eui = some s₁)
    (hL : reach [.mgmt, .hold] L = true) (h : Only L s₀ s) : Only L s₀ s₁ := by
  unfold State.unpinRoute at he
  repeat' split at he
  all_goals cases he
  · exact State.dropRoute_only (sub_reach hL rfl) h
  · exact State.objTouch_only (sub_reach hL rfl) (only_set_hold (sub_reach hL rfl) h)

theorem routeSetEff_only {L : List Part} {s₀ : State} {r : Req} {s : State} (hL : reach [.stats, .mgmt, .hold] L = true) (ho : Only L s₀ s) :
    OnlyEff L s₀ (routeSetEff r s) := by
  unfold routeSetEff
  repeat' with_reducible first | refine OnlyEff.done ?_ | refine OnlyEff.run ?_ | refine OnlyEff.ite ?_ ?_ | refine OnlyEff.dite (fun _ => ?_) (fun _ => ?_) | exact ho | refine Only.ite ?_ ?_ | refine Only.dite (fun _ => ?_) (fun _ => ?_) | refine State.unpinRoute_only (by assumption) (sub_reach hL rfl) ?_ | refine State.pinRoute_only (sub_reach hL rfl) ?_ | refine State.bump_only (sub_reach hL rfl) ?_ | assumption | split | (dsimp -proj only; split)

theorem State.writeBeacon_only {L : List Part} {s₀ : State} {s : State} {f : Fld} {b : Berth} {v : List Int} (hL : reach [.fields, .pend, .stats, .mgmt, .berth, .line, .ctxs] L = true) (ho : Only L s₀ s) :
    Only L s₀ (State.writeBeacon s f b v) := by
  unfold State.writeBeacon
  repeat' with_reducible first | exact ho | refine Only.ite ?_ ?_ | refine Only.dite (fun _ => ?_) (fun _ => ?_) | refine State.pendSet_only (sub_reach hL rfl) ?_ | refine State.applyWaiting_only (sub_reach hL rfl) ?_ | assumption | split | (dsimp -proj only; split)

theorem State.clearRetired_only {L : List Part} {s₀ : State} {s : State} {m : Nat} (hL : reach [.sec, .boot] L = true) (ho : Only L s₀ s) :
    Only L s₀ (State.clearRetired s m) := by
  unfold State.clearRetired
  repeat' with_reducible first | exact ho | refine Only.ite ?_ ?_ | refine Only.dite (fun _ => ?_) (fun _ => ?_) | refine State.dirty_only (sub_reach hL rfl) ?_ | assumption | split | (dsimp -proj only; split) | refine only_set_sec (sub_reach hL rfl) ?_

theorem State.linkSwitched_only {L : List Part} {s₀ : State} {s : State} {l : LinkId} (hL : reach [.stats, .out, .entropyCtr, .host, .fab] L = true) (ho : Only L s₀ s) :
    Only L s₀ (State.linkSwitched s l) := by
  unfold State.linkSwitched
  repeat' with_reducible first | exact ho | refine Only.ite ?_ ?_ | refine Only.dite (fun _ => ?_) (fun _ => ?_) | refine State.linkDown_only (sub_reach hL rfl) ?_ | refine State.raiseLink_only (sub_reach hL rfl) ?_ | assumption | split | (dsimp -proj only; split)

theorem State.retrainNow_only {L : List Part} {s₀ : State} {s : State} {l : LinkId} (hL : reach [.stats, .out, .entropyCtr, .host, .fab] L = true) (ho : Only L s₀ s) :
    Only L s₀ (State.retrainNow s l) := by
  unfold State.retrainNow
  repeat' with_reducible first | exact ho | refine Only.ite ?_ ?_ | refine Only.dite (fun _ => ?_) (fun _ => ?_) | refine State.retrainLink_only (sub_reach hL rfl) ?_ | assumption | split | (dsimp -proj only; split)

theorem State.applyWrite_only {L : List Part} {s₀ : State} {s : State} {i : Nat} {w : Write} (hL : reach [.fields, .pend, .stats, .out, .entropyCtr, .host, .mgmt, .sec, .boot, .berth, .line, .ctxs, .fab, .clk, .uart] L = true) (ho : Only L s₀ s) :
    Only L s₀ (State.applyWrite s i w) := by
  unfold State.applyWrite
  repeat' with_reducible first | exact ho | refine Only.ite ?_ ?_ | refine Only.dite (fun _ => ?_) (fun _ => ?_) | refine State.retrainNow_only (sub_reach hL rfl) ?_ | refine State.linkSwitched_only (sub_reach hL rfl) ?_ | refine State.clearRetired_only (sub_reach hL rfl) ?_ | refine State.writeBeacon_only (sub_reach hL rfl) ?_ | refine State.pendSet_only (sub_reach hL rfl) ?_ | refine State.startEnroll_only (sub_reach hL rfl) ?_ | refine State.startEnroll_only_eq (by assumption) (sub_reach hL rfl) ?_ | refine State.uartModeSet_only (sub_reach hL rfl) ?_ | refine State.modBerth_only (sub_reach hL rfl) ?_ | refine State.fset_only (sub_reach hL rfl) ?_ | assumption | split | (dsimp -proj only; split) | refine only_set_sec (sub_reach hL rfl) ?_

theorem State.domainChanged_only {L : List Part} {s₀ : State} {s : State} {before : State} {b : Berth} (hL : reach [.fields, .pend, .stats, .mgmt, .berth, .line, .ctxs] L = true) (ho : Only L s₀ s) (ho1 : Only L s₀ before) :
    Only L s₀ (State.domainChanged s before b) := by
  unfold State.domainChanged
  repeat' with_reducible first | exact ho | exact ho1 | refine Only.ite ?_ ?_ | refine Only.dite (fun _ => ?_) (fun _ => ?_) | refine State.leaveGrid_only (sub_reach hL rfl) ?_ | refine State.applyWaiting_only (sub_reach hL rfl) ?_ | refine State.berthReturns_only (sub_reach hL rfl) ?_ | refine State.modLine_only (sub_reach hL rfl) ?_ | assumption | split | (dsimp -proj only; split)

theorem State.couplingChanged_only {L : List Part} {s₀ : State} {s : State} {before : State} {b : Berth} (hL : reach [.stats, .berth] L = true) (ho : Only L s₀ s) (ho1 : Only L s₀ before) :
    Only L s₀ (State.couplingChanged s before b) := by
  unfold State.couplingChanged
  repeat' with_reducible first | exact ho | exact ho1 | refine Only.ite ?_ ?_ | refine Only.dite (fun _ => ?_) (fun _ => ?_) | refine State.updateBackoff_only (sub_reach hL rfl) ?_ | refine State.modBerth_only (sub_reach hL rfl) ?_ | assumption | split | (dsimp -proj only; split)

theorem State.driveGpio_only {L : List Part} {s₀ : State} {s : State} (hL : reach [.out] L = true) (ho : Only L s₀ s) :
    Only L s₀ (State.driveGpio s) := by
  unfold State.driveGpio
  repeat' with_reducible first | exact ho | refine Only.ite ?_ ?_ | refine Only.dite (fun _ => ?_) (fun _ => ?_) | refine State.emit_only (sub_reach hL rfl) ?_ | assumption | split | (dsimp -proj only; split)

theorem State.finishSet_only {L : List Part} {s₀ : State} {s : State} {before : State} {c : Cls} {i : Nat} {ws : List Write} (hL : reach [.fields, .pend, .stats, .out, .dom, .avs, .boot, .berth, .eth, .chk] L = true) (ho : Only L s₀ s) (ho1 : Only L s₀ before) :
    Only L s₀ (State.finishSet s before c i ws) := by
  unfold State.finishSet
  repeat' with_reducible first | exact ho | exact ho1 | refine Only.ite ?_ ?_ | refine Only.dite (fun _ => ?_) (fun _ => ?_) | refine State.uartIdle_only (sub_reach hL rfl) ?_ | refine State.slackJudge_only (sub_reach hL rfl) ?_ | refine State.driveGpio_only (sub_reach hL rfl) ?_ | refine State.couplingChanged_only (sub_reach hL rfl) ?_ ?_ | refine State.chkRestartNow_only (sub_reach hL rfl) ?_ | refine State.chkBoundary_only (sub_reach hL rfl) ?_ | refine State.authDone_only (sub_reach hL rfl) ?_ | refine State.writeRecord_only (sub_reach hL rfl) ?_ | refine State.startPort_only (sub_reach hL rfl) ?_ | refine State.emit_only (sub_reach hL rfl) ?_ | refine State.forAll_only (fun _ _ _ => ?_) ?_ | assumption | split | (dsimp -proj only; split) | refine only_set_avs (sub_reach hL rfl) ?_

theorem State.applyWrites_only {L : List Part} {s₀ : State} {s : State} {c : Cls} {i : Nat} {ws : List Write} (hL : reach [.fields, .pend, .stats, .out, .entropyCtr, .dom, .avs, .host, .mgmt, .sec, .boot, .berth, .line, .ctxs, .eth, .fab, .clk, .chk, .uart] L = true) (ho : Only L s₀ s) :
    Only L s₀ (State.applyWrites s c i ws) := by
  unfold State.applyWrites
  repeat' with_reducible first | exact ho | refine Only.ite ?_ ?_ | refine Only.dite (fun _ => ?_) (fun _ => ?_) | refine State.finishSet_only (sub_reach hL rfl) ?_ ?_ | refine State.domainChanged_only (sub_reach hL rfl) ?_ ?_ | refine State.applyWrite_only (sub_reach hL rfl) ?_ | refine State.forAll_only (fun _ _ _ => ?_) ?_ | refine State.dirty_only (sub_reach hL rfl) ?_ | refine State.objTouch_only (sub_reach hL rfl) ?_ | assumption | split | (dsimp -proj only; split)

theorem fieldSetEff_only {L : List Part} {s₀ : State} {r : Req} {role : Role} {s : State} (hL : reach [.fields, .pend, .stats, .out, .entropyCtr, .dom, .avs, .host, .qp, .mgmt, .sec, .boot, .berth, .line, .ctxs, .eth, .fab, .clk, .chk, .uart] L = true) (ho : Only L s₀ s) :
    OnlyEff L s₀ (fieldSetEff r role s) := by
  unfold fieldSetEff
  repeat' with_reducible first | refine OnlyEff.done ?_ | refine OnlyEff.run ?_ | refine OnlyEff.ite ?_ ?_ | refine OnlyEff.dite (fun _ => ?_) (fun _ => ?_) | exact ho | refine Only.ite ?_ ?_ | refine Only.dite (fun _ => ?_) (fun _ => ?_) | refine powerEff_only (sub_reach hL rfl) ?_ | refine State.applyWrites_only (sub_reach hL rfl) ?_ | assumption | split | (dsimp -proj only; split)

theorem objSetEff_only {L : List Part} {s₀ : State} {r : Req} {s : State} (hL : reach [.fields, .pend, .stats, .out, .entropyCtr, .dom, .avs, .host, .qp, .mgmt, .sec, .boot, .berth, .line, .ctxs, .hold, .eth, .fab, .clk, .chk, .uart] L = true) (ho : Only L s₀ s) :
    OnlyEff L s₀ (objSetEff r s) := by
  unfold objSetEff
  repeat' with_reducible first | refine OnlyEff.done ?_ | refine OnlyEff.run ?_ | refine OnlyEff.ite ?_ ?_ | refine OnlyEff.dite (fun _ => ?_) (fun _ => ?_) | exact ho | refine Only.ite ?_ ?_ | refine Only.dite (fun _ => ?_) (fun _ => ?_) | refine fieldSetEff_only (sub_reach hL rfl) ?_ | refine routeSetEff_only (sub_reach hL rfl) ?_ | assumption | split | (dsimp -proj only; split)

theorem State.objSet_only {L : List Part} {s₀ : State} {s : State} {r : Req} (hL : reach [.fields, .pend, .stats, .out, .entropyCtr, .dom, .avs, .host, .qp, .mgmt, .sec, .boot, .berth, .line, .ctxs, .hold, .eth, .fab, .clk, .chk, .uart] L = true) (ho : Only L s₀ s) :
    Only L s₀ (State.objSet s r) := by
  unfold State.objSet
  repeat' with_reducible first | exact ho | refine Only.ite ?_ ?_ | refine Only.dite (fun _ => ?_) (fun _ => ?_) | refine objSetEff_only (sub_reach hL rfl) ?_ | refine State.runLocked_only (sub_reach hL rfl) (fun _ _ => ?_) ?_ | assumption | split | (dsimp -proj only; split)

theorem State.wouldBe_only {L : List Part} {s₀ : State} {s : State} {i : Nat} {ws : List Write} (hL : reach [.fields, .pend] L = true) (ho : Only L s₀ s) :
    Only L s₀ (State.wouldBe s i ws) := by
  unfold State.wouldBe
  repeat' with_reducible first | exact ho | refine Only.ite ?_ ?_ | refine Only.dite (fun _ => ?_) (fun _ => ?_) | refine State.release_only (sub_reach hL rfl) ?_ | refine State.forAll_only (fun _ _ _ => ?_) ?_ | refine State.fset_only (sub_reach hL rfl) ?_ | assumption | split | (dsimp -proj only; split)

end Sys2Proof.Machine
end

