-- ==== Sys2Proof/Laws/InvManage.lean ====
section
/-! SUPPORT. The operations of Machine/Manage.lean keep what always holds. -/

namespace Sys2Proof.Machine
open Sys2Proof

set_option linter.all false

theorem objGetEff_inv {r : Req} {s : State} (ho : Inv s) : Inv (objGetEff r s).2 :=
  inv_only (objGetEff_only (L := []) (r := r) (s := s) rfl (Only.refl _ _)) rfl ho
theorem objGetEff_inv_eq {r : Req} {s : State} {s₁ : State} {xv : _} (he : objGetEff r s = (xv, s₁)) (ho : Inv s) : Inv s₁ :=
  inv_only (objGetEff_only_eq (L := []) (r := r) (s := s) (he := he) rfl (Only.refl _ _)) rfl ho

theorem statsReadEff_inv {r : Req} {x : Session} {s : State} (ho : Inv s) : Inv (statsReadEff r x s).2 :=
  inv_only (statsReadEff_only (L := [.stats]) (r := r) (x := x) (s := s) rfl (Only.refl _ _)) rfl ho
theorem statsReadEff_inv_eq {r : Req} {x : Session} {s : State} {s₁ : State} {xv : _} (he : statsReadEff r x s = (xv, s₁)) (ho : Inv s) : Inv s₁ :=
  inv_only (statsReadEff_only_eq (L := [.stats]) (r := r) (x := x) (s := s) (he := he) rfl (Only.refl _ _)) rfl ho

theorem State.pinRoute_inv {s : State} {p : Route} (ho : Inv s) : Inv (State.pinRoute s p) := by
  unfold State.pinRoute
  repeat' with_reducible first | exact ho | refine Inv.ite ?_ ?_ | refine Inv.dite (fun _ => ?_) (fun _ => ?_) | refine State.putRoute_inv ?_ | refine State.objTouch_inv ?_ | assumption | exact rfl | split | (dsimp -proj only; split) | refine inv_set_hold ?_ ?_

theorem State.unpinRoute_inv {s : State} {eui : BitVec 64} {s₁ : State} (he : s.unpinRoute eui = some s₁)
    (h : Inv s) : Inv s₁ := by
  unfold State.unpinRoute at he
  repeat' split at he
  all_goals cases he
  · exact State.dropRoute_inv h
  · exact State.objTouch_inv (inv_set_hold rfl h)

theorem routeSetEff_inv {r : Req} {s : State} (ho : Inv s) : InvEff (routeSetEff r s) := by
  unfold routeSetEff
  repeat' with_reducible first | refine InvEff.done ?_ | refine InvEff.run ?_ | refine InvEff.ite ?_ ?_ | refine InvEff.dite (fun _ => ?_) (fun _ => ?_) | exact ho | refine Inv.ite ?_ ?_ | refine Inv.dite (fun _ => ?_) (fun _ => ?_) | refine State.unpinRoute_inv (by assumption) ?_ | refine State.pinRoute_inv ?_ | refine State.bump_inv ?_ | assumption | exact rfl | split | (dsimp -proj only; split)

theorem State.writeBeacon_inv {s : State} {f : Fld} {b : Berth} {v : List Int} (ho : Inv s) : Inv (State.writeBeacon s f b v) :=
  inv_only (State.writeBeacon_only (L := [.fields, .pend, .stats, .mgmt, .berth, .line, .ctxs]) (s := s) (f := f) (b := b) (v := v) rfl (Only.refl _ _)) rfl ho

theorem State.clearRetired_inv {s : State} {m : Nat} (ho : Inv s) : Inv (State.clearRetired s m) :=
  inv_only (State.clearRetired_only (L := [.sec, .boot]) (s := s) (m := m) rfl (Only.refl _ _)) rfl ho

theorem State.linkSwitched_inv {s : State} {l : LinkId} (ho : Inv s) : Inv (State.linkSwitched s l) := by
  unfold State.linkSwitched
  repeat' with_reducible first | exact ho | refine Inv.ite ?_ ?_ | refine Inv.dite (fun _ => ?_) (fun _ => ?_) | refine State.linkDown_inv ?_ | refine State.raiseLink_inv ?_ | assumption | exact rfl | split | (dsimp -proj only; split)

theorem State.retrainNow_inv {s : State} {l : LinkId} (ho : Inv s) : Inv (State.retrainNow s l) := by
  unfold State.retrainNow
  repeat' with_reducible first | exact ho | refine Inv.ite ?_ ?_ | refine Inv.dite (fun _ => ?_) (fun _ => ?_) | refine State.retrainLink_inv ?_ | assumption | exact rfl | split | (dsimp -proj only; split)

theorem State.applyWrite_inv {s : State} {i : Nat} {w : Write} (ho : Inv s) : Inv (State.applyWrite s i w) := by
  unfold State.applyWrite
  repeat' with_reducible first | exact ho | refine Inv.ite ?_ ?_ | refine Inv.dite (fun _ => ?_) (fun _ => ?_) | refine State.retrainNow_inv ?_ | refine State.linkSwitched_inv ?_ | refine State.clearRetired_inv ?_ | refine State.writeBeacon_inv ?_ | refine State.pendSet_inv ?_ | refine State.startEnroll_inv ?_ | refine State.startEnroll_inv_eq (by assumption) ?_ | refine State.uartModeSet_inv ?_ | refine State.modBerth_inv ?_ | refine State.fset_inv ?_ | assumption | exact rfl | split | (dsimp -proj only; split) | refine inv_set_sec ?_

theorem State.domainChanged_inv {s : State} {before : State} {b : Berth} (ho : Inv s) (ho1 : Inv before) : Inv (State.domainChanged s before b) := by
  unfold State.domainChanged
  repeat' with_reducible first | exact ho | exact ho1 | refine Inv.ite ?_ ?_ | refine Inv.dite (fun _ => ?_) (fun _ => ?_) | refine State.leaveGrid_inv ?_ | refine State.applyWaiting_inv ?_ | refine State.berthReturns_inv ?_ | refine State.modLine_inv ?_ | assumption | exact rfl | split | (dsimp -proj only; split)

theorem State.couplingChanged_inv {s : State} {before : State} {b : Berth} (ho : Inv s) (ho1 : Inv before) : Inv (State.couplingChanged s before b) := by
  unfold State.couplingChanged
  repeat' with_reducible first | exact ho | exact ho1 | refine Inv.ite ?_ ?_ | refine Inv.dite (fun _ => ?_) (fun _ => ?_) | refine State.updateBackoff_inv ?_ | refine State.modBerth_inv ?_ | assumption | exact rfl | split | (dsimp -proj only; split)

theorem State.driveGpio_inv {s : State} (ho : Inv s) : Inv (State.driveGpio s) :=
  inv_only (State.driveGpio_only (L := [.out]) (s := s) rfl (Only.refl _ _)) rfl ho

theorem State.finishSet_inv {s : State} {before : State} {c : Cls} {i : Nat} {ws : List Write} (ho : Inv s) (ho1 : Inv before) : Inv (State.finishSet s before c i ws) := by
  unfold State.finishSet
  repeat' with_reducible first | exact ho | exact ho1 | refine Inv.ite ?_ ?_ | refine Inv.dite (fun _ => ?_) (fun _ => ?_) | refine State.uartIdle_inv ?_ | refine State.slackJudge_inv ?_ | refine State.driveGpio_inv ?_ | refine State.couplingChanged_inv ?_ ?_ | refine State.chkRestartNow_inv ?_ | refine State.chkBoundary_inv ?_ | refine State.authDone_inv ?_ | refine State.writeRecord_inv ?_ | refine State.startPort_inv ?_ | refine State.emit_inv ?_ | refine State.forAll_inv (fun _ _ _ => ?_) ?_ | assumption | exact rfl | split | (dsimp -proj only; split) | refine inv_set_avs ?_

theorem State.applyWrites_inv {s : State} {c : Cls} {i : Nat} {ws : List Write} (ho : Inv s) : Inv (State.applyWrites s c i ws) := by
  unfold State.applyWrites
  repeat' with_reducible first | exact ho | refine Inv.ite ?_ ?_ | refine Inv.dite (fun _ => ?_) (fun _ => ?_) | refine State.finishSet_inv ?_ ?_ | refine State.domainChanged_inv ?_ ?_ | refine State.applyWrite_inv ?_ | refine State.forAll_inv (fun _ _ _ => ?_) ?_ | refine State.dirty_inv ?_ | refine State.objTouch_inv ?_ | assumption | exact rfl | split | (dsimp -proj only; split)

theorem fieldSetEff_inv {r : Req} {role : Role} {s : State} (ho : Inv s) : InvEff (fieldSetEff r role s) := by
  unfold fieldSetEff
  repeat' with_reducible first | refine InvEff.done ?_ | refine InvEff.run ?_ | refine InvEff.ite ?_ ?_ | refine InvEff.dite (fun _ => ?_) (fun _ => ?_) | exact ho | refine Inv.ite ?_ ?_ | refine Inv.dite (fun _ => ?_) (fun _ => ?_) | refine powerEff_inv ?_ | refine State.applyWrites_inv ?_ | assumption | exact rfl | split | (dsimp -proj only; split)

theorem objSetEff_inv {r : Req} {s : State} (ho : Inv s) : InvEff (objSetEff r s) := by
  unfold objSetEff
  repeat' with_reducible first | refine InvEff.done ?_ | refine InvEff.run ?_ | refine InvEff.ite ?_ ?_ | refine InvEff.dite (fun _ => ?_) (fun _ => ?_) | exact ho | refine Inv.ite ?_ ?_ | refine Inv.dite (fun _ => ?_) (fun _ => ?_) | refine fieldSetEff_inv ?_ | refine routeSetEff_inv ?_ | assumption | exact rfl | split | (dsimp -proj only; split)

theorem State.objSet_inv {s : State} {r : Req} (ho : Inv s) : Inv (State.objSet s r) := by
  unfold State.objSet
  repeat' with_reducible first | exact ho | refine Inv.ite ?_ ?_ | refine Inv.dite (fun _ => ?_) (fun _ => ?_) | refine objSetEff_inv ?_ | refine State.runLocked_inv (fun _ _ => ?_) ?_ | assumption | exact rfl | split | (dsimp -proj only; split)

end Sys2Proof.Machine
end

