-- ==== Sys2Proof/Laws/OnlySessions.lean ====
section
/-! SUPPORT. The parts of the state that each operation of Machine/Sessions.lean reaches. -/

namespace Sys2Proof.Machine
open Sys2Proof

set_option linter.all false

theorem State.openPhase0_only {L : List Part} {s₀ : State} {s : State} {r : Req} (hL : reach [.entropyCtr, .mgmt] L = true) (ho : Only L s₀ s) :
    Only L s₀ (State.openPhase0 s r).2 := by
  unfold State.openPhase0
  repeat' with_reducible first | exact ho | refine Only.ite ?_ ?_ | refine Only.dite (fun _ => ?_) (fun _ => ?_) | refine State.draw_only (sub_reach hL rfl) ?_ | refine State.draw_only_eq (by assumption) (sub_reach hL rfl) ?_ | assumption | split | (dsimp -proj only; split) | refine only_set_mgmt (sub_reach hL rfl) ?_
theorem State.openPhase0_only_eq {L : List Part} {s₀ : State} {s : State} {r : Req} {s₁ : State} {xv : _} (he : State.openPhase0 s r = (xv, s₁)) (hL : reach [.entropyCtr, .mgmt] L = true) (ho : Only L s₀ s) :
    Only L s₀ s₁ := by
  have := State.openPhase0_only (s := s) (r := r) hL ho
  rwa [he] at this

theorem State.putLockout_only {L : List Part} {s₀ : State} {s : State} {x : Lockout} (hL : reach [.sec] L = true) (ho : Only L s₀ s) :
    Only L s₀ (State.putLockout s x) := by
  unfold State.putLockout
  repeat' with_reducible first | exact ho | refine Only.ite ?_ ?_ | refine Only.dite (fun _ => ?_) (fun _ => ?_) | assumption | split | (dsimp -proj only; split) | refine only_set_sec (sub_reach hL rfl) ?_

theorem State.proofFails_only {L : List Part} {s₀ : State} {s : State} {r : Role} {tr : Transport} (hL : reach [.stats, .out, .host, .sec, .fab] L = true) (ho : Only L s₀ s) :
    Only L s₀ (State.proofFails s r tr) := by
  unfold State.proofFails
  repeat' with_reducible first | exact ho | refine Only.ite ?_ ?_ | refine Only.dite (fun _ => ?_) (fun _ => ?_) | refine State.putLockout_only (sub_reach hL rfl) ?_ | refine State.raise_only (sub_reach hL rfl) ?_ | refine State.bump_only (sub_reach hL rfl) ?_ | assumption | split | (dsimp -proj only; split)

theorem State.openPhase1_only {L : List Part} {s₀ : State} {s : State} {r : Req} {role : Role} (hL : reach [.stats, .out, .host, .mgmt, .sec, .fab] L = true) (ho : Only L s₀ s) :
    Only L s₀ (State.openPhase1 s r role).2.1 := by
  unfold State.openPhase1
  repeat' with_reducible first | exact ho | refine Only.ite ?_ ?_ | refine Only.dite (fun _ => ?_) (fun _ => ?_) | refine State.proofFails_only (sub_reach hL rfl) ?_ | refine State.putLockout_only (sub_reach hL rfl) ?_ | assumption | split | (dsimp -proj only; split) | refine only_set_mgmt (sub_reach hL rfl) ?_
theorem State.openPhase1_only_eq {L : List Part} {s₀ : State} {s : State} {r : Req} {role : Role} {s₁ : State} {xv : _} {yv : _} (he : State.openPhase1 s r role = (xv, s₁, yv)) (hL : reach [.stats, .out, .host, .mgmt, .sec, .fab] L = true) (ho : Only L s₀ s) :
    Only L s₀ s₁ := by
  have := State.openPhase1_only (s := s) (r := r) (role := role) hL ho
  rwa [he] at this

theorem State.openSession_only {L : List Part} {s₀ : State} {s : State} {r : Req} (hL : reach [.stats, .out, .entropyCtr, .host, .mgmt, .sec, .fab] L = true) (ho : Only L s₀ s) :
    Only L s₀ (State.openSession s r).2.1 := by
  unfold State.openSession
  repeat' with_reducible first | exact ho | refine Only.ite ?_ ?_ | refine Only.dite (fun _ => ?_) (fun _ => ?_) | refine State.openPhase1_only (sub_reach hL rfl) ?_ | refine State.openPhase1_only_eq (by assumption) (sub_reach hL rfl) ?_ | refine State.openPhase0_only (sub_reach hL rfl) ?_ | refine State.openPhase0_only_eq (by assumption) (sub_reach hL rfl) ?_ | assumption | split | (dsimp -proj only; split)
theorem State.openSession_only_eq {L : List Part} {s₀ : State} {s : State} {r : Req} {s₁ : State} {xv : _} {yv : _} (he : State.openSession s r = (xv, s₁, yv)) (hL : reach [.stats, .out, .entropyCtr, .host, .mgmt, .sec, .fab] L = true) (ho : Only L s₀ s) :
    Only L s₀ s₁ := by
  have := State.openSession_only (s := s) (r := r) hL ho
  rwa [he] at this

theorem eventAckEff_only {L : List Part} {s₀ : State} {r : Req} {s : State} (hL : reach [.host] L = true) (ho : Only L s₀ s) :
    Only L s₀ (eventAckEff r s).2 := by
  unfold eventAckEff
  repeat' with_reducible first | exact ho | refine Only.ite ?_ ?_ | refine Only.dite (fun _ => ?_) (fun _ => ?_) | refine State.alarmUpdate_only (sub_reach hL rfl) ?_ | assumption | split | (dsimp -proj only; split) | refine only_set_host (sub_reach hL rfl) ?_
theorem eventAckEff_only_eq {L : List Part} {s₀ : State} {r : Req} {s : State} {s₁ : State} {xv : _} (he : eventAckEff r s = (xv, s₁)) (hL : reach [.host] L = true) (ho : Only L s₀ s) :
    Only L s₀ s₁ := by
  have := eventAckEff_only (r := r) (s := s) hL ho
  rwa [he] at this

end Sys2Proof.Machine
end

