-- ==== Sys2Proof/Laws/InvSessions.lean ====
section
/-! SUPPORT. The operations of Machine/Sessions.lean keep what always holds. -/

namespace Sys2Proof.Machine
open Sys2Proof

set_option linter.all false

theorem State.openPhase0_inv {s : State} {r : Req} (ho : Inv s) : Inv (State.openPhase0 s r).2 :=
  inv_only (State.openPhase0_only (L := [.entropyCtr, .mgmt]) (s := s) (r := r) rfl (Only.refl _ _)) rfl ho
theorem State.openPhase0_inv_eq {s : State} {r : Req} {s₁ : State} {xv : _} (he : State.openPhase0 s r = (xv, s₁)) (ho : Inv s) : Inv s₁ :=
  inv_only (State.openPhase0_only_eq (L := [.entropyCtr, .mgmt]) (s := s) (r := r) (he := he) rfl (Only.refl _ _)) rfl ho

theorem State.putLockout_inv {s : State} {x : Lockout} (ho : Inv s) : Inv (State.putLockout s x) :=
  inv_only (State.putLockout_only (L := [.sec]) (s := s) (x := x) rfl (Only.refl _ _)) rfl ho

theorem State.proofFails_inv {s : State} {r : Role} {tr : Transport} (ho : Inv s) : Inv (State.proofFails s r tr) := by
  unfold State.proofFails
  repeat' with_reducible first | exact ho | refine Inv.ite ?_ ?_ | refine Inv.dite (fun _ => ?_) (fun _ => ?_) | refine State.putLockout_inv ?_ | refine State.raise_inv ?_ | refine State.bump_inv ?_ | assumption | exact rfl | split | (dsimp -proj only; split)

theorem State.openPhase1_inv {s : State} {r : Req} {role : Role} (ho : Inv s) : Inv (State.openPhase1 s r role).2.1 := by
  unfold State.openPhase1
  repeat' with_reducible first | exact ho | refine Inv.ite ?_ ?_ | refine Inv.dite (fun _ => ?_) (fun _ => ?_) | refine State.proofFails_inv ?_ | refine State.putLockout_inv ?_ | assumption | exact rfl | split | (dsimp -proj only; split) | refine inv_set_mgmt ?_
theorem State.openPhase1_inv_eq {s : State} {r : Req} {role : Role} {s₁ : State} {xv : _} {yv : _} (he : State.openPhase1 s r role = (xv, s₁, yv)) (ho : Inv s) : Inv s₁ := by
  have := State.openPhase1_inv (s := s) (r := r) (role := role) ho
  rwa [he] at this

theorem State.openSession_inv {s : State} {r : Req} (ho : Inv s) : Inv (State.openSession s r).2.1 := by
  unfold State.openSession
  repeat' with_reducible first | exact ho | refine Inv.ite ?_ ?_ | refine Inv.dite (fun _ => ?_) (fun _ => ?_) | refine State.openPhase1_inv ?_ | refine State.openPhase1_inv_eq (by assumption) ?_ | refine State.openPhase0_inv ?_ | refine State.openPhase0_inv_eq (by assumption) ?_ | assumption | exact rfl | split | (dsimp -proj only; split)
theorem State.openSession_inv_eq {s : State} {r : Req} {s₁ : State} {xv : _} {yv : _} (he : State.openSession s r = (xv, s₁, yv)) (ho : Inv s) : Inv s₁ := by
  have := State.openSession_inv (s := s) (r := r) ho
  rwa [he] at this

theorem eventAckEff_inv {r : Req} {s : State} (ho : Inv s) : Inv (eventAckEff r s).2 := by
  unfold eventAckEff
  repeat' with_reducible first | exact ho | refine Inv.ite ?_ ?_ | refine Inv.dite (fun _ => ?_) (fun _ => ?_) | refine State.alarmUpdate_inv ?_ | assumption | exact rfl | split | (dsimp -proj only; split) | refine inv_set_host ?_ ?_
theorem eventAckEff_inv_eq {r : Req} {s : State} {s₁ : State} {xv : _} (he : eventAckEff r s = (xv, s₁)) (ho : Inv s) : Inv s₁ := by
  have := eventAckEff_inv (r := r) (s := s) ho
  rwa [he] at this

end Sys2Proof.Machine
end

