-- ==== Sys2Proof/Laws/OnlyTiming.lean ====
section
/-! SUPPORT. The parts of the state that each operation of Machine/Timing.lean reaches. -/

namespace Sys2Proof.Machine
open Sys2Proof

set_option linter.all false

theorem State.avsRequest_only {L : List Part} {s₀ : State} {s : State} {mv : Int} (hL : reach [.out, .avs] L = true) (ho : Only L s₀ s) :
    Only L s₀ (State.avsRequest s mv) := by
  unfold State.avsRequest
  repeat' with_reducible first | exact ho | refine Only.ite ?_ ?_ | refine Only.dite (fun _ => ?_) (fun _ => ?_) | refine State.emit_only (sub_reach hL rfl) ?_ | assumption | split | (dsimp -proj only; split) | refine only_set_avs (sub_reach hL rfl) ?_

theorem State.missDeadline_only {L : List Part} {s₀ : State} {s : State} {k : DomId} (hL : reach [.stats, .out, .dom, .avs] L = true) (ho : Only L s₀ s) :
    Only L s₀ (State.missDeadline s k) := by
  unfold State.missDeadline
  repeat' with_reducible first | exact ho | refine Only.ite ?_ ?_ | refine Only.dite (fun _ => ?_) (fun _ => ?_) | refine State.avsRequest_only (sub_reach hL rfl) ?_ | refine State.setDomRec_only (sub_reach hL rfl) ?_ | refine State.stick_only (sub_reach hL rfl) ?_ | refine State.bump_only (sub_reach hL rfl) ?_ | assumption | split | (dsimp -proj only; split) | refine only_set_avs (sub_reach hL rfl) ?_

theorem State.avsAct_only {L : List Part} {s₀ : State} {s : State} (hL : reach [.stats, .evTimes, .out, .avs, .host, .fab] L = true) (ho : Only L s₀ s) :
    Only L s₀ (State.avsAct s) := by
  unfold State.avsAct
  repeat' with_reducible first | exact ho | refine Only.ite ?_ ?_ | refine Only.dite (fun _ => ?_) (fun _ => ?_) | refine State.raiseEvery_only (sub_reach hL rfl) ?_ | refine State.avsRequest_only (sub_reach hL rfl) ?_ | assumption | split | (dsimp -proj only; split) | refine only_set_avs (sub_reach hL rfl) ?_

theorem State.latchSlack_only {L : List Part} {s₀ : State} {s : State} {k : DomId} (hL : reach [.stats, .dom] L = true) (ho : Only L s₀ s) :
    Only L s₀ (State.latchSlack s k) := by
  unfold State.latchSlack
  repeat' with_reducible first | exact ho | refine Only.ite ?_ ?_ | refine Only.dite (fun _ => ?_) (fun _ => ?_) | refine State.slackJudge_only (sub_reach hL rfl) ?_ | refine State.setDomRec_only (sub_reach hL rfl) ?_ | refine State.statSet_only (sub_reach hL rfl) ?_ | assumption | split | (dsimp -proj only; split)

theorem State.openWindow_only {L : List Part} {s₀ : State} {s : State} {k : DomId} (hL : reach [.dom] L = true) (ho : Only L s₀ s) :
    Only L s₀ (State.openWindow s k) := by
  unfold State.openWindow
  repeat' with_reducible first | exact ho | refine Only.ite ?_ ?_ | refine Only.dite (fun _ => ?_) (fun _ => ?_) | refine State.setDomRec_only (sub_reach hL rfl) ?_ | assumption | split | (dsimp -proj only; split)

theorem State.devBeat_only {L : List Part} {s₀ : State} {s : State} (hL : reach [.mgmt] L = true) (ho : Only L s₀ s) :
    Only L s₀ (State.devBeat s) := by
  unfold State.devBeat
  repeat' with_reducible first | exact ho | refine Only.ite ?_ ?_ | refine Only.dite (fun _ => ?_) (fun _ => ?_) | assumption | split | (dsimp -proj only; split) | refine only_set_mgmt (sub_reach hL rfl) ?_

theorem State.domReturns_only {L : List Part} {s₀ : State} {s : State} {k : DomId} (hL : reach [.stats, .out, .dom, .host, .mgmt, .berth] L = true) (ho : Only L s₀ s) :
    Only L s₀ (State.domReturns s k) := by
  unfold State.domReturns
  repeat' with_reducible first | exact ho | refine Only.ite ?_ ?_ | refine Only.dite (fun _ => ?_) (fun _ => ?_) | refine State.ownBringUp_only (sub_reach hL rfl) ?_ | refine State.setDom_only (sub_reach hL rfl) ?_ | refine State.setDomRec_only (sub_reach hL rfl) ?_ | assumption | split | (dsimp -proj only; split)

end Sys2Proof.Machine
end

