-- ==== Sys2Proof/Laws/InvTiming.lean ====
section
/-! SUPPORT. The operations of Machine/Timing.lean keep what always holds. -/

namespace Sys2Proof.Machine
open Sys2Proof

set_option linter.all false

theorem State.avsRequest_inv {s : State} {mv : Int} (ho : Inv s) : Inv (State.avsRequest s mv) :=
  inv_only (State.avsRequest_only (L := [.out, .avs]) (s := s) (mv := mv) rfl (Only.refl _ _)) rfl ho

theorem State.missDeadline_inv {s : State} {k : DomId} (ho : Inv s) : Inv (State.missDeadline s k) := by
  unfold State.missDeadline
  repeat' with_reducible first | exact ho | refine Inv.ite ?_ ?_ | refine Inv.dite (fun _ => ?_) (fun _ => ?_) | refine State.avsRequest_inv ?_ | refine State.setDomRec_inv (by rfl) ?_ | refine State.stick_inv ?_ | refine State.bump_inv ?_ | assumption | exact rfl | split | (dsimp -proj only; split) | refine inv_set_avs ?_

theorem State.avsAct_inv {s : State} (ho : Inv s) : Inv (State.avsAct s) := by
  unfold State.avsAct
  repeat' with_reducible first | exact ho | refine Inv.ite ?_ ?_ | refine Inv.dite (fun _ => ?_) (fun _ => ?_) | refine State.raiseEvery_inv ?_ | refine State.avsRequest_inv ?_ | assumption | exact rfl | split | (dsimp -proj only; split) | refine inv_set_avs ?_

theorem State.latchSlack_inv {s : State} {k : DomId} (ho : Inv s) : Inv (State.latchSlack s k) := by
  unfold State.latchSlack
  repeat' with_reducible first | exact ho | refine Inv.ite ?_ ?_ | refine Inv.dite (fun _ => ?_) (fun _ => ?_) | refine State.slackJudge_inv ?_ | refine State.setDomRec_inv (by rfl) ?_ | refine State.statSet_inv ?_ | assumption | exact rfl | split | (dsimp -proj only; split)

theorem State.openWindow_inv {s : State} {k : DomId} (ho : Inv s) : Inv (State.openWindow s k) := by
  unfold State.openWindow
  repeat' with_reducible first | exact ho | refine Inv.ite ?_ ?_ | refine Inv.dite (fun _ => ?_) (fun _ => ?_) | refine State.setDomRec_inv (by rfl) ?_ | assumption | exact rfl | split | (dsimp -proj only; split)

theorem State.devBeat_inv {s : State} (ho : Inv s) : Inv (State.devBeat s) :=
  inv_only (State.devBeat_only (L := [.mgmt]) (s := s) rfl (Only.refl _ _)) rfl ho

theorem State.domReturns_inv {s : State} {k : DomId} (ho : Inv s) : Inv (State.domReturns s k) := by
  unfold State.domReturns
  repeat' with_reducible first | exact ho | refine Inv.ite ?_ ?_ | refine Inv.dite (fun _ => ?_) (fun _ => ?_) | refine State.ownBringUp_inv ?_ | refine State.setDom_inv ?_ | refine State.setDomRec_inv (by rfl) ?_ | assumption | exact rfl | split | (dsimp -proj only; split)

end Sys2Proof.Machine
end

