-- ==== Sys2Proof/WellFormed.lean ====
section
/-! DEFINITION. Well-formed commands: the operands that the spec's formats can carry. Every command has its meaning whether it is well formed or not;
a bound that a meaning checks itself is not repeated here. -/

namespace Sys2Proof

/-- An allocation entry fits its 64 bits (R149). -/
def Alloc.wf (a : Alloc) : Bool := decide (a.start < 2 ^ 17 ∧ a.dur < 2 ^ 17 ∧ a.src < 4096 ∧ a.dst < 4096 ∧ a.kind < 16)

/-- A request as its transport can carry it: at most 65,536 bytes by a COMMAND entry with at most 16,777,216 bytes of response space (R249), at most
4,096 over UART0 and the fabric (R267, R268). -/
def Req.wf (r : Req) : Bool :=
  match r.src with
  | .qp0 _ n => decide (r.body.length ≤ 65520 ∧ n ≤ 16777216)
  | _ => decide (r.body.length ≤ 4080)

/-- A character as sampled: three samples of the start bit and of each bit (R376). -/
def RxChar.wf (c : RxChar) : Bool := decide (c.start.length = 3) && c.bits.all fun b => decide (b.length = 3)

/-- A measurement names each reference input at most once (R312). -/
def measWf (l : List InputMeas) : Bool := decide (l.map fun m => m.input).Nodup

/-- A well-formed command. -/
def Instr.wf : Instr → Bool
  | .sessionOpen _ r | .sessionClose _ r | .objGet _ r | .objSet _ r | .statsRead _ r | .captureArm _ r | .captureRead _ r | .fwStage _ r
  | .fwCommit _ r _ | .berthSwap _ r _ | .regionDrain _ r | .regionReturn _ r | .storeRetire _ r | .fabricJoin _ r | .fabricLeave _ r
  | .clockForce _ r | .sensorCal _ r | .loopForce _ r | .keyInstall _ r | .keyRoll _ r | .attest _ r | .eventAck _ r
  | .powerStateRequest _ r | .trainRequest _ r | .fabricRetrainRequest _ r | .checkRestart _ r | .configCommit _ r | .attEnroll _ r
  | .keyRetire _ r | .retireClear _ r => r.wf
  -- a posted write of four or eight bytes (R10)
  | .registerWrite _ _ _ width _ => decide (width = 1 ∨ width = 2 ∨ width = 4 ∨ width = 8)
  -- submission entries of 32 bytes (R242)
  | .hostLinkRound _ entries => entries.all fun e => decide (e.2.length = 32)
  | .pmbAlert _ words => decide (words.length ≤ 8)
  | .beaconBoundary _ _ plan => plan.all Alloc.wf
  -- a frame-control block of 240 bits (R96)
  | .frameControlRx _ _ fc => decide (fc.length = 30)
  | .clockMeasure _ meas _ _ => measWf meas
  | .uartCharRx _ _ ch => ch.wf
  -- the codeword's control field and body, 5,140 bits (R288)
  | .fabricCwRx _ _ cw _ _ => decide (cw.length ≤ 643)
  | .storeTrainingDone _ _ _ dirs => decide (dirs.length ≤ 2)
  | .configAuth _ copies => decide (copies.length ≤ 2)
  | _ => true

end Sys2Proof
end

