-- ==== Sys2Proof/Tests/Slice0.lean ====
section
/-! SUPPORT. Tests: ill-formed commands are refused, single steps on small states, and for every statement with hypotheses states and operands
that meet them. -/

namespace Sys2Proof.Tests

open Sys2Proof Sys2Proof.Machine

set_option Elab.async false

/-- A state in which every power domain is ON, boot is done, the host is attached and the channels of the Hold serve. -/
def up : State :=
  { State.reset with
    dom := .replicate 44 { st := .on }
    boot := { State.reset.boot with porLow := false, stage := 5, configAuth := true, hostReady := true }
    live := { State.reset.live with inserted := true }
    host := { State.reset.host with linkUp := true, busMaster := true, msixEnable := true, lost := false }
    hold := { State.reset.hold with chan := .replicate 16 { st := .active } } }
/-- An image. -/
def info : ImgInfo := ⟨0, 0, 0, 0, 0, [], []⟩
/-- A boot directory. -/
def dir : BootDir := ⟨0, false, false, 0, (true, true), (true, true), false⟩
/-- A request over UART0 in session 1. -/
def req (body : Bytes) : Req := ⟨.uart0, 1, 1, 0, 0, 0, body⟩
/-- An officer session over UART0. -/
def sess : Session :=
  { id := 1, role := .officer, tr := .uart0, idleS := 300, activeAt := 0, subscribe := false, key := [1], devNonce := [], reqNonce := [] }
/-- A lock request. -/
def lockReq (code : Nat) (r : Req) : LockReq := { ticket := 0, code := code, req := r, key := [], locks := [], at_ := 0, waitMs := 0 }
/-- `up` with a request whose locks are granted. -/
def granted (code : Nat) (r : Req) : State := { up with mgmt := { up.mgmt with sessions := [sess], granted := [lockReq code r] } }
/-- `up` with a frame waiting for port 0, which is UP. -/
def port : State :=
  { (((up.takeIn (newFrame 0 0 1 0 0 0 false) [1, 2, 3]).1.modEth 0 fun (x : EthSt) => ({ x with st := .up } : EthSt))) with
    fields := [((.macAddr, 0), [2]), ((.portEnable, 0), [1])] }
/-- The frame that waits. -/
def portFrame : Frame := port.hold.frames.headD (newFrame 0 0 1 0 0 0 false)
/-- `up` with a request presented in an open session. -/
def accepted (code : Nat) (r : Req) : State := { up with mgmt := { up.mgmt with sessions := [sess], inbox := [(code, r)] } }
/-- An OBJ_SET of one field. -/
def setReq (c : BitVec 4) (i : BitVec 64) (f : Fld) (v : Int) : Req :=
  { req (List.flatten [[0, 0, 0, 0, 1, 0, 0, 0], entryBytes (ascii f.desc.name) 0xFFFF (fldBytes f.desc [v])]) with cls := c, inst := i }

/-! ## Ill-formed commands -/

def badReq : Req := req (List.replicate 4081 0)

/-- A request of more than 4,096 bytes over UART0 (R267). -/
theorem test_wf_request : (Instr.objGet 0 badReq).wf = false := by decide +kernel

/-- A COMMAND entry with a body of more than 65,520 bytes is ill formed, whatever its length, which nothing counts byte by byte. -/
theorem long_qp0 (n : Nat) (h : 65520 < n) : (Instr.objGet 0 { req (List.replicate n 0) with src := .qp0 0 16 }).wf = false := by
  simp [Instr.wf, Req.wf, req]; omega

/-- A request of more than 65,536 bytes by a COMMAND entry (R249). -/
theorem test_wf_request_qp0 : (Instr.objGet 0 { req (List.replicate 65521 0) with src := .qp0 0 16 }).wf = false := long_qp0 _ (by decide)

/-- A write of three bytes (R10). -/
theorem test_wf_write : (Instr.registerWrite 0 0 0x1000 3 0).wf = false := by decide +kernel

/-- A submission entry of 31 bytes (R242). -/
theorem test_wf_entries : (Instr.hostLinkRound 0 [(0, List.replicate 31 0)]).wf = false := by decide +kernel

/-- Nine words on the PMBus (R430). -/
theorem test_wf_pmb : (Instr.pmbAlert 0 (List.replicate 9 none)).wf = false := by decide +kernel

/-- An allocation that starts past its 17 bits (R149). -/
theorem test_wf_plan : (Instr.beaconBoundary 0 0 [⟨131072, 1, 1, 0, 0, false⟩]).wf = false := by decide +kernel

/-- A frame-control block of 29 bytes (R96). -/
theorem test_wf_frame_control : (Instr.frameControlRx 0 0 (List.replicate 29 0)).wf = false := by decide +kernel

/-- A measurement that names an input twice (R312). -/
theorem test_wf_measure : (Instr.clockMeasure 0 [⟨3, 0, 0, true⟩, ⟨3, 1, 0, true⟩] 0 false).wf = false := by decide +kernel

/-- A character with two samples of a bit (R376). -/
theorem test_wf_char : (Instr.uartCharRx 0 0 ⟨[false, false, false], [[true, true]], true⟩).wf = false := by decide +kernel

/-- A codeword of 644 bytes (R288). -/
theorem test_wf_codeword : (Instr.fabricCwRx 0 0 (List.replicate 644 0) true false).wf = false := by decide +kernel

/-- Three boot directories (R392). -/
theorem test_wf_directories : (Instr.storeTrainingDone 0 ⟨8, 2, true⟩ 0 [none, none, none]).wf = false := by decide +kernel

/-- Three copies of the configuration record (R402). -/
theorem test_wf_copies : (Instr.configAuth 0 (List.replicate 3 ⟨true, true, ⟨0, [], [], [], 0, [], 0, (1, 1, 1), false⟩⟩)).wf = false := by decide +kernel

/-- A well-formed command of each kind is accepted. -/
theorem test_wf_accepts : (Instr.nop 0 3).wf = true ∧ (Instr.objGet 0 (req [1, 2, 3, 4])).wf = true ∧
    (Instr.registerWrite 0 0 0x1000 8 0).wf = true := by decide +kernel

/-! ## The worked examples of the spec -/

/-- R6's example: 0x0005 is newer than 0xFFF0, and a difference of exactly half the range makes neither newer. -/
theorem test_newer : newer 16 0x0005 0xFFF0 = true ∧ newer 16 0xFFF0 0x0005 = false ∧ newer 8 0 128 = false ∧ newer 8 128 0 = false := by decide +kernel

/-- R366's example: the CRC-3 of 0xA5 is 5. -/
theorem test_crc3 : crcOut 3 false 0 (crcFeed 3 3 false 0 [0xA5]) = 5 := by decide +kernel

/-- R149's example: the entry 0x0404_4558_2EE0_3000 and its bytes on the line. -/
theorem test_alloc_bytes : allocBytes ⟨12288, 6000, 0x156, 0x011, 1, false⟩ = [0x00, 0x30, 0xE0, 0x2E, 0x58, 0x45, 0x04, 0x04] := by decide +kernel

/-- R207's example: an address wrong in bits 0 and 3 is uncorrectable, and a flip of data bit 2 is corrected. -/
theorem test_ecc : eccSyndrome 0 (checkByte 0 9) 0 = 0x0A ∧ eccOutcome 0x0A = .uncorrectable ∧
    eccSyndrome 4 (checkByte 0 0) 0 = 0x0D ∧ eccOutcome 0x0D = .corrected := by decide +kernel

/-- R209's example: the prefix of a frame stored at 0xA_D800_4800 with store_seq 0x0ABC. -/
theorem test_frame_prefix : framePrefix 0xAD8004800 0x000ABC = [0x00, 0x48, 0x00, 0xD8, 0x0A, 0xBC, 0x0A, 0x00] := by decide +kernel

/-- R219's example: six LLRs in quarter steps, as stored and as restored. -/
theorem test_soft_values : packLlrs [29, -3, 7, -44, 63, -1] = [0x96, 0xF2, 0x07] ∧
    unpackLlrs [0x96, 0xF2, 0x07] = [32, -2, 5, -48, 48, 0] := by decide +kernel

/-- R223's example: the exponent and two mantissas of a capture block. -/
theorem test_capture_block : capExp [1000, -1500] = 4 ∧ capMant 4 1000 = 63 ∧ capMant 4 (-1500) = -94 := by decide +kernel

/-- R184's example: three of the costs of the table, at guard 512 and hop_penalty 64. -/
theorem test_link_cost : linkCost 64 ⟨205, 0, 206, 0, 1, 40, 0, none⟩ = 9227 ∧ linkCost 64 ⟨88, 205, 4608, 0, 1, 58, 0, none⟩ = 347 ∧
    linkCost 64 ⟨88, 0, 7776, 3, 1, 62, 0, none⟩ = 153 := by decide +kernel

/-- The links of R185's example. -/
def exLinks : List LinkRep :=
  [⟨205, 0, 206, 0, 1, 40, 0, none⟩, ⟨0, 205, 412, 0, 1, 50, 0, none⟩, ⟨205, 88, 4320, 1, 1, 64, 0, none⟩, ⟨88, 0, 7776, 3, 1, 62, 0, none⟩, ⟨0, 88, 7776, 3, 1, 64, 0, none⟩] ++
  [⟨88, 205, 4608, 0, 1, 58, 0, none⟩, ⟨205, 91, 6912, 1, 1, 60, 0, none⟩, ⟨91, 0, 4608, 0, 1, 64, 0, none⟩, ⟨0, 91, 6912, 1, 1, 64, 0, none⟩, ⟨91, 205, 4320, 1, 1, 64, 0, none⟩]

/-- R185's example: station 205 gets parent 88 at rank 422, alternate 91, and a downlink through 91. -/
theorem test_routes : newRoute (costIn exLinks 64 16 0) [88, 91, 205] (paths (costIn exLinks 64 16 0) [88, 91, 205] true 4)
    (paths (costIn exLinks 64 16 0) [88, 91, 205] false 4) 205 =
    { station := 205, ver := 0, parent := 88, parentRank := 153, rank := 422, alt := 91, altRank := 320, down := [91], hops := 2 } := by decide +kernel

/-- R192's example: 1,500 entries at 86 MHz and guard 512 take 1,804.80 µs. -/
theorem test_relay_map_time : headNs + nSymbols (nCodewords false 7507) (ldpcN false 0) (hardtackB 1 1653) * tSym 1 = 1804800 := by decide +kernel

/-- R79's example: a notch from 7,000 to 7,200 kHz turns off carriers 142 to 149. -/
theorem test_notch : (List.range 12).map (fun i => inNotches (140 + i) [7000, 7200]) =
    [false, false, true, true, true, true, true, true, true, true, false, false] := by decide +kernel

/-! ## Single steps -/

/-- A queued command runs with the rest of the queue, and an empty queue idles. -/
theorem test_step : step { up with pending := [.nop 0 5, .nop 0 6] } = exec (.nop 0 5) { up with pending := [.nop 0 6] } ∧ step up = .next up := ⟨rfl, rfl⟩

/-- The host's worked example (R240): QP5 with 1,024 entries, its bases, moderation and configuration, by eight-byte and four-byte writes. -/
theorem test_qp_setup : (match exec (.registerWrite 0 0 0x20A0 8 0x0000001234500000) up with
    | .next a => match exec (.qpEnable 0 5 0x01862515) a with
      | .next b => decide (b.qp[5].sqBase = 0x0000001234500000 ∧ b.qp[5].enable = true ∧ b.qp[5].ringLog2 = 10 ∧ b.qp[5].vector = 37 ∧
          b.qp[5].irqEnable = true ∧ b.qp[5].rxSelect = 1 ∧ b.qp[5].rxIndex = 12 ∧ b.qp[5].st = .active)
      | _ => false
    | _ => false) = true := by decide +kernel

/-- An eighth driver trip within 1 s holds the driver off (R66). -/
theorem test_driver_held_off : (match exec (.driverOvercurrent 5 0) (up.modBerth 0 fun (x : BerthSt) => ({ x with ocTimes := List.replicate 7 0 } : BerthSt)) with
    | .next a => a.berth[0].ocStop && a.berth[0].heldOff
    | _ => false) = true := by decide +kernel

/-- PD_SEC is the one domain that is ON after reset (R31). -/
theorem test_reset_domains : State.reset.domSt pdSec = .on ∧ State.reset.domSt pdMgmt = .off := by decide +kernel

/-! ## Conditions of the statements that are no completion statements -/

theorem resetInv : Inv State.reset := ⟨by decide +kernel, by decide +kernel, by decide +kernel⟩

theorem test_meets_step_idles_on_an_empty_queue : ∃ s : State, s.pending = [] := ⟨State.reset, rfl⟩

theorem test_meets_every_step_keeps_the_invariant : ∃ s s' : State, Inv s ∧ step s = .next s' ∧ s.pending ≠ [] :=
  ⟨{ State.reset with pending := [.nop 0 5] }, _, ⟨by decide +kernel, by decide +kernel, by decide +kernel⟩, rfl, by decide +kernel⟩

theorem test_meets_no_command_moves_the_security_domain : ∃ (c : Instr) (s s' : State), exec c s = .next s' ∧ s.domSt pdSec = .on :=
  ⟨.vddSenseLow 5, State.reset, _, rfl, by decide +kernel⟩

theorem test_meets_counters_compare : ∃ (n : Nat) (a b : BitVec (n + 1)), (a - b).toNat = 2 ^ n := ⟨7, 128, 0, by decide +kernel⟩

theorem test_meets_halves_take_effect : ∃ (s : State) (q : QpId) (off : Nat), s.hostAccess = true ∧ s.qp[q].enable = false ∧ (off = 0 ∨ off = 8) :=
  ⟨up, 255, 8, by decide +kernel, by decide +kernel, Or.inr rfl⟩

/-- A host attached with every cause enabled and its messages unmasked. -/
def armed (en ca : BitVec 8) : State :=
  { up with now := 5, host := { up.host with linkUp := true, d3 := false, msixEnable := true, busMaster := true, lost := false, funcMask := false, intEnable := en, intCause := ca, msix := up.host.msix.set 0 { mask := false } } }

theorem test_meets_device_causes : (∃ (s : State) (k : Fin 8), s.host.intCause.getLsbD k = true) ∧
    (∃ (s : State) (k : Fin 8), s.host.intCause.getLsbD k = false ∧ s.host.intEnable.getLsbD k = false) ∧
    (∃ (s : State) (k : Fin 8), s.host.linkUp = true ∧ s.host.d3 = false ∧ s.host.msixEnable = true ∧ s.host.busMaster = true ∧ s.host.lost = false ∧
      s.host.funcMask = false ∧ s.host.sent.1 ≠ s.now ∧ s.host.msix[s.host.causeVec[k].toFin].mask = false ∧ s.host.intEnable.getLsbD k = true ∧
      s.host.intCause.getLsbD k = false) ∧
    ∃ (s : State) (t : Nat) (k : Fin 8) (val : BitVec 32), s.hostAccess = true ∧ s.host.msixEnable = true ∧ s.host.busMaster = true ∧
      s.host.lost = false ∧ s.host.funcMask = false ∧ s.host.sent.1 ≠ max s.now t ∧ s.host.msix[s.host.causeVec[k].toFin].mask = false ∧
      val.getLsbD k = true ∧ s.host.intEnable.getLsbD k = false ∧ s.host.intCause.getLsbD k = true :=
  ⟨⟨armed 0 1, 0, by decide +kernel⟩, ⟨armed 0 0, 7, by decide +kernel, by decide +kernel⟩,
   ⟨armed 1 0, 0, by decide +kernel, by decide +kernel, by decide +kernel, by decide +kernel, by decide +kernel, by decide +kernel, by decide +kernel,
     by decide +kernel, by decide +kernel, by decide +kernel⟩,
   ⟨armed 0 0x80, 9, 7, 0x80, by decide +kernel, by decide +kernel, by decide +kernel, by decide +kernel, by decide +kernel, by decide +kernel,
     by decide +kernel, by decide +kernel, by decide +kernel, by decide +kernel⟩⟩

theorem test_meets_frame_control_reads_back : ∃ f : FrameCtl, f.version < 16 ∧ f.ftype < 16 ∧ f.src < 4096 ∧ f.dst < 4096 ∧ f.ctxSel < 4 ∧ f.gi < 4 ∧
    f.mode < 8 ∧ f.tmId < 16 ∧ f.rate < 4 ∧ f.len < 8192 ∧ f.attempt < 8 ∧ f.tag < 65536 ∧ f.keyGen < 256 ∧ f.bpcFirst < 2 ^ 32 ∧ f.seq < 65536 :=
  ⟨{ version := 15, ftype := 15, src := 4095, dst := 4095, bcast := true, ackReq := false, ctxSel := 3, gi := 3, mode := 7, tmId := 15, short := true,
     rate := 3, len := 8191, attempt := 7, tag := 65535, keyGen := 255, bpcFirst := 4294967295, seq := 65535 }, by decide +kernel⟩

theorem test_meets_admission : (∃ (s s' : State) (f : Frame) (p : Bytes), s.hold.mem.wf = true ∧ s.takeIn f p = (s', .ok)) ∧
    ∃ (s s' : State) (f : Frame) (p : Bytes) (r : Admit), s.hold.mem.wf = true ∧ s.takeIn f p = (s', r) ∧ r ≠ .ok :=
  ⟨⟨up, (up.takeIn (newFrame 0 0 2 2 0 noCtx false) [1, 2, 3]).1, newFrame 0 0 2 2 0 noCtx false, [1, 2, 3], by decide +kernel,
     Prod.ext rfl (by decide +kernel : (up.takeIn (newFrame 0 0 2 2 0 noCtx false) [1, 2, 3]).2 = .ok)⟩,
   ⟨State.reset, _, newFrame 0 0 2 2 0 noCtx false, [1, 2, 3], _, by decide +kernel, rfl, by decide +kernel⟩⟩

/-- A state whose attestation slot has an index left and a signature at instant 0, or whose slot is exhausted. -/
def signer (idx : Option Nat) (epochs : Nat) : State :=
  { up with sec := { up.sec with attIndex := idx, attEpochs := .replicate 3 epochs, sigTimes := [0] } }

theorem test_meets_attestation_is_limited : (∃ (s : State) (r : Req) (a : Nat) (l : List Nat), r.body.length = 32 ∧ s.sec.enrolling = none ∧
      s.sec.attLeft s.sec.attSlotIdx = true ∧ s.sec.sigTimes = a :: l ∧ s.now < a + seconds (s.fnat .attMinInterval 0)) ∧
    ∃ (s : State) (r : Req), r.body.length = 32 ∧ s.sec.enrolling = none ∧ s.sec.attLeft s.sec.attSlotIdx = true ∧
      s.fnat .attDailyMax 0 ≤ (s.sec.sigTimes.filter fun a => s.now < a + seconds 86400).length :=
  ⟨⟨signer (some 9) 0, req (List.replicate 32 0), 0, [], by decide +kernel, by decide +kernel, by decide +kernel, by decide +kernel, by decide +kernel⟩,
   ⟨(signer (some 9) 0).fset .attDailyMax 0 [1], req (List.replicate 32 0), by decide +kernel, by decide +kernel, by decide +kernel, by decide +kernel⟩⟩

theorem test_meets_attestation_slots_exhaust : (∃ (s : State) (r : Req), r.body.length = 32 ∧ s.sec.enrolling = none ∧
      s.sec.attLeft s.sec.attSlotIdx = false ∧ s.sec.attExhausted = true) ∧
    ∃ (s : State) (r : Req), r.body.length = 32 ∧ s.sec.enrolling = none ∧ s.sec.attLeft s.sec.attSlotIdx = false ∧ s.sec.attExhausted = false :=
  ⟨⟨{ signer none 256 with sec := { (signer none 256).sec with attExhausted := true } }, req (List.replicate 32 0), by decide +kernel, by decide +kernel,
     by decide +kernel, by decide +kernel⟩,
   ⟨signer none 256, req (List.replicate 32 0), by decide +kernel, by decide +kernel, by decide +kernel, by decide +kernel⟩⟩

theorem test_meets_berth_commands_leave_other_berths : ∃ (s : State) (b k : Berth), k ≠ b ∧
    (∃ s', exec (.driverHot 0 b 130) s = .next s') ∧ (∃ s', exec (.driverCool 0 b) s = .next s') ∧ (∃ s', exec (.p1Detect 0 b true 3) s = .next s') ∧
    (∃ s', exec (.toneMap 0 b 1 []) s = .next s') ∧ (∃ s', exec (.domainClashWaitEnd 0 b) s = .next s') ∧
    (∃ s', exec (.hearReport 0 b 1 []) s = .next s') ∧ (∃ s', exec (.linkReport 0 b 1 []) s = .next s') ∧
    (∃ s', exec (.routeSet 0 b []) s = .next s') ∧ (∃ s', exec (.relayMap 0 b []) s = .next s') ∧
    (∃ s', exec (.parentLinkFail 0 b 1) s = .next s') ∧ ∃ s', exec (.relayLateDrop 0 b) s = .next s' :=
  ⟨up, 3, 4, by decide, ⟨_, rfl⟩, ⟨_, rfl⟩, ⟨_, rfl⟩, ⟨_, rfl⟩, ⟨_, rfl⟩, ⟨_, rfl⟩, ⟨_, rfl⟩, ⟨_, rfl⟩, ⟨_, rfl⟩, ⟨_, rfl⟩, ⟨_, rfl⟩⟩

theorem test_meets_queue_pair_commands_leave_other_queue_pairs : ∃ (s : State) (q k : QpId), k ≠ q ∧
    (∃ s', exec (.sqTailDoorbell 0 q 1) s = .next s') ∧ (∃ s', exec (.cqHeadDoorbell 0 q 1) s = .next s') ∧ (∃ s', exec (.rxBuf 0 q) s = .next s') ∧
    (∃ s', exec (.nop 0 q) s = .next s') ∧ (∃ s', exec (.submissionFetchError 0 q) s = .next s') ∧
    (∃ s', exec (.cqWriteRefused 0 q) s = .next s') ∧ ∃ s', exec (.irqModerationExpiry 0 q) s = .next s' :=
  ⟨up, 2, 9, by decide, ⟨_, rfl⟩, ⟨_, rfl⟩, ⟨_, rfl⟩, ⟨_, rfl⟩, ⟨_, rfl⟩, ⟨_, rfl⟩, ⟨_, rfl⟩⟩

theorem test_meets_commands_keep_to_their_parts : (∃ (c : Instr) (s s' : State), familyOf c = .host ∧ exec c s = .next s') ∧
    (∃ (c : Instr) (s s' : State), familyOf c = .power ∧ exec c s = .next s') ∧ (∃ (c : Instr) (s s' : State), familyOf c = .line ∧ exec c s = .next s') ∧
    (∃ (c : Instr) (s s' : State), familyOf c = .net ∧ exec c s = .next s') ∧ ∃ (c : Instr) (s s' : State), familyOf c = .mgmt ∧ exec c s = .next s' :=
  ⟨⟨.nop 0 5, up, _, rfl, rfl⟩, ⟨.vddSenseLow 0, up, _, rfl, rfl⟩, ⟨.relayLateDrop 0 3, up, _, rfl, rfl⟩, ⟨.fabricLeaveDown 0, up, _, rfl, rfl⟩,
   ⟨.mgmtPeriodEnd 0, up, _, rfl, rfl⟩⟩

/-- A pair is its first part with the second it is known to have. Two states are then the same by their form, and neither is computed. -/
theorem pair_of_snd {α β : Type} {p : α × β} {b : β} (h : p.2 = b) : p = (p.1, b) := by
  cases h; rfl

/-- A bound on a list of equal bytes is a bound on its length. -/
theorem replicate_at_least {m n : Nat} {b : Byte} (h : m ≤ n) : m ≤ (List.replicate n b).length := by
  rw [List.length_replicate]; exact h

/-- With no notch and no group off, the band edge alone decides which carriers are on (R87). -/
theorem flat_carriers {e : Emission} {n : Nat} {a b : Int} (h216 : n = 216) (hm : e.mask = List.replicate n a) (hc : e.ceiling = List.replicate n b)
    (hn : e.notches = []) (hab : (max a b).toNat ≠ 255) :
    e.dataCarriers = (carriers.filter fun c => decide (37 ≤ c ∧ c ≤ topCarrier e.edge)).filter fun c => !isPilot c := by
  have on : e.on = fun c => decide (37 ≤ c ∧ c ≤ topCarrier e.edge) := by
    funext c
    have hg : groupOf c < n := by rw [h216, groupOf]; omega
    simp [Emission.on, Emission.code, hm, hc, hn, hg, hab, inNotches]
  rw [Emission.dataCarriers, Emission.onCarriers, on]

/-- A coordinator's berth in a reception. -/
def receiving : State := (up.fset .role 0 [0]).modBerth 0 fun (x : BerthSt) => ({ x with rx := some {} } : BerthSt)
/-- The frame control that it receives. -/
def rxFc : FrameCtl :=
  { version := 1, ftype := 0, src := 1, dst := 0, bcast := false, ackReq := true, ctxSel := 0, gi := 0, mode := 1, tmId := 0, short := false, rate := 0,
    len := 3, attempt := 0, tag := 256, keyGen := 0, bpcFirst := 0, seq := 9 }

/-- All 1,653 data carriers of the berth are on. -/
theorem receiving_carriers : receiving.dCount 0 = 1653 := by
  rw [State.dCount, flat_carriers (a := 5) (b := 0) rfl (by decide +kernel) (by decide +kernel) (by decide +kernel) (by decide),
    show (receiving.emission 0).edge = 2 by decide +kernel]
  decide +kernel

/-- The frame control reads back from its bytes. -/
theorem rxFc_reads : parseFc (fcBytes rxFc) = rxFc := by decide +kernel

/-- Its payload takes 10 symbols: one codeword of 15,360 bits in QPSK ×2. -/
theorem receiving_symbols : nSymbols (nCodewords rxFc.short rxFc.len) (ldpcN rxFc.short rxFc.rate) (receiving.rxBits 0 false rxFc) = 10 := by
  have h : receiving.rxBits 0 false rxFc = hardtackB 1 1653 := by
    rw [State.rxBits, if_neg (by decide), receiving_carriers]; rfl
  rw [h]; decide +kernel

/-- A tone map whose entry bytes are 0 has only entries 0 (R116). -/
theorem zero_map_entries (v : Nat) : (parseToneMap (leBytes 8 v ++ List.replicate 863 0)).entries = List.replicate 1725 0 := by
  have z : ∀ i, (leBytes 8 v ++ List.replicate 863 (0 : Byte)).getD (8 + i) 0 = 0 := by
    intro i
    rw [List.getD_eq_getElem?_getD, List.getElem?_append_right (by simp [leBytes])]
    simp only [List.getElem?_replicate]
    split <;> rfl
  simp only [parseToneMap, z]
  rw [List.eq_replicate_iff]
  refine ⟨by simp, ?_⟩
  intro x h
  obtain ⟨i, -, rfl⟩ := List.mem_map.1 h
  simp [natBits]

/-- A tone map of id 1 with no bits loaded keeps R116. -/
theorem zero_map_ok : toneMapOk (up.emission 0) (leBytes 8 (1 + 2 * 2 ^ 8 + 2 ^ 32) ++ List.replicate 863 0) = true := by
  simp only [toneMapOk, zero_map_entries]
  decide +kernel

/-- The conditions of DriverProtectionActs, each met by a state and operands. -/
theorem test_meets_driver_protection_acts :
    (∃ (s : State) (t : Nat) (b : Berth), 7 ≤ (s.berth[b].ocTimes.filter fun x => max s.now t < x + seconds 1).length) ∧
    (∃ (b : Berth) (c : Berth), c ≠ b) ∧
    (∃ (temp : Int), 130 ≤ temp) ∧
    (∃ (s : State) (b : Berth) (temp : Int), 120 ≤ temp ∧ s.berth[b].thermal = false ∧ s.berth[b].thermalDue = false) ∧
    (∃ (b : Berth) (c : Berth), c ≠ b) ∧
    (∃ (b : Berth) (c : Berth), c ≠ b) ∧
    (∃ (s : State), s.live.drvLow = false) :=
  ⟨⟨(up.modBerth 0 fun (x : BerthSt) => ({ x with ocTimes := List.replicate 7 0 } : BerthSt)), 0, (0 : Berth), by decide +kernel⟩,
   ⟨(0 : Berth), (1 : Berth), by decide +kernel⟩,
   ⟨130, by decide +kernel⟩,
   ⟨State.reset, (0 : Berth), 120, by decide +kernel, by decide +kernel, by decide +kernel⟩,
   ⟨(0 : Berth), (1 : Berth), by decide +kernel⟩,
   ⟨(0 : Berth), (1 : Berth), by decide +kernel⟩,
   ⟨State.reset, by decide +kernel⟩⟩

/-- The conditions of SlackVoltageAndDieLinksFollow, each met by a state and operands. -/
theorem test_meets_slack_voltage_and_die_links_follow_1 :
    (∃ (s : State) (mv : Option Nat) (v : _) (retried : _), s.avs.request = some (v, retried) ∧ ((∃ m, mv = some m ∧ m ≤ v + 10 ∧ v ≤ m + 10))) ∧
    (∃ (s : State) (mv : Option Nat) (v : _) (retried : _), s.avs.request = some (v, retried) ∧ ((∀ m, mv = some m → v + 10 < m ∨ m + 10 < v)) ∧ retried =
      false) ∧
    (∃ (s : State) (mv : Option Nat) (v : _) (retried : _), s.avs.request = some (v, retried) ∧ ((∀ m, mv = some m → v + 10 < m ∨ m + 10 < v)) ∧ retried =
      true) ∧
    (∃ (s : State) (l : D2dId), s.die[l].lost = false ∧ s.die[l].retraining = false ∧ s.die[l].replays < 4) ∧
    (∃ (s : State) (l : D2dId), s.die[l].lost = false ∧ s.die[l].retraining = false ∧ 4 ≤ s.die[l].replays) ∧
    (∃ (s : State) (l : D2dId) (ok : Bool), s.die[l].retraining = true ∧ ok = true) ∧
    (∃ (s : State) (l : D2dId) (ok : Bool), s.die[l].retraining = true ∧ ok = false ∧ s.die[l].fails = 0) ∧
    (∃ (s : State) (l : D2dId) (ok : Bool), s.die[l].retraining = true ∧ ok = false ∧ s.die[l].fails ≠ 0) :=
  ⟨⟨({ up with avs := { up.avs with request := some (750, false) } } : State), (some 760), 750, false, by decide +kernel, ⟨760, rfl, by decide +kernel,
      by decide +kernel⟩⟩,
   ⟨({ up with avs := { up.avs with request := some (750, false) } } : State), (some 761), 750, false, by decide +kernel, by intro m h; cases h; decide,
      by decide +kernel⟩,
   ⟨({ up with avs := { up.avs with request := some (750, true) } } : State), (some 739), 750, true, by decide +kernel, by intro m h; cases h; decide,
      by decide +kernel⟩,
   ⟨State.reset, (0 : D2dId), by decide +kernel, by decide +kernel, by decide +kernel⟩,
   ⟨((fun (s : State) => ({ s with die := (s.die.set (0 : D2dId) { s.die[(0 : D2dId)] with replays := 4 }) } : State)) State.reset), (0 : D2dId),
      by decide +kernel, by decide +kernel, by decide +kernel⟩,
   ⟨((fun (s : State) => ({ s with die := (s.die.set (0 : D2dId) { s.die[(0 : D2dId)] with retraining := true }) } : State)) State.reset), (0 : D2dId),
      true, by decide +kernel, by decide +kernel⟩,
   ⟨((fun (s : State) => ({ s with die := (s.die.set (0 : D2dId) { s.die[(0 : D2dId)] with retraining := true }) } : State)) State.reset), (0 : D2dId),
      false, by decide +kernel, by decide +kernel, by decide +kernel⟩,
   ⟨((fun (s : State) => ({ s with die := (s.die.set (0 : D2dId) { s.die[(0 : D2dId)] with fails := 1 }) } : State)) ((fun (s : State) =>
      ({ s with die := (s.die.set (0 : D2dId) { s.die[(0 : D2dId)] with retraining := true }) } : State)) State.reset)), (0 : D2dId), false,
      by decide +kernel, by decide +kernel, by decide +kernel⟩⟩

/-- The conditions of SlackVoltageAndDieLinksFollow, each met by a state and operands. -/
theorem test_meets_slack_voltage_and_die_links_follow_2 :
    (∃ (s : State) (l : D2dId) (ok : Bool), s.die[l].lost = true ∧ ok = true) ∧
    (∃ (s : State) (l : D2dId) (ok : Bool), s.die[l].lost = true ∧ ok = false) ∧
    (∃ (s : State) (t : Nat) (l : D2dId) (c : _), s.die[l].lost = true ∧ s.die[l].cleanSince = some c ∧ c + seconds 1 ≤ max s.now t) ∧
    (∃ (s : State) (k : DomId) (done : Bool), s.dom[k].st = .on ∧ done = true) ∧
    (∃ (s : State) (k : DomId) (done : Bool), s.dom[k].st = .on ∧ done = false ∧ s.dom[k].dropRow < 7) ∧
    (∃ (s : State) (k : DomId), (s.dom[k].st = .on ∨ s.dom[k].st = .draining) ∧ s.dom[k].wdPeriod < 2) :=
  ⟨⟨((fun (s : State) => ({ s with die := (s.die.set (0 : D2dId) { s.die[(0 : D2dId)] with lost := true }) } : State)) State.reset), (0 : D2dId), true,
      by decide +kernel, by decide +kernel⟩,
   ⟨((fun (s : State) => ({ s with die := (s.die.set (0 : D2dId) { s.die[(0 : D2dId)] with lost := true }) } : State)) State.reset), (0 : D2dId), false,
      by decide +kernel, by decide +kernel⟩,
   ⟨((fun (s : State) => ({ s with die := (s.die.set (0 : D2dId) { s.die[(0 : D2dId)] with cleanSince := some 0 }) } : State)) ((fun (s : State) =>
      ({ s with die := (s.die.set (0 : D2dId) { s.die[(0 : D2dId)] with lost := true }) } : State)) State.reset)), 1000000000000000000, (0 : D2dId),
      0, by decide +kernel, by decide +kernel, by decide +kernel⟩,
   ⟨((fun (s : State) => ({ s with dom := (s.dom.set (0 : DomId) { s.dom[(0 : DomId)] with st := .on }) } : State)) State.reset), (0 : DomId), true,
      by decide +kernel, by decide +kernel⟩,
   ⟨((fun (s : State) => ({ s with dom := (s.dom.set (0 : DomId) { s.dom[(0 : DomId)] with st := .on }) } : State)) State.reset), (0 : DomId), false,
      by decide +kernel, by decide +kernel, by decide +kernel⟩,
   ⟨((fun (s : State) => ({ s with dom := (s.dom.set (0 : DomId) { s.dom[(0 : DomId)] with st := .on }) } : State)) State.reset), (0 : DomId),
      by decide +kernel, by decide +kernel⟩⟩

/-- The conditions of PowerDomainsComeUpDrainAndFault, each met by a state and operands. -/
theorem test_meets_power_domains_come_up_drain_and_fault :
    (∃ (s : State) (k : DomId) (j : _), k ≠ pdSec ∧ s.domSt k = .ramp ∧ j ≠ k) ∧
    (∃ (s : State) (k : DomId), k ≠ pdSec ∧ s.domSt k = .init ∧ s.dom[k].rampQueued = false ∧ s.dom[k].offAfterInit = false) ∧
    (∃ (s : State) (k : DomId), k ≠ pdSec ∧ s.domSt k = .draining ∧ s.dom[k].rampQueued = false ∧ s.dom[k].wantOn = false) ∧
    (∃ (s : State) (rail : Rail) (k : _), rail ≠ .drv ∧ rail ≠ .sense ∧ k ∈ railDoms rail ∧ s.domSt k = .on) ∧
    (∃ (s : State), s.domSt pdSense = .on) ∧
    (∃ (s : State), s.domSt pdClk = .on) ∧
    (∃ (s : State) (words : List (Option (BitVec 16))), s.domOn pdMgmt = true ∧ ((∀ w, w ∈ words → w ≠ none))) :=
  ⟨⟨((fun (s : State) => ({ s with dom := (s.dom.set (1 : DomId) { s.dom[(1 : DomId)] with st := .ramp }) } : State)) State.reset), (1 : DomId), (0 :
      DomId), by decide +kernel, by decide +kernel, by decide +kernel⟩,
   ⟨((fun (s : State) => ({ s with dom := (s.dom.set (1 : DomId) { s.dom[(1 : DomId)] with st := .init }) } : State)) State.reset), (1 : DomId),
      by decide +kernel, by decide +kernel, by decide +kernel, by decide +kernel⟩,
   ⟨((fun (s : State) => ({ s with dom := (s.dom.set (1 : DomId) { s.dom[(1 : DomId)] with st := .draining }) } : State)) State.reset), (1 : DomId),
      by decide +kernel, by decide +kernel, by decide +kernel, by decide +kernel⟩,
   ⟨up, .sram, (32 : DomId), by decide +kernel, by decide +kernel, by decide +kernel, by decide +kernel⟩,
   ⟨((fun (s : State) => ({ s with dom := (s.dom.set pdSense { s.dom[pdSense] with st := .on }) } : State)) State.reset), by decide +kernel⟩,
   ⟨((fun (s : State) => ({ s with dom := (s.dom.set pdClk { s.dom[pdClk] with st := .on }) } : State)) State.reset), by decide +kernel⟩,
   ⟨up, [some (0 : BitVec 16)], by decide +kernel, by simp⟩⟩

/-- The conditions of ResetsStartAnew, each met by a state and operands. -/
theorem test_meets_resets_start_anew :
    (∃ (s : State) (otpOk : Bool), s.boot.porLow = true ∧ s.live.dieTrip = false ∧ otpOk = false) ∧
    (∃ (s : State) (otpOk : Bool) (supplyOk : Bool), s.boot.porLow = true ∧ s.live.dieTrip = false ∧ otpOk = true ∧ supplyOk = false) ∧
    (∃ (s : State) (otpOk : Bool) (supplyOk : Bool), s.boot.porLow = true ∧ s.live.dieTrip = false ∧ otpOk = true ∧ supplyOk = true ∧ s.domSt pdClk = .off
      ∧ s.domOn pdSec = true ∧ s.powerFree pdClk = true) ∧
    (∃ (die : Fin 7) (temp : Int), (if die.val = 6 then 125 else 115) ≤ temp ∧ die.val = 6) ∧
    (∃ (die : Fin 7) (temp : Int) (k : DomId), (if die.val = 6 then 125 else 115) ≤ temp ∧ die.val ≠ 6 ∧ k ∈ dieDoms die) ∧
    (∃ (s : State) (otpOk : Bool), s.live.dieTrip = true ∧ s.boot.porLow = false ∧ otpOk = false) :=
  ⟨⟨((fun (s : State) => ({ s with boot := { s.boot with porLow := true } } : State)) State.reset), false, by decide +kernel, by decide +kernel,
      by decide +kernel⟩,
   ⟨((fun (s : State) => ({ s with boot := { s.boot with porLow := true } } : State)) State.reset), true, false, by decide +kernel, by decide +kernel,
      by decide +kernel, by decide +kernel⟩,
   ⟨((fun (s : State) => ({ s with dom := (s.dom.set pdClk { s.dom[pdClk] with st := .off }) } : State)) ((fun (s : State) =>
      ({ s with boot := { s.boot with porLow := true } } : State)) State.reset)), true, true, by decide +kernel, by decide +kernel, by decide +kernel,
      by decide +kernel, by decide +kernel, by decide +kernel, by decide +kernel⟩,
   ⟨(6 : Fin 7), 125, by decide +kernel, by decide +kernel⟩,
   ⟨(0 : Fin 7), 115, (dieDoms 0).head (by decide), by decide +kernel, by decide +kernel, by decide +kernel⟩,
   ⟨((fun (s : State) => ({ s with live := { s.live with dieTrip := true } } : State)) up), false, by decide +kernel, by decide +kernel,
      by decide +kernel⟩⟩

/-- The conditions of BootAndImagesFollow, each met by a state and operands. -/
theorem test_meets_boot_and_images_follow_1 :
    (∃ (s : State) (fit : StoreFit), s.boot.stage = 1 ∧ fit.uniform = false) ∧
    (∃ (s : State) (fit : StoreFit) (failed : BitVec 16), s.boot.stage = 1 ∧ fit.uniform = true ∧ (fit.gib = 4 ∨ fit.gib = 8) ∧ fit.rate ≤ 2 ∧ failed = 0
      ∧ s.sec.retireMask = 0 ∧ ((∀ m : Chan, s.domOn (chanDom m) = true))) ∧
    (∃ (s : State) (fit : StoreFit) (failed : BitVec 16) (_m : Chan), s.boot.stage = 1 ∧ fit.uniform = true ∧ (fit.gib = 4 ∨ fit.gib = 8) ∧ fit.rate ≤ 2 ∧
      failed = 0 ∧ s.sec.retireMask = 0 ∧ ((∀ m : Chan, s.domOn (chanDom m) = true))) ∧
    (∃ (s : State) (slot : Bool), s.boot.stage = 2 ∧ s.boot.hostLoad = false ∧ s.boot.trySlot = some slot) ∧
    (∃ (s : State) (slot : Bool), 2 ≤ s.boot.stage ∧ s.boot.stage ≤ 5 ∧ slotBit (s.boot.dir.getD blankDir).ucValid slot = true) ∧
    (∃ (s : State) (t : Nat) (g : _), s.boot.staging = some g ∧ g.lastAt + seconds 60 ≤ max s.now t) ∧
    (∃ (s : State) (uc : _) (slot : _), s.boot.writing = some (uc, slot) ∧ uc = true) ∧
    (∃ (s : State) (uc : _) (slot : _), s.boot.writing = some (uc, slot) ∧ uc = false ∧ s.boot.hostImg = none) :=
  ⟨⟨({ up with boot := { up.boot with stage := 1 } } : State), ⟨8, 2, false⟩, by decide +kernel, by decide +kernel⟩,
   ⟨({ up with boot := { up.boot with stage := 1 } } : State), ⟨8, 2, true⟩, 0, by decide +kernel, by decide +kernel, by decide +kernel,
      by decide +kernel, by decide +kernel, by decide +kernel, by decide +kernel⟩,
   ⟨({ up with boot := { up.boot with stage := 1 } } : State), ⟨8, 2, true⟩, 0, (0 : Chan), by decide +kernel, by decide +kernel, by decide +kernel,
      by decide +kernel, by decide +kernel, by decide +kernel, by decide +kernel⟩,
   ⟨({ up with boot := { up.boot with stage := 2, trySlot := some true } } : State), true, by decide +kernel, by decide +kernel, by decide +kernel⟩,
   ⟨({ up with boot := { up.boot with dir := some dir } } : State), false, by decide +kernel, by decide +kernel, by decide +kernel⟩,
   ⟨({ up with boot := { up.boot with staging := some ⟨1, false, 0, [], 0⟩ } } : State), 60000000000, ⟨1, false, 0, [], 0⟩, by decide +kernel,
      by decide +kernel⟩,
   ⟨({ up with boot := { up.boot with writing := some (true, false) } } : State), true, false, by decide +kernel, by decide +kernel⟩,
   ⟨({ up with boot := { up.boot with writing := some (false, true) } } : State), false, true, by decide +kernel, by decide +kernel, by decide +kernel⟩⟩

/-- The conditions of BootAndImagesFollow, each met by a state and operands. -/
theorem test_meets_boot_and_images_follow_2 :
    (∃ (s : State) (r : _), s.boot.running = some r ∧ s.boot.fwImg[slotIdx s.boot.fwSlot] = none) ∧
    (∃ (s : State) (t : Nat), s.live.mgmtRestart = true ∧ s.region[Region.mgmt.idx].done = false ∧ max s.now t < s.region[Region.mgmt.idx].since + millis
      s.region[Region.mgmt.idx].returnMs) ∧
    (∃ (s : State) (t : Nat), s.boot.configAuth = true ∧ s.boot.dirtySince ≠ none ∧ ((∀ a, s.boot.cfgWriteAt = some a → a + seconds 10 ≤ max s.now t))) ∧
    (∃ (s : State), s.boot.stage = 4 ∧ s.boot.configAuth = false ∧ s.domOn pdMgmt = true) :=
  ⟨⟨({ up with boot := { up.boot with running := some info } } : State), info, by decide +kernel, by decide +kernel⟩,
   ⟨({ up with live := { up.live with mgmtRestart := true } } : State).setRegion Region.mgmt.idx { drained := true, returnMs := 900 }, 899999999,
      by decide +kernel, by decide +kernel, by decide +kernel⟩,
   ⟨({ up with boot := { up.boot with dirtySince := some 0 } } : State), 0, by decide +kernel, by decide +kernel, by intro a h; cases h⟩,
   ⟨({ up with boot := { up.boot with stage := 4, configAuth := false } } : State), by decide +kernel, by decide +kernel, by decide +kernel⟩⟩

/-- The conditions of SerialPortsFollow, each met by a state and operands. -/
theorem test_meets_serial_ports_follow_1 :
    (∃ (s : State) (p : UartId) (ch : RxChar), s.uart[p].dead = false ∧ s.domOn pdMgmt = true ∧ ch.start.countP (· == false) < 2) ∧
    (∃ (s : State) (p : UartId) (ch : RxChar), s.uart[p].dead = false ∧ s.domOn pdMgmt = true ∧ 2 ≤ ch.start.countP (· == false) ∧ s.fbool .uartMode p =
      true ∧ s.uart[p].rx.length < 64) ∧
    (∃ (s : State) (p : UartId) (ch : RxChar), s.uart[p].dead = false ∧ s.domOn pdMgmt = true ∧ 2 ≤ ch.start.countP (· == false) ∧ 64 ≤
      s.uart[p].rx.length) ∧
    (∃ (s : State) (p : UartId), s.fbool .uartMode p = true) ∧
    (∃ (s : State) (p : UartId), s.fbool .uartMode p = false) ∧
    (∃ (s : State) (p : UartId) (a : _) (b : _) (c : _), s.fbool .uartMode p = true ∧ s.uart[p].armed = some (a, b, c)) ∧
    (∃ (s : State) (p : UartId), s.fbool .uartMode p = false) ∧
    (∃ (s : State) (p : UartId), s.fbool .uartMode p = false) :=
  ⟨⟨up, (0 : UartId), ⟨[true, true, false], [], true⟩, by decide +kernel, by decide +kernel, by decide +kernel⟩,
   ⟨(up.fset .uartMode 0 [1]), (0 : UartId), ⟨[false, true, false], [], true⟩, by decide +kernel, by decide +kernel, by decide +kernel,
      by decide +kernel, by decide +kernel⟩,
   ⟨((up.modUart 0 fun (x : UartSt) => ({ x with rx := List.replicate 64 0 } : UartSt)).fset .uartMode 0 [1]), (0 : UartId), ⟨[false, true, false], [],
      true⟩, by decide +kernel, by decide +kernel, by decide +kernel, by decide +kernel⟩,
   ⟨(State.reset.fset .uartMode (0 : UartId) [1]), (0 : UartId), by decide +kernel⟩,
   ⟨(State.reset.fset .uartMode (0 : UartId) [0]), (0 : UartId), by decide +kernel⟩,
   ⟨((up.modUart 0 fun (x : UartSt) => ({ x with armed := some (true, false, true) } : UartSt)).fset .uartMode 0 [1]), (0 : UartId), true, false, true,
      by decide +kernel, by decide +kernel⟩,
   ⟨(State.reset.fset .uartMode (0 : UartId) [0]), (0 : UartId), by decide +kernel⟩,
   ⟨(State.reset.fset .uartMode (0 : UartId) [0]), (0 : UartId), by decide +kernel⟩⟩

/-- The conditions of SerialPortsFollow, each met by a state and operands. -/
theorem test_meets_serial_ports_follow_2 :
    (∃ (s : State) (p : UartId), s.fbool .uartMode p = true ∧ s.uart[p].tx.length < 64) ∧
    (∃ (s : State) (p : UartId), s.fbool .uartMode p = true ∧ 64 ≤ s.uart[p].tx.length) ∧
    (∃ (s : State) (p : UartId) (c : _) (r : _), s.uart[p].tx = c :: r) ∧
    (∃ (s : State) (p : UartId), s.uart[p].dead = false) ∧
    (∃ (s : State) (bytes : Bytes), s.fbool .uartMode 0 = false ∧ s.domOn pdMgmt = true ∧ s.drained .mgmt = false ∧ 4116 < (unescape bytes).length) ∧
    (∃ (s : State) (bytes : Bytes), s.fbool .uartMode 0 = false ∧ s.domOn pdMgmt = true ∧ s.drained .mgmt = false ∧ (unescape bytes).length ≤ 4116 ∧
      frameBody bytes = none) ∧
    (∃ (s : State) (bytes : Bytes) (b : _), s.fbool .uartMode 0 = false ∧ s.domOn pdMgmt = true ∧ s.drained .mgmt = false ∧ (unescape bytes).length ≤ 4116
      ∧ frameBody bytes = some b ∧ 16 ≤ b.length ∧ bitsAt b 0 16 = 1) ∧
    (∃ (s : State) (t : Nat) (o : _), s.mgmt.frameOpen = some o ∧ o + seconds 1 ≤ max s.now t) :=
  ⟨⟨(State.reset.fset .uartMode (0 : UartId) [1]), (0 : UartId), by decide +kernel, by decide +kernel⟩,
   ⟨((up.modUart 0 fun (x : UartSt) => ({ x with tx := List.replicate 64 0 } : UartSt)).fset .uartMode 0 [1]), (0 : UartId), by decide +kernel,
      by decide +kernel⟩,
   ⟨((up.modUart 0 fun (x : UartSt) => ({ x with tx := [65] } : UartSt)).fset .uartMode 0 [1]), (0 : UartId), 65, [], by decide +kernel⟩,
   ⟨State.reset, (0 : UartId), by decide +kernel⟩,
   ⟨up, (List.replicate 4117 0), by decide +kernel, by decide +kernel, by decide +kernel, by decide +kernel⟩,
   ⟨up, [0, 0, 0, 0, 0], by decide +kernel, by decide +kernel, by decide +kernel, by decide +kernel, by decide +kernel⟩,
   ⟨up, (escape ([1, 0] ++ List.replicate 14 0 ++ crc32cBytes ([1, 0] ++ List.replicate 14 0))), ([1, 0] ++ List.replicate 14 0), by decide +kernel,
      by decide +kernel, by decide +kernel, by decide +kernel, by decide +kernel, by decide +kernel, by decide +kernel⟩,
   ⟨({ up with mgmt := { up.mgmt with frameOpen := some 0 } } : State), 1000000000, 0, by decide +kernel, by decide +kernel⟩⟩

/-- The conditions of SensorChannelsFollow, each met by a state and operands. -/
theorem test_meets_sensor_channels_follow_1 :
    (∃ (s : State) (n : SensId), s.sense[n].cal = some 0) ∧
    (∃ (s : State) (n : SensId), s.excFlows n = true) ∧
    (∃ (s : State) (t : Nat) (n : SensId) (uv : Nat) (u : _), (s.at t).releaseAt .probe n = u ∧ u.fbool .probeEnable n = true ∧ u.fnat .wiring n ≠ 0 ∧
      u.sense[n].broken = false ∧ u.domOn pdSense = true ∧ u.blanking n = false ∧ 5 * (if u.fnat .wiring n = 3 then 10000000 else
      u.sense[n].lastRes.getD 10000000) + 400000000 < (uv : Int) * 10000) ∧
    (∃ (s : State) (t : Nat) (n : SensId) (uv : Nat) (u : _), (s.at t).releaseAt .probe n = u ∧ u.fbool .probeEnable n = true ∧ u.fnat .wiring n ≠ 0 ∧
      u.sense[n].broken = false ∧ u.domOn pdSense = true ∧ u.blanking n = false ∧ (uv : Int) * 10000 ≤ 5 * (if u.fnat .wiring n = 3 then 10000000 else
      u.sense[n].lastRes.getD 10000000) + 400000000) ∧
    (∃ (s : State) (n : SensId) (pass : Bool), s.sense[n].broken = true ∧ pass = false) ∧
    (∃ (s : State) (n : SensId) (pass : Bool), s.sense[n].broken = true ∧ pass = true ∧ s.sense[n].passes < 2) ∧
    (∃ (s : State) (n : SensId) (pass : Bool) (j : LoopId), s.sense[n].broken = true ∧ pass = true ∧ 2 ≤ s.sense[n].passes ∧ s.fnat .srcChannel j = n.val) ∧
    (∃ (s : State) (t : Nat) (n : SensId) (f : FilterIn) (u : _), s.pend = [] ∧ s.engineRuns = true ∧ ((s.at t).outputSettings n).filterReset n = u ∧
      (f.erased = true ∨ f.late = true ∨ f.gap = true ∨ max s.now t < u.sense[n].settleFine ∨ u.sense[n].broken = true)) :=
  ⟨⟨((fun (s : State) => ({ s with sense := (s.sense.set (0 : SensId) { s.sense[(0 : SensId)] with cal := some 0 }) } : State)) State.reset), (0 :
      SensId), by decide +kernel⟩,
   ⟨up, (0 : SensId), by decide +kernel⟩,
   ⟨((up.fset .wiring 0 [2]).fset .probeEnable 0 [1]), 0, (0 : SensId), 60000, _, rfl, by decide +kernel, by decide +kernel, by decide +kernel,
      by decide +kernel, by decide +kernel, by decide +kernel⟩,
   ⟨((up.fset .wiring 0 [2]).fset .probeEnable 0 [1]), 0, (0 : SensId), 1000, _, rfl, by decide +kernel, by decide +kernel, by decide +kernel,
      by decide +kernel, by decide +kernel, by decide +kernel⟩,
   ⟨((fun (s : State) => ({ s with sense := (s.sense.set (0 : SensId) { s.sense[(0 : SensId)] with broken := true }) } : State)) State.reset), (0 :
      SensId), false, by decide +kernel, by decide +kernel⟩,
   ⟨((fun (s : State) => ({ s with sense := (s.sense.set (0 : SensId) { s.sense[(0 : SensId)] with broken := true }) } : State)) State.reset), (0 :
      SensId), true, by decide +kernel, by decide +kernel, by decide +kernel⟩,
   ⟨((fun (s : State) => ({ s with sense := (s.sense.set (0 : SensId) { s.sense[(0 : SensId)] with passes := 2 }) } : State)) ((fun (s : State) =>
      ({ s with sense := (s.sense.set (0 : SensId) { s.sense[(0 : SensId)] with broken := true }) } : State)) State.reset)), (0 : SensId), true, (0 :
      LoopId), by decide +kernel, by decide +kernel, by decide +kernel, by decide +kernel⟩,
   ⟨up, 0, (0 : SensId), ⟨0, true, false, false, 0⟩, _, by decide +kernel, by decide +kernel, rfl, by decide +kernel⟩⟩

/-- The conditions of SensorChannelsFollow, each met by a state and operands. -/
theorem test_meets_sensor_channels_follow_2 :
    (∃ (s : State) (t : Nat) (n : SensId) (f : FilterIn) (u : _), s.pend = [] ∧ s.engineRuns = true ∧ ((s.at t).outputSettings n).filterReset n = u ∧
      f.erased = false ∧ f.late = false ∧ f.gap = false ∧ u.sense[n].settleFine ≤ max s.now t ∧ u.sense[n].broken = false ∧ u.sense[n].cal = none ∧
      u.fnat .curve n ≠ 30 ∧ u.sense[n].dcb = false) ∧
    (∃ (s : State), s.engineRuns = true) :=
  ⟨⟨up, 1000000000000000000, (0 : SensId), ⟨0, false, false, false, 0⟩, _, by decide +kernel, by decide +kernel, rfl, by decide +kernel,
      by decide +kernel, by decide +kernel, by decide +kernel, by decide +kernel, by decide +kernel, by decide +kernel, by decide +kernel⟩,
   ⟨up, by decide +kernel⟩⟩

/-- The conditions of CurrentLoopsFollow, each met by a state and operands. -/
theorem test_meets_current_loops_follow :
    (∃ (s : State) (t : Nat) (j : LoopId) (u : _) (k : LoopId), (if s.drained .mgmt then s.at t else (s.at t).releaseAt .loopPeriod j) = u ∧ k ≠ j) ∧
    (∃ (s : State) (t : Nat), s.drained .mgmt = true ∧ s.region[Region.mgmt.idx].since + seconds 1 ≤ max s.now t) ∧
    (∃ (s : State) (t : Nat) (j : LoopId) (ua : Nat) (c : _), s.loop[j].cmd = some c ∧ c + 500 < ua ∧ ((∀ a, s.loop[j].offSince = some a → max s.now t < a
      + millis 10))) ∧
    (∃ (s : State) (t : Nat) (j : LoopId) (ua : Nat) (c : _) (a : _), s.loop[j].cmd = some c ∧ c + 500 < ua ∧ s.loop[j].offSince = some a ∧ a + millis 10
      ≤ max s.now t) ∧
    (∃ (s : State) (t : Nat) (j : LoopId) (ua : Nat) (c : _) (a : _), s.loop[j].cmd = some c ∧ ua ≤ c + 50 ∧ c ≤ ua + 50 ∧ s.loop[j].trackSince = some a ∧
      a + seconds 1 ≤ max s.now t) ∧
    (∃ (s : State) (j : LoopId) (ua : _) (e : _), s.loop[j].force = some (ua, some e)) :=
  ⟨⟨State.reset, 0, (0 : LoopId), _, (1 : LoopId), rfl, by decide +kernel⟩,
   ⟨((fun (s : State) => ({ s with region := (s.region.set Region.mgmt.idx { s.region[Region.mgmt.idx] with drained := true }) } : State)) State.reset),
      1000000000000000000, by decide +kernel, by decide +kernel⟩,
   ⟨(up.modLoop 0 fun (x : LoopSt) => ({ x with cmd := some 4000 } : LoopSt)), 0, (0 : LoopId), 4501, 4000, by decide +kernel, by decide +kernel,
      by intro a h; cases h⟩,
   ⟨(up.modLoop 0 fun (x : LoopSt) => ({ x with cmd := some 4000, offSince := some 0 } : LoopSt)), 10000000, (0 : LoopId), 4501, 4000, 0,
      by decide +kernel, by decide +kernel, by decide +kernel, by decide +kernel⟩,
   ⟨(up.modLoop 0 fun (x : LoopSt) => ({ x with cmd := some 4000, trackSince := some 0 } : LoopSt)), 1000000000, (0 : LoopId), 4050, 4000, 0,
      by decide +kernel, by decide +kernel, by decide +kernel, by decide +kernel, by decide +kernel⟩,
   ⟨(up.modLoop 0 fun (x : LoopSt) => ({ x with force := some (4000, some 5) } : LoopSt)), (0 : LoopId), 4000, 5, by decide +kernel⟩⟩

/-- The conditions of ClockFollows, each met by a state and operands. -/
theorem test_meets_clock_follows_1 :
    (∃ (s : State) (i : _), s.domOn pdClk = true ∧ s.domOn pdMgmt = true ∧ s.drained .mgmt = false ∧ s.clk.force = some (3, i) ∧ s.clk.fIn = none) ∧
    (∃ (s : State), s.domOn pdClk = true ∧ s.drained .mgmt = true) ∧
    (∃ (s : State), s.domOn pdClk = true) ∧
    (∃ (s : State) (i : InputId), s.clk.inp[i].has 1 = false) ∧
    (∃ (i : InputId) (j : InputId), j ≠ i) ∧
    (∃ (s : State) (t : Nat) (i : InputId) (e : _), s.clk.inp[i].wtrEnd = some e ∧ e ≤ max s.now t) ∧
    (∃ (i : InputId) (j : InputId), j ≠ i) ∧
    (∃ (cycles : Nat), 9999990 ≤ cycles ∧ cycles ≤ 10000010) :=
  ⟨⟨(up.modClk fun (c : ClockSt) => ({ c with force := some (3, 0) } : ClockSt)), 0, by decide +kernel, by decide +kernel, by decide +kernel,
      by decide +kernel, by decide +kernel⟩,
   ⟨((fun (s : State) => ({ s with region := (s.region.set Region.mgmt.idx { s.region[Region.mgmt.idx] with drained := true }) } : State)) up),
      by decide +kernel, by decide +kernel⟩,
   ⟨up, by decide +kernel⟩,
   ⟨(up.modIn 0 fun (x : ClkIn) => ({ x with reasons := 0 } : ClkIn)), (0 : InputId), by decide +kernel⟩,
   ⟨(0 : InputId), (1 : InputId), by decide +kernel⟩,
   ⟨((fun (s : State) => ({ s with clk := { s.clk with inp := (s.clk.inp.set (0 : InputId) { s.clk.inp[(0 : InputId)] with wtrEnd := some 0 }) } } :
      State)) State.reset), 0, (0 : InputId), 0, by decide +kernel, by decide +kernel⟩,
   ⟨(0 : InputId), (1 : InputId), by decide +kernel⟩,
   ⟨9999990, by decide +kernel, by decide +kernel⟩⟩

/-- The conditions of ClockFollows, each met by a state and operands. -/
theorem test_meets_clock_follows_2 :
    (∃ (s : State) (r : Fin 2) (cycles : Nat), (cycles < 9999990 ∨ 10000010 < cycles) ∧ 1 ≤ s.clk.ref[r].missEdges) ∧
    (∃ (s : State) (bytes : Bytes), s.fbool .uartMode 1 = false ∧ s.domOn pdMgmt = true ∧ s.drained .mgmt = false ∧ frameBody bytes = none) ∧
    (∃ (s : State) (bytes : Bytes) (b : _), s.fbool .uartMode 1 = false ∧ s.domOn pdMgmt = true ∧ s.drained .mgmt = false ∧ frameBody bytes = some b ∧
      todFieldsOk b = false) ∧
    (∃ (s : State) (t : Nat) (bytes : Bytes) (b : _) (r : Fin 2), s.fbool .uartMode 1 = false ∧ s.domOn pdMgmt = true ∧ s.drained .mgmt = false ∧
      frameBody bytes = some b ∧ todFieldsOk b = true ∧ r = (if bitsAt b 8 1 = 0 then 0 else 1) ∧ (s.at t).todTimely r = true) ∧
    (∃ (s : State), s.clk.st = .holdover ∧ s.holdOk = false) ∧
    (∃ (s : State), s.boot.configAuth = true ∧ s.domOn pdClk = true ∧ s.live.badRails = [] ∧ s.live.quiet = false ∧ s.squelched = false) :=
  ⟨⟨((fun (s : State) => ({ s with clk := { s.clk with ref := (s.clk.ref.set (0 : Fin 2) { s.clk.ref[(0 : Fin 2)] with missEdges := 1 }) } } : State))
      State.reset), (0 : Fin 2), 0, by decide +kernel, by decide +kernel⟩,
   ⟨up, [0, 0, 0, 0, 0], by decide +kernel, by decide +kernel, by decide +kernel, by decide +kernel⟩,
   ⟨up, (escape (List.replicate 16 0 ++ crc32cBytes (List.replicate 16 0))), (List.replicate 16 0), by decide +kernel, by decide +kernel,
      by decide +kernel, by decide +kernel, by decide +kernel⟩,
   ⟨(up.modRef 0 fun (x : RefTod) => ({ x with edgeAt := some 0 } : RefTod)), 10000000, (escape (([1, 0] ++ List.replicate 14 0) ++ crc32cBytes ([1, 0]
      ++ List.replicate 14 0))), ([1, 0] ++ List.replicate 14 0), 0, by decide +kernel, by decide +kernel, by decide +kernel, by decide +kernel,
      by decide +kernel, by decide +kernel, by decide +kernel⟩,
   ⟨(up.modClk fun (c : ClockSt) => ({ c with st := .holdover, hoRun := true, hoS := 4294967296 } : ClockSt)), by decide +kernel, Bool.or_eq_false_iff.2
      ⟨by decide +kernel, Bool.and_eq_false_iff.2 (Or.inr (by decide +kernel))⟩⟩,
   ⟨(up.modClk fun (c : ClockSt) => ({ c with st := .locked } : ClockSt)), by decide +kernel, by decide +kernel, by decide +kernel, by decide +kernel,
      by decide +kernel⟩⟩

/-- The conditions of EthernetPortsFollow, each met by a state and operands. -/
theorem test_meets_ethernet_ports_follow_1 :
    (∃ (s : State) (p : EthId), s.eth[p].st = .up) ∧
    (∃ (s : State) (p : EthId), (s.eth[p].st = .negotiating ∨ s.eth[p].st = .training) ∧ s.portMayRun p = true) ∧
    (∃ (s : State) (t : Nat) (p : EthId) (ok : Bool) (c : Nat) (u : Nat) (a : _), s.eth[p].st = .up ∧ s.portMayRun p = true ∧ a = ((s.at t).bump
      .fecCorrected p 0 c).bump .fecUncorrectable p 0 u ∧ ok = false) ∧
    (∃ (s : State) (t : Nat) (p : EthId) (bytes : Bytes) (ok : Bool) (c : Nat) (u : Nat) (a : _), s.eth[p].st = .up ∧ s.portMayRun p = true ∧ a = ((s.at
      t).bump .fecCorrected p 0 c).bump .fecUncorrectable p 0 u ∧ ok = true ∧ bytes.length < 64) ∧
    (∃ (s : State) (t : Nat) (p : EthId) (bytes : Bytes) (ok : Bool) (c : Nat) (u : Nat) (a : _), s.eth[p].st = .up ∧ s.portMayRun p = true ∧ a = ((s.at
      t).bump .fecCorrected p 0 c).bump .fecUncorrectable p 0 u ∧ ok = true ∧ 64 ≤ bytes.length ∧ s.fnat .ethMaxFrame p < bytes.length) ∧
    (∃ (s : State) (t : Nat) (p : EthId) (bytes : Bytes) (ok : Bool) (c : Nat) (u : Nat) (a : _) (b : _), s.eth[p].st = .up ∧ s.portMayRun p = true ∧ a =
      ((s.at t).bump .fecCorrected p 0 c).bump .fecUncorrectable p 0 u ∧ b = bytes.take (bytes.length - 4) ∧ ok = true ∧ 64 ≤ bytes.length ∧
      bytes.length ≤ s.fnat .ethMaxFrame p ∧ s.switching = true ∧ macOf b 0 ≠ s.fnat .macAddr p ∧ macOf b 0 ∉ [0xFFFFFFFFFFFF, 0x011B19000000,
      0x0180C200000E, 0x0180C2000002]) ∧
    (∃ (s : State) (t : Nat) (p : EthId) (bytes : Bytes) (ok : Bool) (c : Nat) (u : Nat) (a : _) (b : _), s.eth[p].st = .up ∧ s.portMayRun p = true ∧ a =
      ((s.at t).bump .fecCorrected p 0 c).bump .fecUncorrectable p 0 u ∧ b = bytes.take (bytes.length - 4) ∧ ok = true ∧ 64 ≤ bytes.length ∧
      bytes.length ≤ s.fnat .ethMaxFrame p ∧ s.switching = true ∧ macOf b 0 = s.fnat .macAddr p ∧ (ethView b).etype = 0x8808) ∧
    (∃ (s : State) (t : Nat) (p : EthId) (bytes : Bytes) (ok : Bool) (c : Nat) (u : Nat) (a : _) (b : _), s.eth[p].st = .up ∧ s.portMayRun p = true ∧ a =
      ((s.at t).bump .fecCorrected p 0 c).bump .fecUncorrectable p 0 u ∧ b = bytes.take (bytes.length - 4) ∧ ok = true ∧ 64 ≤ bytes.length ∧
      bytes.length ≤ s.fnat .ethMaxFrame p ∧ s.switching = true ∧ macOf b 0 = s.fnat .macAddr p ∧ (ethView b).etype = s.fnat .ethType p ∧ (ethView
      b).etype ∉ [0x8808, 0x8809, 0x88F7, 0x0800, 0x86DD] ∧ (ethView b).vid = (if s.fnat .vlanId p = 0 then none else some (s.fnat .vlanId p))) :=
  ⟨⟨((fun (s : State) => ({ s with eth := (s.eth.set (0 : EthId) { s.eth[(0 : EthId)] with st := .up }) } : State)) State.reset), (0 : EthId),
      by decide +kernel⟩,
   ⟨({ (up.modEth 0 fun (x : EthSt) => ({ x with st := .negotiating } : EthSt)) with fields := [((.portEnable, 0), [1])] } : State), (0 : EthId),
      by decide +kernel, by decide +kernel⟩,
   ⟨({ (up.modEth 0 fun (x : EthSt) => ({ x with st := .up } : EthSt)) with fields := [((.macAddr, 0), [2]), ((.portEnable, 0), [1]), ((.hostDefault, 0), [1])] }
      : State), 0, (0 : EthId), false, 0, 0, _, by decide +kernel, by decide +kernel, rfl, by decide +kernel⟩,
   ⟨({ (up.modEth 0 fun (x : EthSt) => ({ x with st := .up } : EthSt)) with fields := [((.macAddr, 0), [2]), ((.portEnable, 0), [1]), ((.hostDefault, 0), [1])] }
      : State), 0, (0 : EthId), [], true, 0, 0, _, by decide +kernel, by decide +kernel, rfl, by decide +kernel, by decide +kernel⟩,
   ⟨({ (up.modEth 0 fun (x : EthSt) => ({ x with st := .up } : EthSt)) with fields := [((.macAddr, 0), [2]), ((.portEnable, 0), [1]), ((.hostDefault, 0), [1])] }
      : State), 0, (0 : EthId), (List.replicate 9601 0), true, 0, 0, _, by decide +kernel, by decide +kernel, rfl, by decide +kernel,
      replicate_at_least (by decide), replicate_at_least (by decide +kernel)⟩,
   ⟨({ (up.modEth 0 fun (x : EthSt) => ({ x with st := .up } : EthSt)) with fields := [((.macAddr, 0), [2]), ((.portEnable, 0), [1]), ((.hostDefault, 0), [1])] }
      : State), 0, (0 : EthId), ([0, 0, 0, 0, 0, 3] ++ [0, 0, 0, 0, 0, 1] ++ [0x12, 0x34] ++ List.replicate 50 0), true, 0, 0, _, _,
      by decide +kernel, by decide +kernel, rfl, rfl, by decide +kernel, by decide +kernel, by decide +kernel, by decide +kernel, by decide +kernel,
      by decide +kernel⟩,
   ⟨({ (up.modEth 0 fun (x : EthSt) => ({ x with st := .up } : EthSt)) with fields := [((.macAddr, 0), [2]), ((.portEnable, 0), [1]), ((.hostDefault, 0), [1])] }
      : State), 0, (0 : EthId), ([0, 0, 0, 0, 0, 2] ++ [0, 0, 0, 0, 0, 1] ++ [0x88, 0x08] ++ List.replicate 50 0), true, 0, 0, _, _,
      by decide +kernel, by decide +kernel, rfl, rfl, by decide +kernel, by decide +kernel, by decide +kernel, by decide +kernel, by decide +kernel,
      by decide +kernel⟩,
   ⟨({ (up.modEth 0 fun (x : EthSt) => ({ x with st := .up } : EthSt)) with fields := [((.macAddr, 0), [2]), ((.portEnable, 0), [1]), ((.hostDefault, 0), [1])] }
      : State), 0, (0 : EthId), ([0, 0, 0, 0, 0, 2] ++ [0, 0, 0, 0, 0, 1] ++ [0x88, 0xB5] ++ List.replicate 50 0), true, 0, 0, _, _,
      by decide +kernel, by decide +kernel, rfl, rfl, by decide +kernel, by decide +kernel, by decide +kernel, by decide +kernel, by decide +kernel,
      by decide +kernel, by decide +kernel, by decide +kernel⟩⟩

/-- The conditions of EthernetPortsFollow, each met by a state and operands. -/
theorem test_meets_ethernet_ports_follow_2 :
    (∃ (s : State) (t : Nat) (p : EthId) (bytes : Bytes) (ok : Bool) (c : Nat) (u : Nat) (a : _) (b : _), s.eth[p].st = .up ∧ s.portMayRun p = true ∧ a =
      ((s.at t).bump .fecCorrected p 0 c).bump .fecUncorrectable p 0 u ∧ b = bytes.take (bytes.length - 4) ∧ ok = true ∧ 64 ≤ bytes.length ∧
      bytes.length ≤ s.fnat .ethMaxFrame p ∧ s.switching = true ∧ macOf b 0 = s.fnat .macAddr p ∧ (ethView b).etype ≠ s.fnat .ethType p ∧ (ethView
      b).etype ∉ [0x8808, 0x8809, 0x88F7, 0x0800, 0x86DD] ∧ (ethView b).vid = (if s.fnat .vlanId p = 0 then none else some (s.fnat .vlanId p))) ∧
    (∃ (s : State) (t : Nat) (p : EthId) (f : _) (a : _) (d : _), s.switching = true ∧ s.eth[p].st = .up ∧ s.portMayRun p = true ∧ (s.hold.frames.find?
      fun (g : Frame) => g.dstKind == 1 && g.dstIdx == p.val) = some f ∧ (s.at t).readFrame f = (a, some d) ∧ (s.ethOut p f d).length + 4 ≤ s.fnat
      .ethMaxFrame p) :=
  ⟨⟨({ (up.modEth 0 fun (x : EthSt) => ({ x with st := .up } : EthSt)) with fields := [((.macAddr, 0), [2]), ((.portEnable, 0), [1]), ((.hostDefault, 0), [1])] }
      : State), 0, (0 : EthId), ([0, 0, 0, 0, 0, 2] ++ [0, 0, 0, 0, 0, 1] ++ [0x12, 0x34] ++ List.replicate 50 0), true, 0, 0, _, _,
      by decide +kernel, by decide +kernel, rfl, rfl, by decide +kernel, by decide +kernel, by decide +kernel, by decide +kernel, by decide +kernel,
      by decide +kernel, by decide +kernel, by decide +kernel⟩,
   ⟨port, 0, (0 : EthId), portFrame, ((port.at 0).readFrame portFrame).1, [1, 2, 3], by decide +kernel, by decide +kernel, by decide +kernel,
      by decide +kernel, pair_of_snd (by decide +kernel), by decide +kernel⟩⟩

/-- The conditions of PtpAndEsmcFollow, each met by a state and operands. -/
theorem test_meets_ptp_and_esmc_follow_1 :
    (∃ (s : State) (p : EthId) (bytes : Bytes), s.eth[p].st = .up ∧ s.fnat .ptpRole p ≠ 0 ∧ beAt bytes 4 1 ≠ s.fnat .ptpDomain p) ∧
    (∃ (s : State) (p : EthId) (bytes : Bytes), s.eth[p].st = .up ∧ s.fnat .ptpRole p ≠ 0 ∧ beAt bytes 4 1 = s.fnat .ptpDomain p ∧ s.fnat .ptpRole p = 1 ∧
      beAt bytes 0 1 % 16 = 0) ∧
    (∃ (s : State) (p : EthId) (bytes : Bytes), s.eth[p].st = .up ∧ s.fnat .ptpRole p ≠ 0 ∧ beAt bytes 4 1 = s.fnat .ptpDomain p ∧ s.fnat .ptpRole p = 1 ∧
      beAt bytes 0 1 % 16 = 0xB) ∧
    (∃ (s : State) (p : EthId) (bytes : Bytes), s.eth[p].st = .up ∧ s.fnat .ptpRole p ≠ 0 ∧ beAt bytes 4 1 = s.fnat .ptpDomain p ∧ s.fnat .ptpRole p ≠ 1 ∧
      beAt bytes 0 1 % 16 = 1) ∧
    (∃ (s : State) (p : EthId), s.fnat .ptpRole p = 1) ∧
    (∃ (s : State) (p : EthId), s.eth[p].st = .up ∧ s.fnat .ptpRole p = 1) ∧
    (∃ (s : State) (p : EthId), s.eth[p].st = .up ∧ s.fnat .ptpRole p = 2 ∧ s.fnat .ptpMode p = 1) ∧
    (∃ (s : State) (p : EthId), s.eth[p].st = .up ∧ s.fnat .ptpRole p = 2 ∧ s.fnat .ptpMode p ≠ 1) :=
  ⟨⟨((up.modEth 0 fun (x : EthSt) => ({ x with st := .up } : EthSt)).fset .ptpRole 0 [1]), (0 : EthId), [0, 0, 0, 0, 7], by decide +kernel,
      by decide +kernel, by decide +kernel⟩,
   ⟨((up.modEth 0 fun (x : EthSt) => ({ x with st := .up } : EthSt)).fset .ptpRole 0 [1]), (0 : EthId), [0, 0, 0, 0, 0], by decide +kernel,
      by decide +kernel, by decide +kernel, by decide +kernel, by decide +kernel⟩,
   ⟨((up.modEth 0 fun (x : EthSt) => ({ x with st := .up } : EthSt)).fset .ptpRole 0 [1]), (0 : EthId), [0x0B, 0, 0, 0, 0], by decide +kernel,
      by decide +kernel, by decide +kernel, by decide +kernel, by decide +kernel⟩,
   ⟨((up.modEth 0 fun (x : EthSt) => ({ x with st := .up } : EthSt)).fset .ptpRole 0 [2]), (0 : EthId), [1, 0, 0, 0, 0], by decide +kernel,
      by decide +kernel, by decide +kernel, by decide +kernel, by decide +kernel⟩,
   ⟨(State.reset.fset .ptpRole (0 : EthId) [1]), (0 : EthId), by decide +kernel⟩,
   ⟨(((fun (s : State) => ({ s with eth := (s.eth.set (0 : EthId) { s.eth[(0 : EthId)] with st := .up }) } : State)) State.reset).fset .ptpRole (0 :
      EthId) [1]), (0 : EthId), by decide +kernel, by decide +kernel⟩,
   ⟨((((fun (s : State) => ({ s with eth := (s.eth.set (0 : EthId) { s.eth[(0 : EthId)] with st := .up }) } : State)) State.reset).fset .ptpRole (0 :
      EthId) [2]).fset .ptpMode (0 : EthId) [1]), (0 : EthId), by decide +kernel, by decide +kernel, by decide +kernel⟩,
   ⟨((((fun (s : State) => ({ s with eth := (s.eth.set (0 : EthId) { s.eth[(0 : EthId)] with st := .up }) } : State)) State.reset).fset .ptpRole (0 :
      EthId) [2]).fset .ptpMode (0 : EthId) [2]), (0 : EthId), by decide +kernel, by decide +kernel, by decide +kernel⟩⟩

/-- The conditions of PtpAndEsmcFollow, each met by a state and operands. -/
theorem test_meets_ptp_and_esmc_follow_2 :
    (∃ (s : State) (p : EthId) (bytes : Bytes), s.eth[p].st = .up ∧ s.fbool .esmcEnable p = true ∧ esmcCodes bytes (s.fbool .esmcEnhanced p) = none) ∧
    (∃ (s : State) (p : EthId) (bytes : Bytes) (ssm : _) (enh : _), s.eth[p].st = .up ∧ s.fbool .esmcEnable p = true ∧ esmcCodes bytes (s.fbool
      .esmcEnhanced p) = some (ssm, enh)) ∧
    (∃ (s : State) (p : EthId), s.eth[p].st = .up ∧ s.fbool .esmcEnable p = true) ∧
    (∃ (s : State) (t : Nat) (p : EthId), ((∀ a, s.eth[p].esmcAt = some a → a + seconds 5 ≤ max s.now t))) :=
  ⟨⟨((up.modEth 0 fun (x : EthSt) => ({ x with st := .up } : EthSt)).fset .esmcEnable 0 [1]), (0 : EthId), [], by decide +kernel, by decide +kernel,
      by decide +kernel⟩,
   ⟨((up.modEth 0 fun (x : EthSt) => ({ x with st := .up } : EthSt)).fset .esmcEnable 0 [1]), (0 : EthId), ([0x0A, 0, 0x19, 0xA7, 0, 1, 0x10, 0, 0, 0,
      1, 0, 4, 2] ++ List.replicate 14 0), 2, 0xFF, by decide +kernel, by decide +kernel, by decide +kernel⟩,
   ⟨(((fun (s : State) => ({ s with eth := (s.eth.set (0 : EthId) { s.eth[(0 : EthId)] with st := .up }) } : State)) State.reset).fset .esmcEnable (0 :
      EthId) [1]), (0 : EthId), by decide +kernel, by decide +kernel⟩,
   ⟨State.reset, 0, (0 : EthId), by decide +kernel⟩⟩

/-- The conditions of FabricCodewordsFollow, each met by a state and operands. -/
theorem test_meets_fabric_codewords_follow_1 :
    (∃ (s : State) (l : LinkId) (dec : Bool), s.fab.link[l].carries = true ∧ dec = false) ∧
    (∃ (s : State) (l : LinkId) (cw : Bytes) (dec : Bool), s.fab.link[l].carries = true ∧ dec = true ∧ bitsAt cw 0 2 = 0 ∧ BitVec.ofNat 8 (bitsAt cw 2 8)
      = s.fab.link[l].ackSeq + 1) ∧
    (∃ (s : State) (l : LinkId) (cw : Bytes) (dec : Bool), s.fab.link[l].carries = true ∧ dec = true ∧ bitsAt cw 0 2 = 0 ∧ BitVec.ofNat 8 (bitsAt cw 2 8)
      ≠ s.fab.link[l].ackSeq + 1) ∧
    (∃ (s : State) (t : Nat) (l : LinkId) (ack : Nat) (v : _), s.fab.link[l].carries = true ∧ s.fab.link[l].nakAt = some (BitVec.ofNat 8 ack, v) ∧ max
      s.now t < v + micros 2) ∧
    (∃ (s : State) (t : Nat) (l : LinkId) (ack : Nat) (u : _), s.fab.link[l].carries = true ∧ s.fab.link[l].nakAt = none ∧ u = (s.at t).takeAck l
      (BitVec.ofNat 8 ack) s.fab.link[l].xoffIn ∧ u.fab.link[l].replay ≠ [] ∧ u.fab.link[l].tries < 4) ∧
    (∃ (s : State) (t : Nat) (l : LinkId) (q : BitVec 8) (n : _) (r : _), s.fab.link[l].carries = true ∧ s.fab.link[l].replay = (q, n) :: r ∧
      s.fab.link[l].ackAt + micros 5 ≤ max s.now t ∧ s.fab.link[l].tries < 4) ∧
    (∃ (s : State) (t : Nat) (l : LinkId) (q : BitVec 8) (n : _) (r : _), s.fab.link[l].carries = true ∧ s.fab.link[l].replay = (q, n) :: r ∧
      s.fab.link[l].ackAt + micros 5 ≤ max s.now t ∧ 4 ≤ s.fab.link[l].tries) ∧
    (∃ (s : State) (l : LinkId) (cw : Bytes) (why : _), bitsAt cw 20 64 = 0xC3A55A3C0FF096E1 ∧ bitsAt cw 0 2 = 2 ∧ s.fab.link[l].st = .hello ∧
      s.helloRefusal l (parsePeer cw) = some why) :=
  ⟨⟨((fun (s : State) => ({ s with fab := { s.fab with link := (s.fab.link.set (0 : LinkId) { s.fab.link[(0 : LinkId)] with st := .up }) } } : State))
      State.reset), (0 : LinkId), false, by decide +kernel, by decide +kernel⟩,
   ⟨(up.modLink 0 fun (x : FabLink) => ({ x with st := .up } : FabLink)), (0 : LinkId), [0, 0], true, by decide +kernel, by decide +kernel,
      by decide +kernel, by decide +kernel⟩,
   ⟨(up.modLink 0 fun (x : FabLink) => ({ x with st := .up } : FabLink)), (0 : LinkId), [4], true, by decide +kernel, by decide +kernel,
      by decide +kernel, by decide +kernel⟩,
   ⟨(up.modLink 0 fun (x : FabLink) => ({ x with st := .up, nakAt := some (0, 0) } : FabLink)), 0, (0 : LinkId), 0, 0, by decide +kernel,
      by decide +kernel, by decide +kernel⟩,
   ⟨(up.modLink 0 fun (x : FabLink) => ({ x with st := .up, replay := [(1, 0)] } : FabLink)), 0, (0 : LinkId), 0, _, by decide +kernel,
      by decide +kernel, rfl, by decide +kernel, by decide +kernel⟩,
   ⟨(up.modLink 0 fun (x : FabLink) => ({ x with st := .up, replay := [(1, 0)] } : FabLink)), 5000, (0 : LinkId), 1, 0, [], by decide +kernel,
      by decide +kernel, by decide +kernel, by decide +kernel⟩,
   ⟨(up.modLink 0 fun (x : FabLink) => ({ x with st := .up, replay := [(1, 0)], tries := 4 } : FabLink)), 5000, (0 : LinkId), 1, 0, [],
      by decide +kernel, by decide +kernel, by decide +kernel, by decide +kernel⟩,
   ⟨(up.modLink 0 fun (x : FabLink) => ({ x with st := .hello } : FabLink)), (0 : LinkId), (leBytes 128 (2 + 0xC3A55A3C0FF096E1 * 2 ^ 20)), 1,
      by decide +kernel, by decide +kernel, by decide +kernel, by decide +kernel⟩⟩

/-- The conditions of FabricCodewordsFollow, each met by a state and operands. -/
theorem test_meets_fabric_codewords_follow_2 :
    (∃ (s : State) (l : LinkId) (cw : Bytes), bitsAt cw 20 64 = 0xC3A55A3C0FF096E1 ∧ bitsAt cw 0 2 = 2 ∧ s.fab.link[l].st = .hello ∧ s.helloRefusal l
      (parsePeer cw) = none ∧ (parsePeer cw).state < 3 ∧ (parsePeer cw).proof = leBytes 32 0) ∧
    (∃ (s : State) (l : LinkId) (cw : Bytes), bitsAt cw 20 64 = 0xC3A55A3C0FF096E1 ∧ bitsAt cw 0 2 = 2 ∧ s.fab.link[l].carries = true) ∧
    (∃ (s : State) (l : LinkId), (s.fab.link[l].st = .hello ∨ s.fab.link[l].st = .auth ∨ s.fab.link[l].carries = true)) :=
  ⟨⟨(up.modLink 0 fun (x : FabLink) => ({ x with st := .hello } : FabLink)), (0 : LinkId), (leBytes 128 (2 + 0xC3A55A3C0FF096E1 * 2 ^ 20 + 2 ^ 139)),
      by decide +kernel, by decide +kernel, by decide +kernel, by decide +kernel, by decide +kernel, by decide +kernel⟩,
   ⟨(up.modLink 0 fun (x : FabLink) => ({ x with st := .up } : FabLink)), (0 : LinkId), (leBytes 128 (2 + 0xC3A55A3C0FF096E1 * 2 ^ 20)),
      by decide +kernel, by decide +kernel, by decide +kernel⟩,
   ⟨((fun (s : State) => ({ s with fab := { s.fab with link := (s.fab.link.set (0 : LinkId) { s.fab.link[(0 : LinkId)] with st := .hello }) } } :
      State)) State.reset), (0 : LinkId), by decide +kernel⟩⟩

/-- The conditions of FabricLinkLossesAndTimersFollow, each met by a state and operands. -/
theorem test_meets_fabric_link_losses_and_timers_follow_1 :
    (∃ (s : State) (l : LinkId) (lanes : BitVec 2), s.fab.link[l].st = .up ∧ lanes = 0) ∧
    (∃ (s : State) (l : LinkId) (lanes : BitVec 2), s.fab.link[l].st = .up ∧ lanes = 3) ∧
    (∃ (s : State) (l : LinkId) (lanes : BitVec 2), s.fab.link[l].st = .up ∧ lanes ≠ 0 ∧ lanes ≠ 3) ∧
    (∃ (s : State) (l : LinkId), s.fab.link[l].carries = true) ∧
    (∃ (s : State) (l : LinkId) (lanes : BitVec 2), s.fab.link[l].st = .training ∧ lanes = 3) ∧
    (∃ (s : State) (l : LinkId) (lanes : BitVec 2), s.fab.link[l].st = .training ∧ lanes ≠ 3) ∧
    (∃ (s : State) (l : LinkId), s.fab.link[l].st = .auth) ∧
    (∃ (s : State) (t : Nat) (l : LinkId), (s.fab.link[l].st = .refused ∨ s.fab.link[l].st = .failed) ∧ s.fab.link[l].since + s.fab.link[l].retryGap ≤ max
      s.now t ∧ s.linkMayRun l = true ∧ s.sec.rngFailed = false) :=
  ⟨⟨((fun (s : State) => ({ s with fab := { s.fab with link := (s.fab.link.set (0 : LinkId) { s.fab.link[(0 : LinkId)] with st := .up }) } } : State))
      State.reset), (0 : LinkId), (0 : BitVec 2), by decide +kernel, by decide +kernel⟩,
   ⟨((fun (s : State) => ({ s with fab := { s.fab with link := (s.fab.link.set (0 : LinkId) { s.fab.link[(0 : LinkId)] with st := .up }) } } : State))
      State.reset), (0 : LinkId), (3 : BitVec 2), by decide +kernel, by decide +kernel⟩,
   ⟨((fun (s : State) => ({ s with fab := { s.fab with link := (s.fab.link.set (0 : LinkId) { s.fab.link[(0 : LinkId)] with st := .up }) } } : State))
      State.reset), (0 : LinkId), (1 : BitVec 2), by decide +kernel, by decide +kernel, by decide +kernel⟩,
   ⟨((fun (s : State) => ({ s with fab := { s.fab with link := (s.fab.link.set (0 : LinkId) { s.fab.link[(0 : LinkId)] with st := .up }) } } : State))
      State.reset), (0 : LinkId), by decide +kernel⟩,
   ⟨((fun (s : State) => ({ s with fab := { s.fab with link := (s.fab.link.set (0 : LinkId) { s.fab.link[(0 : LinkId)] with st := .training }) } } :
      State)) State.reset), (0 : LinkId), (3 : BitVec 2), by decide +kernel, by decide +kernel⟩,
   ⟨((fun (s : State) => ({ s with fab := { s.fab with link := (s.fab.link.set (0 : LinkId) { s.fab.link[(0 : LinkId)] with st := .training }) } } :
      State)) State.reset), (0 : LinkId), (1 : BitVec 2), by decide +kernel, by decide +kernel⟩,
   ⟨((fun (s : State) => ({ s with fab := { s.fab with link := (s.fab.link.set (0 : LinkId) { s.fab.link[(0 : LinkId)] with st := .auth }) } } : State))
      State.reset), (0 : LinkId), by decide +kernel⟩,
   ⟨({ (up.modLink 0 fun (x : FabLink) => ({ x with st := .failed } : FabLink)) with fields := [((.linkEnable, 1), [1])], fab := { (up.modLink 0 fun (x : FabLink) => ({ x with st := .failed } : FabLink)).fab with joined := true, dims := (2, 1, 1) } }
      : State), 1000000000, (0 : LinkId), by decide +kernel, by decide +kernel, by decide +kernel, by decide +kernel⟩⟩

/-- The conditions of FabricLinkLossesAndTimersFollow, each met by a state and operands. -/
theorem test_meets_fabric_link_losses_and_timers_follow_2 :
    (∃ (s : State) (l : LinkId), s.fab.link[l].st = .degraded) ∧
    (∃ (s : State) (t : Nat) (l : LinkId), s.fab.link[l].carries = true ∧ (s.fab.link[l].trainedAt + seconds 86400 ≤ max s.now t ∨ pktLate ≤
      s.fab.link[l].pktTx)) :=
  ⟨⟨((fun (s : State) => ({ s with fab := { s.fab with link := (s.fab.link.set (0 : LinkId) { s.fab.link[(0 : LinkId)] with st := .degraded }) } } :
      State)) State.reset), (0 : LinkId), by decide +kernel⟩,
   ⟨((fun (s : State) => ({ s with fab := { s.fab with link := (s.fab.link.set (0 : LinkId) { s.fab.link[(0 : LinkId)] with st := .up }) } } : State))
      State.reset), 1000000000000000000, (0 : LinkId), by decide +kernel, by decide +kernel⟩⟩

/-- The conditions of FabricPacketsFollow, each met by a state and operands. -/
theorem test_meets_fabric_packets_follow :
    (∃ (s : State) (l : LinkId) (b : Bytes), Arrives s l 1 b ∧ bitsAt b 11 1 = 0) ∧
    (∃ (s : State) (l : LinkId) (b : Bytes), s.fab.link[l].carries = true ∧ s.domOn pdFab = true ∧ s.drained .link = false ∧ bitsAt b 64 48 ≠
      s.fab.link[l].pktRx) ∧
    (∃ (s : State) (l : LinkId) (b : Bytes), s.fab.link[l].carries = true ∧ s.domOn pdFab = true ∧ s.drained .link = false ∧ bitsAt b 64 48 =
      s.fab.link[l].pktRx) ∧
    (∃ (s : State) (l : LinkId) (b : Bytes), Arrives s l 2 b ∧ s.drained .mgmt = false ∧ ((∀ x, x ∈ s.sec.memberRolls → x.addr ≠ BitVec.ofNat 9 (bitsAt b
      27 9)))) ∧
    (∃ (s : State) (l : LinkId) (b : Bytes), Arrives s l 7 b ∧ bitsAt b 27 9 ≠ s.fab.addr.toNat ∧ ((∀ x, x ∈ s.fab.views → x.addr ≠ BitVec.ofNat 9 (bitsAt
      b 27 9)))) ∧
    (∃ (s : State) (l : LinkId) (b : Bytes), Arrives s l 8 b ∧ s.drained .mgmt = false ∧ bitsAt b 27 9 ≠ s.fab.addr.toNat) :=
  ⟨⟨(up.modLink 0 fun (x : FabLink) => ({ x with st := .up } : FabLink)), 0, (leBytes 32 (16 + 2 ^ 12)), ⟨by decide +kernel, by decide +kernel,
      by decide +kernel, by decide +kernel, by decide +kernel, by decide +kernel, by decide +kernel⟩, by decide +kernel⟩,
   ⟨(up.modLink 0 fun (x : FabLink) => ({ x with st := .up } : FabLink)), 0, (leBytes 32 (2 ^ 64)), by decide +kernel, by decide +kernel,
      by decide +kernel, by decide +kernel⟩,
   ⟨(up.modLink 0 fun (x : FabLink) => ({ x with st := .up } : FabLink)), 0, [], by decide +kernel, by decide +kernel, by decide +kernel,
      by decide +kernel⟩,
   ⟨(up.modLink 0 fun (x : FabLink) => ({ x with st := .up } : FabLink)), 0, (leBytes 32 (32 + 2 ^ 12)), ⟨by decide +kernel, by decide +kernel,
      by decide +kernel, by decide +kernel, by decide +kernel, by decide +kernel, by decide +kernel⟩, by decide +kernel, by intro x h; cases h⟩,
   ⟨(up.modLink 0 fun (x : FabLink) => ({ x with st := .up } : FabLink)), 0, (leBytes 32 (112 + 2 ^ 12 + 2 ^ 27)), ⟨by decide +kernel,
      by decide +kernel, by decide +kernel, by decide +kernel, by decide +kernel, by decide +kernel, by decide +kernel⟩, by decide +kernel,
      by intro x h; cases h⟩,
   ⟨(up.modLink 0 fun (x : FabLink) => ({ x with st := .up } : FabLink)), 0, (leBytes 32 (128 + 2 ^ 12 + 2 ^ 27)), ⟨by decide +kernel,
      by decide +kernel, by decide +kernel, by decide +kernel, by decide +kernel, by decide +kernel, by decide +kernel⟩, by decide +kernel,
      by decide +kernel⟩⟩

/-- The conditions of FabricMembershipTimersFollow, each met by a state and operands. -/
theorem test_meets_fabric_membership_timers_follow :
    (∃ (s : State), s.domOn pdFab = true ∧ s.drained .link = false ∧ (s.fab.joined = true ∨ s.fab.joining ≠ none)) ∧
    (∃ (s : State), s.fab.joined = true ∧ s.domOn pdFab = true ∧ s.drained .link = false ∧ s.drained .mgmt = false) ∧
    (∃ (s : State) (t : Nat) (addr : BitVec 9) (m : _) (x : _), m ∈ s.fab.members ∧ m.addr = addr ∧ m.heard + seconds 3 ≤ max s.now t ∧ x ∈ s.fab.members
      ∧ x.addr ≠ addr) ∧
    (∃ (s : State) (t : Nat) (e : Nat) (x : _), e ≤ s.fab.sysEpoch ∧ e ∉ s.fab.features ∧ (e, x) ∈ s.fab.reached ∧ x + seconds 2 ≤ max s.now t) ∧
    (∃ (s : State) (u : _), s.fab.joining = some (u, true) ∧ s.fab.members.length < 512) ∧
    (∃ (s : State) (u : _), s.fab.joining = some (u, false) ∧ ((∃ l, l ∈ s.usedLinks ∧ s.fab.link[l].st = .refused ∧ (s.fab.link[l].refuse = 2 ∨
      s.fab.link[l].refuse = 6)))) ∧
    (∃ (s : State) (t : Nat) (u : _), s.fab.leaving = some u ∧ u + millis 10 ≤ max s.now t) ∧
    (∃ (s : State) (t : Nat) (m : _), s.live.mixedSince = some m ∧ 72 + 24 * s.live.mixedLogs ≤ (max s.now t - m) / seconds 3600) :=
  ⟨⟨((fun (s : State) => ({ s with fab := { s.fab with joined := true } } : State)) up), by decide +kernel, by decide +kernel, by decide +kernel⟩,
   ⟨((fun (s : State) => ({ s with fab := { s.fab with joined := true } } : State)) up), by decide +kernel, by decide +kernel, by decide +kernel,
      by decide +kernel⟩,
   ⟨({ up with fab := { up.fab with members := [({ addr := 3, serial := 0, epoch := 0, fmtMax := 0, release := 0, heard := 0 } : Member), ({ addr := 4, serial := 0, epoch := 0, fmtMax := 0, release := 0, heard := 0 } : Member)] } }
      : State), 3000000000, 3, ({ addr := 3, serial := 0, epoch := 0, fmtMax := 0, release := 0, heard := 0 } : Member),
      ({ addr := 4, serial := 0, epoch := 0, fmtMax := 0, release := 0, heard := 0 } : Member), by decide +kernel, by decide +kernel,
      by decide +kernel, by decide +kernel, by decide +kernel⟩,
   ⟨({ up with fab := { up.fab with sysEpoch := 1, reached := [(1, 0)] } } : State), 2000000000, 1, 0, by decide +kernel, by decide +kernel,
      by decide +kernel, by decide +kernel⟩,
   ⟨({ up with fab := { up.fab with joining := some (0, true) } } : State), 0, by decide +kernel, by decide +kernel⟩,
   ⟨({ (up.modLink 0 fun (x : FabLink) => ({ x with st := .refused, refuse := 2 } : FabLink)) with fab := { (up.modLink 0 fun (x : FabLink) => ({ x with st := .refused, refuse := 2 } : FabLink)).fab with joining := some (0, false), dims := (2, 1, 1) } }
      : State), 0, by decide +kernel, ⟨0, by decide +kernel, by decide +kernel, by decide +kernel⟩⟩,
   ⟨((fun (s : State) => ({ s with fab := { s.fab with leaving := some 0 } } : State)) State.reset), 1000000000000000000, 0, by decide +kernel,
      by decide +kernel⟩,
   ⟨((fun (s : State) => ({ s with live := { s.live with mixedSince := some 0 } } : State)) State.reset), 1000000000000000000, 0, by decide +kernel,
      by decide +kernel⟩⟩

/-- The conditions of SessionsAndLocksFollow, each met by a state and operands. -/
theorem test_meets_sessions_and_locks_follow_1 :
    (∃ (s : State) (r : Req) (role : _), s.mgmtServes = true ∧ s.presented 1 r = true ∧ r.rsv = 0 ∧ r.cls = 0 ∧ r.cmdSeq = 0 ∧ r.session = 0 ∧
      r.body.length = 4 ∧ bitsAt r.body 8 24 = 0 ∧ Role.ofCode (bitsAt r.body 0 8) = some role ∧ s.boot.hostLoad = false ∧ s.sessionsFull
      r.src.transport = false ∧ s.sec.rngFailed = false ∧ 36 ≤ respSpace r.src) ∧
    (∃ (s : State) (t : Nat) (r : Req) (role : _) (p : _) (k : _), s.mgmtServes = true ∧ s.presented 1 r = true ∧ r.rsv = 0 ∧ r.cls = 0 ∧ r.cmdSeq = 0 ∧
      r.body.length = 52 ∧ bitsAt r.body 8 8 = 1 ∧ bitsAt r.body 16 8 ≤ 1 ∧ bitsAt r.body 24 8 = 0 ∧ Role.ofCode (bitsAt r.body 0 8) = some role ∧
      s.boot.hostLoad = false ∧ (s.mgmt.pendSess.find? fun x => x.id == r.session && x.tr == r.src.transport) = some p ∧ max s.now t < p.since +
      seconds 10 ∧ (s.lockoutOf role r.src.transport).locked (max s.now t) = false ∧ s.roleKeyOf role = some k ∧ 24 ≤ respSpace r.src) ∧
    (∃ (s : State) (r : Req) (x : _), Accepted s 2 r x ∧ r.body = [] ∧ x.busy = 0) ∧
    (∃ (s : State) (r : Req) (x : _), Accepted s 2 r x ∧ r.body = [] ∧ x.busy ≠ 0) ∧
    (∃ (s : State) (t : Nat) (id : BitVec 16) (x : _), s.session id = some x ∧ x.busy = 0 ∧ x.activeAt + seconds x.idleS ≤ max s.now t) ∧
    (∃ (s : State) (id : BitVec 16) (x : _), s.session id = some x ∧ x.busy ≠ 0) ∧
    (∃ (s : State) (t : Nat) (role : Role) (tr : Transport) (u : _), (s.lockoutOf role tr).lockedUntil = some u ∧ u ≤ max s.now t) ∧
    (∃ (s : State) (id : BitVec 16) (x : _) (a : BitVec 9), s.session id = some x ∧ x.tr = .fabric a ∧ s.nextHop a.toNat = none) :=
  ⟨⟨({ up with mgmt := { up.mgmt with inbox := [(1, ({ req [1, 0, 0, 0] with cmdSeq := 0, session := 0 } : Req))] } } : State),
      ({ req [1, 0, 0, 0] with cmdSeq := 0, session := 0 } : Req), _, by decide +kernel, by decide +kernel, by decide +kernel, by decide +kernel,
      by decide +kernel, by decide +kernel, by decide +kernel, by decide +kernel, rfl, by decide +kernel, by decide +kernel, by decide +kernel,
      by decide +kernel⟩,
   ⟨({ accepted 1 ({ req (0 :: 1 :: List.replicate 50 0) with cmdSeq := 0 } : Req) with mgmt := { (accepted 1 ({ req (0 :: 1 :: List.replicate 50 0) with cmdSeq := 0 } : Req)).mgmt with pendSess := [({ id := 1, tr := .uart0, nonce := [], since := 0 } : PendSess)] }, sec := { up.sec with roleKey := up.sec.roleKey.set 0 (some [1]) } }
      : State), 0, ({ req (0 :: 1 :: List.replicate 50 0) with cmdSeq := 0 } : Req), _, _, _, by decide +kernel, by decide +kernel, by decide +kernel,
      by decide +kernel, by decide +kernel, by decide +kernel, by decide +kernel, by decide +kernel, by decide +kernel, rfl, by decide +kernel, rfl,
      by decide +kernel, by decide +kernel, rfl, by decide +kernel⟩,
   ⟨(accepted 2 (req [])), (req []), sess, ⟨by decide +kernel, by decide +kernel, by decide +kernel⟩, by decide +kernel, by decide +kernel⟩,
   ⟨({ accepted 2 (req []) with mgmt := { (accepted 2 (req [])).mgmt with sessions := [{ sess with tr := .fabric 5, busy := 1 }] , inbox := [(2, { req [] with src := .fabric 5 })] } }
      : State), ({ req [] with src := .fabric 5 } : Req), ({ sess with tr := .fabric 5, busy := 1 } : Session), ⟨by decide +kernel, by decide +kernel,
      by decide +kernel⟩, by decide +kernel, by decide +kernel⟩,
   ⟨({ up with mgmt := { up.mgmt with sessions := [sess] } } : State), 300000000000, 1, sess, by decide +kernel, by decide +kernel, by decide +kernel⟩,
   ⟨({ up with mgmt := { up.mgmt with sessions := [{ sess with busy := 1 }] } } : State), 1, ({ sess with busy := 1 } : Session), by decide +kernel,
      by decide +kernel⟩,
   ⟨({ up with sec := { up.sec with lockouts := [{ role := .officer, tr := .uart0, lockedUntil := some 5 }] } } : State), 5, .officer, .uart0, 5,
      by decide +kernel, by decide +kernel⟩,
   ⟨({ ({ up with mgmt := { up.mgmt with sessions := [{ sess with tr := .fabric 5 }] } } : State) with fab := { up.fab with dims := (8, 1, 1) } } :
      State), 1, ({ sess with tr := .fabric 5 } : Session), 5, by decide +kernel, by decide +kernel, by decide +kernel⟩⟩

/-- The conditions of SessionsAndLocksFollow, each met by a state and operands. -/
theorem test_meets_sessions_and_locks_follow_2 :
    (∃ (s : State) (q : _), s.mgmtServes = true ∧ s.mgmt.arrivals = [q] ∧ s.mgmt.waiting = [] ∧ s.heldLocks = []) ∧
    (∃ (s : State) (t : Nat) (k : Nat) (q : _), ((s.mgmt.waiting ++ s.mgmt.arrivals).find? fun y => y.ticket == k && decide (y.at_ + millis y.waitMs ≤ max
      s.now t)) = some q) ∧
    (∃ (s : State) (r : Req) (x : _), Accepted s 0x16 r x ∧ r.body.length = 4 ∧ bitsAt r.body 16 16 = 0 ∧ newer 16 (bitsAt r.body 0 16) s.host.evSeq.toNat
      = false ∧ 16 ≤ respSpace r.src) :=
  ⟨⟨({ up with mgmt := { up.mgmt with arrivals := [(lockReq 8 (req []))] } } : State), (lockReq 8 (req [])), by decide +kernel, by decide +kernel,
      by decide +kernel, by decide +kernel⟩,
   ⟨({ up with mgmt := { up.mgmt with arrivals := [(lockReq 8 (req []))] } } : State), 0, 0, (lockReq 8 (req [])), by decide +kernel⟩,
   ⟨(accepted 0x16 (req [0, 0, 0, 0])), (req [0, 0, 0, 0]), sess, ⟨by decide +kernel, by decide +kernel, by decide +kernel⟩, by decide +kernel,
      by decide +kernel, by decide +kernel, by decide +kernel⟩⟩

/-- The conditions of ObjectWritesTakeEffect, each met by a state and operands. -/
theorem test_meets_object_writes_take_effect_1 :
    (∃ (s : State) (r : Req) (q : _) (f : Fld) (v : _), Granted s 4 r q ∧ SetOk s r [⟨f, v⟩] ∧ f.desc.app = .now ∧ Cls.ofCode r.cls.toNat ∉ [.context,
      .route, .domain] ∧ f ∉ [.trainRequest, .retrain, .linkEnable, .uartMode, .retireClear, .rootRetire, .fabKeyRetire, .attEnroll, .powerState,
      .configCommit, .chkRestart]) ∧
    (∃ (s : State) (r : Req) (q : _) (v : _) (k : DomId), Granted s 4 r q ∧ SetOk s r [⟨.powerState, v⟩] ∧ Cls.ofCode r.cls.toNat = .power ∧ r.inst.toNat
      = k.val ∧ k ≠ pdSec ∧ v ≠ [0] ∧ s.domSt k = .on) ∧
    (∃ (s : State) (r : Req) (q : _) (v : _) (k : DomId), Granted s 4 r q ∧ SetOk s r [⟨.powerState, v⟩] ∧ Cls.ofCode r.cls.toNat = .power ∧ r.inst.toNat
      = k.val ∧ k ≠ pdSec ∧ v ≠ [0] ∧ (s.domSt k = .ramp ∨ s.domSt k = .init) ∧ s.domDieLost k = false ∧ s.dieHot k = false ∧ s.depsOn k = true) ∧
    (∃ (s : State) (r : Req) (q : _) (v : _) (k : DomId), Granted s 4 r q ∧ SetOk s r [⟨.powerState, v⟩] ∧ Cls.ofCode r.cls.toNat = .power ∧ r.inst.toNat
      = k.val ∧ k ≠ pdSec ∧ v = [0] ∧ s.domSt k = .on ∧ ((∀ d, d ∈ s.dependants k → s.domSt d = .off ∨ s.domSt d = .fault))) ∧
    (∃ (s : State) (r : Req) (q : _) (v : _) (b : Berth), Granted s 4 r q ∧ SetOk s r [⟨.trainRequest, v⟩] ∧ Cls.ofCode r.cls.toNat = .berth ∧
      r.inst.toNat = b.val) ∧
    (∃ (s : State) (r : Req) (q : _) (v : _) (l : LinkId), Granted s 4 r q ∧ SetOk s r [⟨.retrain, v⟩] ∧ Cls.ofCode r.cls.toNat = .fabric ∧ r.inst.toNat =
      l.val + 1 ∧ s.fab.link[l].carries = true ∧ s.sec.rngFailed = false) ∧
    (∃ (s : State) (r : Req) (q : _) (v : _) (u : ChkId), Granted s 4 r q ∧ SetOk s r [⟨.chkRestart, v⟩] ∧ Cls.ofCode r.cls.toNat = .check ∧ r.inst.toNat
      = u.val) ∧
    (∃ (s : State) (r : Req) (q : _) (v : _), Granted s 4 r q ∧ SetOk s r [⟨.configCommit, v⟩] ∧ Cls.ofCode r.cls.toNat = .security ∧ r.inst = 0) :=
  ⟨⟨(granted 4 (setReq 0xF 0 .sessionIdle 60)), (setReq 0xF 0 .sessionIdle 60), _, .sessionIdle, [60], ⟨by decide +kernel, rfl⟩, ⟨by decide +kernel,
      by decide +kernel, ⟨_, rfl, rfl⟩, by decide +kernel, by decide +kernel, by decide +kernel, by decide +kernel⟩, by decide +kernel,
      by decide +kernel, by decide +kernel⟩,
   ⟨(granted 4 (setReq 0xE 3 .powerState 3)), (setReq 0xE 3 .powerState 3), _, [3], (3 : DomId), ⟨by decide +kernel, rfl⟩, ⟨by decide +kernel,
      by decide +kernel, ⟨_, rfl, rfl⟩, by decide +kernel, by decide +kernel, by decide +kernel, by decide +kernel⟩, by decide +kernel,
      by decide +kernel, by decide +kernel, by decide +kernel, by decide +kernel⟩,
   ⟨({ (granted 4 (setReq 0xE 3 .powerState 3)) with dom := up.dom.set 3 { st := .ramp } } : State), (setReq 0xE 3 .powerState 3), _, [3], (3 : DomId),
      ⟨by decide +kernel, rfl⟩, ⟨by decide +kernel, by decide +kernel, ⟨_, rfl, rfl⟩, by decide +kernel, by decide +kernel, by decide +kernel,
      by decide +kernel⟩, by decide +kernel, by decide +kernel, by decide +kernel, by decide +kernel, by decide +kernel, by decide +kernel,
      by decide +kernel, by decide +kernel⟩,
   ⟨(granted 4 (setReq 0xE (BitVec.ofNat 64 pdSense.val) .powerState 0)), (setReq 0xE (BitVec.ofNat 64 pdSense.val) .powerState 0), _, [0], pdSense,
      ⟨by decide +kernel, rfl⟩, ⟨by decide +kernel, by decide +kernel, ⟨_, rfl, rfl⟩, by decide +kernel, by decide +kernel, by decide +kernel,
      by decide +kernel⟩, by decide +kernel, by decide +kernel, by decide +kernel, by decide +kernel, by decide +kernel, by decide +kernel⟩,
   ⟨(granted 4 (setReq 0 3 .trainRequest 1)), (setReq 0 3 .trainRequest 1), _, [1], (3 : Berth), ⟨by decide +kernel, rfl⟩, ⟨by decide +kernel,
      by decide +kernel, ⟨_, rfl, rfl⟩, by decide +kernel, by decide +kernel, by decide +kernel, by decide +kernel⟩, by decide +kernel,
      by decide +kernel⟩,
   ⟨({ (granted 4 (setReq 7 1 .retrain 1)) with fab := (up.modLink 0 fun (x : FabLink) => ({ x with st := .up } : FabLink)).fab } : State), (setReq 7 1
      .retrain 1), _, [1], (0 : LinkId), ⟨by decide +kernel, rfl⟩, ⟨by decide +kernel, by decide +kernel, ⟨_, rfl, rfl⟩, by decide +kernel,
      by decide +kernel, by decide +kernel, by decide +kernel⟩, by decide +kernel, by decide +kernel, by decide +kernel, by decide +kernel⟩,
   ⟨(granted 4 (setReq 12 1 .chkRestart 1)), (setReq 12 1 .chkRestart 1), _, [1], (1 : ChkId), ⟨by decide +kernel, rfl⟩, ⟨by decide +kernel,
      by decide +kernel, ⟨_, rfl, rfl⟩, by decide +kernel, by decide +kernel, by decide +kernel, by decide +kernel⟩, by decide +kernel,
      by decide +kernel⟩,
   ⟨(granted 4 (setReq 15 0 .configCommit 1)), (setReq 15 0 .configCommit 1), _, [1], ⟨by decide +kernel, rfl⟩, ⟨by decide +kernel, by decide +kernel,
      ⟨_, rfl, rfl⟩, by decide +kernel, by decide +kernel, by decide +kernel, by decide +kernel⟩, by decide +kernel, by decide +kernel⟩⟩

/-- The conditions of ObjectWritesTakeEffect, each met by a state and operands. -/
theorem test_meets_object_writes_take_effect_2 :
    (∃ (s : State) (r : Req) (q : _) (v : _), Granted s 4 r q ∧ SetOk s r [⟨.attEnroll, v⟩] ∧ Cls.ofCode r.cls.toNat = .security ∧ r.inst = 0) ∧
    (∃ (s : State) (r : Req) (q : _) (v : _), Granted s 4 r q ∧ Cls.ofCode r.cls.toNat = .security ∧ r.inst = 0 ∧ SetOk s r [⟨.rootRetire, v⟩]) ∧
    (∃ (s : State) (r : Req) (q : _) (v : _), Granted s 4 r q ∧ Cls.ofCode r.cls.toNat = .security ∧ r.inst = 0 ∧ SetOk s r [⟨.fabKeyRetire, v⟩]) ∧
    (∃ (s : State) (r : Req) (q : _) (m : Chan) (k : Chan), Granted s 4 r q ∧ SetOk s r [⟨.retireClear, [(m.val : Int)]⟩] ∧ Cls.ofCode r.cls.toNat =
      .store ∧ r.inst = 0 ∧ k ≠ m) :=
  ⟨⟨(granted 4 (setReq 15 0 .attEnroll 1)), (setReq 15 0 .attEnroll 1), _, [1], ⟨by decide +kernel, rfl⟩, ⟨by decide +kernel, by decide +kernel, ⟨_,
      rfl, rfl⟩, by decide +kernel, by decide +kernel, by decide +kernel, by decide +kernel⟩, by decide +kernel, by decide +kernel⟩,
   ⟨(granted 4 (setReq 15 0 .rootRetire 1)), (setReq 15 0 .rootRetire 1), _, [1], ⟨by decide +kernel, rfl⟩, by decide +kernel, by decide +kernel,
      ⟨by decide +kernel, by decide +kernel, ⟨_, rfl, rfl⟩, by decide +kernel, by decide +kernel, by decide +kernel, by decide +kernel⟩⟩,
   ⟨(granted 4 (setReq 15 0 .fabKeyRetire 1)), (setReq 15 0 .fabKeyRetire 1), _, [1], ⟨by decide +kernel, rfl⟩, by decide +kernel, by decide +kernel,
      ⟨by decide +kernel, by decide +kernel, ⟨_, rfl, rfl⟩, by decide +kernel, by decide +kernel, by decide +kernel, by decide +kernel⟩⟩,
   ⟨(granted 4 (setReq 5 0 .retireClear 5)), (setReq 5 0 .retireClear 5), _, (5 : Chan), (4 : Chan), ⟨by decide +kernel, rfl⟩, ⟨by decide +kernel,
      by decide +kernel, ⟨_, rfl, rfl⟩, by decide +kernel, by decide +kernel, by decide +kernel, by decide +kernel⟩, by decide +kernel,
      by decide +kernel, by decide +kernel⟩⟩

/-- The conditions of ImagesSwapsAndRegionsTakeEffect, each met by a state and operands. -/
theorem test_meets_images_swaps_and_regions_take_effect :
    (∃ (s : State) (r : Req) (q : _), Granted s 8 r q ∧ 16 ≤ respSpace r.src ∧ 12 ≤ r.body.length ∧ bitsAt r.body 0 8 ≤ 1 ∧ bitsAt r.body 8 8 = 1 ∧ bitsAt
      r.body 16 16 = 0 ∧ bitsAt r.body 32 32 = 0 ∧ bitsAt r.body 64 32 ≤ imgMax (decide (bitsAt r.body 0 8 = 1)) ∧ r.body.length - 12 ≤ bitsAt r.body
      64 32 ∧ s.boot.staging = none ∧ s.boot.writing = none ∧ ((∀ x, s.session r.session = some x → x.closing = none ∧ x.dying = false))) ∧
    (∃ (s : State) (r : Req) (q : _) (slot : _), Granted s 9 r q ∧ 16 ≤ respSpace r.src ∧ r.body.length = 4 ∧ bitsAt r.body 16 16 = 0 ∧ s.boot.hostLoad =
      false ∧ s.boot.staging = none ∧ bitsAt r.body 0 8 = 0 ∧ bitsAt r.body 8 8 = 0 ∧ s.boot.stagedFw = some slot ∧ slot ≠ (s.boot.dir.getD
      blankDir).active ∧ slotBit (s.boot.dir.getD blankDir).fwValid slot = true ∧ s.fab.joined = false) ∧
    (∃ (s : State) (r : Req) (q : _), Granted s 9 r q ∧ 16 ≤ respSpace r.src ∧ r.body.length = 4 ∧ bitsAt r.body 16 16 = 0 ∧ s.boot.hostLoad = false ∧
      s.boot.staging = none ∧ bitsAt r.body 0 8 = 0 ∧ bitsAt r.body 8 8 = 1 ∧ s.boot.stage = 5 ∧ s.boot.trial = true) ∧
    (∃ (s : State) (r : Req) (q : _) (slot : _), Granted s 9 r q ∧ 16 ≤ respSpace r.src ∧ r.body.length = 4 ∧ bitsAt r.body 16 16 = 0 ∧ s.boot.hostLoad =
      false ∧ s.boot.staging = none ∧ bitsAt r.body 0 8 = 1 ∧ bitsAt r.body 8 8 = 0 ∧ s.boot.stagedUc = some slot ∧ slotBit (s.boot.dir.getD
      blankDir).ucValid slot = true) ∧
    (∃ (s : State) (r : Req) (q : _) (slot : _) (_b : Berth), Granted s 0xA r q ∧ 176 ≤ respSpace r.src ∧ r.body.length = 8 ∧ bitsAt r.body 32 32 = 0 ∧
      bitsAt r.body 0 32 ≠ 0 ∧ s.boot.eligible = some slot ∧ ((∀ b : Berth, s.berth[b].swap = none))) ∧
    (∃ (s : State) (r : Req) (q : _) (g : Region), Granted s 0xB r q ∧ 16 ≤ respSpace r.src ∧ r.body.length = 4 ∧ bitsAt r.body 8 8 = 0 ∧ Region.ofCode
      (bitsAt r.body 0 8) = some g ∧ g ≠ .store ∧ g ≠ .sec ∧ s.drained g = false ∧ bitsAt r.body 16 16 ≤ 60000 ∧ ((g = .mgmt → 900 ≤ bitsAt r.body 16
      16 ∧ bitsAt r.body 16 16 ≤ 2000)) ∧ g = .link) ∧
    (∃ (s : State) (r : Req) (q : _) (g : Region) (h : Region), Granted s 0xC r q ∧ 16 ≤ respSpace r.src ∧ r.body.length = 4 ∧ bitsAt r.body 8 24 = 0 ∧
      Region.ofCode (bitsAt r.body 0 8) = some g ∧ g ≠ .store ∧ g ≠ .sec ∧ g ≠ .mgmt ∧ s.drained g = true ∧ h ≠ g) :=
  ⟨⟨(granted 8 (req (List.flatten [leBytes 12 (256 + 4 * 2 ^ 64), [1, 2, 3, 4]]))), (req (List.flatten [leBytes 12 (256 + 4 * 2 ^ 64), [1, 2, 3, 4]])),
      _, ⟨by decide +kernel, rfl⟩, by decide +kernel, by decide +kernel, by decide +kernel, by decide +kernel, by decide +kernel, by decide +kernel,
      by decide +kernel, by decide +kernel, by decide +kernel, by decide +kernel, by intro x h; cases h; exact ⟨rfl, rfl⟩⟩,
   ⟨({ (granted 9 (req [0, 0, 0, 0])) with boot := { up.boot with dir := some dir, stagedFw := some true } } : State), (req [0, 0, 0, 0]), _, true,
      ⟨by decide +kernel, rfl⟩, by decide +kernel, by decide +kernel, by decide +kernel, by decide +kernel, by decide +kernel, by decide +kernel,
      by decide +kernel, by decide +kernel, by decide +kernel, by decide +kernel, by decide +kernel⟩,
   ⟨({ (granted 9 (req [0, 1, 0, 0])) with boot := { up.boot with dir := some dir, trial := true } } : State), (req [0, 1, 0, 0]), _,
      ⟨by decide +kernel, rfl⟩, by decide +kernel, by decide +kernel, by decide +kernel, by decide +kernel, by decide +kernel, by decide +kernel,
      by decide +kernel, by decide +kernel, by decide +kernel⟩,
   ⟨({ (granted 9 (req [1, 0, 0, 0])) with boot := { up.boot with dir := some dir, stagedUc := some true } } : State), (req [1, 0, 0, 0]), _, true,
      ⟨by decide +kernel, rfl⟩, by decide +kernel, by decide +kernel, by decide +kernel, by decide +kernel, by decide +kernel, by decide +kernel,
      by decide +kernel, by decide +kernel, by decide +kernel⟩,
   ⟨({ (granted 0xA (req [5, 0, 0, 0, 0, 0, 0, 0])) with boot := { up.boot with eligible := some true } } : State), (req [5, 0, 0, 0, 0, 0, 0, 0]), _,
      true, (0 : Berth), ⟨by decide +kernel, rfl⟩, by decide +kernel, by decide +kernel, by decide +kernel, by decide +kernel, by decide +kernel,
      by decide +kernel⟩,
   ⟨(granted 0xB (req [6, 0, 100, 0])), (req [6, 0, 100, 0]), _, .link, ⟨by decide +kernel, rfl⟩, by decide +kernel, by decide +kernel,
      by decide +kernel, by decide +kernel, by decide +kernel, by decide +kernel, by decide +kernel, by decide +kernel, by decide +kernel,
      by decide +kernel⟩,
   ⟨((granted 0xC (req [6, 0, 0, 0])).setRegion Region.link.idx { drained := true }), (req [6, 0, 0, 0]), _, .link, Region.bg0, ⟨by decide +kernel,
      rfl⟩, by decide +kernel, by decide +kernel, by decide +kernel, by decide +kernel, by decide +kernel, by decide +kernel, by decide +kernel,
      by decide +kernel, by decide +kernel⟩⟩

/-- The conditions of StoreFabricClockAndCaptureCommandsTakeEffect, each met by a state and operands. -/
theorem test_meets_store_fabric_clock_and_capture_commands_take_effect_1 :
    (∃ (s : State) (r : Req) (q : _) (m : Chan), Granted s 0xD r q ∧ r.body.length = 4 ∧ bitsAt r.body 0 32 = m.val ∧ s.hold.retiring = [] ∧
      s.retiredCount < 4 ∧ s.chanOut m = false ∧ s.hold.chan[m].st ≠ .untrained) ∧
    (∃ (s : State) (r : Req) (q : _), Granted s 0xE r q ∧ r.body.length = 8 ∧ bitsAt r.body 48 16 = 0 ∧ s.fab.joined = false ∧ s.fab.joining = none ∧
      s.sec.fab ≠ none ∧ ((∀ i, i < 3 → 1 ≤ bitsAt r.body (24 + 8 * i) 8 ∧ bitsAt r.body (24 + 8 * i) 8 ≤ 8 ∧ bitsAt r.body (8 * i) 8 < bitsAt r.body
      (24 + 8 * i) 8))) ∧
    (∃ (s : State) (r : Req) (q : _), Granted s 0xF r q ∧ r.body = [] ∧ s.fab.joined = true) ∧
    (∃ (s : State) (r : Req) (q : _) (i : InputId), Granted s 0x10 r q ∧ 16 ≤ respSpace r.src ∧ r.body.length = 4 ∧ bitsAt r.body 8 24 = i.val ∧ bitsAt
      r.body 0 8 = 0) ∧
    (∃ (s : State) (r : Req) (q : _) (i : InputId), Granted s 0x10 r q ∧ 16 ≤ respSpace r.src ∧ r.body.length = 4 ∧ bitsAt r.body 8 24 = i.val ∧ bitsAt
      r.body 0 8 = 1 ∧ s.clk.inp[i].fQual = true) ∧
    (∃ (s : State) (r : Req) (q : _) (i : InputId), Granted s 0x10 r q ∧ 16 ≤ respSpace r.src ∧ r.body.length = 4 ∧ bitsAt r.body 8 24 = i.val ∧ bitsAt
      r.body 0 8 = 2 ∧ s.clk.histValid = true) ∧
    (∃ (s : State) (r : Req) (q : _) (i : InputId), Granted s 0x10 r q ∧ 16 ≤ respSpace r.src ∧ r.body.length = 4 ∧ bitsAt r.body 8 24 = i.val ∧ bitsAt
      r.body 0 8 = 3 ∧ s.domOn pdClk = true) ∧
    (∃ (s : State) (r : Req) (q : _) (c : _), Granted s 6 r q ∧ 16 ≤ respSpace r.src ∧ parseArm r.body = .ok c ∧ s.hold.capture.st ≠ .armed ∧
      s.hold.capture.st ≠ .running ∧ c.trigger ≠ 0) :=
  ⟨⟨(granted 0xD (req [3, 0, 0, 0])), (req [3, 0, 0, 0]), _, (3 : Chan), ⟨by decide +kernel, rfl⟩, by decide +kernel, by decide +kernel,
      by decide +kernel, by decide +kernel, by decide +kernel, by decide +kernel⟩,
   ⟨({ (granted 0xE (req [1, 0, 0, 2, 1, 1, 0, 0])) with sec := { up.sec with fab := some [1] } } : State), (req [1, 0, 0, 2, 1, 1, 0, 0]), _,
      ⟨by decide +kernel, rfl⟩, by decide +kernel, by decide +kernel, by decide +kernel, by decide +kernel, by decide +kernel, by decide +kernel⟩,
   ⟨({ (granted 0xF (req [])) with fab := { up.fab with joined := true } } : State), (req []), _, ⟨by decide +kernel, rfl⟩, by decide +kernel,
      by decide +kernel⟩,
   ⟨({ (granted 0x10 (req [0, 0, 0, 0])) with clk := { up.clk with st := .locked, lockedS := 300, inp := up.clk.inp.set 0 { reasons := 0 } } } : State),
      (req [0, 0, 0, 0]), _, (0 : InputId), ⟨by decide +kernel, rfl⟩, by decide +kernel, by decide +kernel, by decide +kernel, by decide +kernel⟩,
   ⟨({ (granted 0x10 (req [1, 0, 0, 0])) with clk := { up.clk with st := .locked, lockedS := 300, inp := up.clk.inp.set 0 { reasons := 0 } } } : State),
      (req [1, 0, 0, 0]), _, (0 : InputId), ⟨by decide +kernel, rfl⟩, by decide +kernel, by decide +kernel, by decide +kernel, by decide +kernel,
      by decide +kernel⟩,
   ⟨({ (granted 0x10 (req [2, 0, 0, 0])) with clk := { up.clk with st := .locked, lockedS := 300, inp := up.clk.inp.set 0 { reasons := 0 } } } : State),
      (req [2, 0, 0, 0]), _, (0 : InputId), ⟨by decide +kernel, rfl⟩, by decide +kernel, by decide +kernel, by decide +kernel, by decide +kernel,
      by decide +kernel⟩,
   ⟨({ (granted 0x10 (req [3, 0, 0, 0])) with clk := { up.clk with st := .locked, lockedS := 300, inp := up.clk.inp.set 0 { reasons := 0 } } } : State),
      (req [3, 0, 0, 0]), _, (0 : InputId), ⟨by decide +kernel, rfl⟩, by decide +kernel, by decide +kernel, by decide +kernel, by decide +kernel,
      by decide +kernel⟩,
   ⟨(granted 6 (req (List.flatten [leBytes 9 1, [1], leBytes 18 0, [1, 0, 0, 0]]))), (req (List.flatten [leBytes 9 1, [1], leBytes 18 0, [1, 0, 0,
      0]])), _, _, ⟨by decide +kernel, rfl⟩, by decide +kernel, rfl, by decide +kernel, by decide +kernel, by decide +kernel⟩⟩

/-- The conditions of StoreFabricClockAndCaptureCommandsTakeEffect, each met by a state and operands. -/
theorem test_meets_store_fabric_clock_and_capture_commands_take_effect_2 :
    ∃ (s : State) (r : Req) (q : _) (c : _), Granted s 6 r q ∧ 16 ≤ respSpace r.src ∧ parseArm r.body = .ok c ∧ s.hold.capture.st ≠ .armed ∧
    s.hold.capture.st ≠ .running ∧ c.trigger = 0 :=
  ⟨(granted 6 (req (List.flatten [leBytes 9 1, [0], leBytes 18 0, [1, 0, 0, 0]]))), (req (List.flatten [leBytes 9 1, [0], leBytes 18 0, [1, 0, 0,
      0]])), _, _, ⟨by decide +kernel, rfl⟩, by decide +kernel, rfl, by decide +kernel, by decide +kernel, by decide +kernel⟩

/-- The conditions of SensorLoopAndKeyCommandsTakeEffect, each met by a state and operands. -/
theorem test_meets_sensor_loop_and_key_commands_take_effect :
    (∃ (s : State) (r : Req) (q : _) (_n : SensId), Granted s 0x11 r q ∧ 80 ≤ respSpace r.src ∧ r.body.length = 8 ∧ bitsAt r.body 24 8 = 0 ∧ bitsAt r.body
      0 16 ≠ 0 ∧ s.domOn pdSense = true ∧ ((∀ n : SensId, s.sense[n].broken = false ∧ s.sense[n].cal = none)) ∧ bitsAt r.body 16 8 ≤ 1) ∧
    (∃ (s : State) (r : Req) (q : _) (n : SensId), Granted s 0x11 r q ∧ 80 ≤ respSpace r.src ∧ r.body.length = 8 ∧ bitsAt r.body 24 8 = 0 ∧ bitsAt r.body
      0 16 ≠ 0 ∧ s.domOn pdSense = true ∧ ((∀ n : SensId, s.sense[n].broken = false ∧ s.sense[n].cal = none)) ∧ bitsAt r.body 16 8 = 2 ∧ (bitsAt
      r.body 0 16).testBit n = true) ∧
    (∃ (s : State) (r : Req) (q : _) (j : LoopId), Granted s 0x12 r q ∧ 16 ≤ respSpace r.src ∧ r.body.length = 6 ∧ bitsAt r.body 0 16 = j.val ∧ bitsAt
      r.body 16 16 = 0) ∧
    (∃ (s : State) (r : Req) (q : _) (j : LoopId), Granted s 0x12 r q ∧ 16 ≤ respSpace r.src ∧ r.body.length = 6 ∧ bitsAt r.body 0 16 = j.val ∧ 3500 ≤
      bitsAt r.body 16 16 ∧ bitsAt r.body 16 16 ≤ 23000) ∧
    (∃ (s : State) (r : Req) (q : _) (x : _), Granted s 0x13 r q ∧ r.body.length = 44 ∧ bitsAt r.body 0 32 ≤ 4 ∧ s.session r.session = some x) ∧
    (∃ (s : State) (r : Req) (q : _) (b : _), Granted s 0x14 r q ∧ 20 ≤ respSpace r.src ∧ r.body.length = 8 ∧ bitsAt r.body 0 8 ≤ 2 ∧ bitsAt r.body 8 24 =
      0 ∧ s.sec.rngFailed = false ∧ s.rollBerths (bitsAt r.body 0 8) (bitsAt r.body 32 32) ≠ [] ∧ ((∀ b : Berth, s.line[b].rolling = false)) ∧ b ∈
      s.rollBerths (bitsAt r.body 0 8) (bitsAt r.body 32 32)) :=
  ⟨⟨(granted 0x11 (req [1, 0, 0, 0, 0, 0, 0, 0])), (req [1, 0, 0, 0, 0, 0, 0, 0]), _, (0 : SensId), ⟨by decide +kernel, rfl⟩, by decide +kernel,
      by decide +kernel, by decide +kernel, by decide +kernel, by decide +kernel, by decide +kernel, by decide +kernel⟩,
   ⟨(granted 0x11 (req [1, 0, 2, 0, 0, 0, 0, 0])), (req [1, 0, 2, 0, 0, 0, 0, 0]), _, (0 : SensId), ⟨by decide +kernel, rfl⟩, by decide +kernel,
      by decide +kernel, by decide +kernel, by decide +kernel, by decide +kernel, by decide +kernel, by decide +kernel, by decide +kernel⟩,
   ⟨(granted 0x12 (req [2, 0, 0, 0, 0, 0])), (req [2, 0, 0, 0, 0, 0]), _, (2 : LoopId), ⟨by decide +kernel, rfl⟩, by decide +kernel, by decide +kernel,
      by decide +kernel, by decide +kernel⟩,
   ⟨(granted 0x12 (req [2, 0, 0xAC, 0x0D, 1, 0])), (req [2, 0, 0xAC, 0x0D, 1, 0]), _, (2 : LoopId), ⟨by decide +kernel, rfl⟩, by decide +kernel,
      by decide +kernel, by decide +kernel, by decide +kernel, by decide +kernel⟩,
   ⟨(granted 0x13 (req (List.replicate 44 0))), (req (List.replicate 44 0)), _, _, ⟨by decide +kernel, rfl⟩, by decide +kernel, by decide +kernel, rfl⟩,
   ⟨(granted 0x14 (req [0, 0, 0, 0, 1, 0, 0, 0])), (req [0, 0, 0, 0, 1, 0, 0, 0]), _, (0 : Berth), ⟨by decide +kernel, rfl⟩, by decide +kernel,
      by decide +kernel, by decide +kernel, by decide +kernel, by decide +kernel, by decide +kernel, by decide +kernel, by decide +kernel⟩⟩

/-- The conditions of FreeCommandsAnswer, each met by a state and operands. -/
theorem test_meets_free_commands_answer :
    (∃ (s : State) (r : Req) (x : _) (body : _) (msg : _), Accepted s 3 r x ∧ r.src = .uart0 ∧ x.key ≠ [] ∧ Cls.ofCode r.cls.toNat ∉ [.context, .route] ∧
      r.body = [0, 0, 0, 0] ∧ body = listBody (s.objGen (Cls.ofCode r.cls.toNat, r.inst.toNat)) (s.allEntries (Cls.ofCode r.cls.toNat) r.inst.toNat) ∧
      16 + body.length ≤ 4096 ∧ msg = respHeader 3 r.cmdSeq .ok body.length 0 ++ body) ∧
    (∃ (s : State) (t : Nat) (r : Req) (x : _) (y : _) (i : _), Accepted s 5 r x ∧ r.src = .uart0 ∧ Cls.ofCode r.cls.toNat ∉ [.context, .route] ∧
      r.body.length = 4 ∧ bitsAt r.body 1 31 = 0 ∧ 16 + (listBody 0 (((s.at t).statFields (Cls.ofCode r.cls.toNat) r.inst.toNat).map
      StatOut.entry)).length ≤ 4096 ∧ bitsAt r.body 0 1 = 0 ∧ (y, i) ≠ (Stat.slackMin, r.inst.toNat)) ∧
    (∃ (s : State) (t : Nat) (r : Req) (x : _) (y : _), Accepted s 5 r x ∧ r.src = .uart0 ∧ Cls.ofCode r.cls.toNat ∉ [.context, .route] ∧ r.body.length =
      4 ∧ bitsAt r.body 1 31 = 0 ∧ 16 + (listBody 0 (((s.at t).statFields (Cls.ofCode r.cls.toNat) r.inst.toNat).map StatOut.entry)).length ≤ 4096 ∧
      bitsAt r.body 0 1 = 1 ∧ x.role ≠ .observer ∧ y ∈ Stat.all ∧ y.desc.hist = true ∧ y ≠ .slackMin ∧ (y.desc.home == homeOf (Cls.ofCode r.cls.toNat)
      r.inst.toNat) = true) ∧
    (∃ (s : State) (r : Req) (x : _) (msg : _), Accepted s 7 r x ∧ r.src = .uart0 ∧ x.key ≠ [] ∧ (captureReadRsp r s).st = .ok ∧ 16 + (captureReadRsp r
      s).body.length ≤ 4096 ∧ (captureReadRsp r s).aux = none ∧ msg = respHeader 7 r.cmdSeq .ok (captureReadRsp r s).body.length 0 ++ (captureReadRsp
      r s).body) ∧
    (∃ (s : State) (t : Nat) (r : Req) (x : _) (i : _), Accepted s 0x15 r x ∧ r.body.length = 32 ∧ s.sec.enrolling = none ∧ s.sec.attIndex = some i ∧
      (s.at t).attestBusy = false) ∧
    (∃ (s : State) (r : Req) (x : _), Accepted s 0xD r x ∧ s.underway 0xD r = false) ∧
    (∃ (s : State) (r : Req) (x : _), Accepted s 0x13 r x ∧ s.underway 0x13 r = false) ∧
    (∃ (s : State) (r : Req) (x : _), Accepted s 4 r x ∧ s.underway 4 r = false) :=
  ⟨⟨(accepted 3 ({ req [0, 0, 0, 0] with cls := 11 } : Req)), ({ req [0, 0, 0, 0] with cls := 11 } : Req), _, _, _, ⟨by decide +kernel,
      by decide +kernel, rfl⟩, by decide +kernel, by decide +kernel, by decide +kernel, by decide +kernel, rfl, by decide +kernel, rfl⟩,
   ⟨(accepted 5 ({ req [0, 0, 0, 0] with cls := 11 } : Req)), 0, ({ req [0, 0, 0, 0] with cls := 11 } : Req), _, Stat.beaconsSent, 5,
      ⟨by decide +kernel, by decide +kernel, rfl⟩, by decide +kernel, by decide +kernel, by decide +kernel, by decide +kernel, by decide +kernel,
      by decide +kernel, by decide +kernel⟩,
   ⟨(accepted 5 ({ req [1, 0, 0, 0] with cls := 11 } : Req)), 0, ({ req [1, 0, 0, 0] with cls := 11 } : Req), _, Stat.loopFaultHist, ⟨by decide +kernel,
      by decide +kernel, rfl⟩, by decide +kernel, by decide +kernel, by decide +kernel, by decide +kernel, by decide +kernel, by decide +kernel,
      by decide +kernel, by decide +kernel, by decide +kernel, by decide +kernel, by decide +kernel⟩,
   ⟨({ (accepted 7 ({ req (List.replicate 12 0) with session := 1 } : Req)) with hold := { up.hold with capture := { st := .done, rx := 1, granules := [⟨0, 0, 0, []⟩] } } }
      : State), ({ req (List.replicate 12 0) with session := 1 } : Req), _, _, ⟨by decide +kernel, by decide +kernel, rfl⟩, by decide +kernel,
      by decide +kernel, by decide +kernel, by decide +kernel, by decide +kernel, rfl⟩,
   ⟨({ (accepted 0x15 (req (List.replicate 32 0))) with sec := { up.sec with attIndex := some 5 } } : State), 0, (req (List.replicate 32 0)), _, 5,
      ⟨by decide +kernel, by decide +kernel, rfl⟩, by decide +kernel, by decide +kernel, by decide +kernel, by decide +kernel⟩,
   ⟨(accepted 0xD (req [])), (req []), _, ⟨by decide +kernel, by decide +kernel, rfl⟩, by decide +kernel⟩,
   ⟨(accepted 0x13 (req [])), (req []), _, ⟨by decide +kernel, by decide +kernel, rfl⟩, by decide +kernel⟩,
   ⟨(accepted 4 (req [])), (req []), _, ⟨by decide +kernel, by decide +kernel, rfl⟩, by decide +kernel⟩⟩

/-- The conditions of CancellersFollow, each met by a state and operands. -/
theorem test_meets_cancellers_follow_1 :
    (∃ (s : State) (b : Berth) (res : TrainResult), s.berth[b].cancel = .training ∧ trainOk (s.fval .resumeThresh b) res = true) ∧
    (∃ (s : State) (b : Berth) (res : TrainResult), s.berth[b].cancel = .training ∧ trainOk (s.fval .resumeThresh b) res = false ∧ s.berth[b].trainFails =
      []) ∧
    (∃ (s : State) (t : Nat) (b : Berth) (blk : AdaptBlock) (u : _), (s.at t).releaseAt .adapt b = u ∧ blk.jump = false ∧ s.berth[b].cancel = .training) ∧
    (∃ (s : State) (t : Nat) (b : Berth) (blk : AdaptBlock) (u : _), (s.at t).releaseAt .adapt b = u ∧ blk.jump = false ∧ s.berth[b].cancel ≠ .training) ∧
    (∃ (s : State) (b : Berth) (k : Fin 4), s.berth[b].cancel = .tracking ∧ k ≠ 0) ∧
    (∃ (s : State) (b : Berth) (m : Residual), m.blanked ≤ 256 ∧ m.excess ≤ s.fval .divThresh b ∧ m.clipMany = false) ∧
    (∃ (s : State) (b : Berth) (m : Residual) (k : _), m.blanked ≤ 256 ∧ s.fval .divThresh b < m.excess ∧ m.neighbour = some k) ∧
    (∃ (s : State) (b : Berth) (m : Residual), m.blanked ≤ 256 ∧ s.fval .divThresh b < m.excess ∧ m.neighbour = none ∧ s.berth[b].cancel = .tracking ∧
      s.berth[b].ocStop = false) :=
  ⟨⟨(up.modBerth 0 fun (x : BerthSt) => ({ x with cancel := .training } : BerthSt)), (0 : Berth),
      ({ excess := [(0, -100000)], blanked := 0, hybrid := 0, hybridGroup := 0, cdac := 0, delays := [], exps := [], analog := [], own := [], cancel := 0 }
      : TrainResult), by decide +kernel, by decide +kernel⟩,
   ⟨(up.modBerth 0 fun (x : BerthSt) => ({ x with cancel := .training } : BerthSt)), (0 : Berth),
      ({ excess := [(0, 100000)], blanked := 0, hybrid := 0, hybridGroup := 0, cdac := 0, delays := [], exps := [], analog := [], own := [], cancel := 0 }
      : TrainResult), by decide +kernel, by decide +kernel, by decide +kernel⟩,
   ⟨(up.modBerth 0 fun (x : BerthSt) => ({ x with cancel := .training } : BerthSt)), 0, (0 : Berth),
      ({ sums := [], divisor := [], strong := [], jump := false, rxDue := false, toBoundary := 0 } : AdaptBlock), _, rfl, by decide +kernel,
      by decide +kernel⟩,
   ⟨(up.modBerth 0 fun (x : BerthSt) => ({ x with cancel := .tracking } : BerthSt)), 0, (0 : Berth),
      ({ sums := [], divisor := [], strong := [], jump := false, rxDue := false, toBoundary := 0 } : AdaptBlock), _, rfl, by decide +kernel,
      by decide +kernel⟩,
   ⟨((fun (s : State) => ({ s with berth := (s.berth.set (0 : Berth) { s.berth[(0 : Berth)] with cancel := .tracking }) } : State)) State.reset), (0 :
      Berth), (1 : Fin 4), by decide +kernel, by decide +kernel⟩,
   ⟨up, (0 : Berth), ({ blanked := 0, excess := -100000, clipMany := false, neighbour := none, rxDue := false, toBoundary := 0 } : Residual),
      by decide +kernel, by decide +kernel, by decide +kernel⟩,
   ⟨up, (0 : Berth), ({ blanked := 0, excess := 100000, clipMany := false, neighbour := some 1, rxDue := false, toBoundary := 0 } : Residual), 1,
      by decide +kernel, by decide +kernel, by decide +kernel⟩,
   ⟨(up.modBerth 0 fun (x : BerthSt) => ({ x with cancel := .tracking } : BerthSt)), (0 : Berth),
      ({ blanked := 0, excess := 100000, clipMany := false, neighbour := none, rxDue := false, toBoundary := 0 } : Residual), by decide +kernel,
      by decide +kernel, by decide +kernel, by decide +kernel, by decide +kernel⟩⟩

/-- The conditions of CancellersFollow, each met by a state and operands. -/
theorem test_meets_cancellers_follow_2 :
    (∃ (s : State) (b : Berth) (k : _), s.berth[b].nbrRefit = some k) ∧
    (∃ (s : State) (b : Berth) (m : Recovery), s.berth[b].nbrRefit = none ∧ s.berth[b].cancel = .diverged ∧ m.worst ≤ s.fval .resumeThresh b ∧ 4096 ≤
      m.usable ∧ m.clipped * 100 ≤ m.stored) ∧
    (∃ (s : State) (b : Berth) (m : Recovery), s.berth[b].nbrRefit = none ∧ s.berth[b].cancel = .diverged ∧ (s.fval .resumeThresh b < m.worst ∨ m.usable <
      4096 ∨ m.stored < m.clipped * 100)) ∧
    (∃ (s : State) (b : Berth), s.berth[b].cancel = .fallback) ∧
    (∃ (s : State) (t : Nat) (b : Berth) (j : Fin 3) (resid : Int) (a : _), s.stat .nbrConflict b j = 0 ∧ 0 < resid ∧ s.berth[b].nbrAbove[j] = some a ∧ a
      + seconds 1 ≤ max s.now t) ∧
    (∃ (s : State) (t : Nat) (b : Berth) (j : Fin 3) (resid : Int) (a : _), s.stat .nbrConflict b j ≠ 0 ∧ resid < -30 ∧ s.berth[b].nbrBelow[j] = some a ∧
      a + seconds 10 ≤ max s.now t) ∧
    (∃ (s : State) (b : Berth) (j : Fin 3) (resid : Int), resid < -30 ∧ s.berth[b].nbrBelow[j] = none) ∧
    (∃ (s : State) (t : Nat) (b : Berth), s.berth[b].quietAt + seconds 10 ≤ max s.now t) :=
  ⟨⟨((fun (s : State) => ({ s with berth := (s.berth.set (0 : Berth) { s.berth[(0 : Berth)] with nbrRefit := some 0 }) } : State)) State.reset), (0 :
      Berth), 0, by decide +kernel⟩,
   ⟨(up.modBerth 0 fun (x : BerthSt) => ({ x with cancel := .diverged } : BerthSt)), (0 : Berth),
      ({ worst := -100000, usable := 4096, clipped := 0, stored := 0, taps := [] } : Recovery), by decide +kernel, by decide +kernel,
      by decide +kernel, by decide +kernel, by decide +kernel⟩,
   ⟨(up.modBerth 0 fun (x : BerthSt) => ({ x with cancel := .diverged } : BerthSt)), (0 : Berth),
      ({ worst := 100000, usable := 4096, clipped := 0, stored := 0, taps := [] } : Recovery), by decide +kernel, by decide +kernel,
      by decide +kernel⟩,
   ⟨((fun (s : State) => ({ s with berth := (s.berth.set (0 : Berth) { s.berth[(0 : Berth)] with cancel := .fallback }) } : State)) State.reset), (0 :
      Berth), by decide +kernel⟩,
   ⟨(up.modBerth 0 fun (x : BerthSt) => ({ x with nbrAbove := up.berth[0].nbrAbove.set 0 (some 0) } : BerthSt)), 1000000000, (0 : Berth), (0 : Fin 3),
      1, 0, by decide +kernel, by decide +kernel, by decide +kernel, by decide +kernel⟩,
   ⟨(((up.modBerth 0 fun (x : BerthSt) => ({ x with nbrBelow := up.berth[0].nbrBelow.set 0 (some 0) } : BerthSt))).statSet .nbrConflict 0 0 1),
      10000000000, (0 : Berth), (0 : Fin 3), -31, 0, by decide +kernel, by decide +kernel, by decide +kernel, by decide +kernel⟩,
   ⟨up, (0 : Berth), (0 : Fin 3), -31, by decide +kernel, by decide +kernel⟩,
   ⟨State.reset, 1000000000000000000, (0 : Berth), by decide +kernel⟩⟩

/-- The conditions of HoldFollows, each met by a state and operands. -/
theorem test_meets_hold_follows_1 :
    (∃ (s : State) (m : Chan) (ok : Bool), s.hold.chan[m].retry = true ∧ ok = true) ∧
    (∃ (s : State) (m : Chan) (ok : Bool), s.hold.chan[m].retry = true ∧ ok = false ∧ s.hold.chan[m].st = .active) ∧
    (∃ (s : State) (m : Chan), 2 ≤ s.hold.chan[m].missed) ∧
    (∃ (s : State) (m : Chan) (ce : Nat), s.chanOut m = false ∧ ce ≠ 0) ∧
    (∃ (s : State) (m : Chan) (ue : Nat), s.chanOut m = false ∧ ue ≠ 0) ∧
    (∃ (s : State) (m : Chan) (k : Chan), s.hold.chan[m].trig = true ∧ s.hold.chan[m].st = .active ∧ k ≠ m) ∧
    (∃ (s : State) (m : Chan) (rest : _), s.hold.retiring = m :: rest ∧ s.hold.chan[m].st = .fenced) ∧
    (∃ (s : State) (m : Chan) (rest : _), s.hold.retiring = m :: rest ∧ s.hold.chan[m].st = .draining) :=
  ⟨⟨((fun (s : State) => ({ s with hold := { s.hold with chan := (s.hold.chan.set (0 : Chan) { s.hold.chan[(0 : Chan)] with retry := true }) } } :
      State)) State.reset), (0 : Chan), true, by decide +kernel, by decide +kernel⟩,
   ⟨((fun (s : State) => ({ s with hold := { s.hold with chan := (s.hold.chan.set (0 : Chan) { s.hold.chan[(0 : Chan)] with st := .active }) } } :
      State)) ((fun (s : State) =>
      ({ s with hold := { s.hold with chan := (s.hold.chan.set (0 : Chan) { s.hold.chan[(0 : Chan)] with retry := true }) } } : State)) State.reset)),
      (0 : Chan), false, by decide +kernel, by decide +kernel, by decide +kernel⟩,
   ⟨((fun (s : State) => ({ s with hold := { s.hold with chan := (s.hold.chan.set (0 : Chan) { s.hold.chan[(0 : Chan)] with missed := 2 }) } } : State))
      State.reset), (0 : Chan), by decide +kernel⟩,
   ⟨State.reset, (0 : Chan), 1, by decide +kernel, by decide +kernel⟩,
   ⟨State.reset, (0 : Chan), 1, by decide +kernel, by decide +kernel⟩,
   ⟨((fun (s : State) => ({ s with hold := { s.hold with chan := (s.hold.chan.set (0 : Chan) { s.hold.chan[(0 : Chan)] with st := .active }) } } :
      State)) ((fun (s : State) =>
      ({ s with hold := { s.hold with chan := (s.hold.chan.set (0 : Chan) { s.hold.chan[(0 : Chan)] with trig := true }) } } : State)) State.reset)),
      (0 : Chan), (1 : Chan), by decide +kernel, by decide +kernel, by decide +kernel⟩,
   ⟨({ (up.modChan 0 fun (x : ChanRec) => ({ x with st := .fenced } : ChanRec)) with hold := { (up.modChan 0 fun (x : ChanRec) => ({ x with st := .fenced } : ChanRec)).hold with retiring := [0] } }
      : State), (0 : Chan), [], by decide +kernel, by decide +kernel⟩,
   ⟨({ (up.modChan 0 fun (x : ChanRec) => ({ x with st := .draining } : ChanRec)) with hold := { (up.modChan 0 fun (x : ChanRec) => ({ x with st := .draining } : ChanRec)).hold with retiring := [0] } }
      : State), (0 : Chan), [], by decide +kernel, by decide +kernel⟩⟩

/-- The conditions of HoldFollows, each met by a state and operands. -/
theorem test_meets_hold_follows_2 :
    (∃ (s : State) (t : Nat) (m : Chan), s.hold.chan[m].st = .draining ∧ s.hold.chan[m].rebuilt = true ∧ ((∃ a, s.hold.chan[m].drainSince = some a ∧ a +
      seconds 2 ≤ max s.now t) ∨ (∀ f, f ∈ s.hold.frames → f.chan ≠ m))) ∧
    (∃ (s : State) (t : Nat) (m : Chan), s.hold.chan[m].st = .draining ∧ s.hold.chan[m].rebuilt = true ∧ ((∃ a, s.hold.chan[m].drainSince = some a ∧ a +
      seconds 2 ≤ max s.now t) ∨ (∀ f, f ∈ s.hold.frames → f.chan ≠ m))) ∧
    (∃ (s : State), s.hold.capture.st = .armed) ∧
    (∃ (s : State), s.hold.capture.st = .running) ∧
    (∃ (s : State) (id : Nat), id ∉ s.hold.cache) :=
  ⟨⟨(up.modChan 0 fun (x : ChanRec) => ({ x with st := .draining, rebuilt := true, drainSince := some 0 } : ChanRec)), 2000000000, (0 : Chan),
      by decide +kernel, by decide +kernel, Or.inl ⟨0, by decide +kernel, by decide +kernel⟩⟩,
   ⟨(up.modChan 0 fun (x : ChanRec) => ({ x with st := .draining, rebuilt := true, drainSince := some 0 } : ChanRec)), 2000000000, (0 : Chan),
      by decide +kernel, by decide +kernel, Or.inl ⟨0, by decide +kernel, by decide +kernel⟩⟩,
   ⟨((fun (s : State) => ({ s with hold := { s.hold with capture := { s.hold.capture with st := .armed } } } : State)) State.reset), by decide +kernel⟩,
   ⟨((fun (s : State) => ({ s with hold := { s.hold with capture := { s.hold.capture with st := .running } } } : State)) State.reset),
      by decide +kernel⟩,
   ⟨State.reset, 0, by decide +kernel⟩⟩

/-- The conditions of ContextsAndOwnersFollow, each met by a state and operands. -/
theorem test_meets_contexts_and_owners_follow_1 :
    (∃ (s : State) (id : Nat) (c : _), s.ctx? id = some c ∧ c.st = .active ∧ s.fnat .stationTimeout c.berth ≤ periodsSince s.line[c.berth] c.lastRx) ∧
    (∃ (s : State) (id : Nat) (c : _), s.ctx? id = some c ∧ c.st = .dormant ∧ s.fnat .dormantTimeout c.berth ≤ periodsSince s.line[c.berth] c.since) ∧
    (∃ (s : State) (id : Nat) (c : _), s.ctx? id = some c ∧ c.st = .closing ∧ (s.ctxEmpty id = true ∨ 256 ≤ periodsSince s.line[c.berth] c.since)) ∧
    (∃ (s : State) (id : Nat) (c : _), s.ctx? id = some c ∧ c.st = .remote ∧ 256 ≤ periodsSince s.line[c.berth] c.since ∧ ((∀ f, f ∈ s.hold.frames → f.ctx
      = id → f.dstKind ≠ 0))) ∧
    (∃ (s : State) (b : Berth) (ctx : Nat) (c : _), s.ctx? ctx = some c ∧ c.berth = b ∧ (c.st = .active ∨ c.st = .dormant)) ∧
    (∃ (s : State) (t : Nat) (l : LinkId) (b : Bytes) (a : _), Arrives s l 3 b ∧ bitsAt b 11 1 = 0 ∧ s.drained .mgmt = false ∧ a = (s.at t).modLink l (fun
      x => { x with pktRx := x.pktRx + 1 })) ∧
    (∃ (s : State) (l : LinkId) (b : Bytes), Arrives s l 4 b ∧ s.drained .mgmt = false) ∧
    (∃ (s : State) (t : Nat) (eui : BitVec 64) (q : _) (c : Ctx), (s.owns.find? fun x => x.eui == eui) = some q ∧ q.since + millis 2 ≤ max s.now t ∧
      s.drained .mgmt = false ∧ c.eui = eui ∧ c.berth = q.berth ∧ c.st ≠ .closing ∧ c.st ≠ .remote) :=
  ⟨⟨(({ up with ctxs := [({ id := 5, st := .active } : Ctx)] } : State).modLine 0 fun (x : Line) => ({ x with bpc := 100000 } : Line)), 5,
      ({ id := 5, st := .active } : Ctx), by decide +kernel, by decide +kernel, by decide +kernel⟩,
   ⟨(({ up with ctxs := [({ id := 5, st := .dormant } : Ctx)] } : State).modLine 0 fun (x : Line) => ({ x with bpc := 1000000 } : Line)), 5,
      ({ id := 5, st := .dormant } : Ctx), by decide +kernel, by decide +kernel, by decide +kernel⟩,
   ⟨(({ up with ctxs := [({ id := 5, st := .closing } : Ctx)] } : State).modLine 0 fun (x : Line) => ({ x with bpc := 256 } : Line)), 5,
      ({ id := 5, st := .closing } : Ctx), by decide +kernel, by decide +kernel, by decide +kernel⟩,
   ⟨(({ up with ctxs := [({ id := 5, st := .remote } : Ctx)] } : State).modLine 0 fun (x : Line) => ({ x with bpc := 256 } : Line)), 5,
      ({ id := 5, st := .remote } : Ctx), by decide +kernel, by decide +kernel, by decide +kernel, by intro f h; cases h⟩,
   ⟨({ up with ctxs := [({ id := 5, st := .active } : Ctx)] } : State), (0 : Berth), 5, ({ id := 5, st := .active } : Ctx), by decide +kernel,
      by decide +kernel, by decide +kernel⟩,
   ⟨(up.modLink 0 fun (x : FabLink) => ({ x with st := .up } : FabLink)), 0, 0, (leBytes 32 (48 + 2 ^ 12)), _, ⟨by decide +kernel, by decide +kernel,
      by decide +kernel, by decide +kernel, by decide +kernel, by decide +kernel, by decide +kernel⟩, by decide +kernel, by decide +kernel, rfl⟩,
   ⟨(up.modLink 0 fun (x : FabLink) => ({ x with st := .up } : FabLink)), 0, (leBytes 32 (64 + 2 ^ 12)), ⟨by decide +kernel, by decide +kernel,
      by decide +kernel, by decide +kernel, by decide +kernel, by decide +kernel, by decide +kernel⟩, by decide +kernel⟩,
   ⟨({ up with owns := [({ eui := 7, id := 5, berth := 0, since := 0 } : OwnQuery)], ctxs := [({ id := 5, st := .active, eui := 7 } : Ctx)] } : State),
      2000000, 7, ({ eui := 7, id := 5, berth := 0, since := 0 } : OwnQuery), ({ id := 5, st := .active, eui := 7 } : Ctx), by decide +kernel,
      by decide +kernel, by decide +kernel, by decide +kernel, by decide +kernel, by decide +kernel, by decide +kernel⟩⟩

/-- The conditions of ContextsAndOwnersFollow, each met by a state and operands. -/
theorem test_meets_contexts_and_owners_follow_2 :
    (∃ (s : State) (l : LinkId) (b : Bytes), Arrives s l 5 b ∧ s.drained .mgmt = false) ∧
    (∃ (s : State) (l : LinkId) (b : Bytes), Arrives s l 6 b ∧ s.drained .mgmt = false ∧ bitsAt b 27 9 ≠ s.fab.addr.toNat ∧ s.hold.routes.length +
      s.hold.aside.length < s.routeRoom) ∧
    (∃ (s : State), s.drained .mgmt = false) ∧
    (∃ (s : State) (t : Nat) (eui : BitVec 64) (r : _), s.route? eui = some r ∧ r.kind = 1 ∧ r.pinned = false ∧ r.heard + seconds (3 * s.fnat
      .advertRefresh 0) ≤ max s.now t) :=
  ⟨⟨(up.modLink 0 fun (x : FabLink) => ({ x with st := .up } : FabLink)), 0, (leBytes 32 (80 + 2 ^ 12)), ⟨by decide +kernel, by decide +kernel,
      by decide +kernel, by decide +kernel, by decide +kernel, by decide +kernel, by decide +kernel⟩, by decide +kernel⟩,
   ⟨(up.modLink 0 fun (x : FabLink) => ({ x with st := .up } : FabLink)), 0, (leBytes 32 (96 + 2 ^ 12 + 2 ^ 27)), ⟨by decide +kernel, by decide +kernel,
      by decide +kernel, by decide +kernel, by decide +kernel, by decide +kernel, by decide +kernel⟩, by decide +kernel, by decide +kernel,
      by decide +kernel⟩,
   ⟨State.reset, by decide +kernel⟩,
   ⟨({ up with hold := { up.hold with routes := [({ eui := 7, kind := 1, pinned := false } : Route)] } } : State), 1000000000000000000, 7,
      ({ eui := 7, kind := 1, pinned := false } : Route), by decide +kernel, by decide +kernel, by decide +kernel, by decide +kernel⟩⟩

/-- The conditions of JoinsFollow, each met by a state and operands. -/
theorem test_meets_joins_follow_1 :
    (∃ (s : State) (t : Nat) (b : Berth) (msg : Bytes) (eui : _) (a : _) (n : _) (id : _) (k : _), msg.length = 30 ∧ msg.headD 0 = 0x01 ∧ clearCrcOk msg =
      true ∧ s.drained .mgmt = false ∧ s.silent b = false ∧ s.coordinates b = true ∧ s.fbool .joinOpen b = true ∧ s.line[b].kDom ≠ none ∧ eui =
      BitVec.ofNat 64 (bitsAt msg 8 64) ∧ a = (s.at t).endJoin b eui ∧ a.lockedOut b eui = false ∧ (a.numbersUsed b).length < s.fnat .maxStations b ∧
      a.stationCount < 131040 ∧ a.freeNumber b = some n ∧ grantRun (freeRuns 0 a.idsTaken) (bitsAt msg 201 2 + 1) = some (id, k) ∧ s.sec.rngFailed =
      false) ∧
    (∃ (s : State) (b : Berth) (j : _), s.mayDrive b = true ∧ s.drained .mgmt = false ∧ joinsOwed s.line[b] = [j] ∧ j.reject = none) ∧
    (∃ (s : State) (b : Berth) (j : _), s.mayDrive b = true ∧ s.drained .mgmt = false ∧ joinsOwed s.line[b] = [j] ∧ j.reject ≠ none) ∧
    (∃ (s : State) (t : Nat) (b : Berth) (msg : Bytes) (eui : _), msg.length = 45 ∧ msg.headD 0 = 0x03 ∧ clearCrcOk msg = true ∧ s.drained .mgmt = false ∧
      s.silent b = false ∧ s.coordinates b = true ∧ eui = BitVec.ofNat 64 (bitsAt msg 8 64) ∧ (s.at t).lockedOut b eui = false ∧ ((∀ j, j ∈
      s.line[b].joins → j.eui ≠ eui))) ∧
    (∃ (s : State) (t : Nat) (b : Berth) (msg : Bytes) (eui : _) (j : _), msg.length = 45 ∧ msg.headD 0 = 0x03 ∧ clearCrcOk msg = true ∧ s.drained .mgmt =
      false ∧ s.silent b = false ∧ s.coordinates b = true ∧ eui = BitVec.ofNat 64 (bitsAt msg 8 64) ∧ (s.at t).lockedOut b eui = false ∧
      (s.line[b].joins.find? fun (x : Join) => x.eui == eui && x.challenged && !x.proven && x.reject.isNone) = some j ∧ newer 32 s.line[b].bpc.toNat
      j.deadline.toNat = false) ∧
    (∃ (s : State) (b : Berth) (eui : BitVec 64) (j : _), (s.line[b].joins.find? fun (x : Join) => x.eui == eui && x.challenged && !x.proven &&
      x.reject.isNone) = some j ∧ newer 32 s.line[b].bpc.toNat j.deadline.toNat = true) ∧
    (∃ (s : State) (b : Berth) (eui : BitVec 64) (j : _) (k : _), (s.line[b].joins.find? fun (x : Join) => x.eui == eui && x.proven) = some j ∧
      s.line[b].kDom = some k ∧ 2 < (s.line[b].bpc - j.causeBpc).toNat) ∧
    (∃ (s : State) (b : Berth) (eui : BitVec 64) (j : _) (k : _), (s.line[b].joins.find? fun (x : Join) => x.eui == eui && x.proven) = some j ∧
      s.line[b].kDom = some k ∧ (s.line[b].bpc - j.causeBpc).toNat ≤ 2 ∧ s.mayDrive b = true ∧ s.drained .mgmt = false ∧ (s.msgFc b j.ctx 3).isSome =
      true) :=
  ⟨⟨(((((up.fset .role 0 [0]).fset .txEnable 0 [1]).modLine 0 fun (x : Line) => ({ x with kDom := some [1] } : Line))).fset .joinOpen 0 [1]), 0, (0 :
      Berth), ((1 :: List.replicate 25 0) ++ crc32cBytes (1 :: List.replicate 25 0)), _, _, 1, 0, 1, by decide +kernel, by decide +kernel,
      by decide +kernel, by decide +kernel, by decide +kernel, by decide +kernel, by decide +kernel, by decide +kernel, rfl, rfl, by decide +kernel,
      by decide +kernel, by decide +kernel, by decide +kernel, by decide +kernel, by decide +kernel⟩,
   ⟨(((up.fset .role 0 [0]).fset .txEnable 0 [1]).modLine 0 fun (x : Line) =>
      ({ x with bpc := 1, joins := [({ eui := 7, stNonce := [], fdCapable := false, wanted := 1, causeBpc := 0, number := 1 } : Join)] } : Line)), (0
      : Berth), ({ eui := 7, stNonce := [], fdCapable := false, wanted := 1, causeBpc := 0, number := 1 } : Join), by decide +kernel,
      by decide +kernel, by decide +kernel, by decide +kernel⟩,
   ⟨(((up.fset .role 0 [0]).fset .txEnable 0 [1]).modLine 0 fun (x : Line) =>
      ({ x with bpc := 1, joins := [({ eui := 7, stNonce := [], fdCapable := false, wanted := 1, causeBpc := 0, reject := some 1 } : Join)] } :
      Line)), (0 : Berth), ({ eui := 7, stNonce := [], fdCapable := false, wanted := 1, causeBpc := 0, reject := some 1 } : Join), by decide +kernel,
      by decide +kernel, by decide +kernel, by decide +kernel⟩,
   ⟨((up.fset .role 0 [0]).fset .txEnable 0 [1]), 0, (0 : Berth), ((3 :: 7 :: List.replicate 39 0) ++ crc32cBytes (3 :: 7 :: List.replicate 39 0)), _,
      by decide +kernel, by decide +kernel, by decide +kernel, by decide +kernel, by decide +kernel, by decide +kernel, rfl, by decide +kernel,
      by intro j h; cases h⟩,
   ⟨(((up.fset .role 0 [0]).fset .txEnable 0 [1]).modLine 0 fun (x : Line) =>
      ({ x with joins := [({ eui := 7, stNonce := [], fdCapable := false, wanted := 1, causeBpc := 0, challenged := true, deadline := 8 } : Join)] } :
      Line)), 0, (0 : Berth), ((3 :: 7 :: List.replicate 39 0) ++ crc32cBytes (3 :: 7 :: List.replicate 39 0)), _,
      ({ eui := 7, stNonce := [], fdCapable := false, wanted := 1, causeBpc := 0, challenged := true, deadline := 8 } : Join), by decide +kernel,
      by decide +kernel, by decide +kernel, by decide +kernel, by decide +kernel, by decide +kernel, rfl, by decide +kernel, by decide +kernel,
      by decide +kernel⟩,
   ⟨(((up.fset .role 0 [0]).fset .txEnable 0 [1]).modLine 0 fun (x : Line) =>
      ({ x with bpc := 1, joins := [({ eui := 7, stNonce := [], fdCapable := false, wanted := 1, causeBpc := 0, challenged := true, deadline := 0 } : Join)] }
      : Line)), (0 : Berth), 7, ({ eui := 7, stNonce := [], fdCapable := false, wanted := 1, causeBpc := 0, challenged := true, deadline := 0 } :
      Join), by decide +kernel, by decide +kernel⟩,
   ⟨(((up.fset .role 0 [0]).fset .txEnable 0 [1]).modLine 0 fun (x : Line) =>
      ({ x with bpc := 3, kDom := some [1], joins := [({ eui := 7, stNonce := [], fdCapable := false, wanted := 1, causeBpc := 0, challenged := true, proven := true, ctx := 5 } : Join)] }
      : Line)), (0 : Berth), 7,
      ({ eui := 7, stNonce := [], fdCapable := false, wanted := 1, causeBpc := 0, challenged := true, proven := true, ctx := 5 } : Join), [1],
      by decide +kernel, by decide +kernel, by decide +kernel⟩,
   ⟨({ (((up.fset .role 0 [0]).fset .txEnable 0 [1]).modLine 0 fun (x : Line) => ({ x with bpc := 2, kDom := some [1], joins := [({ eui := 7, stNonce := [], fdCapable := false, wanted := 1, causeBpc := 0, challenged := true, proven := true, ctx := 5 } : Join)] } : Line)) with ctxs := [({ id := 5, st := .joining, station := 1 } : Ctx)] }
      : State), (0 : Berth), 7,
      ({ eui := 7, stNonce := [], fdCapable := false, wanted := 1, causeBpc := 0, challenged := true, proven := true, ctx := 5 } : Join), [1],
      by decide +kernel, by decide +kernel, by decide +kernel, by decide +kernel, by decide +kernel, by decide +kernel⟩⟩

/-- The conditions of JoinsFollow, each met by a state and operands. -/
theorem test_meets_joins_follow_2 :
    (∃ (s : State) (b : Berth) (eui : BitVec 64) (j : _) (k : _), (s.line[b].joins.find? fun (x : Join) => x.eui == eui && x.proven) = some j ∧
      s.line[b].kDom = some k ∧ (s.line[b].bpc - j.causeBpc).toNat ≤ 2 ∧ s.mayDrive b = true ∧ s.drained .mgmt = false ∧ (s.msgFc b j.ctx 3).isSome =
      true) ∧
    (∃ (s : State) (b : Berth) (msg : Bytes) (root : _), s.line[b].st.joined = false ∧ s.fnat .role b ≠ 0 ∧ msg.headD 0 = 0x02 ∧ msg.length = 43 ∧
      clearCrcOk msg = true ∧ bitsAt msg 8 64 = s.fnat .stEui b ∧ s.line[b].st.stNonce ≠ [] ∧ s.sec.root = some root) ∧
    (∃ (s : State) (b : Berth) (msg : Bytes), s.line[b].st.joined = false ∧ s.fnat .role b ≠ 0 ∧ msg.headD 0 = 0x04 ∧ msg.length = 37 ∧
      s.line[b].st.challenge ≠ none) ∧
    (∃ (s : State) (b : Berth) (msg : Bytes), s.line[b].st.joined = false ∧ s.fnat .role b ≠ 0 ∧ msg.headD 0 = 0x05 ∧ msg.length = 14 ∧ clearCrcOk msg =
      true ∧ bitsAt msg 8 64 = s.fnat .stEui b) :=
  ⟨⟨({ (((up.fset .role 0 [0]).fset .txEnable 0 [1]).modLine 0 fun (x : Line) => ({ x with bpc := 2, kDom := some [1], joins := [({ eui := 7, stNonce := [], fdCapable := false, wanted := 1, causeBpc := 0, challenged := true, proven := true, ctx := 5 } : Join)] } : Line)) with ctxs := [({ id := 5, st := .joining, station := 1 } : Ctx)] }
      : State), (0 : Berth), 7,
      ({ eui := 7, stNonce := [], fdCapable := false, wanted := 1, causeBpc := 0, challenged := true, proven := true, ctx := 5 } : Join), [1],
      by decide +kernel, by decide +kernel, by decide +kernel, by decide +kernel, by decide +kernel, by decide +kernel⟩,
   ⟨({ ((up.fset .role 0 [2]).modLine 0 fun (x : Line) => ({ x with st := { x.st with stNonce := [1] } } : Line)) with sec := { up.sec with root := some [1] } }
      : State), (0 : Berth), ((2 :: List.replicate 38 0) ++ crc32cBytes (2 :: List.replicate 38 0)), [1], by decide +kernel, by decide +kernel,
      by decide +kernel, by decide +kernel, by decide +kernel, by decide +kernel, by decide +kernel, by decide +kernel⟩,
   ⟨((up.fset .role 0 [2]).modLine 0 fun (x : Line) => ({ x with st := { x.st with challenge := some (1, 0) } } : Line)), (0 : Berth), (4 ::
      List.replicate 36 0), by decide +kernel, by decide +kernel, by decide +kernel, by decide +kernel, by decide +kernel⟩,
   ⟨(up.fset .role 0 [2]), (0 : Berth), ((5 :: List.replicate 9 0) ++ crc32cBytes (5 :: List.replicate 9 0)), by decide +kernel, by decide +kernel,
      by decide +kernel, by decide +kernel, by decide +kernel, by decide +kernel⟩⟩

/-- The conditions of HostLossAndReturnFollow, each met by a state and operands. -/
theorem test_meets_host_loss_and_return_follow_1 :
    (∃ (s : State), s.host.lost = false) ∧
    (∃ (s : State), s.host.lost = false) ∧
    (∃ (s : State), s.host.lost = false) ∧
    (∃ (s : State) (t : Nat), s.host.wdogMs ≠ 0 ∧ s.host.heartbeatAt + millis s.host.wdogMs ≤ max s.now t ∧ s.host.lost = false) ∧
    (∃ (s : State), s.host.lost = false) ∧
    (∃ (s : State) (q : QpId), s.qp[q].st = .active ∧ ((q = 0 → s.unreadCommand = none)) ∧ s.host.lost = false ∧ s.host.dmaTimeouts < 3) ∧
    (∃ (s : State) (q : QpId), s.qp[q].st = .active ∧ ((q = 0 → s.unreadCommand = none)) ∧ s.host.lost = false ∧ 3 ≤ s.host.dmaTimeouts) ∧
    (∃ (s : State) (e : _), s.qp[(0 : QpId)].st = .active ∧ s.unreadCommand = some e ∧ s.host.lost = false ∧ s.host.dmaTimeouts < 3) :=
  ⟨⟨((fun (s : State) => ({ s with host := { s.host with lost := false } } : State)) State.reset), by decide +kernel⟩,
   ⟨((fun (s : State) => ({ s with host := { s.host with lost := false } } : State)) State.reset), by decide +kernel⟩,
   ⟨((fun (s : State) => ({ s with host := { s.host with lost := false } } : State)) State.reset), by decide +kernel⟩,
   ⟨((fun (s : State) => ({ s with host := { s.host with lost := false } } : State)) ((fun (s : State) =>
      ({ s with host := { s.host with wdogMs := 1 } } : State)) State.reset)), 1000000000000000000, by decide +kernel, by decide +kernel,
      by decide +kernel⟩,
   ⟨((fun (s : State) => ({ s with host := { s.host with lost := false } } : State)) State.reset), by decide +kernel⟩,
   ⟨(up.modQp 2 fun (x : Qp) => ({ x with st := .active } : Qp)), 2, by decide +kernel, by decide +kernel, by decide +kernel, by decide +kernel⟩,
   ⟨({ (up.modQp 2 fun (x : Qp) => ({ x with st := .active } : Qp)) with host := { up.host with dmaTimeouts := 3 } } : State), 2, by decide +kernel,
      by decide +kernel, by decide +kernel, by decide +kernel⟩,
   ⟨(up.modQp 0 fun (x : Qp) => ({ x with st := .active, fetched := [(leBytes 32 (0x40 + 16 * 2 ^ 32))] } : Qp)), (leBytes 32 (0x40 + 16 * 2 ^ 32)),
      by decide +kernel, by decide +kernel, by decide +kernel, by decide +kernel⟩⟩

/-- The conditions of HostLossAndReturnFollow, each met by a state and operands. -/
theorem test_meets_host_loss_and_return_follow_2 :
    (∃ (s : State) (t : Nat), s.live.inserted = true ∧ s.live.quiet = false ∧ s.domOn pdHost = true ∧ s.drained .link = false ∧ s.live.insertAt + millis 1
      ≤ max s.now t) ∧
    (∃ (s : State), s.host.training = true ∧ s.domOn pdHost = true ∧ s.drained .link = false ∧ s.live.quiet = false) :=
  ⟨⟨((fun (s : State) => ({ s with live := { s.live with inserted := true } } : State)) up), 1000000000000000000, by decide +kernel, by decide +kernel,
      by decide +kernel, by decide +kernel, by decide +kernel⟩,
   ⟨((fun (s : State) => ({ s with host := { s.host with training := true } } : State)) up), by decide +kernel, by decide +kernel, by decide +kernel,
      by decide +kernel⟩⟩

/-- The conditions of QueuePairRegistersFollow, each met by a state and operands. -/
theorem test_meets_queue_pair_registers_follow_1 :
    (∃ (s : State) (q : QpId), s.hostAccess = true ∧ s.boot.hostReady = true ∧ s.qp[q].enable = false ∧ ((q ≠ 1 ∧ s.qp[q].sqBase.toNat % 4096 ≠ 0) ∨
      s.qp[q].cqBase.toNat % 4096 ≠ 0)) ∧
    (∃ (s : State) (q : QpId) (val : BitVec 32), s.hostAccess = true ∧ s.boot.hostReady = true ∧ s.qp[q].enable = false ∧ (q = 1 ∨ s.qp[q].sqBase.toNat %
      4096 = 0) ∧ s.qp[q].cqBase.toNat % 4096 = 0 ∧ ((val.extractLsb' 1 5).toNat < 6 ∨ 16 < (val.extractLsb' 1 5).toNat)) ∧
    (∃ (s : State) (q : QpId) (val : BitVec 32), s.hostAccess = true ∧ s.boot.hostReady = true ∧ s.qp[q].enable = false ∧ (q = 1 ∨ s.qp[q].sqBase.toNat %
      4096 = 0) ∧ s.qp[q].cqBase.toNat % 4096 = 0 ∧ 6 ≤ (val.extractLsb' 1 5).toNat ∧ (val.extractLsb' 1 5).toNat ≤ 16 ∧ q = 1 ∧ s.host.returnDue =
      true) ∧
    (∃ (s : State) (q : QpId), s.hostAccess = true ∧ s.qp[q].enable = true ∧ s.qp[q].st = .active ∧ s.qp[q].fetched = []) ∧
    (∃ (s : State) (q : QpId), s.hostAccess = true ∧ s.qp[q].enable = true ∧ s.qp[q].st = .active ∧ s.qp[q].fetched ≠ []) ∧
    (∃ (s : State) (q : QpId), s.hostAccess = true ∧ s.qp[q].enable = true ∧ s.qp[q].st ≠ .active) ∧
    (∃ (s : State) (q : QpId) (val : BitVec 32), s.hostAccess = true ∧ s.qp[q].st = .active ∧ s.qp[q].enable = true ∧ q ≠ 1 ∧ val.toNat < s.qp[q].size ∧
      val.toNat < 65536) ∧
    (∃ (s : State) (q : QpId) (val : BitVec 32), s.hostAccess = true ∧ s.qp[q].st = .active ∧ s.qp[q].enable = true ∧ q ≠ 1 ∧ s.qp[q].size ≤ val.toNat) :=
  ⟨⟨(up.modQp 2 fun (x : Qp) => ({ x with sqBase := 1 } : Qp)), (2 : QpId), by decide +kernel, by decide +kernel, by decide +kernel, Or.inl
      ⟨by decide +kernel, by decide +kernel⟩⟩,
   ⟨up, (2 : QpId), (BitVec.ofNat 32 (17 * 2 + 1)), by decide +kernel, by decide +kernel, by decide +kernel, Or.inr (by decide +kernel),
      by decide +kernel, by decide +kernel⟩,
   ⟨({ up with host := { up.host with returnDue := true } } : State), (1 : QpId), (BitVec.ofNat 32 (6 * 2 + 1)), by decide +kernel, by decide +kernel,
      by decide +kernel, by decide +kernel, by decide +kernel, by decide +kernel, by decide +kernel, by decide +kernel, by decide +kernel⟩,
   ⟨(up.modQp 2 fun (x : Qp) => ({ x with st := .active, enable := true } : Qp)), (2 : QpId), by decide +kernel, by decide +kernel, by decide +kernel,
      by decide +kernel⟩,
   ⟨(up.modQp 2 fun (x : Qp) => ({ x with st := .active, enable := true, fetched := [[0]] } : Qp)), (2 : QpId), by decide +kernel, by decide +kernel,
      by decide +kernel, by decide +kernel⟩,
   ⟨(up.modQp 2 fun (x : Qp) => ({ x with enable := true } : Qp)), (2 : QpId), by decide +kernel, by decide +kernel, by decide +kernel⟩,
   ⟨(up.modQp 2 fun (x : Qp) => ({ x with st := .active, enable := true } : Qp)), (2 : QpId), 63, by decide +kernel, by decide +kernel,
      by decide +kernel, by decide +kernel, by decide +kernel, by decide +kernel⟩,
   ⟨(up.modQp 2 fun (x : Qp) => ({ x with st := .active, enable := true } : Qp)), (2 : QpId), 64, by decide +kernel, by decide +kernel,
      by decide +kernel, by decide +kernel, by decide +kernel⟩⟩

/-- The conditions of QueuePairRegistersFollow, each met by a state and operands. -/
theorem test_meets_queue_pair_registers_follow_2 :
    (∃ (s : State) (q : QpId), s.hostAccess = true ∧ (s.qp[q].st ≠ .active ∨ q = 1)) ∧
    (∃ (s : State) (q : QpId) (val : BitVec 32), s.hostAccess = true ∧ s.qp[q].st = .active ∧ s.qp[q].enable = true ∧ val.toNat < s.qp[q].size ∧ val.toNat
      < 65536 ∧ s.qp[q].cqSpan val.toNat ≤ s.qp[q].cqSpan s.qp[q].cqTail) ∧
    (∃ (s : State) (q : QpId) (val : BitVec 32), s.hostAccess = true ∧ s.qp[q].st = .active ∧ s.qp[q].enable = true ∧ (s.qp[q].size ≤ val.toNat ∨
      s.qp[q].cqSpan s.qp[q].cqTail < s.qp[q].cqSpan val.toNat)) ∧
    (∃ (s : State) (q : QpId), s.hostAccess = true ∧ s.qp[q].st ≠ .active) ∧
    (∃ (s : State), s.hostAccess = true) :=
  ⟨⟨up, (2 : QpId), by decide +kernel, by decide +kernel⟩,
   ⟨(up.modQp 2 fun (x : Qp) => ({ x with st := .active, enable := true, cqTail := 3 } : Qp)), (2 : QpId), 3, by decide +kernel, by decide +kernel,
      by decide +kernel, by decide +kernel, by decide +kernel, by decide +kernel⟩,
   ⟨(up.modQp 2 fun (x : Qp) => ({ x with st := .active, enable := true, cqTail := 3 } : Qp)), (2 : QpId), 4, by decide +kernel, by decide +kernel,
      by decide +kernel, by decide +kernel⟩,
   ⟨up, (2 : QpId), by decide +kernel, by decide +kernel⟩,
   ⟨up, by decide +kernel⟩⟩

/-- The conditions of InterruptAndWindowWritesFollow, each met by a state and operands. -/
theorem test_meets_interrupt_and_window_writes_follow_1 :
    (∃ (s : State) (t : Nat) (val : BitVec 32) (k : Fin 8), s.hostAccess = true ∧ s.host.msixEnable = true ∧ s.host.busMaster = true ∧ s.host.lost = false
      ∧ s.host.funcMask = false ∧ s.host.sent.1 ≠ max s.now t ∧ val.getLsbD k = true ∧ s.host.intEnable.getLsbD k = false ∧ s.host.intCause.getLsbD k
      = true ∧ s.host.msix[s.host.causeVec[k].toFin].mask = false) ∧
    (∃ (s : State), s.hostAccess = true ∧ s.host.funcMask = true) ∧
    (∃ (s : State) (t : Nat) (v : Fin 512), s.hostAccess = true ∧ s.host.funcMask = false ∧ s.host.msix[v].pend = true ∧ s.host.msixEnable = true ∧
      s.host.busMaster = true ∧ s.host.lost = false ∧ s.host.sent.1 ≠ max s.now t) ∧
    (∃ (s : State) (val : BitVec 64), s.hostAccess = true ∧ (val.toNat % 65536 = 0 ∨ (10 ≤ val.toNat % 65536 ∧ val.toNat % 65536 ≤ 60000))) ∧
    (∃ (s : State) (val : BitVec 64), s.hostAccess = true ∧ 0 < val.toNat % 65536 ∧ (val.toNat % 65536 < 10 ∨ 60000 < val.toNat % 65536)) ∧
    (∃ (s : State), s.hostAccess = true) ∧
    (∃ (s : State) (q : QpId), s.hostAccess = true ∧ s.qp[q].enable = false) ∧
    (∃ (s : State) (q : QpId), s.hostAccess = true ∧ s.qp[q].enable = false) :=
  ⟨⟨({ up with host := { up.host with intCause := 1, msix := up.host.msix.set 0 { mask := false } } } : State), 5, 1, (0 : Fin 8), by decide +kernel,
      by decide +kernel, by decide +kernel, by decide +kernel, by decide +kernel, by decide +kernel, by decide +kernel, by decide +kernel,
      by decide +kernel, by decide +kernel⟩,
   ⟨({ up with host := { up.host with funcMask := true } } : State), by decide +kernel, by decide +kernel⟩,
   ⟨({ up with host := { up.host with msix := up.host.msix.set 0 { pend := true } } } : State), 5, (0 : Fin 512), by decide +kernel, by decide +kernel,
      by decide +kernel, by decide +kernel, by decide +kernel, by decide +kernel, by decide +kernel⟩,
   ⟨up, 10, by decide +kernel, by decide +kernel⟩,
   ⟨up, 9, by decide +kernel, by decide +kernel, by decide +kernel⟩,
   ⟨up, by decide +kernel⟩,
   ⟨up, (2 : QpId), by decide +kernel, by decide +kernel⟩,
   ⟨up, (2 : QpId), by decide +kernel, by decide +kernel⟩⟩

/-- The conditions of InterruptAndWindowWritesFollow, each met by a state and operands. -/
theorem test_meets_interrupt_and_window_writes_follow_2 :
    (∃ (s : State) (off : Nat) (width : Nat), s.hostAccess = true ∧ width ≠ 0 ∧ (off % width ≠ 0 ∨ off < 0x1000 ∨ (width ≠ 4 ∧ width ≠ 8))) ∧
    (∃ (s : State) (bar : Nat), s.hostAccess = false ∧ bar ≠ 6) :=
  ⟨⟨up, 0x1001, 4, by decide +kernel, by decide +kernel, by decide +kernel⟩,
   ⟨State.reset, 0, by decide +kernel, by decide +kernel⟩⟩

/-- The conditions of HostRoundsFollow, each met by a state and operands. -/
theorem test_meets_host_rounds_follow :
    (∃ (s : State) (q : QpId) (e : _), s.hostAccess = true ∧ s.drained .link = false ∧ s.host.lost = false ∧ q ≠ 1 ∧ ((q = 0 → s.drained .mgmt = false)) ∧
      s.qp[q].mayFetch = true ∧ opAccepted (bitsAt e 0 8) q = true ∧ ((bitsAt e 0 8 = 0x40 → commandErr e = none)) ∧ bitsAt e 0 8 = 2) ∧
    (∃ (s : State) (q : QpId) (e : _), s.hostAccess = true ∧ s.drained .link = false ∧ s.host.lost = false ∧ q ≠ 1 ∧ ((q = 0 → s.drained .mgmt = false)) ∧
      s.qp[q].mayFetch = true ∧ opAccepted (bitsAt e 0 8) q = true ∧ ((bitsAt e 0 8 = 0x40 → commandErr e = none)) ∧ bitsAt e 0 8 ≠ 2) ∧
    (∃ (s : State) (e : _), s.hostAccess = true ∧ s.drained .link = false ∧ s.host.lost = false ∧ s.drained .mgmt = false ∧ s.qp[(1 : QpId)].st = .active
      ∧ s.qp[(1 : QpId)].enable = true ∧ s.qp[(1 : QpId)].cqRoom = true ∧ s.host.returnEv = none ∧ s.host.held = [e]) ∧
    (∃ (entries : List (QpId × Bytes)) (q : QpId), q ≠ 1 ∧ ((∀ e, e ∈ entries → e.1 ≠ q))) ∧
    (∃ (s : State) (q : QpId), s.qp[q].st = .active) ∧
    (∃ (s : State) (q : QpId), s.qp[q].st = .active) ∧
    (∃ (s : State) (q : QpId) (e : _) (r : _) (st : Status), s.qp[q].fetched = e :: r ∧ s.qp[q].st = .active ∧ bitsAt e 0 8 = 3 ∧ ((st = .ok ↔ bitsAt e 8
      8 = 0 ∧ bitsAt e 32 224 = 0)) ∧ ((st = .ok ∨ st = .invalid))) :=
  ⟨⟨(up.modQp 2 fun (x : Qp) => ({ x with st := .active, enable := true, sqTail := 1 } : Qp)), (2 : QpId), (leBytes 32 (2 + 0)), by decide +kernel,
      by decide +kernel, by decide +kernel, by decide +kernel, by decide +kernel, by decide +kernel, by decide +kernel, by decide +kernel,
      by decide +kernel⟩,
   ⟨(up.modQp 2 fun (x : Qp) => ({ x with st := .active, enable := true, sqTail := 1 } : Qp)), (2 : QpId), (leBytes 32 (3 + 0)), by decide +kernel,
      by decide +kernel, by decide +kernel, by decide +kernel, by decide +kernel, by decide +kernel, by decide +kernel, by decide +kernel,
      by decide +kernel⟩,
   ⟨({ (up.modQp 1 fun (x : Qp) => ({ x with st := .active, enable := true } : Qp)) with host := { up.host with held := [(⟨1, 0, 0⟩ : Evt)] } } :
      State), (⟨1, 0, 0⟩ : Evt), by decide +kernel, by decide +kernel, by decide +kernel, by decide +kernel, by decide +kernel, by decide +kernel,
      by decide +kernel, by decide +kernel, by decide +kernel⟩,
   ⟨[(3, [])], (2 : QpId), by decide +kernel, by decide +kernel⟩,
   ⟨((fun (s : State) => ({ s with qp := (s.qp.set (0 : QpId) { s.qp[(0 : QpId)] with st := .active }) } : State)) State.reset), (0 : QpId),
      by decide +kernel⟩,
   ⟨((fun (s : State) => ({ s with qp := (s.qp.set (0 : QpId) { s.qp[(0 : QpId)] with st := .active }) } : State)) State.reset), (0 : QpId),
      by decide +kernel⟩,
   ⟨(up.modQp 2 fun (x : Qp) => ({ x with st := .active, fetched := [(leBytes 32 (3 + 0))] } : Qp)), (2 : QpId), (leBytes 32 (3 + 0)), [], .ok,
      by decide +kernel, by decide +kernel, by decide +kernel, by decide +kernel, by decide +kernel⟩⟩

/-- The conditions of HostFramesAndMessagesFollow, each met by a state and operands. -/
theorem test_meets_host_frames_and_messages_follow_1 :
    (∃ (s : State) (q : QpId) (e : _) (st : _), s.qp[q].st = .active ∧ s.switching = true ∧ (s.qp[q].fetched.find? fun e => bitsAt e 0 8 == 1) = some e ∧
      s.txErr e = some st) ∧
    (∃ (s : State) (q : QpId) (dma : Dma) (e : _), s.qp[q].st = .active ∧ s.switching = true ∧ (s.qp[q].fetched.find? fun e => bitsAt e 0 8 == 1) = some e
      ∧ s.txErr e = none ∧ dma = .error) ∧
    (∃ (s : State) (q : QpId) (dma : Dma) (e : _), s.qp[q].st = .active ∧ s.switching = true ∧ (s.qp[q].fetched.find? fun e => bitsAt e 0 8 == 1) = some e
      ∧ s.txErr e = none ∧ dma = .timeout) ∧
    (∃ (s : State) (t : Nat) (q : QpId) (dma : Dma) (e : _) (b : _) (u : _) (r : RouteEnd), s.qp[q].st = .active ∧ s.switching = true ∧
      (s.qp[q].fetched.find? fun e => bitsAt e 0 8 == 1) = some e ∧ s.txErr e = none ∧ dma = .data b ∧ (s.at t).dmaEnded.txAdmit e (readBytes (bitsAt
      e 32 14) b) = (u, r)) ∧
    (∃ (s : State) (q : QpId) (e : _) (r : _), s.qp[q].rxFetched = e :: r ∧ s.qp[q].st = .active ∧ (bitsAt e 8 8 ≠ 0 ∨ bitsAt e 47 17 ≠ 0 ∨ bitsAt e 128
      128 ≠ 0 ∨ bitsAt e 64 6 ≠ 0)) ∧
    (∃ (s : State) (q : QpId) (e : _) (r : _), s.qp[q].rxFetched = e :: r ∧ s.qp[q].st = .active ∧ bitsAt e 8 8 = 0 ∧ bitsAt e 47 17 = 0 ∧ bitsAt e 128
      128 = 0 ∧ bitsAt e 64 6 = 0 ∧ (bitsAt e 32 15 < 256 ∨ 16384 < bitsAt e 32 15 ∨ bitsAt e 32 15 % 256 ≠ 0)) ∧
    (∃ (s : State) (q : QpId) (e : _) (r : _), s.qp[q].rxFetched = e :: r ∧ s.qp[q].st = .active ∧ bitsAt e 8 8 = 0 ∧ bitsAt e 47 17 = 0 ∧ bitsAt e 128
      128 = 0 ∧ bitsAt e 64 6 = 0 ∧ 256 ≤ bitsAt e 32 15 ∧ bitsAt e 32 15 ≤ 16384 ∧ bitsAt e 32 15 % 256 = 0) ∧
    (∃ (s : State) (q : QpId) (f : _) (b : _) (r : _), s.qp[q].st = .active ∧ s.qp[q].enable = true ∧ s.switching = true ∧ s.drained .link = false ∧
      (s.hold.frames.find? fun f => f.dstKind == 2 && f.dstIdx == q.val) = some f ∧ s.qp[q].bufs = b :: r ∧ f.len ≤ b.len ∧ (s.hold.chan[f.chan].st =
      .active ∨ s.hold.chan[f.chan].st = .draining) ∧ s.frameCrcOk f = true) :=
  ⟨⟨((up.modQp 2 fun (x : Qp) => ({ x with st := .active, fetched := [(leBytes 32 (1 + 4 * 2 ^ 8))] } : Qp)).fset .role 0 [0]), (2 : QpId), (leBytes 32
      (1 + 4 * 2 ^ 8)), .range, by decide +kernel, by decide +kernel, by decide +kernel, by decide +kernel⟩,
   ⟨((up.modQp 2 fun (x : Qp) => ({ x with st := .active, fetched := [leBytes 32 (1 + 4 * 2 ^ 8 + 3 * 2 ^ 32)] } : Qp)).fset .role 0 [0]), (2 : QpId),
      .error, (leBytes 32 (1 + 4 * 2 ^ 8 + 3 * 2 ^ 32)), by decide +kernel, by decide +kernel, by decide +kernel, by decide +kernel,
      by decide +kernel⟩,
   ⟨((up.modQp 2 fun (x : Qp) => ({ x with st := .active, fetched := [leBytes 32 (1 + 4 * 2 ^ 8 + 3 * 2 ^ 32)] } : Qp)).fset .role 0 [0]), (2 : QpId),
      .timeout, (leBytes 32 (1 + 4 * 2 ^ 8 + 3 * 2 ^ 32)), by decide +kernel, by decide +kernel, by decide +kernel, by decide +kernel,
      by decide +kernel⟩,
   ⟨((up.modQp 2 fun (x : Qp) => ({ x with st := .active, fetched := [leBytes 32 (1 + 4 * 2 ^ 8 + 3 * 2 ^ 32)] } : Qp)).fset .role 0 [0]), 0, (2 :
      QpId), (.data [1, 2, 3]), (leBytes 32 (1 + 4 * 2 ^ 8 + 3 * 2 ^ 32)), [1, 2, 3], _, _, by decide +kernel, by decide +kernel, by decide +kernel,
      by decide +kernel, by decide +kernel, rfl⟩,
   ⟨(up.modQp 2 fun (x : Qp) => ({ x with st := .active, rxFetched := [(leBytes 32 (2 + 2 ^ 8))] } : Qp)), (2 : QpId), (leBytes 32 (2 + 2 ^ 8)), [],
      by decide +kernel, by decide +kernel, by decide +kernel⟩,
   ⟨(up.modQp 2 fun (x : Qp) => ({ x with st := .active, rxFetched := [(leBytes 32 (2 + 255 * 2 ^ 32))] } : Qp)), (2 : QpId), (leBytes 32 (2 + 255 * 2 ^
      32)), [], by decide +kernel, by decide +kernel, by decide +kernel, by decide +kernel, by decide +kernel, by decide +kernel, by decide +kernel⟩,
   ⟨(up.modQp 2 fun (x : Qp) => ({ x with st := .active, rxFetched := [(leBytes 32 (2 + 256 * 2 ^ 32))] } : Qp)), (2 : QpId), (leBytes 32 (2 + 256 * 2 ^
      32)), [], by decide +kernel, by decide +kernel, by decide +kernel, by decide +kernel, by decide +kernel, by decide +kernel, by decide +kernel,
      by decide +kernel, by decide +kernel⟩,
   ⟨((up.takeIn (newFrame 0 0 2 2 0 noCtx false) [1, 2, 3]).1.modQp 2 fun (x : Qp) => ({ x with st := .active, enable := true, bufs := [⟨0, 256, 0⟩] } :
      Qp)), (2 : QpId), _, _, _, by decide +kernel, by decide +kernel, by decide +kernel, by decide +kernel, rfl, rfl, by decide +kernel, Or.inl
      (by decide +kernel), by decide +kernel⟩⟩

/-- The conditions of HostFramesAndMessagesFollow, each met by a state and operands. -/
theorem test_meets_host_frames_and_messages_follow_2 :
    (∃ (s : State) (q : QpId) (f : _), s.qp[q].st = .active ∧ s.qp[q].enable = true ∧ s.switching = true ∧ s.drained .link = false ∧ (s.hold.frames.find?
      fun f => f.dstKind == 2 && f.dstIdx == q.val) = some f ∧ takeBufs s.qp[q].bufs f.len = none) ∧
    (∃ (s : State) (t : Nat) (q : QpId) (c : _), s.qp[q].modSince = some c ∧ s.qp[q].irqEnable = true ∧ c + micros s.qp[q].holdoff.toNat ≤ max s.now t ∧
      s.host.linkUp = true ∧ s.host.d3 = false ∧ s.host.msixEnable = true ∧ s.host.busMaster = true ∧ s.host.lost = false ∧ s.host.funcMask = false ∧
      s.host.msix[s.qp[q].vector.toFin].mask = false ∧ s.host.sent.1 ≠ max s.now t) :=
  ⟨⟨((up.takeIn (newFrame 0 0 2 2 0 noCtx false) [1, 2, 3]).1.modQp 2 fun (x : Qp) => ({ x with st := .active, enable := true } : Qp)), (2 : QpId), _,
      by decide +kernel, by decide +kernel, by decide +kernel, by decide +kernel, rfl, by decide +kernel⟩,
   ⟨({ (up.modQp 2 fun (x : Qp) => ({ x with st := .active, irqEnable := true, modSince := some 0 } : Qp)) with host := { up.host with msix := up.host.msix.set 0 { mask := false } } }
      : State), 5, (2 : QpId), 0, by decide +kernel, by decide +kernel, by decide +kernel, by decide +kernel, by decide +kernel, by decide +kernel,
      by decide +kernel, by decide +kernel, by decide +kernel, by decide +kernel, by decide +kernel⟩⟩

/-- The conditions of ChecksAndKeysFollow, each met by a state and operands. -/
theorem test_meets_checks_and_keys_follow_1 :
    (∃ (s : State) (u : ChkId), s.chk[u].busy = true) ∧
    (∃ (s : State) (t : Nat) (u : ChkId) (fits : Bool) (v : _), s.chk[u].busy = false ∧ (s.at t).chkBoundary u = v ∧ v.fbool .chkEnable u = true ∧ v.domOn
      pdMgmt = true ∧ fits = true) ∧
    (∃ (s : State) (t : Nat) (u : ChkId) (fits : Bool) (v : _), s.chk[u].busy = false ∧ (s.at t).chkBoundary u = v ∧ v.fbool .chkEnable u = true ∧ v.domOn
      pdMgmt = true ∧ fits = false) ∧
    (∃ (s : State) (u : ChkId) (tag : BitVec 64) (bytes : Bytes) (reg : _) (res : _) (want : _), s.chk[u].busy = true ∧ s.fbool .chkEnable u = true ∧
      s.chkItem u tag.toNat bytes = (reg, res, want) ∧ want = none) ∧
    (∃ (s : State) (u : ChkId) (tag : BitVec 64) (bytes : Bytes) (reg : _) (res : _) (want : _), s.chk[u].busy = true ∧ s.fbool .chkEnable u = true ∧
      s.chkItem u tag.toNat bytes = (reg, res, want) ∧ want = some res) ∧
    (∃ (s : State) (u : ChkId) (tag : BitVec 64) (bytes : Bytes) (reg : _) (res : _) (want : _) (e : _), s.chk[u].busy = true ∧ s.fbool .chkEnable u =
      true ∧ s.chkItem u tag.toNat bytes = (reg, res, want) ∧ want = some e ∧ e ≠ res) ∧
    (∃ (s : State) (u : ChkId), s.chk[u].busy = true) ∧
    (∃ (s : State) (pass : Bool), s.sec.rngFailed = true ∧ pass = true) :=
  ⟨⟨((fun (s : State) => ({ s with chk := (s.chk.set (0 : ChkId) { s.chk[(0 : ChkId)] with busy := true }) } : State)) State.reset), (0 : ChkId),
      by decide +kernel⟩,
   ⟨(up.fset .chkEnable 0 [1]), 0, (0 : ChkId), true, _, by decide +kernel, rfl, by decide +kernel, by decide +kernel, by decide +kernel⟩,
   ⟨(up.fset .chkEnable 0 [1]), 0, (0 : ChkId), false, _, by decide +kernel, rfl, by decide +kernel, by decide +kernel, by decide +kernel⟩,
   ⟨((up.fset .chkEnable 0 [1]).modChk 0 fun (x : ChkSt) => ({ x with busy := true } : ChkSt)), (0 : ChkId), 0, [], _, _, _, by decide +kernel,
      by decide +kernel, rfl, rfl⟩,
   ⟨(((up.fset .chkEnable 0 [1]).fset .chkMode 0 [1]).modChk 0 fun (x : ChkSt) => ({ x with busy := true } : ChkSt)), (0 : ChkId), 0, [], _, _, _,
      by decide +kernel, by decide +kernel, rfl, rfl⟩,
   ⟨((((up.fset .chkEnable 0 [1]).fset .chkMode 0 [1]).fset .chkExpect 0 [1]).modChk 0 fun (x : ChkSt) => ({ x with busy := true } : ChkSt)), (0 :
      ChkId), 0, [], _, _, _, 1, by decide +kernel, by decide +kernel, rfl, by decide +kernel, by decide +kernel⟩,
   ⟨((fun (s : State) => ({ s with chk := (s.chk.set (0 : ChkId) { s.chk[(0 : ChkId)] with busy := true }) } : State)) State.reset), (0 : ChkId),
      by decide +kernel⟩,
   ⟨((fun (s : State) => ({ s with sec := { s.sec with rngFailed := true } } : State)) State.reset), true, by decide +kernel, by decide +kernel⟩⟩

/-- The conditions of ChecksAndKeysFollow, each met by a state and operands. -/
theorem test_meets_checks_and_keys_follow_2 :
    (∃ (s : State) (pass : Bool), s.sec.rngFailed = true ∧ pass = false) ∧
    (∃ (s : State) (t : Nat) (k : _) (a : _), s.sec.fabPrev = some (k, a) ∧ a + s.fnat .fabPrevDays 0 * seconds 86400 ≤ max s.now t) ∧
    (∃ (s : State) (t : Nat) (k : _) (a : _), s.sec.fabPrev = some (k, a) ∧ max s.now t < a + s.fnat .fabPrevDays 0 * seconds 86400) ∧
    (∃ (s : State) (t : Nat) (k : _) (a : _), s.sec.rootPrev = some (k, a) ∧ a + s.fnat .rootPrevDays 0 * seconds 86400 ≤ max s.now t) ∧
    (∃ (s : State) (t : Nat) (k : _) (a : _), s.sec.rootPrev = some (k, a) ∧ max s.now t < a + s.fnat .rootPrevDays 0 * seconds 86400) ∧
    (∃ (s : State) (k : _), s.sec.enrolling = some k ∧ s.sec.attLeft s.sec.attSlotIdx = true) ∧
    (∃ (s : State) (k : _), s.sec.enrolling = some k ∧ s.sec.attLeft s.sec.attSlotIdx = false) :=
  ⟨⟨((fun (s : State) => ({ s with sec := { s.sec with rngFailed := true } } : State)) State.reset), false, by decide +kernel, by decide +kernel⟩,
   ⟨({ up with sec := { up.sec with fabPrev := some ([1], 0) } } : State), 1000000000000000000, [1], 0, by decide +kernel, by decide +kernel⟩,
   ⟨({ up with sec := { up.sec with fabPrev := some ([1], 0) } } : State), 0, [1], 0, by decide +kernel, by decide +kernel⟩,
   ⟨({ up with sec := { up.sec with rootPrev := some ([1], 0) } } : State), 1000000000000000000, [1], 0, by decide +kernel, by decide +kernel⟩,
   ⟨({ up with sec := { up.sec with rootPrev := some ([1], 0) } } : State), 0, [1], 0, by decide +kernel, by decide +kernel⟩,
   ⟨((fun (s : State) => ({ s with sec := { s.sec with enrolling := some 0 } } : State)) State.reset), 0, by decide +kernel, by decide +kernel⟩,
   ⟨({ up with sec := { up.sec with enrolling := some 1, attEpochs := up.sec.attEpochs.set 0 256 } } : State), 1, by decide +kernel, by decide +kernel⟩⟩

/-- The conditions of InsertionAndReturnsFollow, each met by a state and operands. -/
theorem test_meets_insertion_and_returns_follow_1 :
    (∃ (s : State), s.live.inserted = false) ∧
    (∃ (s : State), s.live.inserted = true) ∧
    (∃ (s : State) (k : _), s.boot.configAuth = true ∧ s.live.inserted = true ∧ s.live.quiet = false ∧ (k = pdEth ∨ k = pdFab ∨ k = pdSense) ∧ s.domSt k =
      .off ∧ s.powerFree k = true ∧ s.depsOn k = true ∧ s.domDieLost k = false) ∧
    (∃ (s : State), s.live.insertedDue = true ∧ ((∀ b, s.berthServes b = true))) ∧
    (∃ (s : State), s.live.quiet = false) ∧
    (∃ (s : State), s.live.quiet = true) ∧
    (∃ (s : State) (t : Nat), s.live.quiet = true ∧ s.live.inserted = true ∧ s.live.insertAt + seconds 1 ≤ max s.now t ∧ s.host.alarms = []) ∧
    (∃ (s : State) (t : Nat), s.live.quiet = true ∧ s.live.inserted = true ∧ s.live.insertAt + seconds 1 ≤ max s.now t ∧ s.boot.configAuth = true) :=
  ⟨⟨State.reset, by decide +kernel⟩,
   ⟨((fun (s : State) => ({ s with live := { s.live with inserted := true } } : State)) State.reset), by decide +kernel⟩,
   ⟨({ up with dom := up.dom.set pdEth { st := .off } } : State), pdEth, by decide +kernel, by decide +kernel, by decide +kernel, by decide +kernel,
      by decide +kernel, by decide +kernel, by decide +kernel, by decide +kernel⟩,
   ⟨((fun (s : State) => ({ s with live := { s.live with insertedDue := true } } : State)) State.reset), by decide +kernel, by decide +kernel⟩,
   ⟨State.reset, by decide +kernel⟩,
   ⟨((fun (s : State) => ({ s with live := { s.live with quiet := true } } : State)) State.reset), by decide +kernel⟩,
   ⟨((fun (s : State) => ({ s with live := { s.live with inserted := true } } : State)) ((fun (s : State) =>
      ({ s with live := { s.live with quiet := true } } : State)) State.reset)), 1000000000000000000, by decide +kernel, by decide +kernel,
      by decide +kernel, by decide +kernel⟩,
   ⟨((fun (s : State) => ({ s with boot := { s.boot with configAuth := true } } : State)) ((fun (s : State) =>
      ({ s with live := { s.live with inserted := true } } : State)) ((fun (s : State) => ({ s with live := { s.live with quiet := true } } : State))
      State.reset))), 1000000000000000000, by decide +kernel, by decide +kernel, by decide +kernel, by decide +kernel⟩⟩

/-- The conditions of InsertionAndReturnsFollow, each met by a state and operands. -/
theorem test_meets_insertion_and_returns_follow_2 :
    (∃ (s : State) (t : Nat), s.drained .switch = true ∧ s.region[Region.switch.idx].since + millis 200 ≤ max s.now t) ∧
    (∃ (s : State) (t : Nat) (d : _), s.drained .mgmt = true ∧ s.region[Region.mgmt.idx].since + seconds 2 ≤ max s.now t ∧ s.boot.dir = some d) ∧
    (∃ (s : State) (t : Nat) (r : Region), s.drained r = true ∧ s.region[r.idx].returnMs ≠ 0 ∧ s.region[r.idx].since + millis s.region[r.idx].returnMs ≤
      max s.now t ∧ ((r = .mgmt → s.region[r.idx].done = true)) ∧ r ≠ .store ∧ r ≠ .sec) :=
  ⟨⟨((fun (s : State) => ({ s with region := (s.region.set Region.switch.idx { s.region[Region.switch.idx] with drained := true }) } : State))
      State.reset), 1000000000000000000, by decide +kernel, by decide +kernel⟩,
   ⟨({ up with boot := { up.boot with dir := some dir } } : State).setRegion Region.mgmt.idx { drained := true }, 2000000000, dir, by decide +kernel,
      by decide +kernel, by decide +kernel⟩,
   ⟨(up.setRegion Region.link.idx { drained := true, returnMs := 5 }), 5000000, Region.link, by decide +kernel, by decide +kernel, by decide +kernel,
      by decide +kernel, by decide +kernel, by decide +kernel⟩⟩

/-- The conditions of BoundariesAndAllocationsFollow, each met by a state and operands. -/
theorem test_meets_boundaries_and_allocations_follow_1 :
    (∃ (s : State) (t : Nat) (b : Berth) (u : _), s.coordinates b = true ∧ ((s.line[b].grid = .on ∨ ∃ t0, s.line[b].grid = .starting t0 ∧ t0 ≤ max s.now
      t)) ∧ s.line[b].grid = .on ∧ (s.at t).boundary b = u ∧ u.line[b].relisten = none ∧ u.silent b = false ∧ u.mayDrive b = true ∧ u.line[b].kDom ≠
      none) ∧
    (∃ (s : State) (t : Nat) (b : Berth) (heard : List Heard) (since : _), s.stopped b = false ∧ s.coordinates b = true ∧ s.line[b].grid = .listening
      since ∧ since + 2 * s.periodNs b ≤ max s.now t ∧ (s.line[b].kDom ≠ none ∨ s.sec.rngFailed = false) ∧ heard.any (fun h => h.own) = true) ∧
    (∃ (s : State) (t : Nat) (b : Berth) (heard : List Heard) (since : _), s.stopped b = false ∧ s.coordinates b = true ∧ s.line[b].grid = .listening
      since ∧ since + 2 * s.periodNs b ≤ max s.now t ∧ (s.line[b].kDom ≠ none ∨ s.sec.rngFailed = false) ∧ heard.any (fun h => h.own) = false) ∧
    (∃ (s : State) (t : Nat) (b : Berth) (since : _), s.line[b].grid = .clashWait since ∧ since + 64 * s.periodNs b ≤ max s.now t ∧ s.stopped b = false) ∧
    (∃ (s : State) (t : Nat) (b : Berth) (idx : Nat) (side : _) (a : _) (t0 : _), (s.at t).allocAt b idx = some (side, a, t0) ∧ s.silent b = true) ∧
    (∃ (s : State) (t : Nat) (b : Berth) (idx : Nat) (side : _) (a : _) (t0 : _), (s.at t).allocAt b idx = some (side, a, t0) ∧ side = false ∧ a.kind = 7
      ∧ s.silent b = false ∧ s.boot.configAuth = true ∧ s.berth[b].heldOff = false ∧ s.berth[b].hot = false ∧ s.live.drvLow = false ∧ s.live.drvHigh =
      false ∧ s.live.badRails = [] ∧ (s.berth[b].cancel = .untrained ∨ s.berth[b].cancel = .tracking ∨ s.berth[b].cancel = .fallback)) ∧
    (∃ (s : State) (t : Nat) (b : Berth) (idx : Nat) (a : _) (t0 : _) (c : _), (s.at t).allocAt b idx = some (false, a, t0) ∧ a.kind = 0 ∧ a.dst = 0 ∧
      a.src ≠ 0 ∧ (s.ctxs.find? fun c => c.berth == b && c.station == a.src && c.ctxSel == 0) = some c ∧ c.id ≠ noCtx ∧ s.ctx? c.id = some c ∧
      c.frameKey s.line[b].keyGen ≠ none ∧ ((∃ e, (a.src, e) ∈ s.line[b].acks)) ∧ s.mayDrive b = true) ∧
    (∃ (s : State) (t : Nat) (b : Berth) (busy : Bool) (a : _) (t0 : _) (n : _), (s.at t).curAlloc b = some (true, a, t0) ∧ s.mayDrive b = true ∧
      s.berth[b].tx = none ∧ ((a.kind = 5 ∧ s.wantsJoin b = true) ∨ ((a.kind = 3 ∨ a.kind = 4) ∧ s.line[b].st.joined = true ∧ s.line[b].attempts < 7 ∧
      s.contends b a.kind = true)) ∧ s.line[b].backoff = some (n + 1) ∧ busy = false ∧ s.line[b].busyUntil ≤ max s.now t) :=
  ⟨⟨((({ up with fields := [((.role, 0), [0]), ((.txEnable, 0), [1])] } : State)).modLine 0 fun (x : Line) => ({ x with grid := .on, kDom := some [1] }
      : Line)), 0, (0 : Berth), _, by decide +kernel, Or.inl (by decide +kernel), by decide +kernel, rfl, by decide +kernel, by decide +kernel,
      by decide +kernel, by decide +kernel⟩,
   ⟨((({ up with fields := [((.role, 0), [0]), ((.txEnable, 0), [1])] } : State)).modLine 0 fun (x : Line) =>
      ({ x with grid := .listening 0, kDom := some [1] } : Line)), 1000000000000000000, (0 : Berth), [({ tag := 0, own := true } : Heard)], 0,
      by decide +kernel, by decide +kernel, by decide +kernel, by decide +kernel, Or.inl (by decide +kernel), by decide +kernel⟩,
   ⟨((({ up with fields := [((.role, 0), [0]), ((.txEnable, 0), [1])] } : State)).modLine 0 fun (x : Line) =>
      ({ x with grid := .listening 0, kDom := some [1] } : Line)), 1000000000000000000, (0 : Berth), [({ tag := 0, own := false } : Heard)], 0,
      by decide +kernel, by decide +kernel, by decide +kernel, by decide +kernel, Or.inl (by decide +kernel), by decide +kernel⟩,
   ⟨((({ up with fields := [((.role, 0), [0]), ((.txEnable, 0), [1])] } : State)).modLine 0 fun (x : Line) => ({ x with grid := .clashWait 0 } : Line)),
      1000000000000000000, (0 : Berth), 0, by decide +kernel, by decide +kernel, by decide +kernel⟩,
   ⟨(up.modLine 0 fun (x : Line) => ({ x with map := [({ start := 0, dur := 100, src := 0, dst := 0, kind := 7, persist := false } : Alloc)] } :
      Line)).fset .txEnable 0 [0], 0, (0 : Berth), 0, _, _, _, rfl, by decide +kernel⟩,
   ⟨((({ up with fields := [((.role, 0), [0]), ((.txEnable, 0), [1])] } : State)).modLine 0 fun (x : Line) =>
      ({ x with map := [({ start := 0, dur := 100, src := 0, dst := 0, kind := 7, persist := false } : Alloc)] } : Line)), 0, (0 : Berth), 0, _, _, _,
      rfl, rfl, by decide +kernel, by decide +kernel, by decide +kernel, by decide +kernel, by decide +kernel, by decide +kernel, by decide +kernel,
      by decide +kernel, Or.inl (by decide +kernel)⟩,
   ⟨({ ((({ up with fields := [((.role, 0), [0]), ((.txEnable, 0), [1])] } : State)).modLine 0 fun (x : Line) => ({ x with map := [({ start := 0, dur := 100, src := 1, dst := 0, kind := 0, persist := false } : Alloc)], acks := [(1, ⟨0, 0, true, 0⟩)] } : Line)) with ctxs := [({ id := 5, station := 1, kFrame := [1] } : Ctx)] }
      : State), 0, (0 : Berth), 0, _, _, ({ id := 5, station := 1, kFrame := [1] } : Ctx), rfl, by decide +kernel, by decide +kernel,
      by decide +kernel, by decide +kernel, by decide +kernel, by decide +kernel, by decide +kernel, ⟨⟨0, 0, true, 0⟩, by decide +kernel⟩,
      by decide +kernel⟩,
   ⟨((({ up with fields := [((.role, 0), [2]), ((.txEnable, 0), [1]), ((.stEui, 0), [7])] } : State)).modLine 0 fun (x : Line) =>
      ({ x with st := { map := [({ start := 0, dur := 100, src := 0, dst := 0, kind := 5, persist := false } : Alloc)], nPeriod := 16, beacons := 2 }, alloc := some 0, backoff := some 3 }
      : Line)), 0, (0 : Berth), false, _, _, 2, rfl, by decide +kernel, by decide +kernel, Or.inl ⟨by decide +kernel, by decide +kernel⟩,
      by decide +kernel, by decide +kernel, by decide +kernel⟩⟩

/-- The conditions of BoundariesAndAllocationsFollow, each met by a state and operands. -/
theorem test_meets_boundaries_and_allocations_follow_2 :
    (∃ (s : State) (t : Nat) (b : Berth) (busy : Bool) (a : _) (t0 : _) (n : _), (s.at t).curAlloc b = some (true, a, t0) ∧ s.mayDrive b = true ∧
      s.berth[b].tx = none ∧ ((a.kind = 5 ∧ s.wantsJoin b = true) ∨ ((a.kind = 3 ∨ a.kind = 4) ∧ s.line[b].st.joined = true ∧ s.line[b].attempts < 7 ∧
      s.contends b a.kind = true)) ∧ s.line[b].backoff = some n ∧ busy = true) ∧
    (∃ (s : State) (t : Nat) (b : Berth) (busy : Bool) (a : _) (t0 : _), (s.at t).curAlloc b = some (true, a, t0) ∧ s.mayDrive b = true ∧ s.berth[b].tx =
      none ∧ ((a.kind = 5 ∧ s.wantsJoin b = true) ∨ ((a.kind = 3 ∨ a.kind = 4) ∧ s.line[b].st.joined = true ∧ s.line[b].attempts < 7 ∧ s.contends b
      a.kind = true)) ∧ s.line[b].backoff = none ∧ busy = true) ∧
    (∃ (s : State) (t : Nat) (b : Berth) (busy : Bool) (a : _) (t0 : _), (s.at t).curAlloc b = some (true, a, t0) ∧ s.mayDrive b = true ∧ s.berth[b].tx =
      none ∧ ((a.kind = 5 ∧ s.wantsJoin b = true) ∨ ((a.kind = 3 ∨ a.kind = 4) ∧ s.line[b].st.joined = true ∧ s.line[b].attempts < 7 ∧ s.contends b
      a.kind = true)) ∧ a.kind = 5 ∧ s.line[b].backoff = some 0 ∧ busy = false ∧ s.line[b].busyUntil ≤ max s.now t) :=
  ⟨⟨((({ up with fields := [((.role, 0), [2]), ((.txEnable, 0), [1]), ((.stEui, 0), [7])] } : State)).modLine 0 fun (x : Line) =>
      ({ x with st := { map := [({ start := 0, dur := 100, src := 0, dst := 0, kind := 5, persist := false } : Alloc)], nPeriod := 16, beacons := 2 }, alloc := some 0, backoff := some 3 }
      : Line)), 0, (0 : Berth), true, _, _, 3, rfl, by decide +kernel, by decide +kernel, Or.inl ⟨by decide +kernel, by decide +kernel⟩,
      by decide +kernel, by decide +kernel⟩,
   ⟨((({ up with fields := [((.role, 0), [2]), ((.txEnable, 0), [1]), ((.stEui, 0), [7])] } : State)).modLine 0 fun (x : Line) =>
      ({ x with st := { map := [({ start := 0, dur := 100, src := 0, dst := 0, kind := 5, persist := false } : Alloc)], nPeriod := 16, beacons := 2 }, alloc := some 0, backoff := none }
      : Line)), 0, (0 : Berth), true, _, _, rfl, by decide +kernel, by decide +kernel, Or.inl ⟨by decide +kernel, by decide +kernel⟩,
      by decide +kernel, by decide +kernel⟩,
   ⟨((({ up with fields := [((.role, 0), [2]), ((.txEnable, 0), [1]), ((.stEui, 0), [7])] } : State)).modLine 0 fun (x : Line) =>
      ({ x with st := { map := [({ start := 0, dur := 100, src := 0, dst := 0, kind := 5, persist := false } : Alloc)], nPeriod := 16, beacons := 2 }, alloc := some 0, backoff := some 0 }
      : Line)), 0, (0 : Berth), false, _, _, rfl, by decide +kernel, by decide +kernel, Or.inl ⟨by decide +kernel, by decide +kernel⟩,
      by decide +kernel, by decide +kernel, by decide +kernel, by decide +kernel⟩⟩

/-- The conditions of AcknowledgementsTimeAndBeaconsFollow, each met by a state and operands. -/
theorem test_meets_acknowledgements_time_and_beacons_follow_1 :
    (∃ (s : State) (b : Berth) (ctx : Nat) (bytes : Bytes) (e : _) (f : _), parseAck bytes = some [e] ∧ (s.hold.frames.find? fun (f : Frame) => f.dstKind
      == 0 && f.dstIdx == b.val && f.sent && (f.role == 2) == (ctx == noCtx) && (f.line.map fun (c : FrameCtl) => c.seq == e.seq && c.ctxSel ==
      e.ctxSel && (ctx == noCtx || c.dst == s.msgTarget ctx)).getD false) = some f ∧ e.delivered = true) ∧
    (∃ (s : State) (b : Berth) (ctx : Nat) (bytes : Bytes) (e : _) (f : _), parseAck bytes = some [e] ∧ (s.hold.frames.find? fun (f : Frame) => f.dstKind
      == 0 && f.dstIdx == b.val && f.sent && (f.role == 2) == (ctx == noCtx) && (f.line.map fun (c : FrameCtl) => c.seq == e.seq && c.ctxSel ==
      e.ctxSel && (ctx == noCtx || c.dst == s.msgTarget ctx)).getD false) = some f ∧ e.delivered = false) ∧
    (∃ (s : State) (t : Nat) (b : Berth) (ctx : Nat) (a : _) (t0 : _) (c : _) (fc : _) (k : _) (u : _) (x : Ctx), (s.at t).curAlloc b = some (false, a,
      t0) ∧ s.ctx? ctx = some c ∧ a.kind = 6 ∧ a.src = c.station ∧ c.berth = b ∧ (s.at t).msgFc b ctx 4 = some (fc, k, u) ∧ x.berth = b ∧ x.station =
      c.station) ∧
    (∃ (s : State) (t : Nat) (b : Berth) (ctx : Nat) (a : _) (t0 : _) (c : _) (fc : _) (k : _) (u : _), (s.at t).curAlloc b = some (false, a, t0) ∧ s.ctx?
      ctx = some c ∧ a.kind = 6 ∧ a.src = c.station ∧ c.berth = b ∧ (s.at t).msgFc b ctx 4 = some (fc, k, u) ∧ s.mayDrive b = true) ∧
    (∃ (s : State) (b : Berth) (payload : Bytes) (t1 : _) (t2 : Int) (t3 : Int), payload.length = 23 ∧ payload.headD 0 = 2 ∧ s.line[b].st.t1 = some t1 ∧
      t2 = ((bitsAt payload 8 48 * 1000000000 + bitsAt payload 56 32 : Nat) : Int) ∧ t3 = ((bitsAt payload 88 48 * 1000000000 + bitsAt payload 136 32
      : Nat) : Int)) ∧
    (∃ (s : State) (b : Berth) (bytes : Bytes), (s.fnat .role b = 1 ∨ s.fnat .role b = 2) ∧ parseBeacon bytes = none) ∧
    (∃ (s : State) (b : Berth) (bytes : Bytes) (k : _), (s.fnat .role b = 1 ∨ s.fnat .role b = 2) ∧ parseBeacon bytes = some k ∧ k.tag = s.fnat .ferryTag
      b ∧ s.line[b].st.joined = false) ∧
    (∃ (s : State) (b : Berth) (bytes : Bytes) (k : _) (key : _), (s.fnat .role b = 1 ∨ s.fnat .role b = 2) ∧ parseBeacon bytes = some k ∧ k.tag = s.fnat
      .ferryTag b ∧ s.line[b].st.joined = true ∧ s.line[b].st.domKey k.gen = some key ∧ ((∀ p, s.line[b].st.lastBpc = some p → newer 32 k.bpc.toNat
      p.toNat = true))) :=
  ⟨⟨({ up with ctxs := [({ id := 5, station := 1 } : Ctx)], hold := { up.hold with frames := [({ newFrame 2 0 0 0 0 5 false with sent := true, line := some ({ version := 1, ftype := 0, src := 0, dst := 1, bcast := false, ackReq := true, ctxSel := 0, gi := 0, mode := 1, tmId := 0, short := false, rate := 0, len := 3, attempt := 0, tag := 0, keyGen := 0, bpcFirst := 0, seq := 9 } : FrameCtl) } : Frame)] } }
      : State), (0 : Berth), 5, [1, 0, 9, 0, 4, 0], _, _, rfl, rfl, by decide +kernel⟩,
   ⟨({ up with ctxs := [({ id := 5, station := 1 } : Ctx)], hold := { up.hold with frames := [({ newFrame 2 0 0 0 0 5 false with sent := true, line := some ({ version := 1, ftype := 0, src := 0, dst := 1, bcast := false, ackReq := true, ctxSel := 0, gi := 0, mode := 1, tmId := 0, short := false, rate := 0, len := 3, attempt := 0, tag := 0, keyGen := 0, bpcFirst := 0, seq := 9 } : FrameCtl) } : Frame)] } }
      : State), (0 : Berth), 5, [1, 0, 9, 0, 0, 0], _, _, rfl, rfl, by decide +kernel⟩,
   ⟨({ ((({ up with fields := [((.role, 0), [0]), ((.txEnable, 0), [1])] } : State)).modLine 0 fun (x : Line) => ({ x with map := [({ start := 0, dur := 100, src := 1, dst := 0, kind := 6, persist := false } : Alloc)], alloc := some 0 } : Line)) with ctxs := [({ id := 5, station := 1, kFrame := [1] } : Ctx)] }
      : State), 0, (0 : Berth), 5, _, _, ({ id := 5, station := 1, kFrame := [1] } : Ctx), _, _, _, ({ id := 5, station := 1, kFrame := [1] } : Ctx),
      rfl, by decide +kernel, by decide +kernel, by decide +kernel, by decide +kernel, rfl, by decide +kernel, by decide +kernel⟩,
   ⟨({ ((({ up with fields := [((.role, 0), [0]), ((.txEnable, 0), [1])] } : State)).modLine 0 fun (x : Line) => ({ x with map := [({ start := 0, dur := 100, src := 1, dst := 0, kind := 6, persist := false } : Alloc)], alloc := some 0 } : Line)) with ctxs := [({ id := 5, station := 1, kFrame := [1] } : Ctx)] }
      : State), 0, (0 : Berth), 5, _, _, ({ id := 5, station := 1, kFrame := [1] } : Ctx), _, _, _, rfl, by decide +kernel, by decide +kernel,
      by decide +kernel, by decide +kernel, rfl, by decide +kernel⟩,
   ⟨(up.modLine 0 fun (x : Line) => ({ x with st := { x.st with t1 := some 0 } } : Line)), (0 : Berth), (2 :: List.replicate 22 0), 0, _, _,
      by decide +kernel, by decide +kernel, by decide +kernel, rfl, rfl⟩,
   ⟨(State.reset.fset .role (0 : Berth) [1]), (0 : Berth), [], by decide +kernel, by decide +kernel⟩,
   ⟨((up.fset .role 0 [1]).modLine 0 fun (x : Line) => ({ x with st := { x.st with number := 0 } } : Line)), (0 : Berth), (leBytes 264 (1 + 16 * 2 ^ 8 +
      5 * 2 ^ 32)), ({ role := 0, joinOpen := false, n := 16, tag := 0, bpc := 5, gen := 0, genNext := 0, switch := 0, allocs := [] } : Beacon),
      Or.inl (by decide +kernel), by decide +kernel, by decide +kernel, by decide +kernel⟩,
   ⟨((up.fset .role 0 [1]).modLine 0 fun (x : Line) => ({ x with st := { x.st with joined := true, kDom := [1], lastBpc := some 3 } } : Line)), (0 :
      Berth), (leBytes 264 (1 + 16 * 2 ^ 8 + 5 * 2 ^ 32)),
      ({ role := 0, joinOpen := false, n := 16, tag := 0, bpc := 5, gen := 0, genNext := 0, switch := 0, allocs := [] } : Beacon), _, Or.inl
      (by decide +kernel), by decide +kernel, by decide +kernel, by decide +kernel, rfl, by intro p h; cases h; decide +kernel⟩⟩

/-- The conditions of AcknowledgementsTimeAndBeaconsFollow, each met by a state and operands. -/
theorem test_meets_acknowledgements_time_and_beacons_follow_2 :
    (∃ (s : State) (b : Berth) (bytes : Bytes) (k : _) (p : BitVec 32), (s.fnat .role b = 1 ∨ s.fnat .role b = 2) ∧ parseBeacon bytes = some k ∧ k.tag =
      s.fnat .ferryTag b ∧ s.line[b].st.joined = true ∧ s.line[b].st.lastBpc = some p ∧ newer 32 k.bpc.toNat p.toNat = false) ∧
    (∃ (s : State) (t : Nat) (b : Berth), s.line[b].st.joined = true ∧ 8 ≤ (s.at t).stElapsed b) :=
  ⟨⟨((up.fset .role 0 [1]).modLine 0 fun (x : Line) => ({ x with st := { x.st with joined := true, lastBpc := some 9 } } : Line)), (0 : Berth), (leBytes
      264 (1 + 16 * 2 ^ 8 + 5 * 2 ^ 32)),
      ({ role := 0, joinOpen := false, n := 16, tag := 0, bpc := 5, gen := 0, genNext := 0, switch := 0, allocs := [] } : Beacon), 9, Or.inl
      (by decide +kernel), by decide +kernel, by decide +kernel, by decide +kernel, by decide +kernel, by decide +kernel⟩,
   ⟨((fun (s : State) => ({ s with line := (s.line.set (0 : Berth) { s.line[(0 : Berth)] with st := { s.line[(0 : Berth)].st with joined := true } }) }
      : State)) State.reset), 1000000000000000000, (0 : Berth), by decide +kernel, by decide +kernel⟩⟩

/-- The conditions of ToneMapsAndKeyRollsFollow, each met by a state and operands. -/
theorem test_meets_tone_maps_and_key_rolls_follow :
    (∃ (s : State) (b : Berth) (link : Nat) (bytes : Bytes), bytes.headD 0 = 0x09 ∧ toneMapOk (s.emission b) (bytes.drop 1) = true ∧ newer 32
      (parseToneMap (bytes.drop 1)).validFrom.toNat (s.line[b].bpcOf (decide (4096 ≤ link))).toNat = true ∧ ((parseToneMap (bytes.drop 1)).validFrom -
      s.line[b].bpcOf (decide (4096 ≤ link))).toNat ≤ 256) ∧
    (∃ (s : State) (b : Berth) (link : Nat) (bytes : Bytes), (bytes.headD 0 ≠ 0x09 ∨ toneMapOk (s.emission b) (bytes.drop 1) = false ∨ newer 32
      (parseToneMap (bytes.drop 1)).validFrom.toNat (s.line[b].bpcOf (decide (4096 ≤ link))).toNat = false ∨ 256 < ((parseToneMap (bytes.drop
      1)).validFrom - s.line[b].bpcOf (decide (4096 ≤ link))).toNat)) ∧
    (∃ (s : State) (t : Nat) (b : Berth) (link : Nat) (snr : List Nat) (u : _) (entries : _) (rate : _), (s.at t).releaseAt .toneMap b = u ∧ loadBits
      (u.emission b) (u.fnat .rateMask b) (u.fnat .loadMargin b) (u.fnat .maxBits b) (snr.map Int.ofNat) = (entries, rate) ∧ (s.berth[b].maps.find?
      fun (m : LinkMaps) => m.station == link) = none) ∧
    (∃ (s : State) (t : Nat) (b : Berth) (link : Nat) (snr : List Nat) (u : _) (entries : _) (rate : _) (y : _), (s.at t).releaseAt .toneMap b = u ∧
      loadBits (u.emission b) (u.fnat .rateMask b) (u.fnat .loadMargin b) (u.fnat .maxBits b) (snr.map Int.ofNat) = (entries, rate) ∧
      (s.berth[b].maps.find? fun (m : LinkMaps) => m.station == link) = some y ∧ y.lastIssue = some (s.line[b].bpcOf (decide (4096 ≤ link)))) ∧
    (∃ (s : State) (b : Berth) (ctx : Nat) (c : _) (k : _), s.ctx? ctx = some c ∧ c.berth = b ∧ s.line[b].rolling = true ∧ s.drained .mgmt = false ∧
      s.line[b].kDomNext = some k) ∧
    (∃ (s : State) (b : Berth) (bytes : Bytes), bytes.length = 49 ∧ bytes.headD 0 = 0x07 ∧ s.line[b].st.joined = true) ∧
    (∃ (s : State) (b : Berth) (ctx : Nat) (bytes : Bytes) (c : _) (dev : _) (x : Ctx), s.ctx? ctx = some c ∧ c.rekey = some dev ∧ bytes.length = 17 ∧
      bytes.headD 0 = 0x08 ∧ c.berth = b ∧ x.berth = b ∧ x.station = c.station) ∧
    (∃ (s : State) (t : Nat) (b : Berth), s.coordinates b = true ∧ s.line[b].kDom ≠ none ∧ s.line[b].rolling = false ∧ s.drained .mgmt = false ∧
      s.sec.rngFailed = false ∧ s.line[b].keySince + s.fnat .keyAgeMax b * seconds 86400 ≤ max s.now t) :=
  ⟨⟨up, (0 : Berth), 1, (9 :: (leBytes 8 (1 + 2 * 2 ^ 8 + 2 ^ 32) ++ List.replicate 863 0)), by decide +kernel, zero_map_ok, by decide +kernel,
      by decide +kernel⟩,
   ⟨State.reset, (0 : Berth), 0, [], by decide +kernel⟩,
   ⟨(up.fset .rateMask 0 [0]), 0, (0 : Berth), 1, [], _, (List.replicate 1725 0), 0, rfl, by decide +kernel, by decide +kernel⟩,
   ⟨((up.fset .rateMask 0 [0]).modBerth 0 fun (x : BerthSt) => ({ x with maps := [({ station := 1, lastIssue := some 0 } : LinkMaps)] } : BerthSt)), 0,
      (0 : Berth), 1, [], _, (List.replicate 1725 0), 0, ({ station := 1, lastIssue := some 0 } : LinkMaps), rfl, by decide +kernel,
      by decide +kernel, by decide +kernel⟩,
   ⟨({ (up.modLine 0 fun (x : Line) => ({ x with keyNext := 1, kDomNext := some [1] } : Line)) with ctxs := [({ id := 5, station := 1, st := .active } : Ctx)] }
      : State), (0 : Berth), 5, ({ id := 5, station := 1, st := .active } : Ctx), [1], by decide +kernel, by decide +kernel, by decide +kernel,
      by decide +kernel, by decide +kernel⟩,
   ⟨((up.fset .role 0 [1]).modLine 0 fun (x : Line) => ({ x with st := { x.st with joined := true } } : Line)), (0 : Berth), (7 :: List.replicate 48 0),
      by decide +kernel, by decide +kernel, by decide +kernel⟩,
   ⟨({ up with ctxs := [({ id := 5, station := 1, rekey := some [1] } : Ctx)] } : State), (0 : Berth), 5, (8 :: List.replicate 16 0),
      ({ id := 5, station := 1, rekey := some [1] } : Ctx), [1], ({ id := 5, station := 1, rekey := some [1] } : Ctx), by decide +kernel,
      by decide +kernel, by decide +kernel, by decide +kernel, by decide +kernel, by decide +kernel, by decide +kernel⟩,
   ⟨(({ up with fields := [((.role, 0), [0]), ((.txEnable, 0), [1])] } : State).modLine 0 fun (x : Line) => ({ x with grid := .on, kDom := some [1] } :
      Line)), 1000000000000000000, (0 : Berth), by decide +kernel, by decide +kernel, by decide +kernel, by decide +kernel, by decide +kernel,
      by decide +kernel⟩⟩

/-- The conditions of MeshReportsAndRoutesFollow, each met by a state and operands. -/
theorem test_meets_mesh_reports_and_routes_follow_1 :
    (∃ (s : State) (ctx : Nat) (bytes : Bytes) (c : _), s.ctx? ctx = some c ∧ bytes.headD 0 = 0x0A ∧ (bytes.getD 1 0).toNat ≤ 64 ∧ bytes.length = 2 + 3 *
      (bytes.getD 1 0).toNat) ∧
    (∃ (s : State) (ctx : Nat) (bytes : Bytes) (c : _), s.ctx? ctx = some c ∧ (bytes.headD 0 ≠ 0x0A ∨ 64 < (bytes.getD 1 0).toNat ∨ bytes.length ≠ 2 + 3 *
      (bytes.getD 1 0).toNat)) ∧
    (∃ (s : State) (b : Berth) (ctx : Nat) (bytes : Bytes) (c : _) (r : _), s.ctx? ctx = some c ∧ parseLinkReport bytes c.station s.line[b].bpc (fun n =>
      n == 0 || !(s.ctxsOf b n).isEmpty) = some [r]) ∧
    (∃ (s : State) (b : Berth) (ctx : Nat) (bytes : Bytes) (c : _), s.ctx? ctx = some c ∧ parseLinkReport bytes c.station s.line[b].bpc (fun n => n == 0
      || !(s.ctxsOf b n).isEmpty) = none) ∧
    (∃ (bytes : Bytes), (bytes.length ≠ 14 ∨ bytes.headD 0 ≠ 0x0D)) ∧
    (∃ (s : State) (b : Berth) (bytes : Bytes) (r : _) (h : _), bytes.length = 14 ∧ bytes.headD 0 = 0x0D ∧ s.mesh[b].own = some (r, h) ∧ newer 16 (bitsAt
      bytes 8 16) r.ver.toNat = false) ∧
    (∃ (s : State) (b : Berth) (bytes : Bytes), bytes.length = 14 ∧ bytes.headD 0 = 0x0D ∧ ((∀ r h, s.mesh[b].own = some (r, h) → newer 16 (bitsAt bytes 8
      16) r.ver.toNat = true))) ∧
    (∃ (bytes : Bytes), parseRelayMap bytes = none) :=
  ⟨⟨({ up with ctxs := [({ id := 5, station := 1, st := .active } : Ctx)] } : State), 5, [0x0A, 0], ({ id := 5, station := 1, st := .active } : Ctx),
      by decide +kernel, by decide +kernel, by decide +kernel, by decide +kernel⟩,
   ⟨({ up with ctxs := [({ id := 5, station := 1, st := .active } : Ctx)] } : State), 5, [], ({ id := 5, station := 1, st := .active } : Ctx),
      by decide +kernel, Or.inl (by decide +kernel)⟩,
   ⟨({ up with ctxs := [({ id := 5, station := 1, st := .active } : Ctx)] } : State), (0 : Berth), 5, (0x0B :: 1 :: List.replicate 9 0),
      ({ id := 5, station := 1, st := .active } : Ctx), ⟨0, 1, 0, 0, 0, 0, 0, none⟩, by decide +kernel, by decide +kernel⟩,
   ⟨({ up with ctxs := [({ id := 5, station := 1, st := .active } : Ctx)] } : State), (0 : Berth), 5, [], ({ id := 5, station := 1, st := .active } :
      Ctx), by decide +kernel, by decide +kernel⟩,
   ⟨[], by decide +kernel⟩,
   ⟨(up.modMesh 0 fun (x : Mesh) => ({ x with own := some ((⟨1, 2, 0, 0, 100, 0, 0, [], 0⟩ : StRoute), 0) } : Mesh)), (0 : Berth), (0x0D :: 2 ::
      List.replicate 12 0), (⟨1, 2, 0, 0, 100, 0, 0, [], 0⟩ : StRoute), 0, by decide +kernel, by decide +kernel, by decide +kernel, by decide +kernel⟩,
   ⟨up, (0 : Berth), (0x0D :: 2 :: List.replicate 12 0), by decide +kernel, by decide +kernel, by intro r h e; cases e⟩,
   ⟨[], by decide +kernel⟩⟩

/-- The conditions of MeshReportsAndRoutesFollow, each met by a state and operands. -/
theorem test_meets_mesh_reports_and_routes_follow_2 :
    (∃ (s : State) (b : Berth) (bytes : Bytes) (x : _), parseRelayMap bytes = some x ∧ s.line[b].st.lastBpc = some x.1) ∧
    (∃ (s : State) (b : Berth) (bytes : Bytes) (x : _), parseRelayMap bytes = some x ∧ s.line[b].st.lastBpc ≠ some x.1) ∧
    (∃ (fc : Bytes) (frame : Bytes), ((parseFc fc).ftype ≠ 0 ∨ (frame.headD 0 ≠ 1 ∧ frame.headD 0 ≠ 2) ∨ frame.length < 45)) ∧
    (∃ (s : State) (b : Berth) (fc : Bytes) (frame : Bytes) (h : _), (parseFc fc).ftype = 0 ∧ (frame.headD 0 = 1 ∨ frame.headD 0 = 2) ∧ 45 ≤ frame.length
      ∧ meshHdrOk (frame.headD 0 == 2) ((frame.drop 1).take 28) = true ∧ parseMeshHdr ((frame.drop 1).take 28) = h ∧ (h.down = false ∨ h.final ≠
      s.line[b].st.number) ∧ h.ttl ≤ 1) ∧
    (∃ (s : State) (b : Berth) (fc : Bytes) (frame : Bytes) (h : _) (r : _) (n : _), (parseFc fc).ftype = 0 ∧ (frame.headD 0 = 1 ∨ frame.headD 0 = 2) ∧ 45
      ≤ frame.length ∧ meshHdrOk (frame.headD 0 == 2) ((frame.drop 1).take 28) = true ∧ parseMeshHdr ((frame.drop 1).take 28) = h ∧ (h.down = false ∨
      h.final ≠ s.line[b].st.number) ∧ 1 < h.ttl ∧ h.relayed = false ∧ h.down = false ∧ s.mesh[b].own = some (r, n) ∧ r.rank < h.rank) ∧
    (∃ (s : State) (b : Berth) (fc : Bytes) (frame : Bytes) (h : _) (r : _) (n : _), (parseFc fc).ftype = 0 ∧ (frame.headD 0 = 1 ∨ frame.headD 0 = 2) ∧ 45
      ≤ frame.length ∧ meshHdrOk (frame.headD 0 == 2) ((frame.drop 1).take 28) = true ∧ parseMeshHdr ((frame.drop 1).take 28) = h ∧ (h.down = false ∨
      h.final ≠ s.line[b].st.number) ∧ 1 < h.ttl ∧ h.relayed = false ∧ h.down = false ∧ s.mesh[b].own = some (r, n) ∧ h.rank ≤ r.rank) ∧
    (∃ (s : State) (b : Berth) (fc : Bytes) (frame : Bytes) (h : _), (parseFc fc).ftype = 0 ∧ (frame.headD 0 = 1 ∨ frame.headD 0 = 2) ∧ 45 ≤ frame.length
      ∧ meshHdrOk (frame.headD 0 == 2) ((frame.drop 1).take 28) = true ∧ parseMeshHdr ((frame.drop 1).take 28) = h ∧ (h.down = false ∨ h.final ≠
      s.line[b].st.number) ∧ 1 < h.ttl ∧ h.relayed = false ∧ h.down = true) ∧
    (∃ (s : State) (b : Berth) (fc : Bytes) (frame : Bytes) (h : _) (l : _), (parseFc fc).ftype = 0 ∧ (frame.headD 0 = 1 ∨ frame.headD 0 = 2) ∧ 45 ≤
      frame.length ∧ meshHdrOk (frame.headD 0 == 2) ((frame.drop 1).take 28) = true ∧ parseMeshHdr ((frame.drop 1).take 28) = h ∧ (h.down = false ∨
      h.final ≠ s.line[b].st.number) ∧ 1 < h.ttl ∧ h.relayed = true ∧ s.mesh[b].map = some l ∧ s.line[b].st.lastBpc = some l.1) :=
  ⟨⟨((up.fset .role 0 [1]).modLine 0 fun (x : Line) => ({ x with st := { x.st with joined := true, lastBpc := some 9 } } : Line)), (0 : Berth), (0x0C ::
      9 :: List.replicate 5 0), (9, []), by decide +kernel, by decide +kernel⟩,
   ⟨up, (0 : Berth), (0x0C :: 9 :: List.replicate 5 0), (9, []), by decide +kernel, by decide +kernel⟩,
   ⟨[], [], by decide +kernel⟩,
   ⟨up, (0 : Berth), [], (1 :: leBytes 44 (1 + 0 * 2 ^ 4 + 0 * 2 ^ 5 + 1 * 2 ^ 6 + 7 * 2 ^ 22 + 50 * 2 ^ 36)), _, by decide +kernel, Or.inl
      (by decide +kernel), by decide +kernel, by decide +kernel, rfl, Or.inl (by decide +kernel), by decide +kernel⟩,
   ⟨(up.modMesh 0 fun (x : Mesh) => ({ x with own := some ((⟨1, 2, 0, 0, 40, 0, 0, [], 0⟩ : StRoute), 0) } : Mesh)), (0 : Berth), [], (1 :: leBytes 44
      (1 + 0 * 2 ^ 4 + 0 * 2 ^ 5 + 3 * 2 ^ 6 + 7 * 2 ^ 22 + 50 * 2 ^ 36)), _, (⟨1, 2, 0, 0, 40, 0, 0, [], 0⟩ : StRoute), 0, by decide +kernel, Or.inl
      (by decide +kernel), by decide +kernel, by decide +kernel, rfl, Or.inl (by decide +kernel), by decide +kernel, by decide +kernel,
      by decide +kernel, by decide +kernel, by decide +kernel⟩,
   ⟨(up.modMesh 0 fun (x : Mesh) => ({ x with own := some ((⟨1, 2, 0, 0, 60, 0, 0, [], 0⟩ : StRoute), 0) } : Mesh)), (0 : Berth), [], (1 :: leBytes 44
      (1 + 0 * 2 ^ 4 + 0 * 2 ^ 5 + 3 * 2 ^ 6 + 7 * 2 ^ 22 + 50 * 2 ^ 36)), _, (⟨1, 2, 0, 0, 60, 0, 0, [], 0⟩ : StRoute), 0, by decide +kernel, Or.inl
      (by decide +kernel), by decide +kernel, by decide +kernel, rfl, Or.inl (by decide +kernel), by decide +kernel, by decide +kernel,
      by decide +kernel, by decide +kernel, by decide +kernel⟩,
   ⟨up, (0 : Berth), [], (1 :: leBytes 44 (1 + 0 * 2 ^ 4 + 1 * 2 ^ 5 + 3 * 2 ^ 6 + 7 * 2 ^ 22 + 50 * 2 ^ 36)), _, by decide +kernel, Or.inl
      (by decide +kernel), by decide +kernel, by decide +kernel, rfl, Or.inr (by decide +kernel), by decide +kernel, by decide +kernel,
      by decide +kernel⟩,
   ⟨(((up.fset .role 0 [1]).modLine 0 fun (x : Line) => ({ x with st := { x.st with joined := true, lastBpc := some 9 } } : Line)).modMesh 0 fun (x :
      Mesh) => ({ x with map := some (9, []) } : Mesh)), (0 : Berth), [], (2 :: leBytes 44 (1 + 1 * 2 ^ 4 + 0 * 2 ^ 5 + 3 * 2 ^ 6 + 7 * 2 ^ 22 + 50 *
      2 ^ 36)), _, (9, []), by decide +kernel, Or.inr (by decide +kernel), by decide +kernel, by decide +kernel, rfl, Or.inl (by decide +kernel),
      by decide +kernel, by decide +kernel, by decide +kernel, by decide +kernel⟩⟩

/-- The conditions of MeshReportsAndRoutesFollow, each met by a state and operands. -/
theorem test_meets_mesh_reports_and_routes_follow_3 :
    (∃ (s : State) (b : Berth), s.mesh[b].own = none) ∧
    (∃ (s : State) (b : Berth) (r : _) (h : _), s.mesh[b].own = some (r, h)) ∧
    (∃ (s : State) (b : Berth) (late : _), (late = fun (f : FwdFrame) => f.relayed && !f.sent && decide (2 ≤ (s.line[b].st.bpcNow - f.bpc).toNat))) :=
  ⟨⟨State.reset, (0 : Berth), by decide +kernel⟩,
   ⟨(up.modMesh 0 fun (x : Mesh) => ({ x with own := some ((⟨1, 2, 0, 0, 100, 0, 0, [], 0⟩ : StRoute), 0) } : Mesh)), (0 : Berth), (⟨1, 2, 0, 0, 100, 0,
      0, [], 0⟩ : StRoute), 0, by decide +kernel⟩,
   ⟨up, (0 : Berth), _, rfl⟩⟩

/-- The conditions of ReceptionFollows, each met by a state and operands. -/
theorem test_meets_reception_follows_1 :
    (∃ (w : LateWork) (n : _), w = .rxSymbol n ∧ n = 0) ∧
    (∃ (w : LateWork) (i : _) (llrs : _), w = .codeword i llrs) ∧
    (∃ (s : State) (b : Berth) (w : LateWork) (f : _), w = .txSymbol ∧ s.berth[b].tx = some f ∧ f.sym ≠ 0) ∧
    (∃ (w : LateWork) (a : _), w = .allocation a) ∧
    (∃ (syms : List Nat), syms ≠ []) ∧
    (∃ (syms : List Nat), 0 ∈ syms) ∧
    (∃ (s : State) (b : Berth) (p2 : Bool), s.domOn (berthDom b) = true ∧ p2 = true) ∧
    (∃ (s : State) (b : Berth) (p2 : Bool), s.domOn (berthDom b) = true ∧ p2 = false) :=
  ⟨⟨_, 0, rfl, by decide +kernel⟩,
   ⟨_, 0, [], rfl⟩,
   ⟨(up.modBerth 0 fun (x : BerthSt) =>
      ({ x with tx := some ({ fc := ({ version := 1, ftype := 0, src := 0, dst := 1, bcast := false, ackReq := true, ctxSel := 0, gi := 0, mode := 1, tmId := 0, short := false, rate := 0, len := 3, attempt := 0, tag := 0, keyGen := 0, bpcFirst := 0, seq := 9 } : FrameCtl), nSym := 4, sym := 2 } : TxFrame) }
      : BerthSt)), (0 : Berth), _,
      ({ fc := ({ version := 1, ftype := 0, src := 0, dst := 1, bcast := false, ackReq := true, ctxSel := 0, gi := 0, mode := 1, tmId := 0, short := false, rate := 0, len := 3, attempt := 0, tag := 0, keyGen := 0, bpcFirst := 0, seq := 9 } : FrameCtl), nSym := 4, sym := 2 }
      : TxFrame), rfl, by decide +kernel, by decide +kernel⟩,
   ⟨_, 0, rfl⟩,
   ⟨[0], by decide +kernel⟩,
   ⟨[0], by decide +kernel⟩,
   ⟨up, (0 : Berth), true, by decide +kernel, by decide +kernel⟩,
   ⟨up, (0 : Berth), false, by decide +kernel, by decide +kernel⟩⟩

/-- The conditions of ReceptionFollows, each met by a state and operands. -/
theorem test_meets_reception_follows_2 :
    (∃ (s : State) (b : Berth) (fc : Bytes), s.berth[b].rx ≠ none ∧ fcCrcOk fc = false) ∧
    (∃ (s : State) (b : Berth) (fc : Bytes), s.berth[b].rx ≠ none ∧ fcCrcOk fc = true ∧ fcRange (parseFc fc) = false) ∧
    (∃ (s : State) (b : Berth) (fc : Bytes), s.berth[b].rx ≠ none ∧ fcCrcOk fc = true ∧ fcRange (parseFc fc) = true ∧ (s.knownTag b (parseFc fc) = false ∨
      s.fcSide b (parseFc fc) = none)) ∧
    (∃ (s : State) (b : Berth) (fc : Bytes) (side : _) (f : _), s.berth[b].rx ≠ none ∧ parseFc fc = f ∧ fcCrcOk fc = true ∧ fcRange f = true ∧ s.knownTag
      b f = true ∧ s.fcSide b f = some side ∧ f.mode = 0 ∧ ((s.berth[b].maps.find? fun (m : LinkMaps) => m.station == mapKey side f.src).any fun (m :
      LinkMaps) => m.issued.any fun (y : ToneMap) => y.id == f.tmId) = false) ∧
    (∃ (s : State) (b : Berth) (fc : Bytes) (side : _) (f : _), s.berth[b].rx ≠ none ∧ parseFc fc = f ∧ fcCrcOk fc = true ∧ fcRange f = true ∧ s.knownTag
      b f = true ∧ s.fcSide b f = some side ∧ ((f.mode = 0 → ((s.berth[b].maps.find? fun (m : LinkMaps) => m.station == mapKey side f.src).any fun (m
      : LinkMaps) => m.issued.any fun (y : ToneMap) => y.id == f.tmId) = true)) ∧ 1 ≤ nSymbols (nCodewords f.short f.len) (ldpcN f.short f.rate)
      (s.rxBits b side f) ∧ nSymbols (nCodewords f.short f.len) (ldpcN f.short f.rate) (s.rxBits b side f) ≤ 1024) ∧
    (∃ (s : State) (b : Berth) (r : _) (f : _), s.berth[b].rx = some r ∧ r.fc = some f ∧ r.done + 1 < r.nSym) ∧
    (∃ (s : State) (b : Berth) (w : SymbolQuality), symWeight w.blanked w.tx (s.berth[b].cancel == .diverged) w.excess = 0) ∧
    (∃ (s : State) (b : Berth) (w : SymbolQuality), 0 < symWeight w.blanked w.tx (s.berth[b].cancel == .diverged) w.excess ∧ symWeight w.blanked w.tx
      (s.berth[b].cancel == .diverged) w.excess < 16) :=
  ⟨⟨((up.fset .role 0 [0]).modBerth 0 fun (x : BerthSt) => ({ x with rx := some {} } : BerthSt)), (0 : Berth), [], by decide +kernel, by decide +kernel⟩,
   ⟨((up.fset .role 0 [0]).modBerth 0 fun (x : BerthSt) => ({ x with rx := some {} } : BerthSt)), (0 : Berth), (fcBytes
      ({ version := 2, ftype := 0, src := 0, dst := 1, bcast := false, ackReq := true, ctxSel := 0, gi := 0, mode := 1, tmId := 0, short := false, rate := 0, len := 3, attempt := 0, tag := 0, keyGen := 0, bpcFirst := 0, seq := 9 }
      : FrameCtl)), by decide +kernel, by decide +kernel, by decide +kernel⟩,
   ⟨((up.fset .role 0 [0]).modBerth 0 fun (x : BerthSt) => ({ x with rx := some {} } : BerthSt)), (0 : Berth), (fcBytes
      ({ version := 1, ftype := 0, src := 1, dst := 0, bcast := false, ackReq := true, ctxSel := 0, gi := 0, mode := 1, tmId := 0, short := false, rate := 0, len := 3, attempt := 0, tag := 999, keyGen := 0, bpcFirst := 0, seq := 9 }
      : FrameCtl)), by decide +kernel, by decide +kernel, by decide +kernel, Or.inl (by decide +kernel)⟩,
   ⟨((up.fset .role 0 [0]).modBerth 0 fun (x : BerthSt) => ({ x with rx := some {} } : BerthSt)), (0 : Berth), (fcBytes
      ({ version := 1, ftype := 0, src := 1, dst := 0, bcast := false, ackReq := true, ctxSel := 0, gi := 0, mode := 0, tmId := 3, short := false, rate := 0, len := 3, attempt := 0, tag := 256, keyGen := 0, bpcFirst := 0, seq := 9 }
      : FrameCtl)), false, _, by decide +kernel, rfl, by decide +kernel, by decide +kernel, by decide +kernel, by decide +kernel, by decide +kernel,
      by decide +kernel⟩,
   ⟨receiving, (0 : Berth), fcBytes rxFc, false, rxFc, by decide +kernel, rxFc_reads, by decide +kernel, by decide +kernel, by decide +kernel,
      by decide +kernel, fun h => absurd h (by decide), by rw [receiving_symbols]; decide, by rw [receiving_symbols]; decide⟩,
   ⟨(up.modBerth 0 fun (x : BerthSt) =>
      ({ x with rx := some ({ fc := some ({ version := 1, ftype := 0, src := 0, dst := 1, bcast := false, ackReq := true, ctxSel := 0, gi := 0, mode := 1, tmId := 0, short := false, rate := 0, len := 3, attempt := 0, tag := 0, keyGen := 0, bpcFirst := 0, seq := 9 } : FrameCtl), nSym := 4, done := 1 } : RxFrame) }
      : BerthSt)), (0 : Berth),
      ({ fc := some ({ version := 1, ftype := 0, src := 0, dst := 1, bcast := false, ackReq := true, ctxSel := 0, gi := 0, mode := 1, tmId := 0, short := false, rate := 0, len := 3, attempt := 0, tag := 0, keyGen := 0, bpcFirst := 0, seq := 9 } : FrameCtl), nSym := 4, done := 1 }
      : RxFrame),
      ({ version := 1, ftype := 0, src := 0, dst := 1, bcast := false, ackReq := true, ctxSel := 0, gi := 0, mode := 1, tmId := 0, short := false, rate := 0, len := 3, attempt := 0, tag := 0, keyGen := 0, bpcFirst := 0, seq := 9 }
      : FrameCtl), by decide +kernel, by decide +kernel, by decide +kernel⟩,
   ⟨up, (0 : Berth), ⟨2000, 0, 0, 0, 0, 0, false, none⟩, by decide +kernel⟩,
   ⟨up, (0 : Berth), ⟨100, 0, 0, 0, 0, 0, false, none⟩, by decide +kernel, by decide +kernel⟩⟩

/-- The conditions of ReceptionFollows, each met by a state and operands. -/
theorem test_meets_reception_follows_3 :
    (∃ (s : State) (b : Berth) (r : _), s.berth[b].rx = some r ∧ r.fc = none) ∧
    (∃ (s : State) (b : Berth) (cw : Nat) (e : CwEnd) (r : _) (f : _) (bits : _), s.berth[b].rx = some r ∧ r.fc = some f ∧ ((∃ d, d ∈ s.berth[b].dec ∧
      d.idx = cw)) ∧ e = .converged bits ∧ r.done < r.nSym) ∧
    (∃ (s : State) (b : Berth) (cw : Nat) (e : CwEnd) (r : _) (f : _) (llrs : _), s.berth[b].rx = some r ∧ r.fc = some f ∧ ((∃ d, d ∈ s.berth[b].dec ∧
      d.idx = cw)) ∧ e = .failed llrs ∧ r.done < r.nSym) ∧
    (∃ (s : State) (b : Berth) (cw : Nat) (e : CwEnd) (r : _) (f : _) (llrs : _), s.berth[b].rx = some r ∧ r.fc = some f ∧ ((∃ d, d ∈ s.berth[b].dec ∧
      d.idx = cw)) ∧ e = .late llrs ∧ r.done < r.nSym) ∧
    (∃ (s : State) (b : Berth), s.domOn (berthDom b) = true ∧ s.berth[b].gainDrop = true) ∧
    (∃ (s : State) (b : Berth) (level : Option Int), s.domOn (berthDom b) = true ∧ s.berth[b].gainDrop = false ∧ (s.berth[b].rx ≠ none ∨ level = none)) ∧
    (∃ (s : State) (b : Berth) (f : _), s.domOn (berthDom b) = true ∧ s.berth[b].tx = some f ∧ f.abort = false ∧ f.sym < 3 + f.nSym) ∧
    (∃ (s : State) (b : Berth) (f : _), s.domOn (berthDom b) = true ∧ s.berth[b].tx = some f ∧ f.abort = true ∧ f.skip = false ∧ f.sym < 3 + f.nSym ∧
      f.sym ≠ 0) :=
  ⟨⟨(up.modBerth 0 fun (x : BerthSt) => ({ x with rx := some ({} : RxFrame) } : BerthSt)), (0 : Berth), ({} : RxFrame), by decide +kernel,
      by decide +kernel⟩,
   ⟨(up.modBerth 0 fun (x : BerthSt) =>
      ({ x with rx := some ({ fc := some ({ version := 1, ftype := 0, src := 0, dst := 1, bcast := false, ackReq := true, ctxSel := 0, gi := 0, mode := 1, tmId := 0, short := false, rate := 0, len := 3, attempt := 0, tag := 0, keyGen := 0, bpcFirst := 0, seq := 9 } : FrameCtl), nSym := 4, done := 1 } : RxFrame), dec := [⟨2⟩] }
      : BerthSt)), (0 : Berth), 2, _,
      ({ fc := some ({ version := 1, ftype := 0, src := 0, dst := 1, bcast := false, ackReq := true, ctxSel := 0, gi := 0, mode := 1, tmId := 0, short := false, rate := 0, len := 3, attempt := 0, tag := 0, keyGen := 0, bpcFirst := 0, seq := 9 } : FrameCtl), nSym := 4, done := 1 }
      : RxFrame),
      ({ version := 1, ftype := 0, src := 0, dst := 1, bcast := false, ackReq := true, ctxSel := 0, gi := 0, mode := 1, tmId := 0, short := false, rate := 0, len := 3, attempt := 0, tag := 0, keyGen := 0, bpcFirst := 0, seq := 9 }
      : FrameCtl), [], by decide +kernel, by decide +kernel, ⟨⟨2⟩, by decide +kernel, rfl⟩, rfl, by decide +kernel⟩,
   ⟨(up.modBerth 0 fun (x : BerthSt) =>
      ({ x with rx := some ({ fc := some ({ version := 1, ftype := 0, src := 0, dst := 1, bcast := false, ackReq := true, ctxSel := 0, gi := 0, mode := 1, tmId := 0, short := false, rate := 0, len := 3, attempt := 0, tag := 0, keyGen := 0, bpcFirst := 0, seq := 9 } : FrameCtl), nSym := 4, done := 1 } : RxFrame), dec := [⟨2⟩] }
      : BerthSt)), (0 : Berth), 2, _,
      ({ fc := some ({ version := 1, ftype := 0, src := 0, dst := 1, bcast := false, ackReq := true, ctxSel := 0, gi := 0, mode := 1, tmId := 0, short := false, rate := 0, len := 3, attempt := 0, tag := 0, keyGen := 0, bpcFirst := 0, seq := 9 } : FrameCtl), nSym := 4, done := 1 }
      : RxFrame),
      ({ version := 1, ftype := 0, src := 0, dst := 1, bcast := false, ackReq := true, ctxSel := 0, gi := 0, mode := 1, tmId := 0, short := false, rate := 0, len := 3, attempt := 0, tag := 0, keyGen := 0, bpcFirst := 0, seq := 9 }
      : FrameCtl), [], by decide +kernel, by decide +kernel, ⟨⟨2⟩, by decide +kernel, rfl⟩, rfl, by decide +kernel⟩,
   ⟨(up.modBerth 0 fun (x : BerthSt) =>
      ({ x with rx := some ({ fc := some ({ version := 1, ftype := 0, src := 0, dst := 1, bcast := false, ackReq := true, ctxSel := 0, gi := 0, mode := 1, tmId := 0, short := false, rate := 0, len := 3, attempt := 0, tag := 0, keyGen := 0, bpcFirst := 0, seq := 9 } : FrameCtl), nSym := 4, done := 1 } : RxFrame), dec := [⟨2⟩] }
      : BerthSt)), (0 : Berth), 2, _,
      ({ fc := some ({ version := 1, ftype := 0, src := 0, dst := 1, bcast := false, ackReq := true, ctxSel := 0, gi := 0, mode := 1, tmId := 0, short := false, rate := 0, len := 3, attempt := 0, tag := 0, keyGen := 0, bpcFirst := 0, seq := 9 } : FrameCtl), nSym := 4, done := 1 }
      : RxFrame),
      ({ version := 1, ftype := 0, src := 0, dst := 1, bcast := false, ackReq := true, ctxSel := 0, gi := 0, mode := 1, tmId := 0, short := false, rate := 0, len := 3, attempt := 0, tag := 0, keyGen := 0, bpcFirst := 0, seq := 9 }
      : FrameCtl), [], by decide +kernel, by decide +kernel, ⟨⟨2⟩, by decide +kernel, rfl⟩, rfl, by decide +kernel⟩,
   ⟨((fun (s : State) => ({ s with berth := (s.berth.set (0 : Berth) { s.berth[(0 : Berth)] with gainDrop := true }) } : State)) up), (0 : Berth),
      by decide +kernel, by decide +kernel⟩,
   ⟨up, (0 : Berth), none, by decide +kernel, by decide +kernel, Or.inr (by decide +kernel)⟩,
   ⟨(up.modBerth 0 fun (x : BerthSt) =>
      ({ x with tx := some ({ fc := ({ version := 1, ftype := 0, src := 0, dst := 1, bcast := false, ackReq := true, ctxSel := 0, gi := 0, mode := 1, tmId := 0, short := false, rate := 0, len := 3, attempt := 0, tag := 0, keyGen := 0, bpcFirst := 0, seq := 9 } : FrameCtl), nSym := 4, sym := 2 } : TxFrame) }
      : BerthSt)), (0 : Berth),
      ({ fc := ({ version := 1, ftype := 0, src := 0, dst := 1, bcast := false, ackReq := true, ctxSel := 0, gi := 0, mode := 1, tmId := 0, short := false, rate := 0, len := 3, attempt := 0, tag := 0, keyGen := 0, bpcFirst := 0, seq := 9 } : FrameCtl), nSym := 4, sym := 2 }
      : TxFrame), by decide +kernel, by decide +kernel, by decide +kernel, by decide +kernel⟩,
   ⟨(up.modBerth 0 fun (x : BerthSt) =>
      ({ x with tx := some ({ fc := ({ version := 1, ftype := 0, src := 0, dst := 1, bcast := false, ackReq := true, ctxSel := 0, gi := 0, mode := 1, tmId := 0, short := false, rate := 0, len := 3, attempt := 0, tag := 0, keyGen := 0, bpcFirst := 0, seq := 9 } : FrameCtl), nSym := 4, sym := 2, abort := true } : TxFrame) }
      : BerthSt)), (0 : Berth),
      ({ fc := ({ version := 1, ftype := 0, src := 0, dst := 1, bcast := false, ackReq := true, ctxSel := 0, gi := 0, mode := 1, tmId := 0, short := false, rate := 0, len := 3, attempt := 0, tag := 0, keyGen := 0, bpcFirst := 0, seq := 9 } : FrameCtl), nSym := 4, sym := 2, abort := true }
      : TxFrame), by decide +kernel, by decide +kernel, by decide +kernel, by decide +kernel, by decide +kernel, by decide +kernel⟩⟩

end Sys2Proof.Tests
end

/-! O7 and O8: the comparison of counters (R6), and the registers written as two halves (R11). -/

namespace Sys2Proof.Machine
open Sys2Proof

/-! ## Counters compare over half their range (R6) -/

/-- On machine words the comparison is a bound on their modular difference. -/
theorem newer_toNat (n : Nat) (a b : BitVec (n + 1)) :
    newer (n + 1) a.toNat b.toNat = decide (1 ≤ (a - b).toNat ∧ (a - b).toNat ≤ 2 ^ n - 1) := by
  have hd : (a.toNat + (2 ^ (n + 1) - b.toNat % 2 ^ (n + 1))) % 2 ^ (n + 1) = (a - b).toNat := by
    rw [BitVec.toNat_sub, Nat.mod_eq_of_lt b.isLt, Nat.add_comm]
  simp only [newer, hd, Nat.add_sub_cancel]

/-- A word is not newer at a difference of half the range. -/
theorem newer_eq_false_of_half {n : Nat} {a b : BitVec (n + 1)} (h : (a - b).toNat = 2 ^ n) : newer (n + 1) a.toNat b.toNat = false := by
  have hpos : 0 < 2 ^ n := Nat.two_pow_pos n
  rw [newer_toNat, h, decide_eq_false_iff_not]
  omega

/-- Half the range is its own negative: it is the difference in both directions or in neither. -/
theorem toNat_sub_half_swap {n : Nat} {a b : BitVec (n + 1)} (h : (a - b).toNat = 2 ^ n) : (b - a).toNat = 2 ^ n := by
  have hpos : 0 < 2 ^ n := Nat.two_pow_pos n
  have hpow : 2 ^ (n + 1) = 2 * 2 ^ n := by rw [Nat.pow_succ, Nat.mul_comm]
  have hswap : b - a = -(a - b) := by rw [BitVec.neg_sub, BitVec.sub_eq_add_neg, BitVec.add_comm]
  rw [hswap, BitVec.toNat_neg, h, hpow, Nat.mod_eq_of_lt (by omega)]
  omega

/-- Settles O7: `newer` is a bound on the modular difference, and a difference of half the range is outside it in both directions. -/
theorem countersCompareOverHalfTheirRange : Obligations.CountersCompareOverHalfTheirRange := by
  unfold Obligations.CountersCompareOverHalfTheirRange
  intro n a b
  constructor
  · rw [newer_toNat, decide_eq_true_iff]
  · intro h
    exact ⟨newer_eq_false_of_half h, newer_eq_false_of_half (toNat_sub_half_swap h)⟩

/-! ## The two halves of a base of a queue pair (R11) -/

/-- A queue pair after an update of its own record. -/
@[simp] theorem State.modQp_qp_self (s : State) (q : QpId) (f : Qp → Qp) : (s.modQp q f).qp[q] = f s.qp[q] := by
  simp [State.modQp]

/-- The host's access depends on the link, the D-state and the domain alone. -/
@[simp] theorem State.at_hostAccess (s : State) (t : Nat) : (s.at t).hostAccess = s.hostAccess := rfl
@[simp] theorem State.modQp_hostAccess (s : State) (q : QpId) (f : Qp → Qp) : (s.modQp q f).hostAccess = s.hostAccess := rfl

/-- A write of a lower half leaves both active bases, whether the queue pair is enabled or not. -/
@[simp] theorem Qp.writeBase_lower_sqBase (x : Qp) (cq : Bool) (v : BitVec 32) : (x.writeBase cq false v).sqBase = x.sqBase := by
  cases he : x.enable <;> cases cq <;> simp [Qp.writeBase, he]

@[simp] theorem Qp.writeBase_lower_cqBase (x : Qp) (cq : Bool) (v : BitVec 32) : (x.writeBase cq false v).cqBase = x.cqBase := by
  cases he : x.enable <;> cases cq <;> simp [Qp.writeBase, he]

/-- While the queue pair is disabled, the submission base takes both halves at its upper one, and the completion base stays. -/
theorem Qp.writeBase_sq_halves {x : Qp} (lo hi : BitVec 32) (he : x.enable = false) :
    ((x.writeBase false false lo).writeBase false true hi).sqBase = hi ++ lo ∧
    ((x.writeBase false false lo).writeBase false true hi).cqBase = x.cqBase := by
  simp [Qp.writeBase, he]

/-- While the queue pair is disabled, the completion base takes both halves at its upper one, and the submission base stays. -/
theorem Qp.writeBase_cq_halves {x : Qp} (lo hi : BitVec 32) (he : x.enable = false) :
    ((x.writeBase true false lo).writeBase true true hi).cqBase = hi ++ lo ∧
    ((x.writeBase true false lo).writeBase true true hi).sqBase = x.sqBase := by
  simp [Qp.writeBase, he]

/-- An aligned four-byte write of the host into BAR0 is the 32-bit write of its window (R10). -/
theorem exec_registerWrite_bar0 {s : State} {t off : Nat} {v : BitVec 64} (ha : s.hostAccess = true) (hal : off % 4 = 0) (hlt : off < 0x10000) :
    exec (.registerWrite t 0 off 4 v) s = .next ((s.at t).writeBar0 off (v.setWidth 32)) := by
  change execRegisterWrite t 0 off 4 v s = _
  simp [execRegisterWrite, ha, hal, hlt]

/-- The set-up block of queue pair q lies at 0x2000 + 32 q (R240). -/
theorem State.writeBar0_qpBlock (s : State) (q : QpId) {k : Nat} (hk : k < 32) (v : BitVec 32) :
    s.writeBar0 (0x2000 + 32 * q.val + k) v = s.writeQp q k v := by
  have hin : 0x2000 ≤ 0x2000 + 32 * q.val + k ∧ 0x2000 + 32 * q.val + k < 0x4000 := by omega
  have hq : Fin.ofNat 256 ((0x2000 + 32 * q.val + k - 0x2000) / 32) = q := by
    apply Fin.ext
    simp only [Fin.val_ofNat]
    omega
  have hk' : (0x2000 + 32 * q.val + k) % 32 = k := by omega
  rw [State.writeBar0, if_pos hin, hq, hk']

/-- The four halves of the two bases stand in the first 16 bytes of the block (R240). -/
theorem State.writeQp_half (s : State) (q : QpId) (cq hi : Bool) (v : BitVec 32) :
    s.writeQp q (8 * cq.toNat + 4 * hi.toNat) v = s.modQp q fun x => x.writeBase cq hi v := by
  cases cq <;> cases hi <;> rfl

/-- A four-byte write of the host to a half of a base changes its queue pair by `Qp.writeBase`. -/
theorem exec_registerWrite_half {s : State} {t off : Nat} {v : BitVec 64} (q : QpId) (cq hi : Bool) (ha : s.hostAccess = true)
    (hoff : off = 0x2000 + 32 * q.val + (8 * cq.toNat + 4 * hi.toNat)) :
    exec (.registerWrite t 0 off 4 v) s = .next ((s.at t).modQp q fun x => x.writeBase cq hi (v.setWidth 32)) := by
  have hcq : cq.toNat ≤ 1 := Bool.toNat_le cq
  have hhi : hi.toNat ≤ 1 := Bool.toNat_le hi
  rw [exec_registerWrite_bar0 ha (by omega) (by omega), hoff, State.writeBar0_qpBlock _ q (by omega), State.writeQp_half]

/-- Settles O8: the two writes are `Qp.writeBase` twice, on the submission base at offset 0 and on the completion base at offset 8. -/
theorem halvesTakeEffectAtTheUpperOne : Obligations.HalvesTakeEffectAtTheUpperOne := by
  unfold Obligations.HalvesTakeEffectAtTheUpperOne
  intro s t u q off lo hi ha he hoff
  rcases hoff with rfl | rfl
  · refine ⟨_, exec_registerWrite_half q false false ha (by simp), by simp, by simp,
      _, exec_registerWrite_half q false true (by simpa using ha) (by simp; omega), ?_, by simp⟩
    simpa using Qp.writeBase_sq_halves (lo.setWidth 32) (hi.setWidth 32) he
  · refine ⟨_, exec_registerWrite_half q true false ha (by simp), by simp, by simp,
      _, exec_registerWrite_half q true true (by simpa using ha) (by simp; omega), by simp, ?_⟩
    simpa using Qp.writeBase_cq_halves (lo.setWidth 32) (hi.setWidth 32) he

end Sys2Proof.Machine

/-! O6: no command moves PD_SEC out of ON (R31). Of the commands, 206 leave the power domains alone, by the parts their operations reach
(`exec_only_partsOf`); the other 37 reach them through `State.setDom` and `State.setDomRec`, which never move PD_SEC (`exec_secOn`). -/

namespace Sys2Proof.Machine
open Sys2Proof

/-! ## Reaches, put together -/

theorem Only.rfl {L : List Part} {s : State} : Only L s s := Only.refl L s

/-- The instant of a command. -/
theorem Only.at {L : List Part} {s : State} {t : Nat} (hL : reach [.now] L = true) : Only L s (s.at t) := State.at_only hL .rfl

/-- A step that a condition decides on. -/
theorem Only.stepIf {L : List Part} {s a b : State} {c : Prop} [Decidable c] (hb : Only L s a → Only L s b) (h : Only L s a) :
    Only L s (if c then b else a) := .ite (hb h) h

/-- A state that several branches go on from is reached once. -/
theorem Only.share {L : List Part} {s a : State} {P : Prop} (hP : Only L s a → P) (h : Only L s a) : P := hP h

/-! ## The commands that leave the power domains alone -/

section
variable {s : State} {t : Nat}

/-! ### Management, sensors and keys -/

theorem execSessionOpen_only {r : Req} : OnlyNext (partsOf (.sessionOpen t r)) s (execSessionOpen t r s) :=
  .ite (.next (.at rfl))
    (Only.share (fun h => .next (.ite (State.answerShort_only rfl h) (State.answer_only rfl (State.openSession_only rfl h))))
      (State.unbox_only rfl (.at rfl)))

theorem execSessionClose_only {r : Req} : OnlyNext (partsOf (.sessionClose t r)) s (execSessionClose t r s) := by
  unfold execSessionClose
  refine .ite (.next (.at rfl)) ?_
  split
  · next he =>
    have h := State.accept_only_eq (L := partsOf (.sessionClose t r)) he rfl (State.unbox_only rfl (.at rfl))
    exact .ite (.next (State.complete_only rfl h h))
      (.ite (.next (State.closeSession_only rfl (State.answer_only rfl h))) (.next (State.modSession_only rfl h)))
  · next he => exact .next (State.answer_only rfl (State.accept_only_eq he rfl (State.unbox_only rfl (.at rfl))))
  · next he => exact .next (State.accept_only_eq he rfl (State.unbox_only rfl (.at rfl)))

theorem execObjGet_only {r : Req} : OnlyNext (partsOf (.objGet t r)) s (execObjGet t r s) :=
  .next (State.runFree_only rfl (fun _ _ => objGetEff_only rfl) (.at rfl))

theorem execStatsRead_only {r : Req} : OnlyNext (partsOf (.statsRead t r)) s (execStatsRead t r s) :=
  .next (State.runFree_only rfl (fun _ _ => statsReadEff_only rfl) (.at rfl))

theorem execSensorCal_only {r : Req} : OnlyNext (partsOf (.sensorCal t r)) s (execSensorCal t r s) :=
  .next (State.runLocked_only rfl (fun _ => sensorCalEff_only rfl) (.at rfl))

theorem execLoopForce_only {r : Req} : OnlyNext (partsOf (.loopForce t r)) s (execLoopForce t r s) :=
  .next (State.runLocked_only rfl (fun _ => loopForceEff_only rfl) (.at rfl))

theorem execKeyInstall_only {r : Req} : OnlyNext (partsOf (.keyInstall t r)) s (execKeyInstall t r s) :=
  .next (State.runLocked_only rfl (fun _ => keyInstallEff_only rfl) (.at rfl))

theorem execKeyRoll_only {r : Req} : OnlyNext (partsOf (.keyRoll t r)) s (execKeyRoll t r s) :=
  .next (State.runLocked_only rfl (fun _ => keyRollEff_only rfl) (.at rfl))

theorem execAttest_only {r : Req} : OnlyNext (partsOf (.attest t r)) s (execAttest t r s) :=
  .next (State.runFree_only rfl (fun _ _ => attestEff_only rfl) (.at rfl))

theorem execEventAck_only {r : Req} : OnlyNext (partsOf (.eventAck t r)) s (execEventAck t r s) :=
  .next (State.runFree_only rfl (fun _ _ => eventAckEff_only rfl) (.at rfl))

theorem execLockWaitTimeout_only {k : Nat} : OnlyNext (partsOf (.lockWaitTimeout t k)) s (execLockWaitTimeout t k s) := by
  unfold execLockWaitTimeout
  dsimp only
  split
  · exact .next (.at rfl)
  · exact
      Only.share (fun h => .next (State.grant_only rfl (State.complete_only rfl h h))) (State.bump_only rfl (only_set_mgmt rfl (.at rfl)))

theorem execSessionNonceExpiry_only {id : BitVec 16} : OnlyNext (partsOf (.sessionNonceExpiry t id)) s (execSessionNonceExpiry t id s) :=
  .next (only_set_mgmt rfl (.at rfl))

theorem execSessionIdleTimeout_only {id : BitVec 16} : OnlyNext (partsOf (.sessionIdleTimeout t id)) s (execSessionIdleTimeout t id s) := by
  unfold execSessionIdleTimeout
  dsimp only
  split
  · exact .ite (.next (State.closeSession_only rfl (.at rfl))) (.next (.at rfl))
  · exact .next (.at rfl)

theorem execSessionLockoutEnd_only {role : Role} {tr : Transport} :
    OnlyNext (partsOf (.sessionLockoutEnd t role tr)) s (execSessionLockoutEnd t role tr s) := by
  unfold execSessionLockoutEnd
  dsimp only
  split
  · exact .ite (.next (State.putLockout_only rfl (.at rfl))) (.next (.at rfl))
  · exact .next (.at rfl)

theorem execFabricSessionUnreachable_only {id : BitVec 16} :
    OnlyNext (partsOf (.fabricSessionUnreachable t id)) s (execFabricSessionUnreachable t id s) := by
  unfold execFabricSessionUnreachable
  dsimp only
  split
  · split
    · exact .ite (.next (State.closeSession_only rfl (.at rfl))) (.next (.at rfl))
    · exact .next (.at rfl)
  · exact .next (.at rfl)

theorem execMgmtDrainLoopFault_only : OnlyNext (partsOf (.mgmtDrainLoopFault t)) s (execMgmtDrainLoopFault t s) :=
  .ite (.next (State.forAll_only (fun _ _ => State.loopStep_only rfl) (only_set_live rfl (.at rfl)))) (.next (.at rfl))

theorem execWireBreak_only {n : SensId} {cause : Nat} : OnlyNext (partsOf (.wireBreak t n cause)) s (execWireBreak t n cause s) :=
  .ite (.next (State.senseBreak_only rfl (.at rfl))) (.next (.at rfl))

theorem execBreakProbe_only {n : SensId} {uv : Nat} : OnlyNext (partsOf (.breakProbe t n uv)) s (execBreakProbe t n uv s) :=
  .ite (.next (State.releaseAt_only rfl (.at rfl)))
    (.ite (.next (State.modSense_only rfl (State.releaseAt_only rfl (.at rfl))))
       (.ite (.next (State.senseBreak_only rfl (State.bump_only rfl (State.modSense_only rfl (State.releaseAt_only rfl (.at rfl))))))
          (.next (State.modSense_only rfl (State.releaseAt_only rfl (.at rfl))))))

theorem execWireBreakRetest_only {n : SensId} {pass : Bool} : OnlyNext (partsOf (.wireBreakRetest t n pass)) s (execWireBreakRetest t n pass s) :=
  .ite (.next (.at rfl))
    (.ite (.next (State.modSense_only rfl (.at rfl)))
       (.ite (.next (State.modSense_only rfl (.at rfl)))
          (.next (.stepIf (State.emit_only rfl) (State.forAll_only (fun _ _ => State.modLoop_only rfl) (State.modSense_only rfl (.at rfl)))))))

theorem execSenseBlankChange_only {level : Bool} : OnlyNext (partsOf (.senseBlankChange t level)) s (execSenseBlankChange t level s) :=
  .next (only_set_senseBlank rfl (.at rfl))

theorem execFilterOutput_only {n : SensId} {f : FilterIn} : OnlyNext (partsOf (.filterOutput t n f)) s (execFilterOutput t n f s) :=
  .ite (.next (.at rfl))
    (.next
      (.stepIf (State.loopsServed_only rfl)
        (State.modSense_only rfl
          (State.free_only rfl
            (State.free_only rfl
              (.stepIf (State.senseBreak_only rfl)
                (State.countOutput_only rfl
                  (.stepIf (State.releaseAt_only rfl) (State.filterReset_only rfl (State.outputSettings_only rfl (.at rfl)))))))))))

theorem execFastOutput_only {n : SensId} {f : FastIn} : OnlyNext (partsOf (.fastOutput t n f)) s (execFastOutput t n f s) := by
  unfold execFastOutput
  refine .ite (.next (.at rfl)) ?_
  dsimp only
  split
  · exact .next (State.loopsServed_only rfl (State.modSense_only rfl (State.countOutput_only rfl (.at rfl))))
  · exact .next (State.modSense_only rfl (State.countOutput_only rfl (.at rfl)))

theorem execLoopPeriod_only {j : LoopId} : OnlyNext (partsOf (.loopPeriod t j)) s (execLoopPeriod t j s) :=
  .next (State.loopStep_only rfl (.at rfl))

theorem execLoopOpen_only {j : LoopId} {ua : Nat} {gateMax : Bool} :
    OnlyNext (partsOf (.loopOpen t j ua gateMax)) s (execLoopOpen t j ua gateMax s) := by
  unfold execLoopOpen
  dsimp only
  split
  · exact .next (State.modLoop_only rfl (State.report_only rfl (.at rfl)))
  · exact Only.share
        (fun h =>
           .ite (.next (State.raise_only rfl (State.stick_only rfl (State.modLoop_only rfl h))))
             (.ite (.next (State.modLoop_only rfl h)) (.next h)))
        (State.modLoop_only rfl (State.report_only rfl (.at rfl)))

theorem execLoopForceExpiry_only {j : LoopId} : OnlyNext (partsOf (.loopForceExpiry t j)) s (execLoopForceExpiry t j s) := by
  unfold execLoopForceExpiry
  dsimp only
  split
  · exact .ite (.next (State.modLoop_only rfl (.at rfl))) (.next (.at rfl))
  · exact .next (.at rfl)

theorem execSensorCalDone_only {n : SensId} {raw : Option Int} : OnlyNext (partsOf (.sensorCalDone t n raw)) s (execSensorCalDone t n raw s) := by
  unfold execSensorCalDone
  dsimp only
  split
  · exact .next (.at rfl)
  · exact .next (State.calEnds_only rfl (.at rfl))
  · exact .ite (.next (State.calEnds_only rfl (.at rfl)))
        (.next (State.dirty_only rfl (State.calEnds_only rfl (State.modSense_only rfl (.at rfl)))))
  · exact .ite (.next (State.calEnds_only rfl (.at rfl)))
        (.next (State.dirty_only rfl (State.calEnds_only rfl (State.modSense_only rfl (.at rfl)))))

theorem execRngHealthFail_only : OnlyNext (partsOf (.rngHealthFail t)) s (execRngHealthFail t s) :=
  .next (only_set_sec rfl (State.bump_only rfl (.at rfl)))

theorem execAttEnrollDone_only : OnlyNext (partsOf (.attEnrollDone t)) s (execAttEnrollDone t s) := by
  unfold execAttEnrollDone
  dsimp only
  split
  · exact .next (.at rfl)
  · exact .next (only_set_sec rfl (.stepIf (State.spendIndex_only rfl) (.at rfl)))

theorem execEntropySourceRetry_only {pass : Bool} : OnlyNext (partsOf (.entropySourceRetry t pass)) s (execEntropySourceRetry t pass s) :=
  .ite (.next (.at rfl)) (.ite (.next (only_set_sec rfl (.at rfl))) (.next (State.bump_only rfl (.at rfl))))

theorem execPreviousKeyRetentionEnd_only {fab : Bool} :
    OnlyNext (partsOf (.previousKeyRetentionEnd t fab)) s (execPreviousKeyRetentionEnd t fab s) := by
  unfold execPreviousKeyRetentionEnd
  refine .ite ?_ ?_
  · dsimp only
    split
    · exact .ite (.next (only_set_sec rfl (.at rfl))) (.next (.at rfl))
    · exact .next (.at rfl)
  · dsimp only
    split
    · exact .ite (.next (only_set_sec rfl (.at rfl))) (.next (.at rfl))
    · exact .next (.at rfl)

/-! ### Ethernet, the fabric, the clock and the Hold -/

theorem execCaptureArm_only {r : Req} : OnlyNext (partsOf (.captureArm t r)) s (execCaptureArm t r s) :=
  .next (State.runLocked_only rfl (fun _ => captureArmEff_only rfl) (.at rfl))

theorem execCaptureRead_only {r : Req} : OnlyNext (partsOf (.captureRead t r)) s (execCaptureRead t r s) :=
  .next (State.runFree_only rfl (fun _ _ => id) (.at rfl))

theorem execStoreRetire_only {r : Req} : OnlyNext (partsOf (.storeRetire t r)) s (execStoreRetire t r s) :=
  .next (State.runLocked_only rfl (fun _ => storeRetireEff_only rfl) (.at rfl))

theorem execFabricJoin_only {r : Req} : OnlyNext (partsOf (.fabricJoin t r)) s (execFabricJoin t r s) :=
  .next (State.runLocked_only rfl (fun _ => fabricJoinEff_only rfl) (.at rfl))

theorem execFabricLeave_only {r : Req} : OnlyNext (partsOf (.fabricLeave t r)) s (execFabricLeave t r s) :=
  .next (State.runLocked_only rfl (fun _ => fabricLeaveEff_only rfl) (.at rfl))

theorem execClockForce_only {r : Req} : OnlyNext (partsOf (.clockForce t r)) s (execClockForce t r s) :=
  .next (State.runLocked_only rfl (fun _ => clockForceEff_only rfl) (.at rfl))

theorem execClkTodLatch_only : OnlyNext (partsOf (.clkTodLatch t)) s (execClkTodLatch t s) :=
  .next (State.emit_only rfl (State.modClk_only rfl (.at rfl)))

theorem execStoreRound_only {caps : List Nat} {reads : List StoreAccess} :
    OnlyNext (partsOf (.storeRound t caps reads)) s (execStoreRound t caps reads s) :=
  Only.share
    (fun h => .ite (.next (only_set_hold rfl h)) (.next (State.forAll_only (fun _ _ => State.latchUtil_only rfl) (only_set_hold rfl h))))
    (State.forAll_only (fun _ _ => State.readWord_only rfl) (State.forAll_only (fun _ _ => State.chanRound_only rfl) (.at rfl)))

theorem execSwitchRound_only {eths : List EthId} {links : List LinkId} :
    OnlyNext (partsOf (.switchRound t eths links)) s (execSwitchRound t eths links s) :=
  .ite (.next (.at rfl))
    (.next (State.forAll_only (fun _ _ => State.linkSend_only rfl) (State.forAll_only (fun _ _ => State.ethSend_only rfl) (.at rfl))))

theorem execCtxCacheFill_only {id : Nat} : OnlyNext (partsOf (.ctxCacheFill t id)) s (execCtxCacheFill t id s) :=
  .ite (.next (.at rfl)) (.next (only_set_hold rfl (.at rfl)))

theorem execCtxWriteback_only {id : Nat} : OnlyNext (partsOf (.ctxWriteback t id)) s (execCtxWriteback t id s) :=
  .next (only_set_ctxs rfl (.at rfl))

theorem execStoreTimingUpdate_only {m : Chan} {ok : Bool} : OnlyNext (partsOf (.storeTimingUpdate t m ok)) s (execStoreTimingUpdate t m ok s) :=
  .next (State.modChan_only rfl (.at rfl))

theorem execStoreTempRead_only {m : Chan} {temp : Option (Int × Bool)} :
    OnlyNext (partsOf (.storeTempRead t m temp)) s (execStoreTempRead t m temp s) := by
  unfold execStoreTempRead
  dsimp only
  split
  · exact .next (.stepIf (State.raiseKey_only rfl) (State.modChan_only rfl (State.report_only rfl (.at rfl))))
  · exact .next (.stepIf (State.raiseKey_only rfl) (State.modChan_only rfl (.at rfl)))

theorem execScrubPass_only {m : Chan} {ce ue : Nat} : OnlyNext (partsOf (.scrubPass t m ce ue)) s (execScrubPass t m ce ue s) :=
  .ite (.next (State.releaseAt_only rfl (.at rfl)))
    (.next (State.countUe_only rfl (State.countCe_only rfl (State.releaseAt_only rfl (.at rfl)))))

theorem execStoreAutoRetire_only {m : Chan} : OnlyNext (partsOf (.storeAutoRetire t m)) s (execStoreAutoRetire t m s) :=
  .ite (.next (.at rfl)) (.ite (.next (State.retireNow_only rfl (State.fence_only rfl (.at rfl)))) (.next (State.fence_only rfl (.at rfl))))

theorem execStoreDrainFence_only {m : Chan} : OnlyNext (partsOf (.storeDrainFence t m)) s (execStoreDrainFence t m s) :=
  .ite (.next (State.retireNow_only rfl (State.dropResident_only rfl (State.fence_only rfl (.at rfl))))) (.next (.at rfl))

theorem execRebuildDone_only {m : Chan} : OnlyNext (partsOf (.rebuildDone t m)) s (execRebuildDone t m s) :=
  .ite (.next (.at rfl)) (.ite (.next (State.retireNow_only rfl (.at rfl))) (.next (State.modChan_only rfl (.at rfl))))

theorem execCaptureTrigger_only : OnlyNext (partsOf (.captureTrigger t)) s (execCaptureTrigger t s) :=
  .ite (.next (State.capStart_only rfl (.at rfl))) (.next (.at rfl))

theorem execCaptureDone_only {rec : List (Nat × List (Option (List Int)))} :
    OnlyNext (partsOf (.captureDone t rec)) s (execCaptureDone t rec s) :=
  .ite (.next (.at rfl))
    (.next (State.raise_only rfl (only_set_hold rfl (State.forAll_only (fun _ _ => State.capStream_only rfl) (.at rfl)))))

theorem execEthLinkFault_only {p : EthId} : OnlyNext (partsOf (.ethLinkFault t p)) s (execEthLinkFault t p s) :=
  .ite (.next (State.startPort_only rfl (State.portLeavesUp_only rfl (.at rfl)))) (.next (.at rfl))

theorem execEthLinkUp_only {p : EthId} : OnlyNext (partsOf (.ethLinkUp t p)) s (execEthLinkUp t p s) :=
  .ite (.next (State.ethEvent_only rfl (State.modEth_only rfl (.at rfl)))) (.next (.at rfl))

theorem execEthFrameRx_only {p : EthId} {bytes : Bytes} {fcsOk : Bool} {fecC fecU : Nat} :
    OnlyNext (partsOf (.ethFrameRx t p bytes fcsOk fecC fecU)) s (execEthFrameRx t p bytes fcsOk fecC fecU s) :=
  Only.share
    (fun h =>
       .ite (.next (.at rfl))
         (.ite (.next (State.bump_only rfl h))
            (.ite (.next (State.bump_only rfl h))
               (.ite (.next (State.bump_only rfl h)) (.ite (.next h) (.next (State.ethIngress_only rfl h)))))))
    (State.bump_only rfl (State.bump_only rfl (.at rfl)))

theorem execPtpMessageRx_only {p : EthId} {bytes : Bytes} : OnlyNext (partsOf (.ptpMessageRx t p bytes)) s (execPtpMessageRx t p bytes s) :=
  .ite (.next (.at rfl))
    (.ite (.next (State.bump_only rfl (.at rfl)))
       (.ite
          (.ite (.next (State.modEth_only rfl (.at rfl)))
             (.ite (.next (State.setRank_only rfl (State.modEth_only rfl (.at rfl)))) (.next (.at rfl))))
          (.ite (.next (State.emit_only rfl (.at rfl))) (.next (.at rfl)))))

theorem execPtpSyncTimeout_only {p : EthId} : OnlyNext (partsOf (.ptpSyncTimeout t p)) s (execPtpSyncTimeout t p s) :=
  .ite (.next (State.clkSelect_only rfl (State.setReason_only rfl (State.modEth_only rfl (.at rfl))))) (.next (.at rfl))

theorem execPtpInterval_only {p : EthId} : OnlyNext (partsOf (.ptpInterval t p)) s (execPtpInterval t p s) := by
  unfold execPtpInterval
  refine .ite (.next (.at rfl)) ?_
  dsimp only
  split
  · exact .next (State.emit_only rfl (.at rfl))
  · exact .next (.stepIf (State.emit_only rfl) (State.emit_only rfl (.at rfl)))
  · exact .next (.at rfl)

theorem execEsmcPduRx_only {p : EthId} {bytes : Bytes} : OnlyNext (partsOf (.esmcPduRx t p bytes)) s (execEsmcPduRx t p bytes s) := by
  unfold execEsmcPduRx
  refine .ite (.next (.at rfl)) ?_
  split
  · exact .next (State.bump_only rfl (.at rfl))
  · exact .next (State.setCodes_only rfl (State.modEth_only rfl (.at rfl)))

theorem execEsmcInfoTx_only {p : EthId} : OnlyNext (partsOf (.esmcInfoTx t p)) s (execEsmcInfoTx t p s) :=
  .ite (.next (State.emit_only rfl (State.modEth_only rfl (.at rfl)))) (.next (.at rfl))

theorem execEsmcTimeout_only {p : EthId} : OnlyNext (partsOf (.esmcTimeout t p)) s (execEsmcTimeout t p s) :=
  .ite (.next (.at rfl)) (.next (State.setRank_only rfl (State.modEth_only rfl (.at rfl))))

theorem execFabricCwRx_only {l : LinkId} {cw : Bytes} {decodable corrected : Bool} :
    OnlyNext (partsOf (.fabricCwRx t l cw decodable corrected)) s (execFabricCwRx t l cw decodable corrected s) :=
  Only.share
    (fun h =>
       .ite (.next (.at rfl))
         (.ite (.next (State.modLink_only rfl (State.bump_only rfl (.at rfl))))
            (.ite (.ite (.next (State.modLink_only rfl h)) (.next (State.modLink_only rfl h))) (.next h))))
    (State.takeAck_only rfl (.stepIf (State.bump_only rfl) (.at rfl)))

theorem execFabricNak_only {l : LinkId} {ack : Nat} : OnlyNext (partsOf (.fabricNak t l ack)) s (execFabricNak t l ack s) :=
  .ite (.next (.at rfl))
    (.ite (.next (State.takeAck_only rfl (.at rfl)))
       (.next (State.replayFrom_only rfl (State.modLink_only rfl (State.takeAck_only rfl (.at rfl))))))

theorem execFabricReplayTimeout_only {l : LinkId} : OnlyNext (partsOf (.fabricReplayTimeout t l)) s (execFabricReplayTimeout t l s) := by
  unfold execFabricReplayTimeout
  dsimp only
  split
  · exact .ite (.next (State.replayFrom_only rfl (State.modLink_only rfl (.at rfl)))) (.next (.at rfl))
  · exact .next (.at rfl)

theorem execFabricControlRx_only {l : LinkId} {cw : Bytes} : OnlyNext (partsOf (.fabricControlRx t l cw)) s (execFabricControlRx t l cw s) := by
  unfold execFabricControlRx
  refine .ite (.next (.at rfl)) ?_
  dsimp only
  split
  · split
    · exact .next (State.refuseLink_only rfl (State.modLink_only rfl (.at rfl)))
    · exact .next (State.judgeAuth_only rfl (State.emit_only rfl (State.setLink_only rfl (State.modLink_only rfl (.at rfl)))))
  · exact .next (State.judgeAuth_only rfl (State.modLink_only rfl (.at rfl)))
  · exact Only.share
        (fun h => .ite (.ite (.next (State.degrade_only rfl h)) (.next h)) (.next (State.modLink_only rfl (State.takeAck_only rfl (.at rfl)))))
        (State.reachPeer_only rfl (State.setCodes_only rfl (State.modLink_only rfl (State.takeAck_only rfl (.at rfl)))))
  · exact Only.share
        (fun h => .ite (.ite (.next (State.degrade_only rfl h)) (.next h)) (.next (State.modLink_only rfl (State.takeAck_only rfl (.at rfl)))))
        (State.reachPeer_only rfl (State.setCodes_only rfl (State.modLink_only rfl (State.takeAck_only rfl (.at rfl)))))
  · exact .next (.at rfl)

theorem execFabricControlMiss_only {l : LinkId} : OnlyNext (partsOf (.fabricControlMiss t l)) s (execFabricControlMiss t l s) := by
  unfold execFabricControlMiss
  dsimp only
  split
  · exact .next (State.failLink_only rfl (.at rfl))
  · exact .next (State.failLink_only rfl (.at rfl))
  · exact .next (State.failLink_only rfl (.at rfl))
  · exact .next (State.failLink_only rfl (.at rfl))
  · exact .next (.at rfl)

theorem execFabricLaneLoss_only {l : LinkId} {lanes : BitVec 2} : OnlyNext (partsOf (.fabricLaneLoss t l lanes)) s (execFabricLaneLoss t l lanes s) :=
  .ite
    (.ite (.next (State.failLink_only rfl (.at rfl)))
       (.ite (.next (.at rfl)) (.ite (.next (State.degrade_only rfl (.at rfl))) (.next (State.modLink_only rfl (.at rfl))))))
    (.next (.at rfl))

theorem execFabricDecodeLoss_only {l : LinkId} : OnlyNext (partsOf (.fabricDecodeLoss t l)) s (execFabricDecodeLoss t l s) :=
  .ite (.next (State.retrainLink_only rfl (.at rfl))) (.next (.at rfl))

theorem execFabricTrainingDone_only {l : LinkId} {lanes : BitVec 2} :
    OnlyNext (partsOf (.fabricTrainingDone t l lanes)) s (execFabricTrainingDone t l lanes s) :=
  .ite
    (.ite (.next (State.emit_only rfl (State.modLink_only rfl (State.setLink_only rfl (.at rfl)))))
       (.next (State.failLink_only rfl (.at rfl))))
    (.next (.at rfl))

theorem execFabricAuthTimeout_only {l : LinkId} : OnlyNext (partsOf (.fabricAuthTimeout t l)) s (execFabricAuthTimeout t l s) :=
  .ite (.next (State.refuseLink_only rfl (.at rfl))) (.next (.at rfl))

theorem execFabricRetryTimer_only {l : LinkId} : OnlyNext (partsOf (.fabricRetryTimer t l)) s (execFabricRetryTimer t l s) :=
  .ite (.next (State.startTraining_only rfl (.at rfl))) (.next (.at rfl))

theorem execFabricLaneRestore_only {l : LinkId} : OnlyNext (partsOf (.fabricLaneRestore t l)) s (execFabricLaneRestore t l s) :=
  .ite (.next (State.retrainLink_only rfl (.at rfl))) (.next (.at rfl))

theorem execFabricPeriodicRetrain_only {l : LinkId} : OnlyNext (partsOf (.fabricPeriodicRetrain t l)) s (execFabricPeriodicRetrain t l s) :=
  .ite (.next (State.retrainLink_only rfl (.at rfl))) (.next (.at rfl))

theorem execFrame_only {l : LinkId} {pkt : Bytes} : OnlyNext (partsOf (.frame t l pkt)) s (execFrame t l pkt s) :=
  .next (State.rxPacket_only rfl (fun _ _ => State.frameHere_only rfl) (.at rfl))

theorem execMgmt_only {l : LinkId} {pkt : Bytes} : OnlyNext (partsOf (.mgmt t l pkt)) s (execMgmt t l pkt s) := by
  unfold execMgmt
  refine .next (State.rxPacket_only rfl (fun _ _ ha => (.ite ha ?_)) (.at rfl))
  dsimp only
  split
  · exact State.rollResponse_only rfl ha
  · exact State.receive_only rfl ha

theorem execLinkstate_only {l : LinkId} {pkt : Bytes} : OnlyNext (partsOf (.linkstate t l pkt)) s (execLinkstate t l pkt s) :=
  .next (State.rxPacket_only rfl (fun _ _ ha => .ite (State.takeLinkstate_only rfl ha) (State.bump_only rfl ha)) (.at rfl))

theorem execLinkstatePeriodic_only : OnlyNext (partsOf (.linkstatePeriodic t)) s (execLinkstatePeriodic t s) :=
  .ite (.next (.at rfl)) (.next (State.broadcast_only rfl (only_set_fab rfl (.at rfl))))

theorem execMembership_only {l : LinkId} {pkt : Bytes} : OnlyNext (partsOf (.membership t l pkt)) s (execMembership t l pkt s) :=
  .next (State.rxPacket_only rfl (fun _ _ ha => .ite (State.bump_only rfl ha) (.ite ha (State.takeMember_only rfl ha))) (.at rfl))

theorem execMembershipHeartbeat_only : OnlyNext (partsOf (.membershipHeartbeat t)) s (execMembershipHeartbeat t s) :=
  .ite (.next (State.broadcast_only rfl (.at rfl))) (.next (.at rfl))

theorem execMemberTimeout_only {addr : BitVec 9} : OnlyNext (partsOf (.memberTimeout t addr)) s (execMemberTimeout t addr s) :=
  .ite (.next (State.dropMember_only rfl (.at rfl))) (.next (.at rfl))

theorem execFabricJoinTimeout_only : OnlyNext (partsOf (.fabricJoinTimeout t)) s (execFabricJoinTimeout t s) := by
  unfold execFabricJoinTimeout
  dsimp only
  split
  · exact .next (.at rfl)
  · exact .next (State.joinDone_only rfl (.at rfl))
  · exact .ite (.next (State.joinFails_only rfl (.at rfl)))
        (.ite (.next (State.joinFails_only rfl (.at rfl))) (.next (State.joinDone_only rfl (.at rfl))))

theorem execFabricLeaveDown_only : OnlyNext (partsOf (.fabricLeaveDown t)) s (execFabricLeaveDown t s) := by
  unfold execFabricLeaveDown
  dsimp only
  split
  · exact .ite (.next (State.completeRun_only rfl (State.dirty_only rfl (State.fabricOff_only rfl (.at rfl))))) (.next (.at rfl))
  · exact .next (.at rfl)

theorem execClockMeasure_only {meas : List InputMeas} {corr : Int} {fLocked : Bool} :
    OnlyNext (partsOf (.clockMeasure t meas corr fLocked)) s (execClockMeasure t meas corr fLocked s) :=
  Only.share
    (fun h =>
       .ite (.next h)
         (.ite (.next (State.clkErr_only rfl (State.clkSelect_only rfl h)))
            (.next
               (State.clkErr_only rfl
                  (State.clkSelect_only rfl
                     (State.clkStep_only rfl
                        (State.modClk_only rfl
                           (State.forAll_only (fun _ _ => State.judgePair_only rfl)
                              (State.forAll_only (fun _ _ ha => .ite (State.judgeDrift_only rfl ha) (State.modIn_only rfl ha))
                                 (State.forAll_only (fun _ _ => State.takeMeas_only rfl) (State.releaseAt_only rfl h)))))))))))
    (State.clkTick_only rfl (.at rfl))

theorem execRefActivityLoss_only {i : InputId} : OnlyNext (partsOf (.refActivityLoss t i)) s (execRefActivityLoss t i s) :=
  .next (State.clkSelect_only rfl (State.setReason_only rfl (.at rfl)))

theorem execRefWtrExpiry_only {i : InputId} : OnlyNext (partsOf (.refWtrExpiry t i)) s (execRefWtrExpiry t i s) := by
  unfold execRefWtrExpiry
  dsimp only
  split
  · exact .ite (.next (State.clkSelect_only rfl (State.modIn_only rfl (.at rfl)))) (.next (.at rfl))
  · exact .next (.at rfl)

theorem execRefPpsEdge_only {r : Fin 2} {cycles : Nat} : OnlyNext (partsOf (.refPpsEdge t r cycles)) s (execRefPpsEdge t r cycles s) :=
  Only.share
    (fun h =>
       .ite (.next (State.clkSelect_only rfl (State.modRef_only rfl h)))
         (.next (State.clkSelect_only rfl (.stepIf (State.setReason_only rfl) (State.modRef_only rfl h)))))
    (.stepIf (State.todMissed_only rfl) (.at rfl))

theorem execTodMessage_only {bytes : Bytes} : OnlyNext (partsOf (.todMessage t bytes)) s (execTodMessage t bytes s) := by
  unfold execTodMessage
  refine .ite (.next (.at rfl)) ?_
  dsimp only
  split
  · exact .next (State.bump_only rfl (.at rfl))
  · exact Only.share
        (fun h =>
           .ite (.next (State.bump_only rfl (.at rfl)))
             (.next (State.clkSelect_only rfl (.ite h (.ite (State.setRank_only rfl h) (State.setCodes_only rfl h))))))
        (.ite (.stepIf (State.clearReason_only rfl) (State.modRef_only rfl (.at rfl)))
           (State.setReason_only rfl (State.bump_only rfl (State.modRef_only rfl (.at rfl)))))

theorem execHoldoverLimit_only : OnlyNext (partsOf (.holdoverLimit t)) s (execHoldoverLimit t s) :=
  .ite (.next (State.raise_only rfl (State.clkHist_only rfl (State.clkEnter_only rfl (.at rfl))))) (.next (.at rfl))

theorem execWholeSecondOfDeviceTime_only : OnlyNext (partsOf (.wholeSecondOfDeviceTime t)) s (execWholeSecondOfDeviceTime t s) :=
  .ite (.next (State.emit_only rfl (only_set_live rfl (.at rfl)))) (.next (State.holdOutputs_only rfl (.at rfl)))

theorem execRefFrequencyRange_only {i : InputId} {ppb : Int} : OnlyNext (partsOf (.refFrequencyRange t i ppb)) s (execRefFrequencyRange t i ppb s) :=
  .next (State.clkSelect_only rfl (State.putReason_only rfl (.at rfl)))

theorem execStoreTimingRetry_only {m : Chan} {ok : Bool} : OnlyNext (partsOf (.storeTimingRetry t m ok)) s (execStoreTimingRetry t m ok s) :=
  .ite (.next (.at rfl)) (.next (.ite (State.modChan_only rfl (.at rfl)) (State.retireTrigger_only rfl (State.modChan_only rfl (.at rfl)))))

theorem execFeatureEpochStart_only {e : Nat} : OnlyNext (partsOf (.featureEpochStart t e)) s (execFeatureEpochStart t e s) :=
  .ite (.next (only_set_fab rfl (.at rfl))) (.next (.at rfl))

/-! ### Power, boot, reset and live insertion -/

theorem execFwStage_only {r : Req} : OnlyNext (partsOf (.fwStage t r)) s (execFwStage t r s) :=
  .next (State.runLocked_only rfl (fun _ => fwStageEff_only rfl) (.at rfl))

theorem execBerthSwap_only {r : Req} {bankFail : BitVec 32} : OnlyNext (partsOf (.berthSwap t r bankFail)) s (execBerthSwap t r bankFail s) :=
  .next (State.runLocked_only rfl (fun _ => berthSwapEff_only rfl) (.at rfl))

theorem execRegionDrain_only {r : Req} : OnlyNext (partsOf (.regionDrain t r)) s (execRegionDrain t r s) :=
  .next (State.runLocked_only rfl (fun _ => regionDrainEff_only rfl) (.at rfl))

theorem execConfigAuth_only {copies : List CfgRead} : OnlyNext (partsOf (.configAuth t copies)) s (execConfigAuth t copies s) := by
  unfold execConfigAuth
  refine .ite (.next (.at rfl)) ?_
  dsimp only
  split
  · exact .next (State.authDone_only rfl (State.applyRecord_only rfl (only_set_boot rfl (.ite (.at rfl) (State.bump_only rfl (.at rfl))))))
  · exact .next (only_set_boot rfl (.ite (.at rfl) (State.bump_only rfl (.at rfl))))

theorem execInsertNAsserted_only : OnlyNext (partsOf (.insertNAsserted t)) s (execInsertNAsserted t s) :=
  .ite (.next (.at rfl)) (.next (only_set_live rfl (.at rfl)))

theorem execEvInserted_only : OnlyNext (partsOf (.evInserted t)) s (execEvInserted t s) :=
  .ite (.next (State.raise_only rfl (only_set_live rfl (.at rfl)))) (.next (.at rfl))

theorem execRemovalQuiet_only : OnlyNext (partsOf (.removalQuiet t)) s (execRemovalQuiet t s) :=
  .ite (.next (only_set_live rfl (.at rfl)))
    (.next
       (State.dropPcie_only rfl
          (State.forAll_only (fun _ _ => State.portDown_only rfl)
             (State.forAll_only (fun _ _ => State.linkDown_only rfl)
                (.stepIf (State.broadcast_only rfl)
                   (State.holdOutputs_only rfl
                      (State.stepLoops_only rfl
                         (State.forAll_only
                            (fun _ _ ha =>
                               State.leaveGrid_only rfl (State.silence_only rfl (State.holdCtxs_only rfl (State.modBerth_only rfl ha))))
                            (State.alarmOn_only rfl (State.stick_only rfl (only_set_live rfl (.at rfl))))))))))))

theorem execAvsReadback_only {mv : Option Nat} : OnlyNext (partsOf (.avsReadback t mv)) s (execAvsReadback t mv s) := by
  unfold execAvsReadback
  dsimp only
  split
  · exact .next (.at rfl)
  · exact .ite (.next (only_set_avs rfl (.at rfl)))
        (.ite (.next (State.emit_only rfl (only_set_avs rfl (.at rfl))))
           (.next (State.raise_only rfl (State.stick_only rfl (State.bump_only rfl (only_set_avs rfl (.at rfl)))))))

theorem execPmbAlert_only {words : List (Option (BitVec 16))} : OnlyNext (partsOf (.pmbAlert t words)) s (execPmbAlert t words s) :=
  .ite (.next (.at rfl)) (.next (State.forAll_only (fun _ _ => State.pmbPoll_only rfl) (State.bump_only rfl (.at rfl))))

theorem execD2dFlitError_only {l : D2dId} : OnlyNext (partsOf (.d2dFlitError t l)) s (execD2dFlitError t l s) :=
  .ite (.next (State.setD2d_only rfl (.at rfl)))
    (.ite (.next (State.emit_only rfl (State.setD2d_only rfl (.at rfl)))) (.next (State.emit_only rfl (State.setD2d_only rfl (.at rfl)))))

theorem execDieRetrainRetry_only {l : D2dId} {ok : Bool} : OnlyNext (partsOf (.dieRetrainRetry t l ok)) s (execDieRetrainRetry t l ok s) :=
  .ite (.next (State.emit_only rfl (State.setD2d_only rfl (.at rfl)))) (.next (.at rfl))

theorem execVddDrvUndervoltage_only {mv : Nat} : OnlyNext (partsOf (.vddDrvUndervoltage t mv)) s (execVddDrvUndervoltage t mv s) :=
  .ite (.next (.at rfl))
    (.next
       (State.raise_only rfl
          (State.forAll_only (fun _ _ ha => State.bump_only rfl (State.modBerth_only rfl ha)) (only_set_live rfl (.at rfl)))))

theorem execVddDrvRecovery_only : OnlyNext (partsOf (.vddDrvRecovery t)) s (execVddDrvRecovery t s) :=
  .next (only_set_live rfl (.at rfl))

theorem execVddDrvOvervoltage_only : OnlyNext (partsOf (.vddDrvOvervoltage t)) s (execVddDrvOvervoltage t s) :=
  .next (State.forAll_only (fun _ _ => State.modBerth_only rfl) (only_set_live rfl (.at rfl)))

theorem execDriverOvercurrent_only {b : Berth} : OnlyNext (partsOf (.driverOvercurrent t b)) s (execDriverOvercurrent t b s) :=
  Only.share
    (fun h => .ite (.next (State.raise_only rfl (State.stick_only rfl (State.txOff_only rfl (State.modBerth_only rfl h))))) (.next h))
    (State.raise_only rfl (State.bump_only rfl (State.modBerth_only rfl (.at rfl))))

theorem execDriverHot_only {b : Berth} {temp : Int} : OnlyNext (partsOf (.driverHot t b temp)) s (execDriverHot t b temp s) :=
  .ite
    (.next
       (State.modBerth_only rfl
          (.stepIf (fun h => State.raise_only rfl (State.stick_only rfl (State.modBerth_only rfl h))) (State.report_only rfl (.at rfl)))))
    (.next (.stepIf (fun h => State.raise_only rfl (State.stick_only rfl (State.modBerth_only rfl h))) (State.report_only rfl (.at rfl))))

theorem execDriverCool_only {b : Berth} : OnlyNext (partsOf (.driverCool t b)) s (execDriverCool t b s) :=
  .next (.stepIf (State.updateBackoff_only rfl) (State.modBerth_only rfl (.at rfl)))

theorem execMixedReleaseLog_only : OnlyNext (partsOf (.mixedReleaseLog t)) s (execMixedReleaseLog t s) := by
  unfold execMixedReleaseLog
  dsimp only
  split
  · exact .next (.at rfl)
  · exact .ite (.next (State.raise_only rfl (State.emit_only rfl (only_set_live rfl (.at rfl))))) (.next (.at rfl))

theorem execGpioInputChange_only {level : BitVec 16} : OnlyNext (partsOf (.gpioInputChange t level)) s (execGpioInputChange t level s) :=
  .next (State.statSet_only rfl (.at rfl))

theorem execJtagInstruction_only {i : JtagInstr} : OnlyNext (partsOf (.jtagInstruction t i)) s (execJtagInstruction t i s) :=
  .ite (.next (State.bump_only rfl (only_set_live rfl (.at rfl)))) (.next (.stepIf (State.emit_only rfl) (only_set_live rfl (.at rfl))))

theorem execFwStageTimeout_only : OnlyNext (partsOf (.fwStageTimeout t)) s (execFwStageTimeout t s) := by
  unfold execFwStageTimeout
  dsimp only
  split
  · exact .ite (.next (only_set_boot rfl (.at rfl))) (.next (.at rfl))
  · exact .next (.at rfl)

theorem execFwFlashWriteDone_only {readbackOk : Bool} :
    OnlyNext (partsOf (.fwFlashWriteDone t readbackOk)) s (execFwFlashWriteDone t readbackOk s) := by
  unfold execFwFlashWriteDone
  dsimp only
  split
  · exact .next (.at rfl)
  · exact .ite (.next (only_set_boot rfl (.at rfl)))
        (.next (State.raise_only rfl (only_set_boot rfl (State.writeDir_only rfl (only_set_boot rfl (.at rfl))))))

theorem execFwHoldReload_only {img : Bytes} : OnlyNext (partsOf (.fwHoldReload t img)) s (execFwHoldReload t img s) := by
  unfold execFwHoldReload
  refine .ite (.next (.at rfl)) ?_
  dsimp only
  split
  · exact .next (only_set_boot rfl (.at rfl))
  · exact .next (State.raise_only rfl (State.writeDir_only rfl (State.imageFails_only rfl (.at rfl))))

theorem execConfigRecordWrite_only : OnlyNext (partsOf (.configRecordWrite t)) s (execConfigRecordWrite t s) :=
  .ite (.next (.at rfl)) (.next (State.writeRecord_only rfl (.at rfl)))

/-! ### The host's windows, queues, serial ports and check units -/

theorem execQpEnable_only {q : QpId} {val : BitVec 32} : OnlyNext (partsOf (.qpEnable t q val)) s (execQpEnable t q val s) :=
  .next (State.writeCfg_only rfl (.at rfl))

theorem execQpDisable_only {q : QpId} {val : BitVec 32} : OnlyNext (partsOf (.qpDisable t q val)) s (execQpDisable t q val s) :=
  .next (State.writeCfg_only rfl (.at rfl))

theorem execSqTailDoorbell_only {q : QpId} {val : BitVec 32} : OnlyNext (partsOf (.sqTailDoorbell t q val)) s (execSqTailDoorbell t q val s) :=
  .next (State.sqBell_only rfl (.at rfl))

theorem execCqHeadDoorbell_only {q : QpId} {val : BitVec 32} : OnlyNext (partsOf (.cqHeadDoorbell t q val)) s (execCqHeadDoorbell t q val s) :=
  .next (State.cqBell_only rfl (.at rfl))

theorem execHostHeartbeat_only {val : BitVec 32} : OnlyNext (partsOf (.hostHeartbeat t val)) s (execHostHeartbeat t val s) :=
  .next (.stepIf (State.beat_only rfl) (.at rfl))

theorem execIntEnableWrite_only {val : BitVec 32} : OnlyNext (partsOf (.intEnableWrite t val)) s (execIntEnableWrite t val s) :=
  .next (.stepIf (State.writeIntEnable_only rfl) (.at rfl))

theorem execMsixUnmask_only {v : Fin 512} : OnlyNext (partsOf (.msixUnmask t v)) s (execMsixUnmask t v s) :=
  .next (.stepIf (State.maskVec_only rfl) (.at rfl))

theorem execRegisterWrite_only {bar off width : Nat} {val : BitVec 64} :
    OnlyNext (partsOf (.registerWrite t bar off width val)) s (execRegisterWrite t bar off width val s) :=
  .ite (.next (.stepIf (State.writeConfig_only rfl) (.at rfl)))
    (.ite (.next (.at rfl))
       (.ite (.next (.stepIf (State.writeBar0_only rfl) (.at rfl)))
          (.ite (.next (.stepIf (State.writeBar0Wide_only rfl) (.at rfl)))
             (.ite (.next (.stepIf (State.writeBar2_only rfl) (.at rfl)))
                (.ite (.next (State.writeBar4_only rfl (.at rfl)))
                   (.ite (.next (State.writeBar4_only rfl (State.writeBar4_only rfl (.at rfl)))) (.next (.at rfl))))))))

theorem execChkResultLatch_only {u : ChkId} {which : Bool} : OnlyNext (partsOf (.chkResultLatch t u which)) s (execChkResultLatch t u which s) :=
  .ite (.next (State.emit_only rfl (State.modChk_only rfl (.at rfl)))) (.next (State.emit_only rfl (State.modChk_only rfl (.at rfl))))

theorem execUartStatusArm_only {p : UartId} : OnlyNext (partsOf (.uartStatusArm t p)) s (execUartStatusArm t p s) :=
  .ite (.next (State.modUart_only rfl (State.emit_only rfl (.at rfl)))) (.next (State.emit_only rfl (.at rfl)))

theorem execUartDataRead_only {p : UartId} : OnlyNext (partsOf (.uartDataRead t p)) s (execUartDataRead t p s) :=
  .ite (.next (State.emit_only rfl (.at rfl))) (.next (State.modUart_only rfl (State.emit_only rfl (.at rfl))))

theorem execUartTxWrite_only {p : UartId} {val : BitVec 32} : OnlyNext (partsOf (.uartTxWrite t p val)) s (execUartTxWrite t p val s) :=
  .next (State.uartQueue_only rfl (.at rfl))

theorem execTxFrame_only {q : QpId} {dma : Dma} : OnlyNext (partsOf (.txFrame t q dma)) s (execTxFrame t q dma s) := by
  unfold execTxFrame
  refine .ite (.next (.at rfl)) ?_
  dsimp only
  split
  · exact .next (.at rfl)
  · split
    · exact .next (State.txDone_only rfl (.stepIf (State.bump_only rfl) (.at rfl)))
    · split
      · exact .next (State.txDone_only rfl (State.txAdmit_only rfl (State.dmaEnded_only rfl (.at rfl))))
      · exact .next (State.txDone_only rfl (State.dmaEnded_only rfl (State.bump_only rfl (.at rfl))))
      · exact .next (State.dmaTimedOut_only rfl (State.txDone_only rfl (.at rfl)))

theorem execRxBuf_only {q : QpId} : OnlyNext (partsOf (.rxBuf t q)) s (execRxBuf t q s) := by
  unfold execRxBuf
  dsimp only
  split
  · exact .next (.at rfl)
  · exact Only.share
        (fun h =>
           .ite (.next (.at rfl))
             (.ite (.next (State.cqWrite_only rfl h)) (.ite (.next (State.cqWrite_only rfl h)) (.next (State.modQp_only rfl h)))))
        (State.modQp_only rfl (.at rfl))

theorem execNop_only {q : QpId} : OnlyNext (partsOf (.nop t q)) s (execNop t q s) := by
  unfold execNop
  dsimp only
  split
  · exact .ite (.next (State.qpSettle_only rfl (State.cqWrite_only rfl (State.modQp_only rfl (.at rfl))))) (.next (.at rfl))
  · exact .next (.at rfl)

theorem execSubmissionFetchError_only {q : QpId} : OnlyNext (partsOf (.submissionFetchError t q)) s (execSubmissionFetchError t q s) :=
  .ite (.next (State.qpError_only rfl (State.dmaEnded_only rfl (State.bump_only rfl (.at rfl))))) (.next (.at rfl))

theorem execCqWriteRefused_only {q : QpId} : OnlyNext (partsOf (.cqWriteRefused t q)) s (execCqWriteRefused t q s) :=
  .ite (.next (State.qpError_only rfl (.at rfl))) (.next (.at rfl))

theorem execRxFrameDeliver_only {q : QpId} : OnlyNext (partsOf (.rxFrameDeliver t q)) s (execRxFrameDeliver t q s) := by
  unfold execRxFrameDeliver
  refine .ite (.next (.at rfl)) ?_
  split
  · exact .next (.at rfl)
  · split
    · exact .next (.at rfl)
    · split
      · next he => exact .next (State.readFrame_only_eq he rfl (.at rfl))
      · next he => exact .next (State.dropFrames_only rfl (State.fillBufs_only rfl (State.readFrame_only_eq he rfl (.at rfl))))

theorem execIrqModerationExpiry_only {q : QpId} : OnlyNext (partsOf (.irqModerationExpiry t q)) s (execIrqModerationExpiry t q s) := by
  unfold execIrqModerationExpiry
  dsimp only
  split
  · exact .ite (.next (State.cqMessage_only rfl (.at rfl))) (.next (.at rfl))
  · exact .next (.at rfl)

theorem execHostLinkRound_only {entries : List (QpId × Bytes)} : OnlyNext (partsOf (.hostLinkRound t entries)) s (execHostLinkRound t entries s) :=
  .ite (.next (.at rfl))
    (.next
       (only_set_host rfl
          (State.forAll_only (fun _ _ => State.fetchQp_only rfl)
             (.ite (.at rfl) (State.writeEvents_only rfl (State.fetchQp_only rfl (.at rfl)))))))

theorem execPcieLinkDown_only : OnlyNext (partsOf (.pcieLinkDown t)) s (execPcieLinkDown t s) :=
  .next (State.resetPcie_only rfl (State.loseHost_only rfl (.at rfl)))

theorem execPerstNAssert_only : OnlyNext (partsOf (.perstNAssert t)) s (execPerstNAssert t s) :=
  .next (State.resetPcie_only rfl (State.loseHost_only rfl (.at rfl)))

theorem execFunctionLevelReset_only : OnlyNext (partsOf (.functionLevelReset t)) s (execFunctionLevelReset t s) :=
  .next (State.resetPcie_only rfl (State.loseHost_only rfl (.at rfl)))

theorem execHostWatchdogExpiry_only : OnlyNext (partsOf (.hostWatchdogExpiry t)) s (execHostWatchdogExpiry t s) :=
  .next (.stepIf (State.loseHost_only rfl) (.at rfl))

theorem execDmaCompletionTimeout_only {q : QpId} : OnlyNext (partsOf (.dmaCompletionTimeout t q)) s (execDmaCompletionTimeout t q s) := by
  unfold execDmaCompletionTimeout
  refine .ite (.next (.at rfl)) ?_
  dsimp only
  split
  · exact .next (State.dmaTimedOut_only rfl (State.qpSettle_only rfl (State.cqWrite_only rfl (State.modQp_only rfl (.at rfl)))))
  · exact .next (State.dmaTimedOut_only rfl (State.qpError_only rfl (.at rfl)))

theorem execD3hotEntry_only : OnlyNext (partsOf (.d3hotEntry t)) s (execD3hotEntry t s) :=
  .next (State.enterD3_only rfl (.at rfl))

theorem execPcieLinkTrainingStart_only : OnlyNext (partsOf (.pcieLinkTrainingStart t)) s (execPcieLinkTrainingStart t s) :=
  .ite (.next (only_set_host rfl (.at rfl))) (.next (.at rfl))

theorem execCheckItemStart_only {u : ChkId} {fits : Bool} : OnlyNext (partsOf (.checkItemStart t u fits)) s (execCheckItemStart t u fits s) :=
  Only.share
    (fun h =>
       .ite (.next (.at rfl))
         (.ite (.next h)
            (.ite (.next (State.modChk_only rfl h)) (.next (State.stick_only rfl (State.bump_only rfl (State.modChk_only rfl h)))))))
    (State.chkBoundary_only rfl (.at rfl))

theorem execCheckItemEnd_only {u : ChkId} {tag : BitVec 64} {bytes : Bytes} {whole : Bool} :
    OnlyNext (partsOf (.checkItemEnd t u tag bytes whole)) s (execCheckItemEnd t u tag bytes whole s) := by
  unfold execCheckItemEnd
  dsimp only
  split
  · exact .next (State.chkBoundary_only rfl (State.modChk_only rfl (.at rfl)))
  · exact Only.share
        (fun h =>
           .ite (.next (State.chkBoundary_only rfl (State.bump_only rfl h)))
             (.ite (.next (State.chkBoundary_only rfl (State.modChk_only rfl h)))
                (.next (State.chkBoundary_only rfl (.stepIf (State.chkMismatch_only rfl) (State.bump_only rfl (State.modChk_only rfl h)))))))
        (State.modChk_only rfl (.at rfl))

theorem execUartCharRx_only {p : UartId} {ch : RxChar} : OnlyNext (partsOf (.uartCharRx t p ch)) s (execUartCharRx t p ch s) :=
  .ite (.next (.at rfl))
    (.ite (.next (State.bump_only rfl (.at rfl)))
       (.next (State.uartIdle_only rfl (State.uartPush_only rfl (State.flagSeen_only rfl (State.bump_only rfl (.at rfl)))))))

theorem execUartCmdFrame_only {bytes : Bytes} : OnlyNext (partsOf (.uartCmdFrame t bytes)) s (execUartCmdFrame t bytes s) := by
  unfold execUartCmdFrame
  refine .ite (.next (.at rfl)) (.ite (.next (State.bump_only rfl (only_set_mgmt rfl (.at rfl)))) ?_)
  dsimp only
  split
  · exact .next (State.bump_only rfl (only_set_mgmt rfl (.at rfl)))
  · exact .next (State.receive_only rfl (only_set_mgmt rfl (.at rfl)))

theorem execUartFrameTimeout_only : OnlyNext (partsOf (.uartFrameTimeout t)) s (execUartFrameTimeout t s) := by
  unfold execUartFrameTimeout
  dsimp only
  split
  · exact .ite (.next (State.bump_only rfl (only_set_mgmt rfl (.at rfl)))) (.next (.at rfl))
  · exact .next (.at rfl)

theorem execUartLineDead_only {p : UartId} : OnlyNext (partsOf (.uartLineDead t p)) s (execUartLineDead t p s) :=
  .ite (.next (.at rfl))
    (.next (State.raise_only rfl (State.bump_only rfl (State.cause_only rfl (State.stick_only rfl (State.modUart_only rfl (.at rfl)))))))

theorem execUartLineResume_only {p : UartId} : OnlyNext (partsOf (.uartLineResume t p)) s (execUartLineResume t p s) :=
  .next (State.modUart_only rfl (.at rfl))

theorem execPcieLinkUp_only : OnlyNext (partsOf (.pcieLinkUp t)) s (execPcieLinkUp t s) :=
  .ite (.next (only_set_host rfl (.at rfl))) (.next (.at rfl))

theorem execUartCharTx_only {p : UartId} : OnlyNext (partsOf (.uartCharTx t p)) s (execUartCharTx t p s) := by
  unfold execUartCharTx
  dsimp only
  split
  · exact .next (State.uartIdle_only rfl (State.bump_only rfl (.at rfl)))
  · exact .next (State.uartIdle_only rfl (State.emit_only rfl (State.modUart_only rfl (State.bump_only rfl (.at rfl)))))

/-! ### The lines of the berths -/

theorem execBeaconBoundary_only {b : Berth} {plan : List Alloc} :
    OnlyNext (partsOf (.beaconBoundary t b plan)) s (execBeaconBoundary t b plan s) := by
  unfold execBeaconBoundary
  refine .ite (.next (.at rfl)) (.ite (.next (.at rfl)) (Only.share (fun h => .ite (.next h) (.next (State.openPeriod_only rfl h))) ?_))
  split
  · exact .stepIf (fun h => State.resumeCtxs_only rfl (State.modLine_only rfl h))
      (.ite (State.boundary_only rfl (.at rfl)) (State.resumeCtxs_only rfl (State.boundary_only rfl (.at rfl))))
  · exact .ite (State.boundary_only rfl (.at rfl)) (State.resumeCtxs_only rfl (State.boundary_only rfl (.at rfl)))

theorem execDomainListenEnd_only {b : Berth} {heard : List Heard} :
    OnlyNext (partsOf (.domainListenEnd t b heard)) s (execDomainListenEnd t b heard s) := by
  unfold execDomainListenEnd
  refine .ite (.next (.at rfl)) ?_
  split
  · exact .ite (.next (.at rfl))
        (.ite (.next (State.modLine_only rfl (State.clash_only rfl (.at rfl))))
           (.next (State.modLine_only rfl (State.withKDom_only rfl (.at rfl)))))
  · refine .ite (.next (.at rfl)) ?_
    split
    · exact .ite (.next (.at rfl))
          (.ite (.next (State.modLine_only rfl (State.clash_only rfl (.at rfl))))
             (.next (State.resumeCtxs_only rfl (State.modLine_only rfl (.at rfl)))))
    · exact .ite (.next (State.stick_only rfl (State.raiseEvery_only rfl (.at rfl)))) (.next (.at rfl))
  · exact .next (.at rfl)

theorem execDomainClashWaitEnd_only {b : Berth} : OnlyNext (partsOf (.domainClashWaitEnd t b)) s (execDomainClashWaitEnd t b s) := by
  unfold execDomainClashWaitEnd
  dsimp only
  split
  · exact .ite (.next (.at rfl)) (.next (State.modLine_only rfl (.at rfl)))
  · exact .next (.at rfl)

theorem execAllocationStart_only {b : Berth} {idx : Nat} : OnlyNext (partsOf (.allocationStart t b idx)) s (execAllocationStart t b idx s) := by
  unfold execAllocationStart
  dsimp only
  split
  · exact .next (.at rfl)
  · exact Only.share
        (fun h =>
           .ite (.next h)
             (.ite
                (.ite (.next (State.sendJoinProof_only rfl h))
                   (.ite (.next (State.sendTtReq_only rfl h)) (.next (State.startNext_only rfl h))))
                (.ite (.ite (.next (State.emit_only rfl (State.modBerth_only rfl (State.releaseAt_only rfl h)))) (.next h))
                   (.ite (.next (State.sendRelayMap_only rfl h)) (.next (State.startNext_only rfl h))))))
        (State.modBerth_only rfl (State.modLine_only rfl (State.missAcks_only rfl (.at rfl))))

theorem execAckTailStart_only {b : Berth} {idx : Nat} : OnlyNext (partsOf (.ackTailStart t b idx)) s (execAckTailStart t b idx s) := by
  unfold execAckTailStart
  dsimp only
  split
  · exact .next (.at rfl)
  · exact .ite (.ite (.next (State.sendAck_only rfl (.at rfl))) (.ite (.next (State.sendAck_only rfl (.at rfl))) (.next (.at rfl))))
        (.ite (.next (State.sendAck_only rfl (.at rfl))) (.next (.at rfl)))

theorem execContentionSlot_only {b : Berth} {busy : Bool} : OnlyNext (partsOf (.contentionSlot t b busy)) s (execContentionSlot t b busy s) := by
  unfold execContentionSlot
  extract_lets sa
  split
  · exact .next (.at rfl)
  · extract_lets s1 l want
    have h1 : Only (partsOf (.contentionSlot t b busy)) s s1 := .stepIf (State.missAcks_only rfl) (.at rfl)
    refine .ite (.next h1) ?_
    extract_lets cw d s2
    have h2 : Only (partsOf (.contentionSlot t b busy)) s s2 := .stepIf (fun h => State.modLine_only rfl (State.drawBelow_only rfl h)) h1
    refine .ite (.next h2) ?_
    split
    · exact .next (State.modLine_only rfl (.ite (State.sendJoinReq_only rfl h2) (State.startContention_only rfl h2)))
    · exact .next (State.modLine_only rfl h2)
    · exact .next h2

theorem execRxFifoOverflow_only {b : Berth} {syms : List Nat} : OnlyNext (partsOf (.rxFifoOverflow t b syms)) s (execRxFifoOverflow t b syms s) :=
  .next (State.forAll_only (fun _ _ ha => State.eraseSymbol_only rfl (State.bump_only rfl ha)) (.at rfl))

theorem execP1Detect_only {b : Berth} {p2 : Bool} {level : Int} : OnlyNext (partsOf (.p1Detect t b p2 level)) s (execP1Detect t b p2 level s) :=
  .ite (.next (.at rfl))
    (.ite (.next (State.modBerth_only rfl (.at rfl))) (.next (State.bump_only rfl (State.modBerth_only rfl (.at rfl)))))

theorem execFrameControlRx_only {b : Berth} {fc : Bytes} : OnlyNext (partsOf (.frameControlRx t b fc)) s (execFrameControlRx t b fc s) := by
  unfold execFrameControlRx
  refine .ite (.next (.at rfl))
      (.ite (.next (State.bump_only rfl (State.modBerth_only rfl (.at rfl))))
         (.ite (.next (State.bump_only rfl (State.modBerth_only rfl (.at rfl)))) (.ite (.next (State.modBerth_only rfl (.at rfl))) ?_)))
  dsimp only
  split
  · exact .next (State.modBerth_only rfl (.at rfl))
  · refine .ite (.next (State.bump_only rfl (State.modBerth_only rfl (.at rfl))))
        (.ite (.next (State.bump_only rfl (State.modBerth_only rfl (.at rfl)))) ?_)
    split
    · exact .next (State.fetchSoft_only rfl (State.cacheUse_only rfl (State.modLine_only rfl (State.modBerth_only rfl (.at rfl)))))
    · exact .next (State.modLine_only rfl (State.modBerth_only rfl (.at rfl)))

theorem execPayloadSymbolRx_only {b : Berth} {w : SymbolQuality} : OnlyNext (partsOf (.payloadSymbolRx t b w)) s (execPayloadSymbolRx t b w s) :=
  Only.share
    (fun h =>
       .next
         (State.symbolIn_only rfl
            (.stepIf (State.raise_only rfl) (State.modBerth_only rfl (.ite (State.bump_only rfl h) (.stepIf (State.bump_only rfl) h))))))
    (State.bump_only rfl (State.bump_only rfl (State.bump_only rfl (State.bump_only rfl (.at rfl)))))

theorem execAbortSymbolRx_only {b : Berth} {llrs : List (List Int)} :
    OnlyNext (partsOf (.abortSymbolRx t b llrs)) s (execAbortSymbolRx t b llrs s) := by
  unfold execAbortSymbolRx
  dsimp only
  split
  · exact .next (.at rfl)
  · split
    · exact .next (State.modBerth_only rfl (State.bump_only rfl (.at rfl)))
    · exact .next
          (State.checkOver_only rfl
             (State.forAll_only (fun _ _ => State.failCw_only rfl) (State.modBerth_only rfl (State.bump_only rfl (.at rfl)))))

theorem execBeaconRx_only {b : Berth} {bytes : Bytes} : OnlyNext (partsOf (.beaconRx t b bytes)) s (execBeaconRx t b bytes s) := by
  unfold execBeaconRx
  refine .ite (.next (.at rfl)) ?_
  dsimp only
  split
  · exact .next (State.bump_only rfl (.at rfl))
  · exact .ite (.next (.at rfl))
        (.ite
           (.ite (.next (State.stPeriod_only rfl (State.bump_only rfl (State.modLine_only rfl (.at rfl)))))
              (.next (State.bump_only rfl (.at rfl))))
           (.next (State.modLine_only rfl (.at rfl))))

theorem execCoordLost_only {b : Berth} : OnlyNext (partsOf (.coordLost t b)) s (execCoordLost t b s) :=
  .ite
    (.next
       (.stepIf (State.applyWaiting_only rfl)
          (State.stick_only rfl (State.raise_only rfl (State.bump_only rfl (State.modMesh_only rfl (State.modLine_only rfl (.at rfl))))))))
    (.next (.at rfl))

theorem execJoinReq_only {b : Berth} {msg : Bytes} : OnlyNext (partsOf (.joinReq t b msg)) s (execJoinReq t b msg s) := by
  unfold execJoinReq
  refine .ite (.next (.at rfl))
      (.ite (.next (.at rfl))
         (.ite (.next (State.addJoin_only rfl (State.endJoin_only rfl (.at rfl))))
            (.ite (.next (State.raise_only rfl (State.addJoin_only rfl (State.endJoin_only rfl (.at rfl)))))
               (.ite (.next (State.raise_only rfl (State.addJoin_only rfl (State.endJoin_only rfl (.at rfl))))) ?_))))
  dsimp only
  split
  · exact .next (State.raise_only rfl (State.addJoin_only rfl (State.endJoin_only rfl (.at rfl))))
  · split
    · exact .next (State.addJoin_only rfl (State.endJoin_only rfl (.at rfl)))
    · exact .ite (.next (State.endJoin_only rfl (.at rfl)))
          (.next (State.addJoin_only rfl (State.nonce16_only rfl (State.endJoin_only rfl (.at rfl)))))

theorem execJoinChal_only {b : Berth} : OnlyNext (partsOf (.joinChal t b)) s (execJoinChal t b s) :=
  .ite (.next (.at rfl)) (.next (State.forAll_only (fun _ _ => State.sendJoinMsg_only rfl) (.at rfl)))

theorem execJoinProof_only {b : Berth} {msg : Bytes} : OnlyNext (partsOf (.joinProof t b msg)) s (execJoinProof t b msg s) := by
  unfold execJoinProof
  refine .ite (.next (.at rfl)) (.ite (.next (.at rfl)) (.ite (.next (.at rfl)) ?_))
  dsimp only
  split
  · exact .next (State.joinFailed_only rfl (.at rfl))
  · refine .ite (.next (State.joinFailed_only rfl (State.endJoin_only rfl (.at rfl)))) ?_
    split
    · exact .next (State.proofGood_only rfl (.at rfl))
    · exact .next (State.addJoin_only rfl (State.joinFailed_only rfl (State.endJoin_only rfl (.at rfl))))

theorem execJoinProofDeadline_only {b : Berth} {eui : BitVec 64} :
    OnlyNext (partsOf (.joinProofDeadline t b eui)) s (execJoinProofDeadline t b eui s) := by
  unfold execJoinProofDeadline
  dsimp only
  split
  · exact .ite (.next (State.endJoin_only rfl (.at rfl))) (.next (.at rfl))
  · exact .next (.at rfl)

theorem execJoinLockoutEnd_only {b : Berth} {eui : BitVec 64} : OnlyNext (partsOf (.joinLockoutEnd t b eui)) s (execJoinLockoutEnd t b eui s) :=
  .next (State.modLine_only rfl (.at rfl))

theorem execJoinAccept_only {b : Berth} {eui : BitVec 64} : OnlyNext (partsOf (.joinAccept t b eui)) s (execJoinAccept t b eui s) := by
  unfold execJoinAccept
  extract_lets sa
  split
  · refine .ite (.next (State.endJoin_only rfl (.at rfl))) (.ite (.next (.at rfl)) ?_)
    split
    · exact .next (.at rfl)
    · next he =>
      extract_lets s2 ids s3 s4 s5
      have h5 : Only (partsOf (.joinAccept t b eui)) s s5 :=
        State.bump_only rfl
          (State.modLine_only rfl
            (State.routeJoin_only rfl
              (State.forAll_only (fun _ _ h => State.modCtx_only rfl (State.ctxTo_only rfl h))
                (State.sendSealed_only rfl (State.msgFc_only he rfl (.at rfl))))))
      split
      · exact .next (.stepIf (State.queueRekey_only rfl) h5)
      · exact .next h5
  · exact .next (.at rfl)

theorem execStationJoinMsgRx_only {b : Berth} {msg : Bytes} : OnlyNext (partsOf (.stationJoinMsgRx t b msg)) s (execStationJoinMsgRx t b msg s) := by
  unfold execStationJoinMsgRx
  refine .ite (.next (.at rfl))
      (.ite (.ite ?_ (.next (.at rfl)))
         (.ite (.ite (.next (State.modLine_only rfl (.at rfl))) (.next (.at rfl)))
            (.ite (.ite (.next (State.modLine_only rfl (.at rfl))) (.next (.at rfl))) (.next (.at rfl)))))
  dsimp only
  split
  · exact .next (State.modLine_only rfl (.at rfl))
  · exact .next (.at rfl)

theorem execAckRx_only {b : Berth} {ctx : Nat} {bytes : Bytes} : OnlyNext (partsOf (.ackRx t b ctx bytes)) s (execAckRx t b ctx bytes s) := by
  unfold execAckRx
  dsimp only
  split
  · exact .next (.at rfl)
  · exact .next (State.forAll_only (fun _ _ => State.takeAckEntry_only rfl) (.at rfl))

theorem execTtReq_only {b : Berth} {ctx t2 : Nat} : OnlyNext (partsOf (.ttReq t b ctx t2)) s (execTtReq t b ctx t2 s) := by
  unfold execTtReq
  dsimp only
  split
  · refine .ite (.next (.at rfl)) ?_
    split
    · next he =>
        exact .next
            (only_set_ctxs rfl (State.free_only rfl (State.free_only rfl (State.sendSealed_only rfl (State.msgFc_only he rfl (.at rfl))))))
    · exact .next (.at rfl)
  · exact .next (.at rfl)

theorem execTtResp_only {b : Berth} {payload : Bytes} {t4 : Nat} : OnlyNext (partsOf (.ttResp t b payload t4)) s (execTtResp t b payload t4 s) := by
  unfold execTtResp
  refine .ite (.next (.at rfl)) ?_
  dsimp only
  split
  · exact .next (.at rfl)
  · exact .next (State.modLine_only rfl (.at rfl))

theorem execToneMap_only {b : Berth} {link : Nat} {bytes : Bytes} : OnlyNext (partsOf (.toneMap t b link bytes)) s (execToneMap t b link bytes s) :=
  .ite (.next (State.modBerth_only rfl (.at rfl))) (.next (State.bump_only rfl (.at rfl)))

theorem execToneMapIssue_only {b : Berth} {link : Nat} {snr : List Nat} :
    OnlyNext (partsOf (.toneMapIssue t b link snr)) s (execToneMapIssue t b link snr s) := by
  unfold execToneMapIssue
  extract_lets s1 e side bpc maxB lm val cur k rep owner
  have h1 : Only (partsOf (.toneMapIssue t b link snr)) s s1 := State.releaseAt_only rfl (.at rfl)
  have reported : ∀ ents r, Only (partsOf (.toneMapIssue t b link snr)) s (rep s1 ents r) := fun _ _ => by
    iterate 12 refine State.report_only rfl ?_
    iterate 4 refine State.free_only rfl ?_
    exact h1
  split
  extract_lets new changed s2 m s3 s4
  clear_value cur owner
  have h2 : Only (partsOf (.toneMapIssue t b link snr)) s s2 := by
    unfold s2
    split <;> exact reported _ _
  have h4 : Only (partsOf (.toneMapIssue t b link snr)) s s4 := by
    unfold s4
    split
    · exact State.queueMsg_only rfl (State.modBerth_only rfl h2)
    · exact State.modBerth_only rfl h2
  exact .ite (.next (.stepIf (State.modMesh_only rfl) h4)) (.next h2)

theorem execRekey_only {b : Berth} {ctx : Nat} {bytes : Bytes} : OnlyNext (partsOf (.rekey t b ctx bytes)) s (execRekey t b ctx bytes s) := by
  unfold execRekey
  refine .ite ?_ (.ite (.next (.at rfl)) (.next (State.queueMsg_only rfl (State.modLine_only rfl (State.nonce16_only rfl (.at rfl))))))
  split
  · exact .ite (.next (State.queueRekey_only rfl (.at rfl))) (.next (.at rfl))
  · exact .next (.at rfl)

theorem execRekeyAck_only {b : Berth} {ctx : Nat} {bytes : Bytes} :
    OnlyNext (partsOf (.rekeyAck t b ctx bytes)) s (execRekeyAck t b ctx bytes s) := by
  unfold execRekeyAck
  dsimp only
  split
  · split
    · exact .ite (.next (.at rfl)) (.next (only_set_ctxs rfl (.at rfl)))
    · exact .next (.at rfl)
  · exact .next (.at rfl)

theorem execKeyAgeRoll_only {b : Berth} : OnlyNext (partsOf (.keyAgeRoll t b)) s (execKeyAgeRoll t b s) :=
  .ite (.next (State.raise_only rfl (State.startRoll_only rfl (.at rfl)))) (.next (.at rfl))

theorem execLeave_only {b : Berth} {ctx : Nat} : OnlyNext (partsOf (.leave t b ctx)) s (execLeave t b ctx s) := by
  unfold execLeave
  dsimp only
  split
  · exact .ite (.next (State.forAll_only (fun _ _ => State.ctxTo_only rfl) (.at rfl))) (.next (.at rfl))
  · exact .next (.at rfl)

theorem execHearReport_only {b : Berth} {ctx : Nat} {bytes : Bytes} :
    OnlyNext (partsOf (.hearReport t b ctx bytes)) s (execHearReport t b ctx bytes s) := by
  unfold execHearReport
  dsimp only
  split
  · exact .ite (.next (.at rfl)) (.next (State.modLine_only rfl (.at rfl)))
  · exact .next (.at rfl)

theorem execLinkReport_only {b : Berth} {ctx : Nat} {bytes : Bytes} :
    OnlyNext (partsOf (.linkReport t b ctx bytes)) s (execLinkReport t b ctx bytes s) := by
  unfold execLinkReport
  dsimp only
  split
  · exact .next (.at rfl)
  · split
    · exact .next (State.forAll_only (fun _ _ => State.noteLink_only rfl) (.at rfl))
    · exact .next (State.bump_only rfl (.at rfl))

theorem execRouteSet_only {b : Berth} {bytes : Bytes} : OnlyNext (partsOf (.routeSet t b bytes)) s (execRouteSet t b bytes s) :=
  .ite (.next (State.bump_only rfl (.at rfl))) (.ite (.next (State.modMesh_only rfl (.at rfl))) (.next (State.bump_only rfl (.at rfl))))

theorem execRelayMap_only {b : Berth} {bytes : Bytes} : OnlyNext (partsOf (.relayMap t b bytes)) s (execRelayMap t b bytes s) := by
  unfold execRelayMap
  dsimp only
  split
  · exact .next (State.bump_only rfl (.at rfl))
  · exact .ite (.next (State.modMesh_only rfl (.at rfl))) (.next (State.bump_only rfl (.at rfl)))

theorem execMeshHopRx_only {b : Berth} {fc frame : Bytes} : OnlyNext (partsOf (.meshHopRx t b fc frame)) s (execMeshHopRx t b fc frame s) :=
  .ite (.next (State.bump_only rfl (.at rfl))) (.next (State.hopStep_only rfl (.at rfl)))

theorem execParentLinkFail_only {b : Berth} {cost : Nat} : OnlyNext (partsOf (.parentLinkFail t b cost)) s (execParentLinkFail t b cost s) :=
  .next (State.modMesh_only rfl (.at rfl))

theorem execRelayLateDrop_only {b : Berth} : OnlyNext (partsOf (.relayLateDrop t b)) s (execRelayLateDrop t b s) :=
  .next (State.bump_only rfl (State.modMesh_only rfl (.at rfl)))

theorem execContextStationTimeout_only {id : Nat} : OnlyNext (partsOf (.contextStationTimeout t id)) s (execContextStationTimeout t id s) := by
  unfold execContextStationTimeout
  dsimp only
  split
  · exact .ite (.next (State.ctxTo_only rfl (.at rfl))) (.next (.at rfl))
  · exact .next (.at rfl)

theorem execContextDormantTimeout_only {id : Nat} : OnlyNext (partsOf (.contextDormantTimeout t id)) s (execContextDormantTimeout t id s) := by
  unfold execContextDormantTimeout
  dsimp only
  split
  · exact .ite (.next (State.ctxTo_only rfl (.at rfl))) (.next (.at rfl))
  · exact .next (.at rfl)

theorem execContextClosingEnd_only {id : Nat} : OnlyNext (partsOf (.contextClosingEnd t id)) s (execContextClosingEnd t id s) := by
  unfold execContextClosingEnd
  dsimp only
  split
  · exact .ite (.next (State.freeCtx_only rfl (.at rfl))) (.next (.at rfl))
  · exact .next (.at rfl)

theorem execContextRemoteEnd_only {id : Nat} : OnlyNext (partsOf (.contextRemoteEnd t id)) s (execContextRemoteEnd t id s) := by
  unfold execContextRemoteEnd
  dsimp only
  split
  · exact .ite (.next (State.freeCtx_only rfl (.at rfl))) (.next (.at rfl))
  · exact .next (.at rfl)

theorem execNumberQuarantineEnd_only {b : Berth} {num : Nat} :
    OnlyNext (partsOf (.numberQuarantineEnd t b num)) s (execNumberQuarantineEnd t b num s) :=
  .next (State.modLine_only rfl (.at rfl))

theorem execOwnQuery_only {l : LinkId} {pkt : Bytes} : OnlyNext (partsOf (.ownQuery t l pkt)) s (execOwnQuery t l pkt s) := by
  unfold execOwnQuery
  refine .next (State.rxPacket_only rfl (fun _ _ ha => (.ite (State.bump_only rfl ha) (.ite ha ?_))) (.at rfl))
  split
  · exact State.sendTo_only rfl ha
  · exact ha

theorem execOwnAnswer_only {l : LinkId} {pkt : Bytes} : OnlyNext (partsOf (.ownAnswer t l pkt)) s (execOwnAnswer t l pkt s) :=
  .next (State.rxPacket_only rfl (fun _ _ ha => .ite (State.bump_only rfl ha) (.ite ha (only_set_owns rfl ha))) (.at rfl))

theorem execOwnClaimWindowEnd_only {eui : BitVec 64} : OnlyNext (partsOf (.ownClaimWindowEnd t eui)) s (execOwnClaimWindowEnd t eui s) := by
  unfold execOwnClaimWindowEnd
  dsimp only
  split
  · exact .ite (.next (.at rfl))
        (.ite (.next (State.advertise_only rfl (State.broadcast_only rfl (only_set_ctxs_owns rfl (.at rfl)))))
           (.next (only_set_ctxs_owns rfl (.at rfl))))
  · exact .next (.at rfl)

theorem execOwnClaim_only {l : LinkId} {pkt : Bytes} : OnlyNext (partsOf (.ownClaim t l pkt)) s (execOwnClaim t l pkt s) := by
  unfold execOwnClaim
  refine .next (State.rxPacket_only rfl (fun _ _ ha => (.ite (State.bump_only rfl ha) (.ite ha ?_))) (.at rfl))
  dsimp only
  split
  · exact .stepIf (State.loseTo_only rfl) ha
  · exact ha

theorem execOwnAdvert_only {l : LinkId} {pkt : Bytes} : OnlyNext (partsOf (.ownAdvert t l pkt)) s (execOwnAdvert t l pkt s) :=
  .next
    (State.rxPacket_only rfl
       (fun _ _ ha => .ite (State.bump_only rfl ha) (.ite ha (State.forAll_only (fun _ _ hb => State.takeAdvert_only rfl hb) ha)))
       (.at rfl))

theorem execOwnAdvertRefresh_only : OnlyNext (partsOf (.ownAdvertRefresh t)) s (execOwnAdvertRefresh t s) :=
  .ite (.next (State.releaseAt_only rfl (.at rfl))) (.next (State.advertise_only rfl (State.releaseAt_only rfl (.at rfl))))

theorem execRouteEntryExpiry_only {eui : BitVec 64} : OnlyNext (partsOf (.routeEntryExpiry t eui)) s (execRouteEntryExpiry t eui s) := by
  unfold execRouteEntryExpiry
  dsimp only
  split
  · exact .ite (.next (State.dropRoute_only rfl (.at rfl))) (.next (.at rfl))
  · exact .next (.at rfl)

theorem execCancelTrainingDone_only {b : Berth} {res : TrainResult} :
    OnlyNext (partsOf (.cancelTrainingDone t b res)) s (execCancelTrainingDone t b res s) :=
  Only.share
    (fun h₀ =>
       .ite (.next (.at rfl))
         (.ite (.next (State.modBerth_only rfl (.stepIf (fun h => State.raise_only rfl (State.stick_only rfl h)) h₀)))
            (.next
               (State.modBerth_only rfl
                  (State.raise_only rfl (State.bump_only rfl (.stepIf (fun h => State.raise_only rfl (State.stick_only rfl h)) h₀)))))))
    (State.report_only rfl (State.report_only rfl (State.report_only rfl (.at rfl))))

theorem execCancelAdaptBlock_only {b : Berth} {blk : AdaptBlock} :
    OnlyNext (partsOf (.cancelAdaptBlock t b blk)) s (execCancelAdaptBlock t b blk s) :=
  .ite (.next (State.releaseAt_only rfl (.at rfl)))
    (.next (.stepIf (State.diverge_only rfl) (State.setBerth_only rfl (State.releaseAt_only rfl (.at rfl)))))

theorem execCancelTapTransfer_only {b : Berth} {analog own : List Int} :
    OnlyNext (partsOf (.cancelTapTransfer t b analog own)) s (execCancelTapTransfer t b analog own s) :=
  .ite (.next (State.modBerth_only rfl (.at rfl))) (.next (.at rfl))

theorem execResidualEval_only {b : Berth} {m : Residual} : OnlyNext (partsOf (.residualEval t b m)) s (execResidualEval t b m s) := by
  unfold execResidualEval
  refine .ite ?_ (.next (.ite (State.report_only rfl (.at rfl)) (.at rfl)))
  split
  · exact .next (State.modBerth_only rfl (.stepIf (State.report_only rfl) (.at rfl)))
  · exact Only.share (fun h => .next (.ite h (State.diverge_only rfl h))) (.stepIf (State.report_only rfl) (.at rfl))

theorem execFastRecoveryDone_only {b : Berth} {m : Recovery} : OnlyNext (partsOf (.fastRecoveryDone t b m)) s (execFastRecoveryDone t b m s) := by
  unfold execFastRecoveryDone
  dsimp only
  split
  · exact .next (State.setBerth_only rfl (.at rfl))
  · exact .ite (.next (.at rfl))
        (.ite (.next (State.bump_only rfl (State.setBerth_only rfl (.at rfl)))) (.next (State.fallback_only rfl (.at rfl))))

theorem execFallbackRetry_only {b : Berth} : OnlyNext (partsOf (.fallbackRetry t b)) s (execFallbackRetry t b s) :=
  .ite (.next (State.modBerth_only rfl (.at rfl))) (.next (.at rfl))

theorem execNbrConflict_only {b : Berth} {j : Fin 3} {resid : Int} :
    OnlyNext (partsOf (.nbrConflict t b j resid)) s (execNbrConflict t b j resid s) :=
  Only.share
    (fun h =>
       .ite (.ite (.next (State.raise_only rfl (State.stick_only rfl (State.statSet_only rfl h)))) (.next h))
         (.ite (.next (State.statSet_only rfl h)) (.next h)))
    (State.setBerth_only rfl (State.report_only rfl (.at rfl)))

theorem execFloorStale_only {b : Berth} {quiet : Option Int} : OnlyNext (partsOf (.floorStale t b quiet)) s (execFloorStale t b quiet s) := by
  unfold execFloorStale
  dsimp only
  split
  · exact .next (State.modBerth_only rfl (State.statSet_only rfl (State.report_only rfl (.at rfl))))
  · exact .next (.stepIf (State.statSet_only rfl) (.at rfl))

theorem execSymbolBoundary_only {b : Berth} {level : Option Int} :
    OnlyNext (partsOf (.symbolBoundary t b level)) s (execSymbolBoundary t b level s) :=
  .ite (.next (State.releaseAt_only rfl (.at rfl)))
    (.next (State.txBoundary_only rfl (State.modBerth_only rfl (State.releaseAt_only rfl (.at rfl)))))

/-! ### Together -/

/-- A command to which `partsOf` gives no power domain leaves every part alone but those that `partsOf` names. -/
theorem exec_only_partsOf {c : Instr} (hc : (partsOf c).contains .dom = false) : OnlyNext (partsOf c) s (exec c s) := by
  cases c with
  | sessionOpen _ _ => exact execSessionOpen_only
  | sessionClose _ _ => exact execSessionClose_only
  | objGet _ _ => exact execObjGet_only
  | statsRead _ _ => exact execStatsRead_only
  | captureArm _ _ => exact execCaptureArm_only
  | captureRead _ _ => exact execCaptureRead_only
  | fwStage _ _ => exact execFwStage_only
  | berthSwap _ _ _ => exact execBerthSwap_only
  | regionDrain _ _ => exact execRegionDrain_only
  | storeRetire _ _ => exact execStoreRetire_only
  | fabricJoin _ _ => exact execFabricJoin_only
  | fabricLeave _ _ => exact execFabricLeave_only
  | clockForce _ _ => exact execClockForce_only
  | sensorCal _ _ => exact execSensorCal_only
  | loopForce _ _ => exact execLoopForce_only
  | keyInstall _ _ => exact execKeyInstall_only
  | keyRoll _ _ => exact execKeyRoll_only
  | attest _ _ => exact execAttest_only
  | eventAck _ _ => exact execEventAck_only
  | lockWaitTimeout _ _ => exact execLockWaitTimeout_only
  | sessionNonceExpiry _ _ => exact execSessionNonceExpiry_only
  | sessionIdleTimeout _ _ => exact execSessionIdleTimeout_only
  | sessionLockoutEnd _ _ _ => exact execSessionLockoutEnd_only
  | fabricSessionUnreachable _ _ => exact execFabricSessionUnreachable_only
  | qpEnable _ _ _ => exact execQpEnable_only
  | qpDisable _ _ _ => exact execQpDisable_only
  | sqTailDoorbell _ _ _ => exact execSqTailDoorbell_only
  | cqHeadDoorbell _ _ _ => exact execCqHeadDoorbell_only
  | hostHeartbeat _ _ => exact execHostHeartbeat_only
  | intEnableWrite _ _ => exact execIntEnableWrite_only
  | msixUnmask _ _ => exact execMsixUnmask_only
  | registerWrite _ _ _ _ _ => exact execRegisterWrite_only
  | clkTodLatch _ => exact execClkTodLatch_only
  | chkResultLatch _ _ _ => exact execChkResultLatch_only
  | uartStatusArm _ _ => exact execUartStatusArm_only
  | uartDataRead _ _ => exact execUartDataRead_only
  | uartTxWrite _ _ _ => exact execUartTxWrite_only
  | txFrame _ _ _ => exact execTxFrame_only
  | rxBuf _ _ => exact execRxBuf_only
  | nop _ _ => exact execNop_only
  | submissionFetchError _ _ => exact execSubmissionFetchError_only
  | cqWriteRefused _ _ => exact execCqWriteRefused_only
  | rxFrameDeliver _ _ => exact execRxFrameDeliver_only
  | irqModerationExpiry _ _ => exact execIrqModerationExpiry_only
  | hostLinkRound _ _ => exact execHostLinkRound_only
  | pcieLinkDown _ => exact execPcieLinkDown_only
  | perstNAssert _ => exact execPerstNAssert_only
  | functionLevelReset _ => exact execFunctionLevelReset_only
  | hostWatchdogExpiry _ => exact execHostWatchdogExpiry_only
  | dmaCompletionTimeout _ _ => exact execDmaCompletionTimeout_only
  | d3hotEntry _ => exact execD3hotEntry_only
  | pcieLinkTrainingStart _ => exact execPcieLinkTrainingStart_only
  | configAuth _ _ => exact execConfigAuth_only
  | insertNAsserted _ => exact execInsertNAsserted_only
  | evInserted _ => exact execEvInserted_only
  | removalQuiet _ => exact execRemovalQuiet_only
  | avsReadback _ _ => exact execAvsReadback_only
  | pmbAlert _ _ => exact execPmbAlert_only
  | d2dFlitError _ _ => exact execD2dFlitError_only
  | dieRetrainRetry _ _ _ => exact execDieRetrainRetry_only
  | vddDrvUndervoltage _ _ => exact execVddDrvUndervoltage_only
  | vddDrvRecovery _ => exact execVddDrvRecovery_only
  | vddDrvOvervoltage _ => exact execVddDrvOvervoltage_only
  | driverOvercurrent _ _ => exact execDriverOvercurrent_only
  | driverHot _ _ _ => exact execDriverHot_only
  | driverCool _ _ => exact execDriverCool_only
  | beaconBoundary _ _ _ => exact execBeaconBoundary_only
  | domainListenEnd _ _ _ => exact execDomainListenEnd_only
  | domainClashWaitEnd _ _ => exact execDomainClashWaitEnd_only
  | allocationStart _ _ _ => exact execAllocationStart_only
  | ackTailStart _ _ _ => exact execAckTailStart_only
  | contentionSlot _ _ _ => exact execContentionSlot_only
  | rxFifoOverflow _ _ _ => exact execRxFifoOverflow_only
  | p1Detect _ _ _ _ => exact execP1Detect_only
  | frameControlRx _ _ _ => exact execFrameControlRx_only
  | payloadSymbolRx _ _ _ => exact execPayloadSymbolRx_only
  | abortSymbolRx _ _ _ => exact execAbortSymbolRx_only
  | beaconRx _ _ _ => exact execBeaconRx_only
  | coordLost _ _ => exact execCoordLost_only
  | joinReq _ _ _ => exact execJoinReq_only
  | joinChal _ _ => exact execJoinChal_only
  | joinProof _ _ _ => exact execJoinProof_only
  | joinProofDeadline _ _ _ => exact execJoinProofDeadline_only
  | joinLockoutEnd _ _ _ => exact execJoinLockoutEnd_only
  | joinAccept _ _ _ => exact execJoinAccept_only
  | stationJoinMsgRx _ _ _ => exact execStationJoinMsgRx_only
  | ackRx _ _ _ _ => exact execAckRx_only
  | ttReq _ _ _ _ => exact execTtReq_only
  | ttResp _ _ _ _ => exact execTtResp_only
  | toneMap _ _ _ _ => exact execToneMap_only
  | toneMapIssue _ _ _ _ => exact execToneMapIssue_only
  | rekey _ _ _ _ => exact execRekey_only
  | rekeyAck _ _ _ _ => exact execRekeyAck_only
  | keyAgeRoll _ _ => exact execKeyAgeRoll_only
  | leave _ _ _ => exact execLeave_only
  | hearReport _ _ _ _ => exact execHearReport_only
  | linkReport _ _ _ _ => exact execLinkReport_only
  | routeSet _ _ _ => exact execRouteSet_only
  | relayMap _ _ _ => exact execRelayMap_only
  | meshHopRx _ _ _ _ => exact execMeshHopRx_only
  | parentLinkFail _ _ _ => exact execParentLinkFail_only
  | relayLateDrop _ _ => exact execRelayLateDrop_only
  | contextStationTimeout _ _ => exact execContextStationTimeout_only
  | contextDormantTimeout _ _ => exact execContextDormantTimeout_only
  | contextClosingEnd _ _ => exact execContextClosingEnd_only
  | contextRemoteEnd _ _ => exact execContextRemoteEnd_only
  | numberQuarantineEnd _ _ _ => exact execNumberQuarantineEnd_only
  | ownQuery _ _ _ => exact execOwnQuery_only
  | ownAnswer _ _ _ => exact execOwnAnswer_only
  | ownClaimWindowEnd _ _ => exact execOwnClaimWindowEnd_only
  | ownClaim _ _ _ => exact execOwnClaim_only
  | ownAdvert _ _ _ => exact execOwnAdvert_only
  | ownAdvertRefresh _ => exact execOwnAdvertRefresh_only
  | routeEntryExpiry _ _ => exact execRouteEntryExpiry_only
  | cancelTrainingDone _ _ _ => exact execCancelTrainingDone_only
  | cancelAdaptBlock _ _ _ => exact execCancelAdaptBlock_only
  | cancelTapTransfer _ _ _ _ => exact execCancelTapTransfer_only
  | residualEval _ _ _ => exact execResidualEval_only
  | fastRecoveryDone _ _ _ => exact execFastRecoveryDone_only
  | fallbackRetry _ _ => exact execFallbackRetry_only
  | nbrConflict _ _ _ _ => exact execNbrConflict_only
  | floorStale _ _ _ => exact execFloorStale_only
  | storeRound _ _ _ => exact execStoreRound_only
  | switchRound _ _ _ => exact execSwitchRound_only
  | ctxCacheFill _ _ => exact execCtxCacheFill_only
  | ctxWriteback _ _ => exact execCtxWriteback_only
  | storeTimingUpdate _ _ _ => exact execStoreTimingUpdate_only
  | storeTempRead _ _ _ => exact execStoreTempRead_only
  | scrubPass _ _ _ _ => exact execScrubPass_only
  | storeAutoRetire _ _ => exact execStoreAutoRetire_only
  | storeDrainFence _ _ => exact execStoreDrainFence_only
  | rebuildDone _ _ => exact execRebuildDone_only
  | captureTrigger _ => exact execCaptureTrigger_only
  | captureDone _ => exact execCaptureDone_only
  | mgmtDrainLoopFault _ => exact execMgmtDrainLoopFault_only
  | ethLinkFault _ _ => exact execEthLinkFault_only
  | ethLinkUp _ _ => exact execEthLinkUp_only
  | ethFrameRx _ _ _ _ _ _ => exact execEthFrameRx_only
  | ptpMessageRx _ _ _ => exact execPtpMessageRx_only
  | ptpSyncTimeout _ _ => exact execPtpSyncTimeout_only
  | ptpInterval _ _ => exact execPtpInterval_only
  | esmcPduRx _ _ _ => exact execEsmcPduRx_only
  | esmcInfoTx _ _ => exact execEsmcInfoTx_only
  | esmcTimeout _ _ => exact execEsmcTimeout_only
  | fabricCwRx _ _ _ _ _ => exact execFabricCwRx_only
  | fabricNak _ _ _ => exact execFabricNak_only
  | fabricReplayTimeout _ _ => exact execFabricReplayTimeout_only
  | fabricControlRx _ _ _ => exact execFabricControlRx_only
  | fabricControlMiss _ _ => exact execFabricControlMiss_only
  | fabricLaneLoss _ _ _ => exact execFabricLaneLoss_only
  | fabricDecodeLoss _ _ => exact execFabricDecodeLoss_only
  | fabricTrainingDone _ _ _ => exact execFabricTrainingDone_only
  | fabricAuthTimeout _ _ => exact execFabricAuthTimeout_only
  | fabricRetryTimer _ _ => exact execFabricRetryTimer_only
  | fabricLaneRestore _ _ => exact execFabricLaneRestore_only
  | fabricPeriodicRetrain _ _ => exact execFabricPeriodicRetrain_only
  | frame _ _ _ => exact execFrame_only
  | mgmt _ _ _ => exact execMgmt_only
  | linkstate _ _ _ => exact execLinkstate_only
  | linkstatePeriodic _ => exact execLinkstatePeriodic_only
  | membership _ _ _ => exact execMembership_only
  | membershipHeartbeat _ => exact execMembershipHeartbeat_only
  | memberTimeout _ _ => exact execMemberTimeout_only
  | fabricJoinTimeout _ => exact execFabricJoinTimeout_only
  | fabricLeaveDown _ => exact execFabricLeaveDown_only
  | mixedReleaseLog _ => exact execMixedReleaseLog_only
  | clockMeasure _ _ _ _ => exact execClockMeasure_only
  | refActivityLoss _ _ => exact execRefActivityLoss_only
  | refWtrExpiry _ _ => exact execRefWtrExpiry_only
  | refPpsEdge _ _ _ => exact execRefPpsEdge_only
  | todMessage _ _ => exact execTodMessage_only
  | holdoverLimit _ => exact execHoldoverLimit_only
  | wireBreak _ _ _ => exact execWireBreak_only
  | breakProbe _ _ _ => exact execBreakProbe_only
  | wireBreakRetest _ _ _ => exact execWireBreakRetest_only
  | senseBlankChange _ _ => exact execSenseBlankChange_only
  | filterOutput _ _ _ => exact execFilterOutput_only
  | fastOutput _ _ _ => exact execFastOutput_only
  | loopPeriod _ _ => exact execLoopPeriod_only
  | loopOpen _ _ _ _ => exact execLoopOpen_only
  | loopForceExpiry _ _ => exact execLoopForceExpiry_only
  | sensorCalDone _ _ _ => exact execSensorCalDone_only
  | checkItemStart _ _ _ => exact execCheckItemStart_only
  | checkItemEnd _ _ _ _ _ => exact execCheckItemEnd_only
  | uartCharRx _ _ _ => exact execUartCharRx_only
  | uartCmdFrame _ _ => exact execUartCmdFrame_only
  | uartFrameTimeout _ => exact execUartFrameTimeout_only
  | uartLineDead _ _ => exact execUartLineDead_only
  | uartLineResume _ _ => exact execUartLineResume_only
  | gpioInputChange _ _ => exact execGpioInputChange_only
  | jtagInstruction _ _ => exact execJtagInstruction_only
  | rngHealthFail _ => exact execRngHealthFail_only
  | fwStageTimeout _ => exact execFwStageTimeout_only
  | fwFlashWriteDone _ _ => exact execFwFlashWriteDone_only
  | fwHoldReload _ _ => exact execFwHoldReload_only
  | configRecordWrite _ => exact execConfigRecordWrite_only
  | attEnrollDone _ => exact execAttEnrollDone_only
  | symbolBoundary _ _ _ => exact execSymbolBoundary_only
  | pcieLinkUp _ => exact execPcieLinkUp_only
  | wholeSecondOfDeviceTime _ => exact execWholeSecondOfDeviceTime_only
  | refFrequencyRange _ _ _ => exact execRefFrequencyRange_only
  | uartCharTx _ _ => exact execUartCharTx_only
  | storeTimingRetry _ _ _ => exact execStoreTimingRetry_only
  | entropySourceRetry _ _ => exact execEntropySourceRetry_only
  | previousKeyRetentionEnd _ _ => exact execPreviousKeyRetentionEnd_only
  | featureEpochStart _ _ => exact execFeatureEpochStart_only
  | _ => nomatch hc

end

/-! ## PD_SEC is ON, and what composes -/

/-- Every part of the state but the power domains. -/
def offDom : List Part := Part.all.erase .dom

/-- PD_SEC is ON (R31). -/
def SecOn (s : State) : Prop := s.domSt pdSec = .on

/-- PD_SEC is ON in the next state, if there is one. -/
def SecOnNext (o : Host.Outcome State Fault Refusal) : Prop := ∀ s', o = .next s' → SecOn s'

/-- PD_SEC is ON in the state that the start of a management command leaves. -/
def SecOnEff (e : Eff) : Prop := SecOn e.state

theorem SecOn.of_dom_eq {a b : State} (hd : b.dom = a.dom) (h : SecOn a) : SecOn b := by
  unfold SecOn State.domSt at *
  rwa [hd]

theorem SecOn.only {a b : State} (ho : Only offDom a b) (h : SecOn a) : SecOn b := h.of_dom_eq (ho .dom rfl)

theorem SecOn.at {s : State} {t : Nat} (h : SecOn s) : SecOn (s.at t) := .only (.at rfl) h

theorem SecOn.ite {c : Prop} [Decidable c] {a b : State} (ha : SecOn a) (hb : SecOn b) : SecOn (if c then a else b) := by
  split <;> assumption

theorem SecOn.stepIf {c : Prop} [Decidable c] {a b : State} (hb : SecOn a → SecOn b) (h : SecOn a) : SecOn (if c then b else a) :=
  .ite (hb h) h

theorem SecOn.forAll {α : Type} {s : State} {l : List α} {f : State → α → State} (hf : ∀ a x, SecOn a → SecOn (f a x)) (h : SecOn s) :
    SecOn (s.forAll l f) := by
  unfold State.forAll
  induction l generalizing s with
  | nil => exact h
  | cons x l ih => exact ih (hf _ _ h)

theorem SecOnEff.only {a : State} {e : Eff} (ho : OnlyEff offDom a e) (h : SecOn a) : SecOnEff e := SecOn.only ho h

theorem SecOnEff.ite {c : Prop} [Decidable c] {a b : Eff} (ha : SecOnEff a) (hb : SecOnEff b) : SecOnEff (if c then a else b) := by
  split <;> assumption

theorem SecOnEff.done {a : State} {x : Rsp} (h : SecOn a) : SecOnEff (.done x a) := h

theorem SecOnEff.run {a : State} {k : RunKind} (h : SecOn a) : SecOnEff (.run k a) := h

theorem SecOnNext.next {a : State} (h : SecOn a) : SecOnNext (.next a) := by
  rintro s' ⟨⟩
  exact h

theorem SecOnNext.ite {c : Prop} [Decidable c] {a b : Host.Outcome State Fault Refusal} (ha : SecOnNext a) (hb : SecOnNext b) :
    SecOnNext (if c then a else b) := by
  split <;> assumption

/-- An outcome that leaves the power domains alone. -/
theorem SecOnNext.only {L : List Part} {s : State} {o : Host.Outcome State Fault Refusal} (ho : OnlyNext L s o)
    (hL : L.contains .dom = false) (h : SecOn s) : SecOnNext o :=
  fun s' hn => h.of_dom_eq (ho s' hn .dom hL)

/-! ## The operations that reach the power domains -/

theorem State.setDomRec_domSt (s : State) (k j : DomId) (d : Dom) : (s.setDomRec k d).domSt j = if k = j then d.st else s.domSt j := by
  by_cases hk : k = j
  · simp [State.domSt, hk]
  · have hv : k.val ≠ j.val := fun e => hk (Fin.ext e)
    simp [State.domSt, hk, hv]

theorem SecOn.setDomRec_of_ne {s : State} {k : DomId} {d : Dom} (hk : k ≠ pdSec) (h : SecOn s) : SecOn (s.setDomRec k d) := by
  unfold SecOn at *
  rwa [State.setDomRec_domSt, if_neg hk]

/-- A record may change in everything but the domain's state. -/
theorem SecOn.setDomRec {s : State} {k : DomId} {d : Dom} (hd : d.st = s.domSt k) (h : SecOn s) : SecOn (s.setDomRec k d) := by
  unfold SecOn at *
  rw [State.setDomRec_domSt]
  split
  · next hk => rw [hd, hk, h]
  · exact h

/-- `State.setDom` passes over PD_SEC. -/
theorem SecOn.setDom {s : State} {k : DomId} {st : DomSt} (h : SecOn s) : SecOn (s.setDom k st) := by
  unfold State.setDom
  dsimp only
  split
  · exact h
  · next hk =>
    have recorded {d : Dom} : SecOn (s.setDomRec k d) := h.setDomRec_of_ne (not_or.mp hk).2
    refine .only (State.cause_only rfl (State.objTouch_only rfl .rfl)) ?_
    split
    · exact .stepIf (.only (State.report_only rfl (State.modBerth_only rfl .rfl))) recorded
    · exact recorded

/-- PD_SEC never drains. -/
theorem SecOn.startDrain {s : State} {k : DomId} (h : SecOn s) : SecOn (s.startDrain k) := by
  unfold State.startDrain
  split
  · exact h
  · next hk =>
    refine .only (State.cause_only rfl (State.objTouch_only rfl .rfl)) (.setDomRec_of_ne hk ?_)
    split
    · exact .only (State.modBerth_only rfl .rfl) h
    · exact h

theorem SecOn.complete {before after : State} {cmd : Nat} {r : Req} {key : Bytes} {x : Rsp} {lost : Bool} (hb : SecOn before) (ha : SecOn after) :
    SecOn (before.complete cmd r key x after lost) :=
  have answered : SecOn ((after.answer cmd r key x).sessionDone r.session) :=
    .only (State.sessionDone_only rfl (State.answer_only rfl .rfl)) ha
  .ite (.only (State.sessionDone_only rfl .rfl) (.ite hb ha))
    (.ite answered (.ite answered (.only (State.sessionDone_only rfl (State.answerShort_only rfl .rfl)) hb)))

theorem SecOn.startLocked {s : State} {cmd : Nat} {q : LockReq} {eff : State → Eff} (he : ∀ a, SecOn a → SecOnEff (eff a)) (h : SecOn s) :
    SecOn (s.startLocked cmd q eff) := by
  have hs := he s h
  unfold State.startLocked
  generalize eff s = e at hs
  cases e with
  | done x s' => exact .only (State.grant_only rfl .rfl) (.complete h hs)
  | run k s' => exact .only (only_set_mgmt rfl .rfl) hs

theorem SecOn.runLocked {s : State} {cmd : Nat} {r : Req} {locks : List Lock} {eff : State → Eff} (he : ∀ a, SecOn a → SecOnEff (eff a))
    (h : SecOn s) : SecOn (s.runLocked cmd r locks eff) := by
  unfold State.runLocked
  refine .ite h ?_
  split
  · next hq => exact .startLocked he (.only (State.takeGranted_only hq rfl .rfl) h)
  · refine .ite h (.only (a := s.unbox cmd r) ?_ (.only (State.unbox_only rfl .rfl) h))
    split
    · next hq => exact State.arrive_only rfl (State.accept_only_eq hq rfl .rfl)
    · next hq => exact State.answer_only rfl (State.accept_only_eq hq rfl .rfl)
    · next hq => exact State.accept_only_eq hq rfl .rfl

/-- A reset leaves PD_SEC ON. -/
theorem SecOn.porState {s : State} {low : Bool} : SecOn (s.porState low) := .of_dom_eq (a := State.reset) rfl State.reset_inv.secOn

theorem SecOn.startRamp {s : State} {k : DomId} (h : SecOn s) : SecOn (s.startRamp k) :=
  .ite (.setDomRec rfl h) (.setDom (.setDomRec rfl h))

theorem SecOn.nextRamp {s : State} (h : SecOn s) : SecOn s.nextRamp := by
  unfold State.nextRamp
  refine .ite h ?_
  split
  · exact .startRamp h
  · exact h

theorem SecOn.slackJudge {s : State} {k : DomId} (h : SecOn s) : SecOn (s.slackJudge k) :=
  .stepIf (.only (State.stick_only rfl .rfl)) (.setDomRec rfl h)

theorem SecOn.ownBringUp {s : State} {k : DomId} (h : SecOn s) : SecOn (s.ownBringUp k) :=
  .ite h (.ite (.startRamp (.setDomRec rfl h)) (.setDomRec rfl h))

theorem SecOn.stopBoot {s : State} {fault : Nat} (h : SecOn s) : SecOn (s.stopBoot fault) :=
  .stepIf .startRamp (.only (only_set_boot rfl .rfl) h)

theorem SecOn.bringUpFails {s : State} {k : DomId} {st : DomSt} (h : SecOn s) : SecOn (s.bringUpFails k st) :=
  .only (State.completeRun_only rfl .rfl) (.setDom (.setDomRec rfl h))

theorem SecOn.leaveService {s : State} {k : DomId} (h : SecOn s) : SecOn (s.leaveService k) := by
  unfold State.leaveService
  split
  · exact .startDrain h
  · exact .only (State.completeRun_only rfl .rfl) (.bringUpFails h)
  · exact .only (State.completeRun_only rfl .rfl) (.bringUpFails h)
  · exact h

theorem SecOn.faultDom {s : State} {k : DomId} (h : SecOn s) : SecOn (s.faultDom k) := by
  unfold State.faultDom
  refine .ite h (.forAll (fun _ _ => .leaveService) (.only (State.completeRun_only rfl .rfl) (.bringUpFails (.only ?_ h))))
  split
  · exact State.silence_only rfl (State.modBerth_only rfl .rfl)
  · exact .rfl

theorem SecOn.clusterFault {s : State} {k : DomId} (h : SecOn s) : SecOn (s.clusterFault k) :=
  .only (State.raise_only rfl (State.fenceGroup_only rfl .rfl)) (.faultDom (.only (State.cause_only rfl (State.stick_only rfl .rfl)) h))

theorem SecOn.servedOwn {s : State} (h : SecOn s) : SecOn s.servedOwn :=
  .forAll (fun _ _ => .stepIf .ownBringUp) h

theorem SecOn.bootFollows {s : State} {k : DomId} (h : SecOn s) : SecOn (s.bootFollows k) :=
  .ite (.ownBringUp h)
    (.ite (.forAll (fun _ _ => .ownBringUp) (.only (only_set_boot rfl .rfl) h))
       (.ite (.ownBringUp h) (.only (.stepIf (only_set_boot rfl) .rfl) h)))

theorem SecOn.nowOff {s : State} {k : DomId} (h : SecOn s) : SecOn (s.nowOff k) := by
  unfold State.nowOff
  refine .only (State.completeRun_only rfl .rfl) (.setDom (.only ?_ h))
  split
  · exact State.report_only rfl (State.silence_only rfl (State.modBerth_only rfl .rfl))
  · exact .rfl

theorem powerEff_secOn {k : DomId} {on : Bool} {s : State} (h : SecOn s) : SecOnEff (powerEff k on s) := by
  unfold powerEff
  refine .ite (.done h)
      (.ite (.ite (.done h) (.ite (.done h) (.ite (.done h) (.ite (.done h) (.ite (.done h) (.ite (.run (.startRamp h)) (.run h)))))))
         (.ite (.done h) (.ite (.done h) ?_)))
  dsimp only
  split
  · exact .run (.startDrain h)
  · exact .run (.setDomRec rfl h)
  · exact .run (.setDomRec rfl h)
  · exact .run (.setDomRec rfl h)
  · exact .run h
  · exact .done (.nowOff (.setDomRec rfl h))

theorem SecOn.holdFault {s : State} {k : DomId} (h : SecOn s) : SecOn (s.holdFault k) :=
  .ite h (.setDomRec rfl (.faultDom h))

theorem SecOn.loseLink {s : State} {l : D2dId} (h : SecOn s) : SecOn (s.loseLink l) :=
  .ite (.only (State.setD2d_only rfl .rfl) h)
    (.only (State.raise_only rfl (State.stick_only rfl .rfl))
       (.stepIf .holdFault
          (.forAll (fun _ _ ha => .holdFault (.only (State.holdCtxs_only rfl .rfl) ha)) (.only (State.setD2d_only rfl .rfl) h))))

theorem SecOn.bootFault5 {s : State} (h : SecOn s) : SecOn s.bootFault5 :=
  .stepIf .stopBoot h

theorem SecOn.faultPowered {s : State} {k : DomId} (h : SecOn s) : SecOn (s.faultPowered k) :=
  .ite h (.clusterFault h)

theorem SecOn.returnBerths {s : State} {g : Region} {x : Rsp} (h : SecOn s) : SecOn (s.returnBerths g x) :=
  .forAll (fun _ _ ha => .ite (.only (State.berthReturns_only rfl .rfl) ha) (.stepIf .startRamp ha))
    (.only (State.unmark_only rfl (State.forAll_only (fun _ _ => State.modLine_only rfl) .rfl)) h)

theorem SecOn.returnMgmt {s : State} {x : Rsp} (h : SecOn s) : SecOn (s.returnMgmt x) :=
  .stepIf (.only (State.startJoin_only rfl .rfl))
    (.servedOwn
       (.only
          (State.clkSelect_only rfl
             (State.unmark_only rfl
                (State.forAll_only (fun _ _ => State.modSense_only rfl)
                   (.stepIf (fun h => State.forAll_only (fun _ _ => State.modLoop_only rfl) h) (only_set_live rfl .rfl)))))
          h))

theorem SecOn.returnRegion {s : State} {g : Region} {x : Rsp} (h : SecOn s) : SecOn (s.returnRegion g x) := by
  unfold State.returnRegion
  split
  · exact .only (State.unmark_only rfl .rfl) h
  · exact .only (State.returnLinks_only rfl .rfl) h
  · exact .returnMgmt h
  · exact h
  · exact h
  · exact .returnBerths h

theorem SecOn.bringUp {s : State} {k : DomId} (h : SecOn s) : SecOn (s.bringUp k) :=
  .ite (.only (State.domReady_only rfl .rfl) h) (.ownBringUp h)

theorem SecOn.serviceUp {s : State} (h : SecOn s) : SecOn s.serviceUp :=
  have joined : SecOn (([pdEth, pdFab, pdSense] : List DomId).foldl State.bringUp s).recordedJoin :=
    .only (State.recordedJoin_only rfl .rfl) (.bringUp (.bringUp (.bringUp h)))
  .only (only_set_live rfl .rfl) (.stepIf (.forAll fun _ _ => .bringUp) joined)

theorem regionReturnEff_secOn {r : Req} {s : State} (h : SecOn s) : SecOnEff (regionReturnEff r s) := by
  unfold regionReturnEff
  refine .ite (.done h) (.ite (.done h) ?_)
  dsimp only
  split
  · exact .done h
  · exact .done h
  · exact .ite (.done h) (.ite (.run (.returnRegion h)) (.done (.returnRegion h)))

theorem SecOn.starter {s : State} {otpOk supplyOk : Bool} (h : SecOn s) : SecOn (s.starter otpOk supplyOk) :=
  .ite (.stopBoot h) (.ite (.stopBoot h) (.ownBringUp h))

theorem SecOn.hostLoads {s : State} (h : SecOn s) : SecOn s.hostLoads :=
  .ownBringUp (.only (only_set_boot rfl .rfl) h)

theorem SecOn.trySettle {s : State} (h : SecOn s) : SecOn s.trySettle :=
  .ite (.hostLoads h) h

theorem SecOn.firmwareStarts {s : State} {slot : Bool} {i : ImgInfo} (h : SecOn s) : SecOn (s.firmwareStarts slot i) :=
  .ownBringUp (.only (State.epochUpdate_only rfl (only_set_boot rfl .rfl)) h)

theorem SecOn.slotFails {s : State} {slot : Bool} {v : Verdict} (h : SecOn s) : SecOn (s.slotFails slot v) :=
  .trySettle
    (.only
       (State.skipInvalid_only rfl (State.nextTry_only rfl (only_set_boot rfl (State.writeDir_only rfl (State.imageFails_only rfl .rfl)))))
       h)

theorem State.commitHost_secOn {s : State} (h : SecOn s) : SecOnEff s.commitHost := by
  unfold State.commitHost
  dsimp only
  split
  · exact .done h
  · exact .done (.only (State.startFlash_only rfl .rfl) (.firmwareStarts h))

theorem fwCommitEff_secOn {r : Req} {other : Option (Nat × Nat)} {s : State} (h : SecOn s) : SecOnEff (fwCommitEff r other s) :=
  .ite (.done h)
    (.ite (.done h)
       (.ite (.done h)
          (.ite (.done h)
             (.ite (.done h)
                (.ite (.done h)
                   (.ite (.ite (State.commitHost_secOn h) (.done h))
                      (.ite (.only (commitFw_only rfl .rfl) h) (.only (commitUc_only rfl .rfl) h))))))))

theorem SecOn.couplingChanged {s before : State} {b : Berth} (h : SecOn s) : SecOn (s.couplingChanged before b) :=
  .stepIf (.only (State.updateBackoff_only rfl (State.modBerth_only rfl .rfl))) h

theorem SecOn.finishSet {s before : State} {c : Cls} {i : Nat} {ws : List Write} (h : SecOn s) : SecOn (s.finishSet before c i ws) := by
  unfold State.finishSet
  dsimp only
  split
  · exact .couplingChanged (.only (.stepIf (State.emit_only rfl) .rfl) h)
  · exact .only (.stepIf (State.startPort_only rfl) .rfl) h
  · exact .only (.stepIf (State.chkRestartNow_only rfl) (.ite .rfl (State.chkBoundary_only rfl .rfl))) h
  · exact .only (State.uartIdle_only rfl .rfl) h
  · have judged {p : Prop} [Decidable p] : SecOn (if p then s.forAll allDoms State.slackJudge else s) :=
      .stepIf (.forAll fun _ _ => .slackJudge) h
    exact .stepIf (.only (State.driveGpio_only rfl .rfl)) (.ite judged (.only (only_set_avs rfl .rfl) judged))
  · exact .only (.stepIf (fun h => State.authDone_only rfl (State.writeRecord_only rfl h)) .rfl) h
  · exact h

theorem SecOn.applyWrites {s : State} {c : Cls} {i : Nat} {ws : List Write} (h : SecOn s) : SecOn (s.applyWrites c i ws) := by
  unfold State.applyWrites
  extract_lets waits s1 s2 s3 s4 s5
  have h1 : Only offDom s s1 := State.forAll_only (fun _ _ => State.applyWrite_only rfl) .rfl
  have h2 : Only offDom s s2 := .stepIf (fun h => State.domainChanged_only rfl h .rfl) h1
  have h3 : Only offDom s s3 := State.forAll_only (fun _ _ => State.applyWrite_only rfl) h2
  have h4 : Only offDom s s4 := .stepIf (State.dirty_only rfl) h3
  have h5 : Only offDom s s5 := .ite h4 (State.objTouch_only rfl h4)
  exact .finishSet (.only h5 h)

theorem fieldSetEff_secOn {r : Req} {role : Role} {s : State} (h : SecOn s) : SecOnEff (fieldSetEff r role s) := by
  unfold fieldSetEff
  refine .ite (.done h) (.ite (.done h) ?_)
  dsimp only
  split
  · exact .done h
  · split
    · exact .done h
    · split
      · exact .done h
      · split
        · exact .done h
        · refine .ite (.done h) ?_
          split
          · exact powerEff_secOn h
          · exact .done (.applyWrites h)

theorem objSetEff_secOn {r : Req} {s : State} (h : SecOn s) : SecOnEff (objSetEff r s) := by
  unfold objSetEff
  split
  · exact .done h
  · exact .only (routeSetEff_only rfl .rfl) h
  · exact fieldSetEff_secOn h

theorem SecOn.objSet {s : State} {r : Req} (h : SecOn s) : SecOn (s.objSet r) :=
  .runLocked (fun _ => objSetEff_secOn) h

theorem SecOn.missDeadline {s : State} {k : DomId} (h : SecOn s) : SecOn (s.missDeadline k) :=
  .stepIf (.only (only_set_avs rfl (State.avsRequest_only rfl .rfl)))
    (.only (State.stick_only rfl (State.bump_only rfl .rfl)) (.setDomRec rfl h))

theorem SecOn.latchSlack {s : State} {k : DomId} (h : SecOn s) : SecOn (s.latchSlack k) :=
  have judged {d : Dom} (hd : d.st = s.domSt k) : SecOn ((s.setDomRec k d).slackJudge k) := .slackJudge (.setDomRec hd h)
  .ite (judged rfl) (.only (State.statSet_only rfl .rfl) (judged rfl))

theorem SecOn.openWindow {s : State} {k : DomId} (h : SecOn s) : SecOn (s.openWindow k) :=
  .setDomRec rfl h

theorem SecOn.domReturns {s : State} {k : DomId} (h : SecOn s) : SecOn (s.domReturns k) :=
  .stepIf (fun h₁ => .ownBringUp (.setDom (.setDomRec rfl h₁))) h

/-! ## The commands that reach the power domains -/

section
variable {s : State} {t : Nat}

theorem execObjSet_secOn {r : Req} (h : SecOn s) : SecOnNext (execObjSet t r s) :=
  .next (.objSet h.at)

theorem execFwCommit_secOn {r : Req} {other : Option (Nat × Nat)} (h : SecOn s) : SecOnNext (execFwCommit t r other s) :=
  .next (.runLocked (fun _ => fwCommitEff_secOn) h.at)

theorem execRegionReturn_secOn {r : Req} (h : SecOn s) : SecOnNext (execRegionReturn t r s) :=
  .next (.runLocked (fun _ => regionReturnEff_secOn) h.at)

theorem execPowerStateRequest_secOn {r : Req} (h : SecOn s) : SecOnNext (execPowerStateRequest t r s) :=
  .next (.objSet h.at)

theorem execTrainRequest_secOn {r : Req} (h : SecOn s) : SecOnNext (execTrainRequest t r s) :=
  .next (.objSet h.at)

theorem execFabricRetrainRequest_secOn {r : Req} (h : SecOn s) : SecOnNext (execFabricRetrainRequest t r s) :=
  .next (.objSet h.at)

theorem execCheckRestart_secOn {r : Req} (h : SecOn s) : SecOnNext (execCheckRestart t r s) :=
  .next (.objSet h.at)

theorem execConfigCommit_secOn {r : Req} (h : SecOn s) : SecOnNext (execConfigCommit t r s) :=
  .next (.objSet h.at)

theorem execAttEnroll_secOn {r : Req} (h : SecOn s) : SecOnNext (execAttEnroll t r s) :=
  .next (.objSet h.at)

theorem execKeyRetire_secOn {r : Req} (h : SecOn s) : SecOnNext (execKeyRetire t r s) :=
  .next (.objSet h.at)

theorem execRetireClear_secOn {r : Req} (h : SecOn s) : SecOnNext (execRetireClear t r s) :=
  .next (.objSet h.at)

theorem execMgmtPeriodEnd_secOn (h : SecOn s) : SecOnNext (execMgmtPeriodEnd t s) :=
  .ite (.next h.at) (.next (.servedOwn (.only (State.rollTimeouts_only rfl (State.grant_only rfl (only_set_mgmt rfl (.at rfl)))) h)))

theorem execPorNAssert_secOn : SecOnNext (execPorNAssert t s) :=
  .next .porState

theorem execPorNDeassert_secOn {otpOk supplyOk : Bool} (h : SecOn s) : SecOnNext (execPorNDeassert t otpOk supplyOk s) :=
  .ite (.next h.at) (.next (.ite (.only (only_set_boot_live rfl (.at rfl)) h) (.starter (.only (only_set_boot_live rfl (.at rfl)) h))))

theorem execStoreTrainingDone_secOn {fit : StoreFit} {failed : BitVec 16} {dirs : List (Option BootDir)} (h : SecOn s) :
    SecOnNext (execStoreTrainingDone t fit failed dirs s) :=
  Only.share
    (fun h₀ =>
       .ite (.next h.at)
         (.ite (.next (.stopBoot (.only (State.forAll_only (fun _ _ => State.maskChan_only rfl) (.at rfl)) h)))
            (.next (.trySettle (.only (State.chooseSlot_only rfl (.ite h₀ (State.bump_only rfl h₀))) h)))))
    (only_set_boot rfl
       (State.forAll_only (fun _ _ => State.modChan_only rfl) (State.forAll_only (fun _ _ => State.maskChan_only rfl) (.at rfl))))

theorem execImageVerify_secOn {kind slot : Bool} {img : Bytes} (h : SecOn s) : SecOnNext (execImageVerify t kind slot img s) := by
  unfold execImageVerify
  refine .ite ?_ ?_
  · refine .ite (.next h.at) ?_
    split
    · exact .next (.firmwareStarts h.at)
    · exact .next (.slotFails h.at)
  · refine .ite (.next h.at) ?_
    dsimp only
    split
    · exact .next (.only (only_set_boot rfl (.at rfl)) h)
    · exact .next (.only (only_set_boot rfl (State.writeDir_only rfl (State.imageFails_only rfl (.at rfl)))) h)

theorem execDomainRampDone_secOn {k : DomId} (h : SecOn s) : SecOnNext (execDomainRampDone t k s) :=
  .next (.stepIf .setDom h.at)

theorem execDomainInitDone_secOn {k : DomId} {ok : Bool} (h : SecOn s) : SecOnNext (execDomainInitDone t k ok s) :=
  .ite (.next h.at)
    (.ite (.next (.only (State.settleReturns_only rfl .rfl) (.servedOwn (.stepIf .bootFault5 (.nextRamp (.faultDom h.at))))))
      (.next
        (.only (State.settleReturns_only rfl .rfl)
          (.servedOwn
            (.nextRamp
              (.ite (.startDrain (.only (State.completeRun_only rfl .rfl) (.setDom (.only (only_set_live rfl (.at rfl)) h))))
                (.bootFollows
                  (.only (State.domReady_only rfl (State.completeRun_only rfl .rfl)) (.setDom (.only (only_set_live rfl (.at rfl)) h))))))))))

theorem execDomainDrainDone_secOn {k : DomId} (h : SecOn s) : SecOnNext (execDomainDrainDone t k s) :=
  .ite (.next h.at)
    (.next
       (.nextRamp
          (.servedOwn
             (.ite (.only (State.forAll_only (fun _ _ => State.portDown_only rfl) .rfl) (.nowOff h.at))
                (.stepIf (fun h₁ => .only (State.forAll_only (fun _ _ => State.linkDown_only rfl) .rfl) h₁) (.nowOff h.at))))))

theorem execServiceBringUp_secOn (h : SecOn s) : SecOnNext (execServiceBringUp t s) :=
  .next (.stepIf .serviceUp h.at)

theorem execRemovalQuietEnd_secOn (h : SecOn s) : SecOnNext (execRemovalQuietEnd t s) :=
  .ite (.next (.stepIf .serviceUp (.only (State.alarmUpdate_only rfl (only_set_live rfl (.at rfl))) h))) (.next h.at)

theorem execUnitWatchdogExpiry_secOn {k : DomId} {item : UnitItem} (h : SecOn s) : SecOnNext (execUnitWatchdogExpiry t k item s) :=
  .ite (.next h.at)
    (.next (.stepIf .clusterFault (.only (State.eraseItem_only rfl (State.bump_only rfl .rfl)) (.setDomRec rfl h.at))))

theorem execClusterPeriodDeadline_secOn {k : DomId} {done : Bool} {marginPct : Nat} (h : SecOn s) :
    SecOnNext (execClusterPeriodDeadline t k done marginPct s) :=
  .ite (.next h.at)
    (.ite (.next (.setDomRec rfl h.at)) (.next (.stepIf .clusterFault (.missDeadline (.setDomRec rfl h.at)))))

theorem execSlackWindowEnd_secOn (h : SecOn s) : SecOnNext (execSlackWindowEnd t s) :=
  .next
    (.only (State.devBeat_only rfl .rfl)
      (.forAll (fun _ _ => .openWindow) (.only (State.avsAct_only rfl .rfl) (.forAll (fun _ _ => .latchSlack) h.at))))

theorem execD2dRetrainDone_secOn {l : D2dId} {ok : Bool} (h : SecOn s) : SecOnNext (execD2dRetrainDone t l ok s) :=
  have recorded {x : DieLink} : SecOn ((s.at t).setD2d l x) := .only (State.setD2d_only rfl (.at rfl)) h
  .ite (.next h.at) (.ite (.next recorded) (.ite (.next (.only (State.emit_only rfl .rfl) recorded)) (.next (.loseLink recorded))))

theorem execDieReturn_secOn {l : D2dId} (h : SecOn s) : SecOnNext (execDieReturn t l s) := by
  unfold execDieReturn
  dsimp only
  split
  · exact .ite (.next (.stepIf .domReturns (.forAll (fun _ _ => .domReturns) (.only (State.setD2d_only rfl (.at rfl)) h))))
        (.next h.at)
  · exact .next h.at

theorem execDieThermalTrip_secOn {die : Fin 7} {temp : Int} (h : SecOn s) : SecOnNext (execDieThermalTrip t die temp s) :=
  Only.share
    (fun h₀ =>
       .ite (.ite (.next (.only h₀ h)) (.next (.only (only_set_live rfl .rfl) .porState)))
         (.ite (.next (.only h₀ h)) (.next (.forAll (fun _ _ => .clusterFault) (.only (State.stick_only rfl (State.bump_only rfl h₀)) h)))))
    (State.report_only rfl (.at rfl))

theorem execRailOutOfRange_secOn {rail : Rail} (h : SecOn s) : SecOnNext (execRailOutOfRange t rail s) :=
  Only.share
    (fun h₀ =>
       .ite (.next h.at)
         (.next (.ite (.forAll (fun _ _ => .faultPowered) (.only h₀ h)) (.bootFault5 (.forAll (fun _ _ => .faultPowered) (.only h₀ h))))))
    (State.stepLoops_only rfl (State.forAll_only (fun _ _ => State.modBerth_only rfl) (only_set_live rfl (.at rfl))))

theorem execVddSenseLow_secOn (h : SecOn s) : SecOnNext (execVddSenseLow t s) :=
  .next (.faultPowered (.only (State.stepLoops_only rfl (only_set_live rfl (.at rfl))) h))

theorem execVddAonLoss_secOn : SecOnNext (execVddAonLoss t s) :=
  .next (.only (only_set_sec_clk rfl .rfl) .porState)

theorem execXoInLoss_secOn (h : SecOn s) : SecOnNext (execXoInLoss t s) :=
  .next (.bootFault5 (.faultPowered h.at))

theorem execBerthDeadlineMiss_secOn {b : Berth} {work : LateWork} (h : SecOn s) : SecOnNext (execBerthDeadlineMiss t b work s) := by
  unfold execBerthDeadlineMiss
  dsimp only
  split
  · exact .next (.only (State.eraseSymbol_only rfl (State.bump_only rfl .rfl)) (.missDeadline h.at))
  · exact .next (.only (State.failCw_only rfl (State.bump_only rfl .rfl)) (.missDeadline h.at))
  · exact .next (.only (State.abortTx_only rfl (State.bump_only rfl .rfl)) (.missDeadline h.at))
  · exact .next (.only (State.bump_only rfl .rfl) (.missDeadline h.at))

theorem execCodewordDecode_secOn {b : Berth} {cw : Nat} {e : CwEnd} (h : SecOn s) : SecOnNext (execCodewordDecode t b cw e s) := by
  unfold execCodewordDecode
  dsimp only
  split
  · exact .next h.at
  · split
    · exact .next h.at
    · refine .ite (.next h.at) ?_
      split
      · refine .next (.only (State.checkOver_only rfl (State.modBerth_only rfl ?_)) h)
        split
        · exact State.clearSoft_only rfl (.stepIf (State.bump_only rfl) (.at rfl))
        · exact .stepIf (State.bump_only rfl) (.at rfl)
      · exact .next (.only (State.failCw_only rfl (State.bump_only rfl (.stepIf (State.bump_only rfl) (.at rfl)))) h)
      · exact .next
            (.only (State.failCw_only rfl .rfl) (.missDeadline (.only (State.bump_only rfl (.stepIf (State.bump_only rfl) (.at rfl))) h)))

theorem execSlipwayTimeout_secOn {r : Region} (h : SecOn s) : SecOnNext (execSlipwayTimeout t r s) := by
  unfold execSlipwayTimeout
  dsimp only
  split
  · exact .next h.at
  · exact .ite (.next (.only (State.raise_only rfl .rfl) (.returnRegion (.only (.stepIf (only_set_boot rfl) (.at rfl)) h)))) (.next h.at)

theorem execRegionAutoReturn_secOn {r : Region} (h : SecOn s) : SecOnNext (execRegionAutoReturn t r s) :=
  .ite (.next (.returnRegion h.at)) (.next h.at)

theorem execMgmtRestartDone_secOn {img alt : Bytes} (h : SecOn s) : SecOnNext (execMgmtRestartDone t img alt s) := by
  unfold execMgmtRestartDone
  refine .ite (.next h.at) ?_
  dsimp only
  split
  · next he => exact .next (.only (State.pickFw_only_eq he rfl (.at rfl)) h)
  · refine .next (.ite ?_ ?_)
    · next he => exact .returnRegion (.only (State.setRegion_only rfl (State.pickFw_only_eq he rfl (.at rfl))) h)
    · next he => exact .only (State.setRegion_only rfl (State.pickFw_only_eq he rfl (.at rfl))) h

theorem execThermalTripRelease_secOn {otpOk supplyOk : Bool} (h : SecOn s) : SecOnNext (execThermalTripRelease t otpOk supplyOk s) :=
  .ite (.next h.at) (.next (.ite (.only (only_set_live rfl (.at rfl)) h) (.starter (.only (only_set_live rfl (.at rfl)) h))))

end

/-- No command moves PD_SEC out of ON: it leaves the power domains alone, or it is one of those that reach them. -/
theorem exec_secOn {c : Instr} {s : State} (h : SecOn s) : SecOnNext (exec c s) := by
  cases hc : (partsOf c).contains .dom with
  | false => exact .only (exec_only_partsOf hc) hc h
  | true =>
    cases c with
    | objSet _ _ => exact execObjSet_secOn h
    | fwCommit _ _ _ => exact execFwCommit_secOn h
    | regionReturn _ _ => exact execRegionReturn_secOn h
    | powerStateRequest _ _ => exact execPowerStateRequest_secOn h
    | trainRequest _ _ => exact execTrainRequest_secOn h
    | fabricRetrainRequest _ _ => exact execFabricRetrainRequest_secOn h
    | checkRestart _ _ => exact execCheckRestart_secOn h
    | configCommit _ _ => exact execConfigCommit_secOn h
    | attEnroll _ _ => exact execAttEnroll_secOn h
    | keyRetire _ _ => exact execKeyRetire_secOn h
    | retireClear _ _ => exact execRetireClear_secOn h
    | mgmtPeriodEnd _ => exact execMgmtPeriodEnd_secOn h
    | porNAssert _ => exact execPorNAssert_secOn
    | porNDeassert _ _ _ => exact execPorNDeassert_secOn h
    | storeTrainingDone _ _ _ _ => exact execStoreTrainingDone_secOn h
    | imageVerify _ _ _ _ => exact execImageVerify_secOn h
    | domainRampDone _ _ => exact execDomainRampDone_secOn h
    | domainInitDone _ _ _ => exact execDomainInitDone_secOn h
    | domainDrainDone _ _ => exact execDomainDrainDone_secOn h
    | serviceBringUp _ => exact execServiceBringUp_secOn h
    | removalQuietEnd _ => exact execRemovalQuietEnd_secOn h
    | unitWatchdogExpiry _ _ _ => exact execUnitWatchdogExpiry_secOn h
    | clusterPeriodDeadline _ _ _ _ => exact execClusterPeriodDeadline_secOn h
    | slackWindowEnd _ => exact execSlackWindowEnd_secOn h
    | d2dRetrainDone _ _ _ => exact execD2dRetrainDone_secOn h
    | dieReturn _ _ => exact execDieReturn_secOn h
    | dieThermalTrip _ _ _ => exact execDieThermalTrip_secOn h
    | railOutOfRange _ _ => exact execRailOutOfRange_secOn h
    | vddSenseLow _ => exact execVddSenseLow_secOn h
    | vddAonLoss _ => exact execVddAonLoss_secOn
    | xoInLoss _ => exact execXoInLoss_secOn h
    | berthDeadlineMiss _ _ _ => exact execBerthDeadlineMiss_secOn h
    | codewordDecode _ _ _ _ => exact execCodewordDecode_secOn h
    | slipwayTimeout _ _ => exact execSlipwayTimeout_secOn h
    | regionAutoReturn _ _ => exact execRegionAutoReturn_secOn h
    | mgmtRestartDone _ _ _ => exact execMgmtRestartDone_secOn h
    | thermalTripRelease _ _ _ => exact execThermalTripRelease_secOn h
    | _ => nomatch hc

/-- Settles O6: every command keeps `SecOn`. -/
theorem noCommandMovesTheSecurityDomain : Obligations.NoCommandMovesTheSecurityDomain := by
  unfold Obligations.NoCommandMovesTheSecurityDomain
  intro c s s' hn h
  exact exec_secOn h s' hn

end Sys2Proof.Machine

/-! O9: an erased frame-control symbol discards its frame (R56). The miss leaves the berth without a frame in reception, and a payload symbol finds no
frame to count for: neither reaches the lines of the berths or the Hold. -/

namespace Sys2Proof.Machine
open Sys2Proof

/-- Every part but those of a frame in reception: the berths, their lines, where acknowledgements fall due, and the Hold. -/
def offFrame : List Part := ((Part.all.erase .berth).erase .line).erase .hold

/-- Berth b has no frame in reception, and the lines and the Hold are as in `s`: since then no acknowledgement has fallen due and nothing been stored. -/
def FrameGone (b : Berth) (s a : State) : Prop := a.berth[b].rx = none ∧ a.line = s.line ∧ a.hold = s.hold

section
variable {b : Berth} {s a a' : State}

theorem FrameGone.only (ho : Only offFrame a a') (h : FrameGone b s a) : FrameGone b s a' := by
  obtain ⟨hrx, hline, hhold⟩ := h
  have hberth : a'.berth = a.berth := ho .berth rfl
  exact ⟨by rw [hberth, hrx], (ho .line rfl).trans hline, (ho .hold rfl).trans hhold⟩

/-- A step that a condition decides on. -/
theorem FrameGone.stepIf {c : Prop} [Decidable c] (ha' : FrameGone b s a → FrameGone b s a') (h : FrameGone b s a) :
    FrameGone b s (if c then a' else a) := by
  split
  · exact ha' h
  · exact h

/-- An update of the berth's record that keeps its reception as it is. -/
theorem FrameGone.modBerth {f : BerthSt → BerthSt} (hf : ∀ x, (f x).rx = x.rx) (h : FrameGone b s a) : FrameGone b s (a.modBerth b f) := by
  obtain ⟨hrx, hline, hhold⟩ := h
  refine ⟨?_, hline, hhold⟩
  simpa [hf] using hrx

/-- The erasure of the frame-control symbol takes the frame along, and reaches the berth alone. -/
theorem FrameGone.eraseFrameControl (ho : Only offFrame s a) : FrameGone b s (a.eraseSymbol b 0) := by
  have hrx : (a.eraseSymbol b 0).berth[b].rx = none := by simp [State.eraseSymbol]
  exact ⟨hrx, ho .line rfl, ho .hold rfl⟩

/-- Without a frame in reception a payload symbol is dropped: it counts for no frame, decodes nothing and ends no frame. -/
theorem State.symbolIn_of_no_frame {w : Nat} (h : a.berth[b].rx = none) : a.symbolIn b w = a := by
  unfold State.symbolIn
  rw [h]

theorem FrameGone.symbolIn {w : Nat} (h : FrameGone b s a) : FrameGone b s (a.symbolIn b w) := by
  rwa [State.symbolIn_of_no_frame h.1]

/-- The miss of the frame-control symbol's deadline erases it, and with it the frame (R54, R56). -/
theorem exec_berthDeadlineMiss_frameControl (s : State) (t : Nat) (b : Berth) :
    Answers (exec (.berthDeadlineMiss t b (.rxSymbol 0)) s) (FrameGone b s) := by
  have counted : Only offFrame s (((s.at t).missDeadline (berthDom b)).bump .rxSymLate b) :=
    State.bump_only rfl (State.missDeadline_only rfl (.at rfl))
  exact ⟨_, rfl, .eraseFrameControl counted⟩

/-- A payload symbol after the frame has gone only moves counters, marks the gain and the canceller, and may raise an event (R138, R74, R76). -/
theorem exec_payloadSymbolRx_frameGone (u : Nat) (w : SymbolQuality) (h : FrameGone b s a) :
    Answers (exec (.payloadSymbolRx u b w) a) (FrameGone b s) := by
  refine ⟨_, rfl, .symbolIn (.stepIf (.only (State.raise_only rfl .rfl)) (.modBerth (fun _ => rfl) (.only ?_ h)))⟩
  -- the blanked samples, the clipped codes and the symbol's weight are counted
  exact Only.share (fun hc => .ite (State.bump_only rfl hc) (.stepIf (State.bump_only rfl) hc))
    (State.bump_only rfl (State.bump_only rfl (State.bump_only rfl (State.bump_only rfl (.at rfl)))))

end

/-- Settles O9: the miss leaves no frame in reception, and the payload symbol after it finds none. -/
theorem erasedFrameControlDiscardsItsFrame : Obligations.ErasedFrameControlDiscardsItsFrame := by
  unfold Obligations.ErasedFrameControlDiscardsItsFrame
  intro s t u b w
  obtain ⟨s1, hmiss, hgone⟩ := exec_berthDeadlineMiss_frameControl s t b
  obtain ⟨s2, hsymbol, hgone2⟩ := exec_payloadSymbolRx_frameGone u w hgone
  obtain ⟨hrx, hline, hhold⟩ := hgone
  obtain ⟨hrx2, hline2, hhold2⟩ := hgone2
  exact ⟨s1, hmiss, hrx, by rw [hline], by rw [hline], hhold, s2, hsymbol, hrx2, by rw [hline2], by rw [hline2], hhold2⟩

end Sys2Proof.Machine

/-! O10: the parameters, the check value and the byte order of CRC-32C (R208). -/

namespace Sys2Proof.Machine
open Sys2Proof

/-- The register of CRC-32C once the nine digits have entered, before it is reflected and inverted. -/
theorem crcFeed_crc32c_nineDigits :
    crcFeed 32 0x1EDC6F41 true 0xFFFFFFFF [0x31, 0x32, 0x33, 0x34, 0x35, 0x36, 0x37, 0x38, 0x39] = 0x3EB69F38 := by
  decide +kernel

/-- That register reads, reflected and inverted, as the check value of R208. -/
theorem crcOut_crc32c_nineDigits : crcOut 32 true 0xFFFFFFFF 0x3EB69F38 = 0xE3069283 := by
  decide

/-- R208's example: the digits enter the register, and the register is read. -/
theorem crc32c_nineDigits : crc32c [0x31, 0x32, 0x33, 0x34, 0x35, 0x36, 0x37, 0x38, 0x39] = 0xE3069283 := by
  rw [crc32c, crcFeed_crc32c_nineDigits, crcOut_crc32c_nineDigits]

/-- Settles O10: the parameters and the byte order are `crc32c`'s and `crc32cBytes`' own, and the check value comes in two steps, feed and read-out. -/
theorem crc32cHasItsParametersAndCheckValue : Obligations.Crc32cHasItsParametersAndCheckValue := by
  unfold Obligations.Crc32cHasItsParametersAndCheckValue
  constructor
  · intro l
    exact ⟨rfl, rfl⟩
  · exact crc32c_nineDigits

end Sys2Proof.Machine

/-! O11: the device causes and their messages (R253), and what a message on a vector does (R254). -/

namespace Sys2Proof.Machine
open Sys2Proof

/-! ## A message on a vector -/

/-- The device can send messages, and neither mask holds those of a vector back (R254). -/
structure State.Sendable (s : State) (v : BitVec 9) : Prop where
  linkUp : s.host.linkUp = true
  d0 : s.host.d3 = false
  msixEnable : s.host.msixEnable = true
  busMaster : s.host.busMaster = true
  attached : s.host.lost = false
  funcUnmasked : s.host.funcMask = false
  vecUnmasked : s.host.msix[v.toFin].mask = false

/-- The messages noted as sent at this instant are among the outputs. -/
def State.SentAreOut (s : State) : Prop := s.host.sent.1 = s.now → ∀ n ∈ s.host.sent.2, Out.msix n ∈ s.out

theorem State.SentAreOut.of_ne {s : State} (h : s.host.sent.1 ≠ s.now) : s.SentAreOut := fun heq => absurd heq h

/-- The state once a message on a vector has gone. -/
def State.msixSent (s : State) (v : BitVec 9) : State :=
  { s with host := { s.host with sent := (s.now, v.toNat :: if s.host.sent.1 = s.now then s.host.sent.2 else []) } }.emit (.msix v.toNat)

/-- A message on a vector changes nothing, is kept pending, or goes (R254). -/
theorem State.msix_cases (s : State) (v : BitVec 9) :
    s.msix v = s ∨ s.msix v = s.setMsix v.toFin { s.host.msix[v.toFin] with pend := true } ∨ s.msix v = s.msixSent v := by
  unfold State.msix
  split
  · split
    · exact .inr (.inl rfl)
    · split
      · exact .inl rfl
      · exact .inr (.inr rfl)
  · exact .inl rfl

/-- A message that can be sent on an unmasked vector goes, unless it has gone at this instant. -/
theorem State.Sendable.msix_eq {s : State} {v : BitVec 9} (h : s.Sendable v) :
    s.msix v = if s.host.sent.1 = s.now ∧ s.host.sent.2.contains v.toNat then s else s.msixSent v := by
  obtain ⟨hlink, hd0, hmsix, hbus, hlost, hfunc, hvec⟩ := h
  unfold State.msix
  rw [if_pos (by simp [hlink, hd0, hmsix, hbus, hlost]), if_neg (by rw [hfunc, hvec]; decide)]
  rfl

/-- The first message of an instant goes. -/
theorem State.Sendable.msix_out {s : State} {v : BitVec 9} (h : s.Sendable v) (hsent : s.host.sent.1 ≠ s.now) :
    (s.msix v).out = .msix v.toNat :: s.out := by
  rw [h.msix_eq, if_neg fun hdup => hsent hdup.1]
  rfl

/-- A message that can be sent on an unmasked vector is among the outputs, whether it goes now or has gone at this instant. -/
theorem State.Sendable.mem_msix_out {s : State} {v : BitVec 9} (h : s.Sendable v) (hs : s.SentAreOut) : .msix v.toNat ∈ (s.msix v).out := by
  rw [h.msix_eq]
  split
  case isTrue hdup => exact hs hdup.1 _ (List.contains_iff_mem.mp hdup.2)
  case isFalse => exact List.mem_cons_self

/-- No message takes back an output. -/
theorem State.out_subset_msix (s : State) (v : BitVec 9) : s.out ⊆ (s.msix v).out := by
  obtain h | h | h := s.msix_cases v <;> rw [h]
  · exact List.Subset.refl _
  · exact List.Subset.refl _
  · exact List.subset_cons_self _ _

/-- A message notes its vector as sent only with the output. -/
theorem State.SentAreOut.msix {s : State} (hs : s.SentAreOut) (v : BitVec 9) : (s.msix v).SentAreOut := by
  obtain h | h | h := s.msix_cases v <;> rw [h]
  · exact hs
  · exact hs
  · rintro - n hn
    obtain rfl | hold := List.mem_cons.mp hn
    · exact List.mem_cons_self
    · split at hold
      case isTrue hnow => exact List.mem_cons_of_mem _ (hs hnow n hold)
      case isFalse => exact absurd hold List.not_mem_nil

/-- Of the host interface a message moves the table of vectors and the note of what was sent. -/
theorem State.msix_host (s : State) (v : BitVec 9) :
    (s.msix v).host = { s.host with msix := (s.msix v).host.msix, sent := (s.msix v).host.sent } := by
  obtain h | h | h := s.msix_cases v <;> rw [h] <;> rfl

@[simp] theorem State.msix_intCause (s : State) (v : BitVec 9) : (s.msix v).host.intCause = s.host.intCause := by rw [State.msix_host]
@[simp] theorem State.msix_causeVec (s : State) (v : BitVec 9) : (s.msix v).host.causeVec = s.host.causeVec := by rw [State.msix_host]

/-- A message moves no Mask bit. -/
@[simp] theorem State.msix_mask (s : State) (v : BitVec 9) (w : Fin 512) : (s.msix v).host.msix[w].mask = s.host.msix[w].mask := by
  obtain h | h | h := s.msix_cases v <;> rw [h]
  · simp only [State.setMsix, Fin.getElem_fin, Vector.getElem_set]
    split
    case isTrue hw =>
      obtain rfl := Fin.ext hw
      rfl
    case isFalse => rfl
  · rfl

/-- A message leaves what another can be sent by. -/
theorem State.Sendable.msix {s : State} {v : BitVec 9} (h : s.Sendable v) (w : BitVec 9) : (s.msix w).Sendable v := by
  obtain ⟨hlink, hd0, hmsix, hbus, hlost, hfunc, hvec⟩ := h
  constructor
  case vecUnmasked => rw [State.msix_mask, hvec]
  all_goals rw [State.msix_host]; assumption

/-! ## A device cause sets -/

/-- The state with the bit of a cause set. -/
def State.setCause (s : State) (k : Fin 8) : State := { s with host := { s.host with intCause := s.host.intCause ||| (1 <<< k.val) } }

/-- Of int_cause, setting the bit of cause k sets bit k alone. -/
theorem State.setCause_getLsbD (s : State) (k j : Fin 8) :
    (s.setCause k).host.intCause.getLsbD j = (s.host.intCause.getLsbD j || decide (j = k)) := by
  have hbit : ∀ k j : Fin 8, (1 <<< k.val : BitVec 8).getLsbD j = decide (j = k) := by decide
  rw [← hbit]
  exact BitVec.getLsbD_or

/-- Raising a cause that is set changes nothing. -/
theorem State.cause_of_set {s : State} {k : Fin 8} (h : s.host.intCause.getLsbD k = true) : s.cause k = s := if_pos h

/-- Raising a cause that is not set sets its bit, and sends its message when it is enabled. -/
theorem State.cause_of_clear {s : State} {k : Fin 8} (h : s.host.intCause.getLsbD k = false) :
    s.cause k = if s.host.intEnable.getLsbD k then (s.setCause k).msix s.host.causeVec[k] else s.setCause k := by
  unfold State.cause
  rw [h]
  rfl

/-- Raising cause k leaves bit k of int_cause set and every other bit as it was. -/
theorem State.cause_getLsbD (s : State) (k j : Fin 8) :
    (s.cause k).host.intCause.getLsbD j = (s.host.intCause.getLsbD j || decide (j = k)) := by
  cases h : s.host.intCause.getLsbD k
  case true =>
    rw [State.cause_of_set h]
    by_cases hj : j = k
    · rw [hj, h, Bool.true_or]
    · rw [decide_eq_false hj, Bool.or_false]
  case false =>
    rw [State.cause_of_clear h, ← State.setCause_getLsbD]
    split
    · rw [State.msix_intCause]
    · rfl

/-- The message of an enabled cause whose bit sets is the next output, when it can be sent and is the first of its instant. -/
theorem State.Sendable.cause_out {s : State} {k : Fin 8} (h : s.Sendable s.host.causeVec[k]) (hsent : s.host.sent.1 ≠ s.now)
    (hen : s.host.intEnable.getLsbD k = true) (hclear : s.host.intCause.getLsbD k = false) :
    (s.cause k).out = .msix s.host.causeVec[k].toNat :: s.out := by
  have hset : (s.setCause k).Sendable s.host.causeVec[k] :=
    ⟨h.linkUp, h.d0, h.msixEnable, h.busMaster, h.attached, h.funcUnmasked, h.vecUnmasked⟩
  rw [State.cause_of_clear hclear, if_pos hen]
  exact hset.msix_out hsent

/-! ## A write of int_enable -/

/-- A loop that keeps P and Q, and turns P into Q at one of its elements, ends in Q when it starts in P. -/
theorem State.forAll_reaches {α : Type} {P Q : State → Prop} {s : State} {l : List α} {f : State → α → State} {k : α} (hk : k ∈ l)
    (hP : ∀ a x, P a → P (f a x)) (hQ : ∀ a x, Q a → Q (f a x)) (hPQ : ∀ a, P a → Q (f a k)) (h : P s) : Q (s.forAll l f) := by
  unfold State.forAll
  obtain ⟨before, after, rfl⟩ := List.append_of_mem hk
  rw [List.foldl_append, List.foldl_cons]
  have hmid : P (before.foldl f s) := List.foldlRecOn before f h fun a ha x _ => hP a x ha
  exact List.foldlRecOn after f (hPQ _ hmid) fun a ha x _ => hQ a x ha

/-- Cause k is set, and its message on vector v can be sent. -/
structure State.CauseDue (s : State) (k : Fin 8) (v : BitVec 9) : Prop where
  isSet : s.host.intCause.getLsbD k = true
  vector : s.host.causeVec[k] = v
  sendable : s.Sendable v
  sentAreOut : s.SentAreOut

theorem State.CauseDue.msix {s : State} {k : Fin 8} {v : BitVec 9} (h : s.CauseDue k v) (w : BitVec 9) : (s.msix w).CauseDue k v where
  isSet := by rw [State.msix_intCause, h.isSet]
  vector := by rw [State.msix_causeVec, h.vector]
  sendable := h.sendable.msix w
  sentAreOut := h.sentAreOut.msix w

/-- A write that newly sets the enable bit of a cause that is due sends its message. -/
theorem State.CauseDue.mem_writeIntEnable_out {s : State} {k : Fin 8} {v : BitVec 9} {val : BitVec 32} (h : s.CauseDue k v)
    (hval : val.getLsbD k = true) (hen : s.host.intEnable.getLsbD k = false) : .msix v.toNat ∈ (s.writeIntEnable val).out := by
  unfold State.writeIntEnable
  refine State.forAll_reaches (P := (·.CauseDue k v)) (Q := (.msix v.toNat ∈ ·.out)) (List.mem_finRange k) ?keepsDue ?keepsOut ?sends ?start
  case keepsDue =>
    intro a j ha
    split
    · exact ha.msix _
    · exact ha
  case keepsOut =>
    intro a j ha
    split
    · exact State.out_subset_msix _ _ ha
    · exact ha
  case sends =>
    rintro a ⟨hset, hvec, hsendable, hsent⟩
    simp only [hval, hen, hset, Bool.not_false, Bool.and_self, if_true, hvec]
    exact hsendable.mem_msix_out hsent
  case start =>
    obtain ⟨hset, hvec, ⟨hlink, hd0, hmsix, hbus, hlost, hfunc, hmask⟩, hsent⟩ := h
    exact ⟨hset, hvec, ⟨hlink, hd0, hmsix, hbus, hlost, hfunc, hmask⟩, hsent⟩

/-- The host has access only over a link that is up, in D0 (R235). -/
theorem State.hostAccess_link {s : State} (h : s.hostAccess = true) : s.host.linkUp = true ∧ s.host.d3 = false := by
  simp only [State.hostAccess, Bool.and_eq_true, Bool.not_eq_true'] at h
  exact h.1

/-- INT_ENABLE_WRITE of a host that has access is the write of int_enable at its instant. -/
theorem exec_intEnableWrite {s : State} (t : Nat) (val : BitVec 32) (h : s.hostAccess = true) :
    exec (.intEnableWrite t val) s = .next ((s.at t).writeIntEnable val) := by
  change execIntEnableWrite t val s = _
  simp [execIntEnableWrite, h]

/-- Settles O11: the bit by `cause_getLsbD`, the messages by what a sendable vector does, at the event and within the write's loop over the causes. -/
theorem deviceCausesSendOneMessage : Obligations.DeviceCausesSendOneMessage := by
  unfold Obligations.DeviceCausesSendOneMessage
  refine ⟨?bits, fun s k => State.cause_of_set, ?disabled, ?enabled, ?enableWrite⟩
  case bits =>
    intro s k
    constructor
    · rw [State.cause_getLsbD, decide_eq_true rfl, Bool.or_true]
    · intro j hj
      rw [State.cause_getLsbD, decide_eq_false hj, Bool.or_false]
  case disabled =>
    intro s k hclear hen
    rw [State.cause_of_clear hclear, hen]
    rfl
  case enabled =>
    intro s k hlink hd0 hmsix hbus hlost hfunc hsent hmask hen hclear
    exact State.Sendable.cause_out ⟨hlink, hd0, hmsix, hbus, hlost, hfunc, hmask⟩ hsent hen hclear
  case enableWrite =>
    intro s t k val haccess hmsix hbus hlost hfunc hsent hmask hval hen hset
    obtain ⟨hlink, hd0⟩ := State.hostAccess_link haccess
    have hdue : (s.at t).CauseDue k s.host.causeVec[k] :=
      ⟨hset, rfl, ⟨hlink, hd0, hmsix, hbus, hlost, hfunc, hmask⟩, .of_ne hsent⟩
    exact ⟨_, exec_intEnableWrite t val haccess, hdue.mem_writeIntEnable_out hval hen⟩

end Sys2Proof.Machine

/-! O15 and O16: attestation (R403 to R407). Which index a signature spends and which the next one takes, when ATTEST is limited, and when the slot
in service is exhausted. -/

namespace Sys2Proof.Machine
open Sys2Proof

/-! ## Spending an index -/

/-- The index the next signature takes: the held one, or the first of the epoch that burns next (R403). -/
def Sec.nextIndex (x : Sec) : Nat := x.attIndex.getD (4096 * x.attEpochs[x.attSlotIdx])

theorem State.spendIndex_fst (s : State) : s.spendIndex.1 = s.sec.nextIndex := by
  unfold State.spendIndex Sec.nextIndex
  cases s.sec.attIndex <;> rfl

/-- The index after the spent one is held, unless it begins another epoch (R403). -/
theorem State.spendIndex_attIndex (s : State) :
    s.spendIndex.2.sec.attIndex = if (s.sec.nextIndex + 1) % 4096 = 0 then none else some (s.sec.nextIndex + 1) := by
  unfold State.spendIndex Sec.nextIndex
  cases s.sec.attIndex <;> rfl

/-- After a signature the next index is another: its successor, or the first of an epoch when the spent one was the last of its own. -/
theorem State.spendIndex_nextIndex_ne (s : State) : s.sec.nextIndex ≠ s.spendIndex.2.sec.nextIndex := by
  rw [Sec.nextIndex.eq_def s.spendIndex.2.sec, State.spendIndex_attIndex]
  split
  case isTrue hlast =>
    rw [Option.getD_none]
    omega
  case isFalse =>
    rw [Option.getD_some]
    omega

/-! ## The limits of ATTEST -/

/-- ATTEST is limited within att_min_interval_s of the signature before it (R407). -/
theorem State.attestBusy_of_interval {s : State} {a : Nat} {l : List Nat} (hsig : s.sec.sigTimes = a :: l)
    (hsoon : s.now < a + seconds (s.fnat .attMinInterval 0)) : s.attestBusy = true := by
  unfold State.attestBusy
  rw [hsig, List.head?_cons]
  exact Bool.or_eq_true_iff.mpr (.inl (decide_eq_true hsoon))

/-- ATTEST is limited once att_daily_max signatures fall in the last 86,400 s (R407). -/
theorem State.attestBusy_of_dailyMax {s : State} (hday : s.fnat .attDailyMax 0 ≤ s.recentSigs.length) : s.attestBusy = true :=
  Bool.or_eq_true_iff.mpr (.inr (decide_eq_true hday))

section
variable {s : State} {r : Req} (hlen : r.body.length = 32) (henroll : s.sec.enrolling = none)
include hlen henroll

/-- A limited ATTEST of a slot with an index left answers BUSY, and no index is spent (R407). -/
theorem attestEff_of_busy (hleft : s.sec.attLeft s.sec.attSlotIdx = true) (hbusy : s.attestBusy = true) : attestEff r s = (.err .busy, s) := by
  simp [attestEff, hlen, henroll, hleft, hbusy]

/-- ATTEST of an exhausted slot answers DENIED with aux 1, and notes and reports the exhaustion unless it has done so (R404). -/
theorem attestEff_of_exhausted (hleft : s.sec.attLeft s.sec.attSlotIdx = false) :
    attestEff r s = (.err .denied (some 1), if s.sec.attExhausted then s else
      ({ s with sec := { s.sec with attExhausted := true } } : State).raise .attestExhausted 0 0) := by
  simp [attestEff, hlen, henroll, hleft]

end

/-- Settles O15: either limit makes `attestBusy` true, and the index after a signature is another than the one it spent. -/
theorem attestationIsLimited : Obligations.AttestationIsLimited := by
  unfold Obligations.AttestationIsLimited
  refine ⟨?interval, ?dailyMax, ?indices⟩
  case interval =>
    intro s r a l hlen henroll hleft hsig hsoon
    exact attestEff_of_busy hlen henroll hleft (State.attestBusy_of_interval hsig hsoon)
  case dailyMax =>
    intro s r hlen henroll hleft hday
    exact attestEff_of_busy hlen henroll hleft (State.attestBusy_of_dailyMax hday)
  case indices =>
    intro s
    rw [State.spendIndex_fst, State.spendIndex_fst]
    exact s.spendIndex_nextIndex_ne

/-! ## Exhaustion -/

/-- A slot has no index left when none is held and its 256 epochs are burnt (R403, R404). -/
theorem Sec.attLeft_eq_false_iff (x : Sec) (k : Fin 3) : x.attLeft k = false ↔ x.attIndex = none ∧ 256 ≤ x.attEpochs[k] := by
  simp [Sec.attLeft]

theorem Sec.attLow_iff (x : Sec) : x.attLow = true ↔ 256 - x.attEpochs[x.attSlotIdx] ≤ 16 := decide_eq_true_iff

/-- Raising an event leaves the security domain's state. -/
@[simp] theorem State.raise_sec (s : State) (ev : Ev) (i d : Nat) : (s.raise ev i d).sec = s.sec :=
  State.raise_only (L := [.stats, .out, .host, .fab]) rfl (Only.refl _ s) .sec rfl

/-- Settles O16: an exhausted slot's answer is `attestEff_of_exhausted`, and its event is raised while the exhaustion is not yet noted. -/
theorem attestationSlotsExhaust : Obligations.AttestationSlotsExhaust := by
  unfold Obligations.AttestationSlotsExhaust
  refine ⟨Sec.attLeft_eq_false_iff, ?answer, Sec.attLow_iff⟩
  intro s r hlen henroll hleft
  rw [attestEff_of_exhausted hlen henroll hleft]
  cases hnoted : s.sec.attExhausted
  case false =>
    rw [if_neg Bool.false_ne_true]
    exact ⟨rfl, by rw [State.raise_sec], nofun, fun _ => State.raise_evSeq _ _ _ _⟩
  case true =>
    rw [if_pos rfl]
    exact ⟨rfl, hnoted, fun _ => rfl, nofun⟩

end Sys2Proof.Machine
